-- ==== Sys2Proof/Word.lean ====
section
/-! DEFINITION. Sys2Proof/Word.lean: the word types of the block: line data, byte enables, and the three
configurations of the part with the figures of Table 00.1 that the model uses. -/
namespace Sys2Proof

/-- The 64 bytes of a line, byte n at bits [8n+7:8n] (R6, R40). -/
abbrev Data := BitVec 512

/-- Byte enables of a write, bit n for data byte n (Table 02.3). -/
abbrev Be := BitVec 64

/-- The data of a poisoned answer: all ones (Table 04.7). -/
def Data.ones : Data := BitVec.allOnes 512

/-- The byte enables of a full-line write. -/
def Be.full : Be := BitVec.allOnes 64

/-- The configurations of Table 00.1 (R2). -/
inductive Cfg where
  | h8
  | h16
  | h32
  deriving DecidableEq, Repr

/-- Home slices, which is also the number of crossbar ports (Table 00.1). -/
def Cfg.slices : Cfg → Nat
  | .h8 => 8
  | .h16 => 16
  | .h32 => 32

/-- Caching-agent IDs (Table 00.1). -/
def Cfg.caids : Cfg → Nat
  | .h8 => 64
  | .h16 => 128
  | .h32 => 256

/-- The two worlds of the Keeper (R333). -/
inductive World where
  | normal
  | secure
  deriving DecidableEq, Repr

end Sys2Proof
end

