-- ==== Sys2Proof/Syntax.lean ====
section
/-! DEFINITION. Sys2Proof/Syntax.lean: the operand types of the commands, and the commands: one constructor for each row of spec/opcode_table.json. -/
namespace Sys2Proof

/-- What the check of a beat's chunks found (R42): good, a number of chunks corrected, an uncorrectable chunk in bits
[511:0], or one in the data field; the last two with the number of other chunks corrected. -/
inductive Chk where
  | ok
  | corr (n : Nat)
  | header (n : Nat := 0)
  | data (n : Nat := 0)
  deriving DecidableEq, Repr

/-- The fields every host beat carries (Table 02.3), and the crossbar port that takes it. `line` is HPA[51:6]. -/
structure HostBeat where
  xport : Nat
  caid : Nat
  hport : Nat
  tag : Nat
  line : Nat
  chk : Chk
  deriving DecidableEq, Repr

/-- A host port whose `xb_port_up` bit reads 0, and the number of consecutive XBCLK edges at which it has since the last report of it
(R44). -/
structure PortFall where
  port : Nat
  edges : Nat
  deriving DecidableEq, Repr

/-- Kind and opcode of a backing response (Table 02.3). -/
structure RspOp where
  kind : Nat
  opc : Nat
  deriving DecidableEq, Repr

/-- The SnpType of a request (Table 04.2); `other` is a value no row lists. -/
inductive SnpT where
  | noOp
  | data
  | cur
  | inv
  | other
  deriving DecidableEq, Repr

/-- The MetaField of a request (R87); `other` is Extended-Meta-State or a reserved encoding. -/
inductive MetaF where
  | meta0
  | noOp
  | other
  deriving DecidableEq, Repr

/-- The MetaValue of a request (R87); `other` is a reserved encoding. -/
inductive MetaV where
  | i
  | a
  | s
  | other
  deriving DecidableEq, Repr

/-- SnpType, MetaField and MetaValue of a request. -/
structure Meta where
  snp : SnpT
  mf : MetaF
  mv : MetaV
  deriving DecidableEq, Repr

/-- A DRAM read response: `dr_rd_err`, and `dr_rd_data` XOR what the block wrote there (R48). -/
structure DramRd where
  err : Bool
  diff : Data
  deriving DecidableEq, Repr

/-- Write data of a beat: the line, its byte enables and its poison bit (Table 02.3). -/
structure Payload where
  data : Data
  be : Be
  poison : Bool
  deriving DecidableEq, Repr

/-- An uncorrectable chunk in the data field. -/
def Chk.isData : Chk → Bool
  | .data _ => true
  | _ => false

/-- Header of a hierarchy message (Table 11.6), the crossbar port that took it, and what the checks of its beat and of the data beat that
follows it found (R42). -/
structure Hdr where
  xport : Nat
  src : Nat
  dst : Nat
  seq : Nat
  epoch : Nat
  chk : Chk := .ok
  chk2 : Chk := .ok
  deriving DecidableEq, Repr

/-- The request of a FWD_REQ (Table 11.7, R225): an opcode of Table 04.1 or an AtomicOp. -/
inductive FwdOp where
  | memRd | memRdData | memInv | memInvNT | memClnEvct | memWr | memWrPtl | atomic
  deriving DecidableEq, Repr

/-- The beat that a FWD_REQ carries (Table 11.7, Table 02.3): `row` is the row of Table 04.2 its fields are in, or the
`uio_op`. -/
structure FwdBeat where
  op : FwdOp
  row : Nat
  caid : Nat
  port : Nat
  tag : Nat
  line : Nat
  usize : Nat
  uoff : Nat
  pl : Payload
  deriving DecidableEq, Repr

/-- The answer beat that a FWD_RSP carries: `ndr` 0 `Cmp`, 1 `Cmp-S`, 2 `Cmp-E`, 3 `Cmp-M`; `drs` 0 none, 1 line data, 2
`MemData-NXM`; `uio` the status of a UIO completion. -/
structure FwdAnsB where
  caid : Nat
  tag : Nat
  ndr : Option Nat
  drs : Nat
  uio : Option Nat
  data : Data
  poison : Bool
  deriving DecidableEq, Repr

/-- Body of a Beacon (Table 11.4). `edge` is the mseq of the last delta the partner emitted before its scans of R284 ended,
once they have: no message of the spec carries it (log entry 24). -/
structure BeaconB where
  seq : Nat
  echo : Nat
  dapp : Nat
  japp : Nat
  dsent : Nat
  jsent : Nat
  state : Nat
  shadow : Nat
  epoch : Nat
  edge : Option Nat
  deriving DecidableEq, Repr

/-- A tile-map entry that O sends to N before PREPARED (R222 step 1; log entry 23): index, device, frame and gen of a valid
entry. -/
structure TileB where
  i : Nat
  valid : Bool
  dev : Nat
  dpa : Nat
  gen : Nat
  deriving DecidableEq, Repr

/-- The fields of a TS flit (Table 10.12). -/
structure TsBody where
  node : Nat
  locked : Nat
  txmask : Nat
  rate : Nat
  cap : Nat
  resume : Bool
  epoch : Nat
  loop : Nat
  deriving DecidableEq, Repr

/-- The fields a TS2 adds (Table 10.12). -/
structure Ts2Body where
  width : Nat
  map : List Nat
  e : Nat
  n : Nat
  o : Nat
  resok : Bool
  req : Bool
  excl : Nat
  final : Bool
  deriving DecidableEq, Repr

/-- Sources of the trace unit (R384): a Keeper flow record (0 taken branch, 1 trap, 2 `mret`, 3 world switch) of a world, an
event marker, a loss marker. -/
inductive TrcSrc where
  | flow (kind : Nat) (w : World)
  | event
  | loss
  deriving DecidableEq, Repr

/-- Addressing of an MCTP control request (R364): I3C or the mailbox with its route cookie, source EID, tag and instance ID. -/
structure Ctl where
  i3c : Bool
  cookie : Nat
  eid : Nat
  tag : Nat
  inst : Nat
  deriving DecidableEq, Repr

/-- Operations of the instruments of Table 16.5: the segment insertion bits, Keeper's debug module (registers 0 to 31, 32 for the
`pc`, from 0x1000 on the CSRs by their numbers), the counter reader, the sampler buffer reader (record n, the
oldest first), trace unit control. -/
inductive TapOp where
  | sib (mask : Nat)
  | attach
  | detach
  | halt
  | resume
  | step (pc : BitVec 32)
  | breakpoint (addr : Nat) (on : Bool)
  | readReg (r : Nat)
  | writeReg (r : Nat) (v : BitVec 32)
  | readMem (a : Nat)
  | writeMem (a : Nat) (v : BitVec 32)
  | counter (block i : Nat) (snap : Bool)
  | sample (n : Nat)
  | traceEnable (on : Bool)
  deriving DecidableEq, Repr

/-- The commands of the block, one for each row of spec/opcode_table.json. Fields hold numbers; `Instr.wf` says which fit.
The rows with operands stand before the rows without, each in the order of the table. -/
inductive Instr where
  /-- RAIL_ACK. `ack` of a rail rises or falls: 0 VCO, 1 VSA, 2 VSL, 3 the retention rail (R57, Table 02.8). -/
  | railAck (rail : Nat) (up : Bool)
  /-- RAIL_ACK_TIMEOUT. A rail request has had no `ack` for 800 AONCLK cycles (R58). -/
  | railAckTimeout (rail : Nat)
  /-- PWR_LEVEL. A commit of PWR_LEVEL (R318). -/
  | pwrLevel (w : World) (v : Nat)
  /-- PWR_KEEPER_CLK. A commit of PWR_KEEPER_CLK (R329, R332). -/
  | pwrKeeperClk (w : World) (v : Nat)
  /-- PWR_VOTE. A commit of the committing world's vote for a domain (R315). -/
  | pwrVote (w : World) (el : Nat) (on : Bool)
  /-- DOMAIN_SLEEP_ENTRY. A domain without votes has passed its clamp step (R316). -/
  | domainSleepEntry (el : Nat)
  /-- DOMAIN_SLEEP_EXIT. A domain that votes or a wake brought back is in service (R313, R317). -/
  | domainSleepExit (el : Nat)
  /-- PWR_FORCE_WAKE. A commit of PWR_FORCE_WAKE (R319). -/
  | pwrForceWake (w : World) (el : Nat)
  /-- BLOCK_ECLIPSE_REQUEST. A commit of PWR_BLOCK_SLEEP = 1 (R321). -/
  | blockEclipseRequest (w : World)
  /-- BLOCK_EXTINGUISH_REQUEST. A commit of PWR_BLOCK_SLEEP = 2 (R321). -/
  | blockExtinguishRequest (w : World)
  /-- BLOCK_WAKE_COMMIT. A commit of PWR_BLOCK_SLEEP = 0 (R324). -/
  | blockWakeCommit (w : World)
  /-- WAKE_SOURCE. A wake source, by its bit of Table 13.6, is sampled (R322). -/
  | wakeSource (n : Nat)
  /-- PORT_UP. `xb_port_up`[p] reads 1 (R44). -/
  | portUp (port : Nat)
  /-- PORT_DEPARTURE. `xb_port_up`[p] has read 0 at a number of consecutive edges; the fourth departs the port (R44, R72). -/
  | portDeparture (f : PortFall)
  /-- MEM_RD. A `MemRd`, or with `d` a `MemRdData`, beat (R87). -/
  | memRd (d : Bool) (h : HostBeat) (m : Meta)
  /-- MEM_INV. A `MemInv`, or with `nt` a `MemInvNT`, beat (R87). -/
  | memInv (nt : Bool) (h : HostBeat) (m : Meta)
  /-- MEM_CLN_EVCT. A `MemClnEvct` beat (R87). -/
  | memClnEvct (h : HostBeat) (m : Meta)
  /-- MEM_SPEC_RD. A `MemSpecRd` hint: any SnpType and meta fields (R87). -/
  | memSpecRd (h : HostBeat) (m : Meta)
  /-- MEM_WR. A `MemWr` beat: its byte enables are all ones (R87, Table 02.3). -/
  | memWr (h : HostBeat) (m : Meta) (pl : Payload)
  /-- MEM_WR_PTL. A `MemWrPtl` beat (R87). -/
  | memWrPtl (h : HostBeat) (m : Meta) (pl : Payload)
  /-- MEM_RD_FWD. A `MemRdFwd` beat: `MemData-NXM` (R88). -/
  | memRdFwd (h : HostBeat)
  /-- MEM_WR_FWD. A `MemWrFwd` beat: `Cmp` granting no state (R88). -/
  | memWrFwd (h : HostBeat)
   /-- UNSUPPORTED_HOST_BEAT. A beat of kind 0x0, 0x1 or 0x2 with a reserved opcode (R88, Table 04.3); a supported opcode with unsupported fields is
  the row of that opcode. -/
  | unsupportedHostBeat (h : HostBeat) (kind opc : Nat)
  /-- INVALID_KIND_BEAT. A beat of kind 0xF or of a kind that does not belong to its group (R37). -/
  | invalidKindBeat (h : HostBeat) (grp kind opc : Nat)
  /-- BICONFLICT. A `BIConflict` (R116). -/
  | biconflict (h : HostBeat)
  /-- BIRSP. A `BIRspI` (0), `BIRspS` (1) or `BIRspE` (2) (R100). -/
  | birsp (h : HostBeat) (bitag rsp : Nat)
  /-- BIRSP_BLK. A `BIRspIBlk` (0), `BIRspSBlk` (1) or `BIRspEBlk` (2) (R99). -/
  | birspBlk (h : HostBeat) (bitag rsp : Nat)
  /-- ATOMIC_OP. An AtomicOp beat (R198). -/
  | atomicOp (h : HostBeat) (uop usize uoff : Nat) (data : Data)
   /-- BACKING_DATA. A backing response of kind 0xB: `form` 0 `MemData`, 1 `MemData-NXM`, else an opcode that was not expected; `h.tag` is the HTID
  (R104, Table 04.3). -/
  | backingData (h : HostBeat) (form dl : Nat) (pl : Payload)
  /-- BACKING_COMPLETION. A backing response of kind 0xA; its opcode is `Cmp` where `opc` is 0 (R105). -/
  | backingCompletion (h : HostBeat) (opc dl : Nat)
  /-- BACKING_UIO_COMPLETION. A completion of kind 0xD (R203). -/
  | backingUioCompletion (h : HostBeat) (status : Nat) (data : Data)
  /-- STALE_BACKING_RESPONSE. A backing beat whose HTID names no open context (R41). -/
  | staleBackingResponse (h : HostBeat) (o : RspOp) (dl : Nat)
  /-- OUTBOUND_BEAT_TAKEN. The carrier takes the beat that a group presents at a port (R36). -/
  | outboundBeatTaken (port grp : Nat)
  /-- SLICE_GRANT. One SLCLK cycle of the slice arbiter (R169). -/
  | sliceGrant (slice : Nat)
  /-- LOOKUP_ISSUE. The oldest eligible per-line head takes a context and looks up (R170). -/
  | lookupIssue (slice idx : Nat)
  /-- SNOOP_SLOT_ACQUIRED. A waiting context takes a free snoop slot (R98). -/
  | snoopSlotAcquired (slice idx : Nat)
  /-- SET_CONFLICT_RETRY. The oldest waiter of a set repeats victim selection (R140). -/
  | setConflictRetry (slice set : Nat)
  /-- HOLD_WINDOW_END. HOLD_WINDOW has passed since an ownership grant (R103). -/
  | holdWindowEnd (slice idx : Nat)
  /-- DBS_FILL_COMPLETE. A DBS fill returns its sector (R143). -/
  | dbsFillComplete (slice sec : Nat)
  /-- TILE_WALK_COMPLETE. A tile-cache walk has returned its entry (R78). -/
  | tileWalkComplete (slice tile : Nat)
  /-- DBS_IN_PLACE_REWRITE. The oldest spilled sector with a DBS slot is rewritten (R145). -/
  | dbsInPlaceRewrite (slice : Nat)
  /-- DBS_PLACEMENT. The oldest spilled sector without a slot is placed (R146). -/
  | dbsPlacement (slice : Nat)
  /-- DBS_RELEASE. The oldest all-I sector's burst is freed (R147). -/
  | dbsRelease (slice : Nat)
  /-- EVICT. The slice receives the EVICT of a page (R151). -/
  | evict (page : Nat)
  /-- DECLINE. The controller receives a DECLINE (R150). -/
  | decline (page : Nat)
  /-- COMPLETE. The controller receives COMPLETE (R150). -/
  | complete (page : Nat)
  /-- KEPT. The controller receives KEPT (R151). -/
  | kept (page : Nat)
  /-- DBS_EVICT_RETRY_EXPIRY. DBS_EVICT_RETRY has passed (R150). -/
  | dbsEvictRetryExpiry (page : Nat)
  /-- SWEEP_DBS_SCAN. The DBS scan of a sweep starts (R153). -/
  | sweepDbsScan (caid : Nat)
  /-- SWEEP_VISIT. A class 7 visit at the front of a slice acts on its line (R154). -/
  | sweepVisit (slice idx : Nat)
  /-- BI_TIMEOUT. A target's back-invalidate timer expires (R114). -/
  | biTimeout (slice slot caid : Nat)
  /-- MEM_TIMEOUT. A backing access has exceeded MEM_RD_TIMEOUT (R115). -/
  | memTimeout (slice idx : Nat)
  /-- ECHO_ENTRY_EXPIRY. An echo entry fails the age test (R127). -/
  | echoEntryExpiry (slice ent : Nat)
  /-- WATCH_QUARANTINE_EXPIRY. WATCH_QUARANTINE has passed for a withheld index (R166). -/
  | watchQuarantineExpiry (slice idx : Nat)
  /-- H_IDLE_EXIT. ATOM_H_IDLE has passed since the last AtomicOp of a line (R202). -/
  | hIdleExit (line : Nat)
  /-- HDC_DISABLE. A commit of HDC_ENABLE = 0 (R196). -/
  | hdcDisable (w : World)
  /-- HDC_DISABLE_FINISH. The walk of a slice goes on, or ends (R196). -/
  | hdcDisableFinish (slice : Nat)
  /-- HDC_ENABLE. A commit of HDC_ENABLE = 1 (R197). -/
  | hdcEnable (w : World)
  /-- HDC_PRELOAD. A commit of HDC_PRELOAD (R191). -/
  | hdcPreload (w : World) (v : Nat)
  /-- HDC_UNLOCK_ALL. A commit of HDC_UNLOCK_ALL = 1 (R191). -/
  | hdcUnlockAll (w : World)
  /-- LEASE_EXPIRY. A Held lease reaches its deadline (R209). -/
  | leaseExpiry (l : Nat)
  /-- LEASE_BREAK. A commit of LEASE_BREAK (R207). -/
  | leaseBreak (w : World) (l : Nat)
  /-- LEASE_BREAK_CAID. A commit of LEASE_BREAK_CAID (R207). -/
  | leaseBreakCaid (w : World) (caid : Nat)
  /-- LEASE_FREE. A commit of LEASE_FREE (R206). -/
  | leaseFree (w : World) (l : Nat)
  /-- CAID_BIND. A commit of some of a CAID's binding-record fields (R68). -/
  | caidBind (w : World) (caid : Nat) (port biid pools : Option Nat)
  /-- CAID_UNBIND_PLANNED. A commit of CAID_UNBIND = 1 (R72). -/
  | caidUnbindPlanned (w : World) (caid : Nat)
  /-- CAID_UNBIND_FORCED. A commit of CAID_UNBIND = 2 (R72). -/
  | caidUnbindForced (w : World) (caid : Nat)
  /-- POOL_ADD. A commit of POOL_BASE, POOL_UNITS and POOL_TMBASE (R62). -/
  | poolAdd (w : World) (p base units tm : Nat)
  /-- POOL_REMOVE. A commit of POOL_UNITS = 0 (R64). -/
  | poolRemove (w : World) (p : Nat)
  /-- POOL_PURGE_COMPLETE. Both steps of a purge have ended everywhere (R64). -/
  | poolPurgeComplete (p : Nat)
  /-- TILE_MAP_WRITE. A commit of TILE_MAP_WRITE (R79). -/
  | tileMapWrite (w : World) (v : Nat)
  /-- TILE_MAP_FILL. A commit of TILE_MAP_FILL (R79). -/
  | tileMapFill (w : World) (v : Nat)
  /-- GUARD_ARM. A commit of GUARD_ARM = 1 (R83). -/
  | guardArm (w : World)
  /-- TAINT_CLEAR. A commit of TAINT_CLEAR (R160). -/
  | taintClear (w : World) (el : Nat)
  /-- DRAM_COMMAND_TAKEN. The carrier takes the DRAM command of a channel (R48). -/
  | dramCommandTaken (ch : Nat)
  /-- DRAM_READ_RESPONSE. `dr_rd_vld` with `dr_rd_err` and `dr_rd_data` (R48). -/
  | dramReadResponse (ch tag : Nat) (r : DramRd)
  /-- DRAM_WRITE_COMPLETION. `dr_wc_vld` (R48). -/
  | dramWriteCompletion (ch tag : Nat)
  /-- DRAM_TIMEOUT. No response by edge A + 8,001 (R49). -/
  | dramTimeout (ch tag : Nat)
  /-- DRIFT_START. A commit of DRIFT_START (R218). -/
  | driftStart (w : World) (v : Nat)
  /-- DRIFT_COPY_ISSUE. A Drift channel issues its next copy (R219). -/
  | driftCopyIssue (ch : Nat)
  /-- DRIFT_FLIP. The last copy has retired (R219). -/
  | driftFlip (ch : Nat)
  /-- DRIFT_DRAIN_REPORT. A slice reports that its work under the old gen has retired (R219). -/
  | driftDrainReport (ch slice : Nat)
  /-- DRIFT_ABORT. A commit of DRIFT_ABORT (R221). -/
  | driftAbort (w : World) (ch : Nat)
  /-- REMOOR_REQUEST. A commit of REMOOR_REQUEST (R222). -/
  | remoorRequest (w : World) (unit node : Nat)
  /-- REMOOR_TRANSFER_OP. A slice of O issues a transfer operation (R224). -/
  | remoorTransferOp (slice : Nat)
  /-- REMOOR_FWD_TIMEOUT. A forwarded request has had no answer within REMOOR_FWD_TIMEOUT (R225). -/
  | remoorFwdTimeout (id : Nat)
  /-- PREPARE. PREPARE (R223). -/
  | prepare (h : Hdr) (unit o n : Nat) (tiles : List TileB)
  /-- PREPARED. PREPARED (R222). -/
  | prepared (h : Hdr)
  /-- REFUSE. REFUSE (R228). -/
  | refuse (h : Hdr) (check : Nat)
  /-- START. START (R224). -/
  | start (h : Hdr) (unit : Nat)
  /-- SECTOR. SECTOR: the state code and sharer field of each of its four lines (R226). -/
  | sector (h : Hdr) (sec : Nat) (ls : List (Nat × Nat))
  /-- ACK. ACK (R224). -/
  | ack (h : Hdr) (sec : Nat)
  /-- TRANSFER_DONE. TRANSFER_DONE (R222). -/
  | transferDone (h : Hdr) (unit : Nat)
  /-- FLIP. FLIP (R222). -/
  | flip (h : Hdr) (unit : Nat)
  /-- FLIPPED. FLIPPED (R222). -/
  | flipped (h : Hdr) (unit : Nat)
  /-- DRAIN_DONE. DRAIN_DONE (R222). -/
  | drainDone (h : Hdr) (unit : Nat)
  /-- ABORT. ABORT (R228). -/
  | abort (h : Hdr) (unit : Nat)
  /-- FWD_REQ. FWD_REQ (R226). -/
  | fwdReq (h : Hdr) (b : FwdBeat)
  /-- FWD_RSP. FWD_RSP (R225). -/
  | fwdRsp (h : Hdr) (b : FwdAnsB)
  /-- BUCKET_MOVE. A commit of BUCKET_MOVE (R229). -/
  | bucketMove (w : World) (b to_ : Nat)
  /-- SLICE_PARK. A commit of SLICE_PARK (R230). -/
  | slicePark (w : World) (v : Nat)
  /-- SLICE_DARK. A parked slice goes dark (R230). -/
  | sliceDark (slice : Nat)
  /-- SPARE_SWAP. A commit of SPARE_SWAP (R231). -/
  | spareSwap (w : World) (k : Nat)
   /-- LANE_LOCK. Four commas at exact spacing on a lane: the partner lane they name, an inverted pair, a lock that came too late for the deskew
  (R240). -/
  | laneLock (lane plane : Nat) (inv late : Bool)
  /-- LANE_LOCK_LOSS. Two consecutive commas are missing on a lane (R240). -/
  | laneLockLoss (lane : Nat)
  /-- DATA_FLIT. A good data flit; `corr` the physical lanes of its corrected symbols (R246). -/
  | dataFlit (corr : List Nat) (seq cls : Nat) (shared : Bool) (ackseq acktype : Nat) (payload : BitVec 1984)
  /-- IDLE_FLIT. A good idle flit (R246). -/
  | idleFlit (corr : List Nat) (ackseq acktype : Nat)
  /-- CONTROL_FLIT. A good control flit with its cumulative counters (R249). -/
  | controlFlit (corr : List Nat) (ackseq acktype : Nat) (cr : List Nat) (cs : Nat)
  /-- RETRAIN_REQUEST_FLIT. A good retrain request (R254). -/
  | retrainRequestFlit (corr : List Nat) (ackseq acktype node excl : Nat) (isFresh : Bool)
  /-- BAD_FLIT. A flit that fails RS decode (`rs`) or CRC (R246). -/
  | badFlit (rs : Bool)
  /-- UNKNOWN_KIND_FLIT. A good flit of an unknown kind (R245). -/
  | unknownKindFlit (corr : List Nat)
  /-- TS1. A TS1 flit (R255). -/
  | ts1 (p : TsBody)
  /-- TS2. A TS2 flit (R255). -/
  | ts2 (p : TsBody) (q : Ts2Body)
  /-- LANE_ACTIVITY. Activity on a set of lanes (R259). -/
  | laneActivity (lanes : Nat)
  /-- DRX_ENABLE. A commit of DRX_ENABLE (R254). -/
  | drxEnable (w : World) (on : Bool)
  /-- DRX_TRAIN. A commit of DRX_TRAIN (R254). -/
  | drxTrain (w : World)
  /-- DRX_RETRAIN_RESUME. A commit of DRX_RETRAIN = 1 (R257). -/
  | drxRetrainResume (w : World)
  /-- DRX_RETRAIN_FRESH. A commit of DRX_RETRAIN = 2 (R257). -/
  | drxRetrainFresh (w : World)
  /-- LOOPBACK_NEAR_SERIAL. A commit of DRX_LOOPBACK = 1 (R262). -/
  | loopbackNearSerial (w : World)
  /-- LOOPBACK_NEAR_PARALLEL. A commit of DRX_LOOPBACK = 2 (R262). -/
  | loopbackNearParallel (w : World)
  /-- LOOPBACK_FAR_END. A commit of DRX_LOOPBACK = 3 (R262). -/
  | loopbackFarEnd (w : World)
  /-- LOOPBACK_EXIT. A commit of DRX_LOOPBACK = 0 (R262). -/
  | loopbackExit (w : World)
  /-- DRX_EYE_CTRL. A commit of DRX_EYE_CTRL (R261). -/
  | drxEyeCtrl (w : World) (v : Nat)
  /-- EYE_SCAN_COMPLETE. The eye scan has seen its symbols (R261). -/
  | eyeScanComplete (count : Nat)
  /-- DRX_ERR_INJECT. A commit of DRX_ERR_INJECT (R263). -/
  | drxErrInject (w : World) (v : Nat)
  /-- MIR_PACK_WAIT_EXPIRY. MIR_PACK_WAIT since a flit's first record: class 0 deltas, class 1 journal (R269). -/
  | mirPackWaitExpiry (cls : Nat)
  /-- DELTA_APPLY. A slice of the mirror applies the oldest line delta (R271). -/
  | deltaApply (slice : Nat)
  /-- BEACON. A Beacon through the crossbar (R276). -/
  | beacon (h : Hdr) (b : BeaconB)
  /-- CLAIM. CLAIM at the witness (R278). -/
  | claim (h : Hdr) (partner : Nat)
  /-- GRANT. GRANT (R277). -/
  | grant (h : Hdr)
  /-- DENY. DENY (R277). -/
  | deny (h : Hdr)
  /-- RELEASE. RELEASE at the witness (R278). -/
  | release (h : Hdr) (partner : Nat)
  /-- MIR_FORCE_SOLO. A commit of MIR_FORCE_SOLO (R277). -/
  | mirForceSolo (w : World)
  /-- MIR_REJOIN. A commit of MIR_REJOIN (R284). -/
  | mirRejoin (w : World)
  /-- JOIN. JOIN (R284). -/
  | join (h : Hdr)
  /-- RESYNC_COPY. A channel of the resynchronisation copies its next sector (R284). -/
  | resyncCopy (ch : Nat)
  /-- MIR_SWAP. A commit of MIR_SWAP (R285). -/
  | mirSwap (w : World) (unit : Nat)
  /-- MIR_UNIT_SETTLE. A commit of MIR_UNIT_SETTLE (R283). -/
  | mirUnitSettle (w : World) (unit : Nat)
  /-- HIER_MAP_SET. A commit of HIER_MAP_SET (R289). -/
  | hierMapSet (w : World) (unit v : Nat)
  /-- MAP_UPDATE. MAP_UPDATE (R289). -/
  | mapUpdate (h : Hdr) (unit v : Nat)
  /-- MAP_ACK. MAP_ACK (R289). -/
  | mapAck (h : Hdr) (k : Nat)
  /-- ADOPT. ADOPT (R289). -/
  | adopt (h : Hdr) (lost : Nat)
  /-- HIER_RETRY_EXPIRY. HIER_RETRY has passed without an answer (R288). -/
  | hierRetryExpiry (seq : Nat)
  /-- HIER_WITNESS_CLEAR. A commit of HIER_WITNESS_CLEAR (R278). -/
  | hierWitnessClear (w : World) (node : Nat)
  /-- SCRUB_STEP. A scrubber reads its next word (0, the SFA and its group) or DBS page (1) (R298). -/
  | scrubStep (g : Nat)
  /-- REPEAT_REWRITE. A word that reached RAS_REWRITE_AT corrections is rewritten (R299). -/
  | repeatRewrite (store unit word : Nat)
  /-- RELOCATE_STICKY. A sticky word is relocated (R300). -/
  | relocateSticky (unit store word : Nat)
  /-- RAS_PAGE_RETIRE. A commit of RAS_PAGE_RETIRE (R301). -/
  | rasPageRetire (w : World) (v : Nat)
  /-- RAS_BANK_RETIRE. A commit of RAS_BANK_RETIRE (R302). -/
  | rasBankRetire (w : World) (bank : Nat)
  /-- RAS_INJECT. A commit of RAS_INJECT (R305). -/
  | rasInject (w : World) (v : Nat)
  /-- RAS_RAW_READ. A commit of RAS_RAW_READ (R305). -/
  | rasRawRead (w : World) (v : Nat)
  /-- RAS_FOGHORN_TEST. A commit of RAS_FOGHORN_TEST = 1 (R308). -/
  | rasFoghornTest (w : World)
   /-- ARB_STARVATION. A requester of an arbiter, by its row of Table 07.7, has waited beyond its limit; `cw` where the wait is one that R180 counts
  without a flag (R180). -/
  | arbStarvation (row inst : Nat) (cw : Bool)
  /-- ECALL_SECURE. An `ecall` in N-M at a `pc` (R337). -/
  | ecallSecure (pc : BitVec 32)
  /-- SECURE_INTERRUPT. A pending, enabled secure-line interrupt is taken at a `pc` (R337). -/
  | secureInterrupt (pc : BitVec 32)
  /-- MRET_TO_NORMAL. An `mret` with `kwstat`[1] set, with the registers as secure firmware left them (R338; log entry 31). -/
  | mretToNormal (npp : Bool) (nepc entry mie : BitVec 32) (a : List (BitVec 32))
  /-- WDT_ENABLE. A commit of WDT_ENABLE = 1 (R347). -/
  | wdtEnable (w : World)
  /-- WDT_PERIOD. A commit of WDT_PERIOD (R347). -/
  | wdtPeriod (w : World) (v : Nat)
  /-- WORLD_HO_REQ. A commit of WORLD_HO_REQ (R342). -/
  | worldHoReq (w : World) (u : Nat)
  /-- WORLD_HO_RELEASE. A commit of WORLD_HO_RELEASE (R342). -/
  | worldHoRelease (w : World) (u : Nat)
  /-- WORLD_HO_REFUSE. A commit of WORLD_HO_REFUSE (R342). -/
  | worldHoRefuse (w : World) (u : Nat)
  /-- WORLD_HO_WAIT_EXPIRY. WORLD_HO_WAIT has passed without release (R342). -/
  | worldHoWaitExpiry (u : Nat)
  /-- HANDOVER_RESET_DONE. A unit's hand-over reset ends (R342). -/
  | handoverResetDone (u : Nat)
  /-- WORLD_IRQ_PENDING. A W1C write of WORLD_IRQ_PENDING (R340). -/
  | worldIrqPending (w : World) (v : Nat)
  /-- DEBUG_HALT. A halt request, or a breakpoint at a `pc` (R349). -/
  | debugHalt (bp : Option (BitVec 32))
  /-- FW_ACTIVATE. A commit of FW_ACTIVATE (R351). -/
  | fwActivate (w : World)
  /-- FW_QUIESCE_DONE. The `ecall` 0x51 of the normal world, or FW_QUIESCE_MAX (R351). -/
  | fwQuiesceDone (byEcall : Bool)
  /-- FW_READY. A commit of FW_READY (R351). -/
  | fwReady (w : World)
  /-- FW_READY_TIMEOUT. FW_READY has not come within FW_READY_MAX, or the new image faulted (R351). -/
  | fwReadyTimeout (fault : Bool)
  /-- OAP_READ. An OAP_CMD read (R362). -/
  | oapRead (w : World) (idx el len : Nat)
  /-- OAP_STAGE. An OAP_CMD stage (R392). -/
  | oapStage (w : World) (idx el len : Nat) (data : Data)
  /-- OAP_COMMIT. An OAP_CMD commit (R358). -/
  | oapCommit (w : World)
  /-- OAP_ABORT. An OAP_CMD abort (R357). -/
  | oapAbort (w : World)
  /-- SLICE_DRAIN. A slice drains for a drain-effect object (R360). -/
  | sliceDrain (k : Nat)
  /-- RC_READ. A read of an RC object (R355). -/
  | rcRead (w : World) (idx el : Nat)
  /-- W1C_WRITE. A W1C write (R355). -/
  | w1cWrite (w : World) (idx el v : Nat)
  /-- DICT_READ. READ at the head of a world's queue; `deny` a refusal of secure firmware's own policy (R365, R366). -/
  | dictRead (w : World) (deny : Bool)
  /-- DICT_STAGE. STAGE (R365). -/
  | dictStage (w : World) (deny : Bool)
  /-- DICT_COMMIT. COMMIT (R358). -/
  | dictCommit (w : World) (deny : Bool)
  /-- DICT_ABORT. ABORT (R357). -/
  | dictAbort (w : World) (deny : Bool)
  /-- DICT_COMMIT_STATUS. COMMIT_STATUS (R365). -/
  | dictCommitStatus (w : World) (deny : Bool)
  /-- DICT_W1C. W1C (R365). -/
  | dictW1c (w : World) (deny : Bool)
  /-- EVENT_ACK. An acknowledgement of the record of a number: by the fabric manager, or with `carrier` of a region-map notice (R370, R371). -/
  | eventAck (num : Nat) (carrier : Bool)
  /-- FW_BEGIN. FW_BEGIN (R365). -/
  | fwBegin (w : World) (deny : Bool)
  /-- FW_DATA. FW_DATA (R365). -/
  | fwData (w : World) (deny : Bool)
  /-- FW_END. FW_END (R365, R336). -/
  | fwEnd (w : World) (deny : Bool)
  /-- MAILBOX_PACKET. The words of an inbound mailbox packet (R369). -/
  | mailboxPacket (ws : List (BitVec 32))
  /-- SET_ENDPOINT_ID. Set Endpoint ID (R364). -/
  | setEndpointId (q : Ctl) (data : List (BitVec 8))
  /-- GET_ENDPOINT_ID. Get Endpoint ID (R364). -/
  | getEndpointId (q : Ctl)
  /-- GET_ENDPOINT_UUID. Get Endpoint UUID (R364). -/
  | getEndpointUuid (q : Ctl)
  /-- GET_MCTP_VERSION_SUPPORT. Get MCTP Version Support (R364). -/
  | getMctpVersionSupport (q : Ctl) (data : List (BitVec 8))
  /-- GET_MESSAGE_TYPE_SUPPORT. Get Message Type Support (R364). -/
  | getMessageTypeSupport (q : Ctl)
  /-- GET_VENDOR_DEFINED_MESSAGE_SUPPORT. Get Vendor Defined Message Support (R364). -/
  | getVendorDefinedMessageSupport (q : Ctl) (data : List (BitVec 8))
  /-- UNSUPPORTED_CONTROL_CMD. Any other MCTP control command (R364). -/
  | unsupportedControlCmd (q : Ctl) (cmd : Nat)
  /-- I3C_PRIVATE_WRITE. A private write of a packet to an address, and what its PEC check found (R368). -/
  | i3cPrivateWrite (addr : Nat) (data : List (BitVec 8)) (pecOk : Bool)
  /-- I3C_PRIVATE_READ. A private read from an address (R368). -/
  | i3cPrivateRead (addr : Nat)
  /-- ENTDAA. ENTDAA: the address offered, and whether the target won the arbitration (R368). -/
  | entdaa (addr : Nat) (won : Bool)
  /-- SETDASA. SETDASA (R368). -/
  | setdasa (static_ addr : Nat)
  /-- SETMWL. SETMWL, broadcast or to an address (R368). -/
  | setmwl (addr : Option Nat) (v : Nat)
  /-- SETMRL. SETMRL, broadcast or to an address (R368). -/
  | setmrl (addr : Option Nat) (v : Nat)
  /-- GETMWL. GETMWL (R368). -/
  | getmwl (addr : Nat)
  /-- GETMRL. GETMRL (R368). -/
  | getmrl (addr : Nat)
  /-- GETPID. GETPID: DEV_I3C_PID (R368). -/
  | getpid (addr : Nat)
  /-- GETBCR. GETBCR (R368). -/
  | getbcr (addr : Nat)
  /-- GETDCR. GETDCR (R368). -/
  | getdcr (addr : Nat)
  /-- GETSTATUS. GETSTATUS (R368). -/
  | getstatus (addr : Nat)
  /-- UNSUPPORTED_CCC. An unsupported CCC: direct to an address, or broadcast (R368). -/
  | unsupportedCcc (addr : Option Nat)
  /-- CONTROLLER_ROLE_OFFER. A controller-role hand-off offer (R52). -/
  | controllerRoleOffer (addr : Nat)
  /-- PM_SNAP. A commit of PM_SNAP = 1 (R375). -/
  | pmSnap (w : World)
  /-- SNAP_BROADCAST. A block receives the snapshot broadcast (R375). -/
  | snapBroadcast (block : Nat)
  /-- PM_CTR_CLEAR. A commit of PM_CTR_CLEAR (R374). -/
  | pmCtrClear (w : World) (v : Nat)
  /-- RING_WRITE_COMPLETE. The 64 B write of the sampler's ring, or with `trc` of the trace unit's, has completed (R378). -/
  | ringWriteComplete (trc : Bool)
  /-- PM_SMP_FLUSH. A commit of PM_SMP_FLUSH = 1 (R378). -/
  | pmSmpFlush (w : World)
  /-- HIST_MERGE_FLUSH. 10 µs have passed since a slice last sent its merged increments (R380). -/
  | histMergeFlush (slice : Nat)
  /-- HIST_INCREMENT. The oldest increment arrives at stop 46, which takes it or has no room (R380). -/
  | histIncrement (accept : Bool)
  /-- PM_HIST_CLEAR. A commit of PM_HIST_CLEAR = 1 (R380). -/
  | pmHistClear (w : World)
  /-- TRACE_RECORD. The trace unit forms a record (R384). -/
  | traceRecord (src : TrcSrc)
  /-- BYPASS. Any other instruction code (R382). -/
  | bypass (code : Nat)
  /-- PORT_RETRY_CHANGE. `xb_port_retry`[p] changes level (R44, R306). -/
  | portRetryChange (port : Nat) (up : Bool)
  /-- TAP_INSTRUMENT_OPERATION. A data-register scan performs an instrument operation (R383). -/
  | tapInstrumentOperation (op : TapOp)
  /-- UNTAKEABLE_NORMAL_TRAP. A trap whose normal-world handler would fault at fetch (R337). -/
  | untakeableNormalTrap (pc mtvec cause tval : BitVec 32)
  /-- UNKNOWN_HIERARCHY_MESSAGE. A hierarchy message of no row of Table 11.7, from 0xFF or for another node (R287). -/
  | unknownHierarchyMessage (h : Hdr) (typ : Nat)
  /-- UNSUPPORTED_DICT_COMMAND. A message whose cmd is not of Table 15.7 (R363). -/
  | unsupportedDictCommand (w : World) (deny : Bool)
  /-- POWER_ON_RESET. `rs_por_n` is asserted (R56, R331). -/
  | powerOnReset
  /-- POWER_ON_RESET_RELEASE. `rs_por_n` is deasserted: start-up begins (R329). -/
  | powerOnResetRelease
  /-- WARM_RESET. `rs_warm_n` is asserted (R56, R330). -/
  | warmReset
  /-- WARM_RESET_RELEASE. `rs_warm_n` is deasserted (R330). -/
  | warmResetRelease
  /-- BROWN_OUT. The always-on regulator has browned out (R320). -/
  | brownOut
  /-- BROWN_OUT_RECOVERY. The always-on regulator has recovered (R320). -/
  | brownOutRecovery
  /-- BRACE_ENTRY. Brace is entered (R326, R328). -/
  | braceEntry
  /-- BRACE_EXIT. The eighth good AONCLK edge ends Brace (R327). -/
  | braceExit
  /-- SUPPLY_RESET. The CORE supply has fallen below 0.64 V (R328). -/
  | supplyReset
  /-- SUPPLY_RESET_RECOVERY. The CORE supply has been good for 100 µs (R328). -/
  | supplyResetRecovery
  /-- LEVEL_SWITCH. The slice and Gallery clocks switch frequency (R318). -/
  | levelSwitch
  /-- BLOCK_SLEEP_QUIESCED. Steps 2 and 3 of block sleep entry have ended (R321). -/
  | blockSleepQuiesced
  /-- WAKE_TIMER_EXPIRY. The wake timer has run out (R322). -/
  | wakeTimerExpiry
  /-- LEASE_ACQUIRE. The oldest lease command is a Swap at `uio_off` 0x00 (R206). -/
  | leaseAcquire
  /-- LEASE_RENEW. The oldest lease command is a Swap at `uio_off` 0x08 (R206). -/
  | leaseRenew
  /-- LEASE_RELEASE. The oldest lease command is a Swap at `uio_off` 0x10 (R206). -/
  | leaseRelease
  /-- LEASE_QUERY. The oldest lease command is a FetchAdd of 0 at `uio_off` 0x18 (R205). -/
  | leaseQuery
  /-- LEASE_BREAK_TRIGGER. The oldest break message reaches stop 44 (R207, R208). -/
  | leaseBreakTrigger
  /-- HEAT_PASS_START. HEAT_SCAN_PERIOD has passed (R216). -/
  | heatPassStart
  /-- HEAT_DELTA. The oldest heat delta arrives (R215). -/
  | heatDelta
  /-- REMOOR_PREPARE_TIMEOUT. No PREPARED from both within REMOOR_PREPARE_MAX (R223). -/
  | remoorPrepareTimeout
  /-- REMOOR_DRAIN_EXPIRY. REMOOR_DRAIN has passed (R222). -/
  | remoorDrainExpiry
  /-- REMOOR_XFER_TIMEOUT. N has been unreachable beyond REMOOR_XFER_MAX (R228). -/
  | remoorXferTimeout
  /-- HANDOFF_QUIESCED. Slice A has nothing open for the bucket (R229). -/
  | handoffQuiesced
  /-- HANDOFF_DONE. Slice B receives DONE (R229). -/
  | handoffDone
  /-- REPLAY_TIMER_EXPIRY. DRX_REPLAY_TIMER without a release (R248). -/
  | replayTimerExpiry
  /-- NAK_TIMER_EXPIRY. DRX_NAK_TIMER since the last NAK (R247). -/
  | nakTimerExpiry
  /-- ACK_TIMER_EXPIRY. DRX_ACK_TIMER since the oldest unacknowledged flit (R247). -/
  | ackTimerExpiry
  /-- CREDIT_REPORT_TIMER. 200 ns since the oldest unreported freed slot (R249). -/
  | creditReportTimer
  /-- SEEK_SETTLE_EXPIRY. The settle time has passed (R255). -/
  | seekSettleExpiry
  /-- LINK_ACTIVE. Sixteen consecutive good flits in Ready (R254). -/
  | linkActive
  /-- ATTEMPT_TIMEOUT. The attempt timer reaches 50 ms (R254). -/
  | attemptTimeout
  /-- BACKOFF_ELAPSED. The backoff has elapsed (R254). -/
  | backoffElapsed
  /-- CORRECTION_THRESHOLD_CHECK. The end of a millisecond (R257). -/
  | correctionThresholdCheck
  /-- LOOPED_IDLE_EXIT. A Looped end has seen idle on every lane for 10 µs (R262). -/
  | loopedIdleExit
  /-- LEASE_DELTA_APPLY. The mirror applies the oldest lease delta (R271). -/
  | leaseDeltaApply
  /-- JOURNAL_RECORD_APPLY. The mirror applies the oldest journal record (R274). -/
  | journalRecordApply
  /-- JOURNAL_TIMEOUT. A record has not been reported applied within MIR_JOURNAL_TIMEOUT (R274). -/
  | journalTimeout
  /-- BEACON_SEND. MIR_BEACON_PERIOD has passed (R275). -/
  | beaconSend
  /-- BEACON_PATH_LOSS. Beacons have arrived only over the crossbar for MIR_BEACON_MISS periods (R279). -/
  | beaconPathLoss
  /-- SERVING_LEASE_LAPSE. The serving lease lapses (R276). -/
  | servingLeaseLapse
  /-- FENCE_GUARD_EXPIRY. MIR_FENCE_GUARD has passed since GRANT (R281). -/
  | fenceGuardExpiry
  /-- FAILOVER_ADOPT. The receive pool and apply buffers have drained (R282). -/
  | failoverAdopt
  /-- BANK_COPY_DONE. The last word of a bank has been copied (R302). -/
  | bankCopyDone
  /-- WATCHDOG_PET. A write of 1 to `kwstat`[3] from S-M (R347). -/
  | watchdogPet
  /-- WATCHDOG_WARNING. The count reaches WDT_WARN percent of the period (R347). -/
  | watchdogWarning
  /-- SECURE_WATCHDOG_EXPIRY. The count reaches WDT_PERIOD (R348). -/
  | secureWatchdogExpiry
  /-- COMMIT_EDGE. The commit time T of the next commit (R358). -/
  | commitEdge
  /-- EVENT_RETRY_EXPIRY. DICT_EVT_RETRY has passed for the event sent (R370). -/
  | eventRetryExpiry
  /-- MAP_NOTICE_RETRY. DICT_EVT_RETRY has passed for the region-map notice sent (R371). -/
  | mapNoticeRetry
  /-- DICT_REQ_WAIT_EXPIRY. A request has waited DICT_REQ_WAIT (R367). -/
  | dictReqWaitExpiry
  /-- ENEC. ENEC (R368). -/
  | enec
  /-- DISEC. DISEC (R368). -/
  | disec
  /-- RSTDAA. RSTDAA (R368). -/
  | rstdaa
  /-- HDR_ENTRY. HDR entry (R368). -/
  | hdrEntry
  /-- SAMPLER_RECORD. The oldest sampler record on its way arrives at stop 46 (R378). -/
  | samplerRecord
  /-- TAP_RESET. `mg_trst_n` or Test-Logic-Reset (R382). -/
  | tapReset
  /-- IDCODE. The IDCODE instruction (R382). -/
  | idcode
  /-- IJTAG. The IJTAG instruction (R383). -/
  | ijtag
  /-- MAILBOX_OUT_WORD_TAKEN. The carrier takes the outbound mailbox word (R53). -/
  | mailboxOutWordTaken
  /-- ALWAYS_ON_SUPPLY_LOSS. The always-on input supply is lost (R331). -/
  | alwaysOnSupplyLoss
  /-- ALWAYS_ON_SUPPLY_APPLIED. The always-on input supply is applied (R356). -/
  | alwaysOnSupplyApplied
  /-- AONREG_HP_SETTLED. The always-on regulator has reached high-power mode (R319). -/
  | aonregHpSettled
  deriving DecidableEq, Repr

end Sys2Proof
end

