-- ==== Sys2Proof/Decode.lean ====
section
/-! DEFINITION. Sys2Proof/Decode.lean: the command that a word spells. The rows of spec/opcode_table.json give no bits, so no word
spells one: commands come as commands. -/
namespace Sys2Proof

/-- The command spelt by a word numbered as the table numbers it: none. -/
def decodeTableWord (_nbits _w : Nat) : Option Instr := none

end Sys2Proof
end

