-- ==== Sys2Proof/Config.lean ====
section
/-! DEFINITION. Sys2Proof/Config.lean: the values the spec leaves open, as opaque constants. Nothing in Lean can
evaluate them or prove a value of one. Each is named in the assumption log. -/
namespace Sys2Proof.Config

/-- The block's internal entropy source: the n-th value drawn from it (R135, R376; log entry 5). -/
opaque entropy : Nat → Nat

/-- An order or a choice the spec leaves to the block, the n-th one taken (log entry 6). -/
opaque choice : Nat → Nat

/-- The structural position of a stored word, per store: the unit and word number of Table 12.1 that
an entry occupies (log entry 14). -/
opaque place : Nat → Nat → Nat

/-- Content of a stored word, by store, unit and word address, as its number of data bits and check bits from bit 128: how a
unit packs its entries into words the spec does not say (log entry 14). -/
opaque rawWord : Nat → Nat → Nat → Nat

/-- Parity byte of entry k of a tile-map page whose entries hold bits [79:0] as listed (log entry 58). -/
opaque tileParity : List Nat → Nat → BitVec 8

/-- The meta_value field of outbound beats of a kind (log entry 17). -/
opaque metaValue : Nat → BitVec 2

/-- Which of the groups with a beat to present a port presents, by port and edge of XBCLK (R36; log entry 6). -/
opaque txGroup : Nat → Nat → Nat

/-- SHA-384 of a run of bytes, as a 384-bit number (R336; log entry 15). -/
opaque sha384 : List (BitVec 8) → Nat

/-- Verification of an ECDSA P-384 signature: public key, digest, signature (R336; log entry 15). -/
opaque ecdsaVerify : List (BitVec 8) → Nat → List (BitVec 8) → Bool

/-- Records that the trace FIFO holds beside its first (R384 gives no depth; log entry 6). -/
opaque traceDepth : Nat

/-- The n-th trace record written to a ring: R384 says what a record carries and not where in its 32 bytes (log entry 6). -/
opaque traceRecord : Nat → BitVec 256

/-- Column of data symbol i, from 17 on, of the codes over GF(16): the search of R293 accepts 17 columns of the 32 it is said to
accept (log entry 35). -/
opaque symColumn : Nat → BitVec 12

/-- Tile-map entry k of a unit as O sends it to N in the n-th re-mooring whose entries no command carries: [0] valid, [8:1] dev, [39:9]
dpa, [47:40] gen (R222; log entry 23). -/
opaque movedTile : Nat → Nat → BitVec 48

/-- Channel [3:0], destination device [11:4] and destination frame [42:12] of the n-th Drift that a failover aborts: the survivor holds no
descriptor of the lost partner's channel (R221, R282; log entry 55). -/
opaque lostDrift : Nat → BitVec 43

/-- The content bit that an injected CRC error flips in a flit, and the pattern that corrupts symbols of one of its blocks: R263 gives their
number only (log entry 54). -/
opaque injBit : BitVec 2048 → Nat
opaque injSymbols : Nat → Nat → BitVec 2048 → BitVec 66

/-- Block n of a lane's test pattern 1 or 2, by pattern, lane and n: R263 names PRBS31 and PRBS13Q and gives no seed (log entry 54). -/
opaque prbs : Nat → Nat → Nat → BitVec 66

/-- Byte of the boot ROM at an offset (R336 gives what it does, not its content; log entry 5). -/
opaque bootRom : Nat → BitVec 8

/-- Data of the answer to Get MCTP Version Support for message type 0x7F, which DSP0236 leaves to the vendor (R364; log entry 5). -/
opaque mctpVersion : List (BitVec 8)

/-- Pending-interrupt field of GETSTATUS while packets wait, by their number: I3C Basic leaves the number to the target (R368; log entry 5). -/
opaque i3cPending : Nat → BitVec 4

end Sys2Proof.Config
end

