-- ==== Sys2Proof/Machine/EngState.lean ====
section
/-! DEFINITION. Sys2Proof/Machine/EngState.lean: the state of the coherence side of the block as plain data:
boundary, pools, queues, Watch, directory, HDC, atomics, leases, tile map, DRAM port, placement, events
(chapters 02 to 09 of spec/, with the logs and event queue of chapter 15). Every structure cites the rule
that gives it. A line is HPA[51:6]; a sector is HPA[51:8]; line k of a sector is `line % 4` (R6, R20). -/
namespace Sys2Proof.Machine

/-- Fuses and identity cells, fixed at manufacture (R391, R336, R349, R352, R382; values DESIGN CHOICE, log
entry 3). -/
structure Fuses where
  cfg : Cfg
  stepMajor : Nat
  stepMinor : Nat
  serial : Nat
  uuid : Nat
  i3cPid : Nat
  i3cStatic : Nat
  debugFuse : Nat
  bootSource : Nat
  minSvn : Nat
  keyHash : List Nat
  tapManuf : Nat
  /-- [31:28] of TAP_IDCODE (Table 16.4). -/
  tapStep : Nat
  /-- Base of the fused 1 MiB boot window (R336). -/
  bootWin : Nat
  deriving DecidableEq, Repr

/-- Stable state of a line with its sharer field (Table 04.5). -/
inductive LSt where
  | I
  | S1 (a : Nat)
  | S2 (a b : Nat)
  | SC (g : Nat)
  | X (o : Nat)
  | H
  | P
  | spare
  deriving DecidableEq, Repr

/-- Transient codes of Table 05.1. -/
inductive TC where
  | open0 | isD | ixD | sxB | xsB | xsW | xxB | xxW | evB | drC | ahB | mrF
  | sxC | xsC | xxC | evC | ahC
  | isT | ixT | sxT | xsT | xxT | evT | drT | ahT
  deriving DecidableEq, Repr

/-- Snoop types (Table 04.8). -/
inductive Snp where
  | cur
  | data
  | inv
  deriving DecidableEq, Repr

/-- What a queue entry asks for: the host messages of Table 04.1, the AtomicOp, and the internal operations of
Table 07.4 with the fills of R87, R191, R192 and the HDC write-back of R190. -/
inductive Op where
  | memRd | memRdData | memInv | memInvNT | memClnEvct | memSpecRd | memWr | memWrPtl
  | atomic
  | visit (caid : Nat) (planned : Bool)
  | evict (page : Nat)
  | drift (ch : Nat)
  | resync (ch : Nat)
  | remoor
  | prefetch
  | preload (lock : Bool)
  | wback
  | putState (st : LSt)
  deriving DecidableEq, Repr

/-- A request as it is queued and as its context holds it (Tables 02.3, 04.2, 07.1, 07.4). -/
structure Req where
  /-- The model's own name of the entry, unique, for its slots. -/
  gid : Nat
  op : Op
  cls : Nat
  /-- Row of Table 04.2, `uio_op` of an AtomicOp, or operation of Table 07.4. -/
  row : Nat
  /-- Field value v of R171. -/
  v : Nat
  caid : Nat
  port : Nat
  tag : Nat
  line : Nat
  poison : Bool
  be : Be
  data : Data
  usize : Nat
  uoff : Nat
  /-- Arrival time t0 (R163). -/
  t0 : Nat
  /-- Node that forwarded the request under R225, with the name it has there. -/
  remote : Option (Nat × Nat)
  /-- The sweep that queued a visit, by its id (R74). -/
  sweep : Nat
  /-- Forwarded over the Gallery under R229 and placed ahead of direct entries. -/
  passed : Bool
  deriving DecidableEq, Repr

/-- Share of R164 a context was taken from. -/
inductive Share where
  | host
  | int
  | rem
  deriving DecidableEq, Repr

/-- Why an allocated context is not open, or that it is (R109, R140, R143, R78, R103, R270). -/
inductive Phase where
  | fetch
  | waitSet
  | held
  | opened
  | ackWait (delta : Nat)
  deriving DecidableEq, Repr

/-- Tile-map entry (Table 03.7), its code bits apart. -/
structure Tent where
  valid : Bool
  drift : Bool
  dev : Nat
  dpa : Nat
  gen : Nat
  pool : Nat
  heat : Nat
  deriving DecidableEq, Repr

/-- Kinds of backing access (R105). -/
inductive AccK where
  | rd
  | wr
  | wrPtl
  | uio
  deriving DecidableEq, Repr

/-- What a backing write is for. -/
inductive AccFor where
  | read
  | wb (gid : Nat)
  | own
  | hdc
  | uio
  | driftDst
  | poison
  deriving DecidableEq, Repr

/-- A backing access of a context (R105), with the edge its beat was taken at (R115). -/
structure Acc where
  kind : AccK
  why : AccFor
  dev : Nat
  dpa : Nat
  data : Data
  be : Be
  poison : Bool
  deadline : Option Nat
  deriving DecidableEq, Repr

/-- A snoop writeback a context holds (R102, R110, R111). -/
structure Wb where
  req : Req
  done : Bool
  deriving DecidableEq, Repr

/-- Execution site of an AtomicOp (R200). -/
inductive Site where
  | none
  | home
  | memory
  deriving DecidableEq, Repr

/-- A Watch context (Table 07.1) with the data of its flow. -/
structure Ctx where
  slice : Nat
  idx : Nat
  share : Share
  req : Req
  phase : Phase
  tc : TC
  /-- Stable state at which the flow began (R91, R108). -/
  start : LSt
  needFill : Bool
  needWalk : Bool
  /-- Tile-map entry read at lookup (R105). -/
  tile : Option Tent
  tileI : Nat
  /-- HDC probe hit data held across a fill (R28) or read by the flow. -/
  got : Data
  gotBe : Be
  fromHdc : Bool
  hdcDirty : Bool
  /-- Snoop slot held, its round's type, and a round still waiting for a slot (R98, R113). -/
  sslot : Option Nat
  snp : Snp
  want : Option (List Nat)
  roundDone : Bool
  /-- Holders removed in the round, and the owner taken as sharer (Table 04.9). -/
  gone : List Nat
  shared : List Nat
  wbs : List Wb
  acc : Option Acc
  dup : Option Acc
  needRead : Bool
  readAfter : Bool
  needWrite : Bool
  needUio : Bool
  uioRd : Bool
  uioRes : Option (Nat × Data)
  site : Site
  /-- The line goes to P when the flow ends (R93, R106). -/
  toP : Bool
  reqGone : Bool
  answered : Bool
  /-- Answer grants to send once the delta of R270 is acknowledged. -/
  fin : Bool
  stampQ : Nat
  stampL : Nat
  stampS : Nat
  stampM : Nat
  topen : Nat
  /-- The Guard refused the read of the flow: it ends with the record as it is (Table 03.10). -/
  refused : Bool := false
  /-- The HDC probe has run and its result is held, as it is while a fill is open (R28). -/
  probed : Bool := false
  /-- For the sampler (R376, Table 16.2): selection number where the context is marked, code taken and occupancy at opening,
  targets snooped, and bits [0] blk, [1] conflict, [2] sfahit, [3] reinst, [4] fill, [5] hdchit, [6] held, [7] hold. -/
  smp : Option Nat := none
  tc0 : TC := .open0
  occ0 : Nat := 0
  ntg : Nat := 0
  fl : Nat := 0
  deriving DecidableEq, Repr

/-- A withheld context index (R166), which stays charged to the share it was taken from (R164). -/
structure Quar where
  slice : Nat
  idx : Nat
  share : Share
  ends : Nat
  deriving DecidableEq, Repr

/-- One target of a snoop round (R98, R114, R118). -/
structure Tgt where
  caid : Nat
  bit : Bool
  /-- Lines of the block still unanswered, as k = 0 to 3 (R99); one line otherwise. -/
  left : List Nat
  taken : Bool
  run : Nat
  start : Nat
  restarted : Bool
  conflict : Bool
  value : Nat
  deriving DecidableEq, Repr

/-- A snoop slot (R98). -/
structure Slot where
  slice : Nat
  slot : Nat
  /-- Context index of each line the slot counts. -/
  ctxs : List (Nat × Nat)
  sector : Nat
  snp : Snp
  blk : Bool
  tgts : List Tgt
  deriving DecidableEq, Repr

/-- Hold window of R103: `ends = none` until the grant beat is taken. -/
structure Hold where
  line : Nat
  owner : Nat
  ends : Option Nat
  deriving DecidableEq, Repr

/-- Outbound messages (Table 04.4, Table 02.2). -/
inductive OutOp where
  | cmp | cmpS | cmpE | cmpM | biConflictAck
  | memData | memDataNxm
  | snp (t : Snp) (blk : Bool)
  | bkRd | bkWr | bkWrPtl | bkUio
  | uioCpl (status : Nat)
  | hier (typ : Nat) (more : Bool) (src dst seq epoch body : Nat)
  deriving DecidableEq, Repr

/-- A bit error present in a stored word (R291 to R304): store number of Table 12.1, unit, word number, and the
XOR mask on the stored codeword. -/
structure BitErr where
  store : Nat
  unit : Nat
  word : Nat
  mask : Nat
  deriving DecidableEq, Repr

/-- An outbound beat (Table 02.3). -/
structure OBeat where
  kind : Nat
  op : OutOp
  addr : Nat
  tag : Nat
  caid : Nat
  port : Nat
  poison : Bool
  biId : Nat
  biTag : Nat
  devLoad : Nat
  uop : Nat
  usize : Nat
  uoff : Nat
  be : Be
  data : Data
  deriving DecidableEq, Repr

/-- An outbound entry waiting at a port: class 3, 4, 5 queues, the backing egress FIFO (class 2 here stands for
group 2) and group 3. `pair` marks a class 3 entry whose class 4 entry has not left (R175). -/
structure OEnt where
  id : Nat
  /-- Slice whose port the beat leaves by. -/
  at_ : Nat
  grp : Nat
  cls : Nat
  v : Nat
  beat : OBeat
  pair : Option Nat
  presented : Bool
  /-- Snoop slot and slice of a snoop copy, or context of a backing beat. -/
  src : Option (Nat × Nat)
  /-- The flow granted ownership of this line to this CAID. -/
  grant : Bool
  gid : Nat
  /-- The request the entry answers, as row class for its safe form (R61); none for other beats. -/
  ans : Option Op := none
  /-- Opcode class and t0 of the answered request, where the histograms count it (R379). -/
  hist : Option (Nat × Nat) := none
  /-- What the entry still holds behind the beat shown: the targets of a class 5 round not yet copied (R171), or the second beat of a
  hierarchy message (R36). -/
  more : List Nat := []
  /-- Injections that the beat carries as it is presented (R305). -/
  inj : List BitErr := []
  /-- Time since which the entry asserts to its egress arbiter without a grant (R180). -/
  since : Option Nat := none
  deriving DecidableEq, Repr

/-- A held queue slot (R173 to R175), with its number, which the context's word records (Table 07.1). -/
structure QSlot where
  gid : Nat
  slice : Nat
  num : Nat
  cls : Nat
  caid : Nat
  data : Bool
  shared : Bool
  relinked : Bool
  deriving DecidableEq, Repr

/-- A queue entry waiting in the Queue Fabric, in its per-line queue, or in an ingress stage. -/
structure QEnt where
  slice : Nat
  req : Req
  /-- Time since which the entry asserts to the slice arbiter without a grant (R180). -/
  since : Option Nat := none
  deriving DecidableEq, Repr

/-- State of one arbiter of Table 07.7: priorities that differ from the base weight, the last winner, and the time of each requester's
last grant where R180 asks for it. -/
structure Arb where
  kind : Nat
  inst : Nat
  p : List (Nat × Nat)
  last : Nat
  won : List (Nat × Nat) := []
  deriving DecidableEq, Repr

/-- A Gallery message that circles, having found its destination's landing buffer full (R168): its lane (0 R, 1 S, 2 I), its stop, what it
carries (none for lane S, whose effect its beat has had; log entry 57), the laps it has completed, and the time its lap began. -/
structure GMsg where
  id : Nat
  lane : Nat
  dst : Nat
  req : Option Req
  laps : Nat
  since : Nat
  deriving DecidableEq, Repr

/-- An SFA way (Table 06.1); `resv` while reserved for a fill (R137, R138). -/
structure SfaWay where
  slice : Nat
  set : Nat
  way : Nat
  psn : Nat
  sector : Nat
  l : List LSt
  rank : Nat
  dbs : Bool
  dirty : Bool
  slot : Nat
  resv : Bool
  deriving DecidableEq, Repr

/-- What a spill-buffer entry is for (R138, R151). -/
inductive SpillK where
  | rewrite
  | placement
  | release
  | evicting
  deriving DecidableEq, Repr

/-- A spill-buffer entry (R119). `chosen` is the burst its placement has chosen, `seq` the sequence running. -/
structure Spill where
  slice : Nat
  sector : Nat
  psn : Nat
  l : List LSt
  kind : SpillK
  dbs : Bool
  slot : Nat
  seq : Option Nat
  chosen : Option Nat
  /-- The sector was reinstalled while its sequence ran (R148). -/
  back : Bool
  deriving DecidableEq, Repr

/-- A waiter of the set-conflict queue (R140), oldest first; a fill without a context (R202, R271) has none. -/
structure Waiter where
  slice : Nat
  set : Nat
  sector : Nat
  psn : Nat
  ctx : Option Nat
  deriving DecidableEq, Repr

/-- An open DBS fill (R143) or one about to complete. -/
inductive FillRes where
  | reading
  | found (b : Nat) (l : List LSt)
  | absent
  | tainted
  deriving DecidableEq, Repr

/-- A fill, one per sector (R120). -/
structure Fill where
  slice : Nat
  sector : Nat
  psn : Nat
  set : Nat
  way : Nat
  res : FillRes
  deriving DecidableEq, Repr

/-- An occupied burst of a DBS page (Table 06.5). -/
structure Burst where
  b : Nat
  sector : Nat
  psn : Nat
  l : List LSt
  gens : List Nat
  deriving DecidableEq, Repr

/-- A written DBS page (Tables 06.4 to 06.6); its presence is its page-valid bit (R136). -/
structure DbsPage where
  page : Nat
  bursts : List Burst
  cont : List Nat
  pgrp : Nat
  plow : Nat
  scg : Nat
  wgen : Nat
  deriving DecidableEq, Repr

/-- Where a running overflow stands: reading the page, writing it whole after a read that decoded (R144), EVICT on its way or served, the release or the write-back in
place of the evicted burst, an answer on its way back, the wait after every burst declined, or placing Z (R150, R151). -/
inductive OvSt where
  | reading
  | correcting
  | evictSent
  | serving
  | releasing
  | rewriting
  | declineSent
  | completeSent
  | keptSent
  | retryWait
  | placing
  deriving DecidableEq, Repr

/-- A running overflow (R150): Z of slice `zslice` waits for a burst of the page; `asked` is the burst whose sector was
named last. -/
structure Overflow where
  /-- Its DRAM sequence, which names it: a page may have a second one while the first waits without its lock (R150 step 4). -/
  id : Nat
  page : Nat
  zsector : Nat
  zslice : Nat
  st : OvSt
  asked : Nat
  /-- Sector of the burst named last. -/
  vsector : Nat := 0
  declined : List Nat
  shadow : Bool
  kept : Bool
  allDeclined : Bool
  retryAt : Nat
  lines : Nat
  deriving DecidableEq, Repr

/-- An eviction a slice serves (R151). -/
structure Evict where
  page : Nat
  slice : Nat
  sector : Nat
  psn : Nat
  left : List Nat
  inSfa : Bool
  keptP : Bool
  burst : Nat
  deriving DecidableEq, Repr

/-- Taint-list entry (Table 06.9). -/
structure Taint where
  el : Nat
  kind : Nat
  slice : Nat
  whr : Nat
  time : Nat
  deriving DecidableEq, Repr

/-- A running sweep (R72 to R75, R153). -/
structure Sweep where
  /-- The model's own name of the sweep, unique, which its visits and DRAM reads carry. -/
  id : Nat
  caid : Nat
  pools : Nat
  planned : Bool
  /-- The sweep covers every pool of the CAID. -/
  all : Bool
  sfaDone : Bool
  dbsLeft : Option (List Nat)
  /-- A page of the DBS scan is being read (R154). -/
  reading : Bool
  visits : Nat
  poisoned : Nat
  deriving DecidableEq, Repr

/-- A scan of the DBS for units rather than for a CAID: the demotion of the unit a swap gave away, or with no unit the resynchronisation of
the partner (R284 step 2, R285 step 5). -/
structure UScan where
  id : Nat
  unit : Option Nat
  left : List Nat
  reading : Bool
  deriving DecidableEq, Repr

/-- HDC way (Table 08.1). -/
structure HWay where
  slice : Nat
  set : Nat
  way : Nat
  psn : Nat
  sector : Nat
  lv : List Bool
  ld : List Bool
  lh : List Bool
  lp : List Bool
  d : List Data
  lock : Bool
  rank : Nat
  /-- Reservations of R200, as context indices. -/
  resv : List Nat
  deriving DecidableEq, Repr

/-- A line waiting for or in HDC write-back (R190, R196); `inBuf` for the eviction buffer. -/
structure EvLine where
  slice : Nat
  line : Nat
  data : Data
  inBuf : Bool
  ctx : Option Nat
  /-- A line in P that a purge writes with poison (R64). -/
  poison : Bool := false
  deriving DecidableEq, Repr

/-- Stream-table entry (R189, R192), most recently used first. -/
structure Stream where
  slice : Nat
  caid : Nat
  tile : Nat
  lastRd : Option Nat
  stride : Int
  conf : Nat
  lastWr : Option Nat
  count : Nat
  deriving DecidableEq, Repr

/-- A running preload (R191). -/
structure Preload where
  next : Nat
  last : Nat
  lock : Bool
  deriving DecidableEq, Repr

/-- Contention-predictor entry (Table 08.4), most recently used first in its set. -/
structure Pred where
  slice : Nat
  set : Nat
  ln : Nat
  ctr : Nat
  time : Nat
  /-- The line, which set and tag name. -/
  line : Nat
  deriving DecidableEq, Repr

/-- Echo-table entry (Table 05.11), newest first. -/
structure Echo where
  slice : Nat
  valid : Bool
  caid : Nat
  tag : Nat
  line : Nat
  op : Nat
  size : Nat
  off : Nat
  status : Nat
  time : Nat
  /-- ECHO_WINDOW as it stood when the entry was written: a timer value takes effect for entries that start after its commit (R129). -/
  window : Nat
  result : Data
  deriving DecidableEq, Repr

/-- The last AtomicOp on a line in H (R202). -/
structure HIdle where
  line : Nat
  since : Nat
  deriving DecidableEq, Repr

/-- States of a lease (Table 08.6). -/
inductive LeaseSt where
  | free
  | held
  | broken
  deriving DecidableEq, Repr

/-- Lease entry (Table 08.8), its code bits apart. -/
structure Lease where
  st : LeaseSt
  owner : Nat
  cause : Nat
  gen : Nat
  term : Nat
  deadline : Nat
  since : Nat
  deriving DecidableEq, Repr

/-- A lease request outstanding at its slice, waiting for its completion (R204, R270). -/
structure LeaseReq where
  slice : Nat
  req : Req
  delta : Option Nat
  status : Nat
  result : Nat
  deriving DecidableEq, Repr

/-- A lease break message on its way to stop 44 (R208), oldest first. -/
structure BreakMsg where
  lease : Option Nat
  caid : Option Nat
  cause : Nat
  /-- Lease commands that reached stop 44 before it and wait (R208). -/
  after : Nat
  deriving DecidableEq, Repr

/-- Tile-cache entry (R78) with its heat delta (R214), most recently used first in its set. -/
structure TcEnt where
  slice : Nat
  i : Nat
  ent : Tent
  delta : Nat
  deriving DecidableEq, Repr

/-- An open tile-map walk (R78), one per slice and index. -/
structure Walk where
  slice : Nat
  i : Nat
  seq : Option Nat
  /-- The answer, once the read has ended; `none` inside when the entry is uncorrectable. -/
  res : Option (Option Tent)
  /-- The entry was invalidated after its read ended (R79). -/
  stale : Bool := false
  /-- Pool of the request that found another in the entry's field, whose page is decoded (R77). -/
  pool : Option Nat := none
  deriving DecidableEq, Repr

/-- DRAM operations (Table 02.6). -/
inductive DOp where
  | rd
  | wr
  | mwr
  deriving DecidableEq, Repr

/-- What a DRAM sequence does. -/
inductive SeqK where
  | fill (slice sector : Nat) (b : Nat)
  | fillDecode (slice sector : Nat)
  | walk (slice i : Nat)
  | walkDecode (slice i : Nat)
  | rewrite (slice sector : Nat)
  | place (slice sector : Nat)
  | release (slice sector : Nat)
  | overflow (page : Nat)
  | decode (page : Nat) (inner : Nat)
  | tileWrite (page : Nat)
  | heat (page : Nat)
  | sweepHdr (sweep page : Nat)
  | sweepPage (sweep page : Nat)
  | unitPage (scan page : Nat)
  | purgePage (pool page : Nat)
  | scrub (ch page : Nat)
  | retire (el page : Nat) (tile : Bool)
  | smpRing
  | trcRing
  deriving DecidableEq, Repr

/-- One DRAM access of a sequence: operation and A[39:6]. -/
structure DReq where
  op : DOp
  addr : Nat
  deriving DecidableEq, Repr

/-- A sequence of DRAM accesses (R143 to R150, R76): its stages run in order, the accesses of one stage in any
order. `lock` is the page whose lock it holds or waits for. -/
structure DSeq where
  id : Nat
  ch : Nat
  kind : SeqK
  /-- Requester of the DRAM channel arbiter (Table 07.7). -/
  rq : Nat
  lock : Option Nat
  locked : Bool
  stages : List (List DReq)
  out : Nat
  /-- Stage number, from 0. -/
  ph : Nat
  /-- Reads of the stage that failed: address, and the bits in which the data read differs from what was written there; none for an
  erasure, which `dr_rd_err`, a timeout or a refusal makes of a burst (R144). -/
  bad : List (Nat × Option Data)
  wbad : Bool
  /-- A stage has been presented and what follows it has not yet been decided. -/
  pend : Bool := false
  /-- The Partition Guard refused an access of the sequence (R82). -/
  refused : Bool := false
  /-- A read of the sequence was corrected by the entry code (R298). -/
  corr : Bool := false
  /-- The whole page is read (1), or written with the change of the sequence (2), because a read inside it failed (R144). -/
  whole : Nat := 0
  /-- Head burst H0 failed in a whole-page read: the header is rebuilt with `wgen` 0 (R144). -/
  h0 : Bool := false
  /-- Reads of the stage that differ where no entry code sees it: the parity bytes of head bursts, and entries whose syndrome is zero. The
  page code sees them when the whole page is decoded (R294 to R296). -/
  soft : List (Nat × Data) := []
  deriving DecidableEq, Repr

/-- A DRAM command that waits for its channel, or that the channel presents with its tag, held until it is taken (R48). -/
structure DCmd where
  ch : Nat
  rq : Nat
  seq : Nat
  a : DReq
  /-- `dr_cmd_tag` of the presented command, one on each channel. -/
  tag : Option Nat := none
  /-- Injections that its data carry (R305). -/
  inj : List BitErr := []
  /-- Time since which the command waits for its channel (R180). -/
  since : Option Nat := none
  deriving DecidableEq, Repr

/-- An open DRAM command (R48, R49). -/
structure DOpen where
  ch : Nat
  tag : Nat
  seq : Nat
  a : DReq
  taken : Nat
  deriving DecidableEq, Repr

/-- What a write of a tile-map entry does (R79, Table 09.2, Table 09.4). -/
inductive TwK where
  | write
  | mark
  | flip
  | unmark
  | raw
  deriving DecidableEq, Repr

/-- One entry of a tile-map write in progress: index, what it does, its fields, and the sequence that writes it (R79). -/
structure TileWr where
  i : Nat
  what : TwK
  ent : Tent
  seq : Nat := 0
  deriving DecidableEq, Repr

/-- Phases of a Drift descriptor (Table 09.3). -/
inductive DPhase where
  | copy
  | flip
  | drain
  | abort
  deriving DecidableEq, Repr

/-- A Migration DMA channel (Table 09.3). -/
structure Chan where
  ch : Nat
  phase : DPhase
  tile : Nat
  sdev : Nat
  sframe : Nat
  ddev : Nat
  dframe : Nat
  /-- Lines whose `DR_C` has retired, and the next line to issue. -/
  cursor : Nat
  next : Nat
  /-- Slices that have still to report in step 5. -/
  reports : List Nat
  /-- The write that returns the entry to its source has been asked for (R221). -/
  aborted : Bool
  /-- Time of the last copy issued, for DRIFT_BW_MAX. -/
  last : Option Nat
  /-- Journal record whose ACK the step after the entry's change waits for (R270). -/
  wait : Option Nat
  deriving DecidableEq, Repr

/-- A request forwarded under R225. -/
structure Fwd where
  id : Nat
  slice : Nat
  req : Req
  /-- The CAID it carries there. -/
  mcaid : Nat
  ends : Nat
  deriving DecidableEq, Repr

/-- A line delta delivered to a slice of the mirror and not yet applied (R271): its mseq, slice, line and state. -/
structure DeltaQ where
  mseq : Nat
  slice : Nat
  line : Nat
  st : LSt
  deriving DecidableEq, Repr

/-- Where a swap stands at the old home (R285): waiting for quiet, waiting for the ACK of the role record, forwarding until a
time. -/
inductive SwapSt where
  | quiet
  | record (id : Nat)
  | forward (ends : Nat)
  deriving DecidableEq, Repr

/-- A swap of a unit's home with its mirror (R285). -/
structure MSwap where
  unit : Nat
  peer : Nat
  st : SwapSt
  deriving DecidableEq, Repr

/-- Roles in a re-mooring (R222). -/
inductive RRole where
  | none
  | releasing
  | receiving
  deriving DecidableEq, Repr

/-- A re-mooring as this instance takes part in it (Table 09.4). -/
structure Remoor where
  role : RRole
  unit : Nat
  peer : Nat
  /-- 0 idle, 1 to 4 as Table 09.4, 5 stranded. -/
  step : Nat
  /-- Issue cursor of each slice: next sector not yet issued. -/
  cursors : List (Nat × Nat)
  /-- Sectors whose SECTOR has been sent, those acknowledged whose release waits for the spill buffer, and those committed. -/
  sent : List Nat
  acked : List Nat := []
  committed : List Nat
  /-- Tile-map entries N wrote in step 1. -/
  wrote : List Nat
  /-- The tile-map entries O has sent to N in step 1, `dev` translated (Table 09.4; log entry 23). -/
  out : List (Nat × Tent) := []
  timer : Option Nat
  /-- Sectors whose SFA entry failed while in `MR_F` (R390). -/
  failed : List Nat
  deriving DecidableEq, Repr

/-- A re-mooring as the manager runs it (R222). -/
structure RemoorMgr where
  unit : Nat
  o : Nat
  n : Nat
  preparedO : Bool
  preparedN : Bool
  step : Nat
  ends : Nat
  deriving DecidableEq, Repr

/-- A bucket handoff (Table 09.6). -/
structure Handoff where
  bucket : Nat
  a : Nat
  b : Nat
  /-- Step 5 has begun: the waiting entries have been passed and DONE is on its way. -/
  passing : Bool
  deriving DecidableEq, Repr

/-- A spare swap in progress (R231). -/
structure Swap where
  k : Nat
  left : List Nat
  deriving DecidableEq, Repr

/-- An event record (Table 15.9) with the sends made of it (R370). -/
structure EvRec where
  num : Nat
  code : Nat
  time : Nat
  args : Nat
  sends : Nat
  at_ : Nat
  deriving DecidableEq, Repr

/-- A delta or journal record leaving for stop 40 (Table 11.2, Table 11.4). -/
structure MRec where
  id : Nat
  /-- 0 line delta, 1 lease delta, 2 journal record. -/
  kind : Nat
  word : Nat
  line : Nat
  st : LSt
  deriving DecidableEq, Repr

/-- The answer beat of a forwarded request (Table 11.7, 0x1C): `ndr` 0 `Cmp`, 1 `Cmp-S`, 2 `Cmp-E`, 3 `Cmp-M`; `drs`
0 none, 1 line data, 2 `MemData-NXM`; `uio` the status of a UIO completion. -/
structure FwdAns where
  caid : Nat
  tag : Nat
  ndr : Option Nat
  drs : Nat
  uio : Option Nat
  data : Data
  poison : Bool
  deriving DecidableEq, Repr

/-- A hierarchy message about to leave (R287, Table 11.7): its numeric body, the request or answer beat it carries, and the
`seq` of the message from `dst` that it answers. -/
structure HMsg where
  typ : Nat
  dst : Nat
  body : Nat
  req : Option Req
  ans : Option FwdAns
  re : Option Nat
  /-- The header's epoch field (Table 11.6). -/
  epoch : Nat
  deriving DecidableEq, Repr

/-- Repeat-table entry of R299. -/
structure Repeat where
  store : Nat
  unit : Nat
  word : Nat
  count : Nat
  rewritten : Bool
  /-- Completed passes of the store's period at the rewrite. -/
  mark : Nat
  sticky : Bool
  deriving DecidableEq, Repr

/-- A stacked-tier bank repair (R302). -/
structure BankCopy where
  bank : Nat
  spare : Nat
  deriving DecidableEq, Repr

/-- State of the RAS Unit (R297 to R305). -/
structure RasSt where
  repeats : List Repeat
  /-- Words taken out of service: unit, store and word (R300). -/
  stuck : List (Nat × Nat × Nat)
  /-- Avoid list: channel, page and burst (R300). -/
  avoid : List (Nat × Nat × Nat)
  /-- Injections armed, as the masks the next write of the word receives (R305). -/
  armed : List BitErr
  /-- Uncorrectable or sticky events of the last 24 h: slice and time (R303). -/
  recent : List (Nat × Nat)
  repairSent : List Nat
  /-- Position of each scrub pass: 0 SFA group, 1 DBS (R298). -/
  scrub : List (Nat × Nat)
  bank : Option BankCopy
  deriving DecidableEq, Repr

/-- A marked context as it retires (R376): the stable code written, 7 where the entry left under `MR_F`, and the time since
t0. -/
structure Smp where
  x : Ctx
  htid : Nat
  after : Nat
  ret : Nat
  deriving DecidableEq, Repr

/-- The coherence side of the block. -/
structure Eng where
  fz : Fuses
  ts : Nat
  /-- The model's own counter of free values and unique names (log entry 5). -/
  fresh : Nat
  objs : List (Nat × Nat)
  logs : List (Nat × List Nat)
  -- boundary (chapter 02)
  svc : List Nat
  /-- Host ports whose filtered state is 1, and of those whose bit now reads 0 the consecutive edges at which it has (R44). -/
  portUp : List Nat
  portLow : List (Nat × Nat)
  retry : List Nat
  outq : List OEnt
  stages : List (Nat × Nat × Req)
  /-- Pulses of the bucket lines, the one on the lines now first (R46). -/
  bktOut : List (Nat × Nat)
  /-- Protocol errors of the units that have no object for them, the Draix link (41) and the endpoint of stop 43: their counters, and the 64
  newest entries of their logs, as unit, code and time (R17; log entry 59). -/
  uerrN : List (Nat × Nat)
  uerr : List (Nat × Nat × Nat)
  brace : Bool
  foghorn : Bool
  devLoad : List (Nat × Nat)
  -- pools and binding (chapter 03)
  moor : List Nat
  /-- Pools purging under R64: pool, base line, units, first tile-map index. -/
  purges : List (Nat × Nat × Nat × Nat)
  sweeps : List Sweep
  /-- Scans for units, the first of which runs, and the sectors that a resynchronisation has found in the DBS. -/
  uscans : List UScan
  rfound : List Nat
  stranger : List (Nat × Nat)
  -- Queue Fabric (chapter 07)
  qf : List QEnt
  lineq : List QEnt
  slots : List QSlot
  arbs : List Arb
  /-- Arbiters as they stood before the round that presented a beat not yet taken, which a withdrawal restores (R179). -/
  undo : List Arb
  /-- Beats held in the stages of groups 1 to 3, by port × 4 + group, and in the landing buffers of lane S, by 256 + slice (R167,
  R168). -/
  rx : List (Nat × Nat)
  /-- Circling messages, in the order in which they first reached their stop (R168). -/
  gal : List GMsg
  /-- Issue slots of a slice since internal work became pending, modulo 128 (R32). -/
  islots : List (Nat × Nat)
  drainEff : List (Nat × Nat)
  -- Watch (chapters 04, 05, 07)
  ctxs : List Ctx
  quar : List Quar
  snps : List Slot
  hold : List Hold
  -- directory (chapter 06)
  sfa : List SfaWay
  spill : List Spill
  waiters : List Waiter
  pressure : List (Nat × Nat)
  fills : List Fill
  dbs : List DbsPage
  overflows : List Overflow
  evicts : List Evict
  taint : List Taint
  -- HDC, atomics, leases (chapter 08)
  hdc : List HWay
  evb : List EvLine
  streams : List Stream
  preload : Option Preload
  hdcLeft : List Nat
  pred : List Pred
  echo : List Echo
  hIdle : List HIdle
  leases : List (Nat × Lease)
  leaseReqs : List LeaseReq
  breaks : List BreakMsg
  -- tile map and DRAM port (chapters 02, 03)
  tmap : List (Nat × Tent)
  written : List Nat
  tcache : List TcEnt
  walks : List Walk
  tileWrs : List TileWr
  seqs : List DSeq
  dcmds : List DCmd
  /-- By channel: commands presented since its last sweep header read, 7 at most, and the time of that read (R153). -/
  hdrGap : List (Nat × Nat × Nat)
  dopen : List DOpen
  withheld : List (Nat × Nat)
  remap : List (Nat × Nat × Bool)
  -- placement (chapter 09)
  heatBuf : List (Nat × Nat × Nat)
  heatPass : Nat
  heatLeft : Option (List Nat)
  unitHeat : List (Nat × Nat)
  unitDbs : List (Nat × Nat)
  heatMsgs : List (Nat × Nat)
  heatDue : Nat
  heatWait : Bool
  chans : List Chan
  halted : List Nat
  remoor : Remoor
  /-- Sectors received and not yet installed: sector, lines, and the message they answer (R226). -/
  installs : List (Nat × List LSt × Nat × Nat)
  /-- Map changes of the manager: epoch, unit, entry (R289). -/
  mapLog : List (Nat × Nat × Nat)
  /-- Re-moorings that this instance runs as the manager, newest first (R222). -/
  rmgr : List RemoorMgr
  fwds : List Fwd
  handoff : Option Handoff
  swap : Option Swap
  spareBkt : List Nat
  -- towards the other engines
  mrecs : List MRec
  /-- Updates into X or P hold their answers (R270, R284 step 5). -/
  mirHold : Bool
  /-- The instance is fenced: its boundary behaves as under Foghorn, `ev_foghorn` is not asserted (R277). -/
  fenced : Bool
  deltas : List DeltaQ
  /-- This instance has failed its partner over (R286). -/
  survivor : Bool
  mswap : Option MSwap
  hmsgs : List HMsg
  smps : List Smp
  /-- Eligible openings left before the next selection, and selections made, by slice (R376). -/
  smpGap : List (Nat × Nat)
  smpSeq : List (Nat × Nat)
  /-- Answered requests for the histograms: slice, CAID, opcode class, latency (R379). -/
  hists : List (Nat × Nat × Nat × Nat)
  /-- Occurrences of the (block, event) pairs of TRC_EVENTS that the trace unit has still to mark (R384). -/
  marks : List (Nat × Nat)
  -- RAS view and events (chapters 12, 15)
  errs : List BitErr
  ras : RasSt
  /-- What the relocation of R300 has withdrawn from use: store and slice, then a way's set and way, or what a withheld word is and the word. -/
  wayOff : List (Nat × Nat × Nat × Nat)
  /-- RWL objects to which a commit has applied a value since the last reset (R355). -/
  rwlDone : List Nat
  evq : List EvRec
  evNum : Nat
  evLost : Nat
  notices : List EvRec
  deriving DecidableEq, Repr

end Sys2Proof.Machine
end

