-- ==== Sys2Proof/Machine/DrxState.lean ====
section
/-! DEFINITION. Sys2Proof/Machine/DrxState.lean: the state of the Draix mirror link (chapter 10 of spec/). -/
namespace Sys2Proof.Machine

/-- A data flit's class and 248 payload bytes, with the names of the records it carries (Table 10.5, R269). -/
structure TxFlit where
  cls : Nat
  payload : BitVec 1984
  recs : List Nat
  deriving DecidableEq, Repr

/-- A held data flit (R246). -/
structure HFlit where
  seq : Nat
  shared : Bool
  f : TxFlit
  deriving DecidableEq, Repr

/-- What the end has put on the lanes (Tables 10.5 to 10.8): the header of the flit, its kind and body. -/
structure SentFlit where
  kind : Nat
  ackseq : Nat
  acktype : Nat
  /-- seq, class and shared of a data flit. -/
  data : Option HFlit
  /-- cr0 to cr3 and cs of a control flit; node, excl, cause and fresh of a retrain request. -/
  body : List Nat
  deriving DecidableEq, Repr

/-- A flit that waits for the lanes or is on them, as its 32 D66 blocks before scrambling (R241): each lane of `lanes` carries all of them
(`whole`, TS flits), or logical lane k is physical lane k of the list. -/
structure LineFlit where
  kind : Nat
  blocks : List (BitVec 66)
  lanes : List Nat
  whole : Bool
  deriving DecidableEq, Repr

/-- A lane lock: own physical lane, the partner's lane that the comma names, and an inverted pair (R240). -/
structure LaneLock where
  lane : Nat
  plane : Nat
  inverted : Bool
  deriving DecidableEq, Repr

/-- A flit delivered and not yet released by its consumer (R249). -/
structure RxFlit where
  id : Nat
  cls : Nat
  shared : Bool
  payload : BitVec 1984
  deriving DecidableEq, Repr

/-- A scan that runs (R261). -/
structure EyeScan where
  lane : Nat
  dwell : Nat
  ok : Bool
  deriving DecidableEq, Repr

/-- An armed error injection (R263). -/
structure DrxInj where
  lane : Nat
  syms : Nat
  crc : Bool
  left : Nat
  deriving DecidableEq, Repr

/-- One end of the link. -/
structure Drx where
  -- lanes and training
  locks : List LaneLock
  /-- Lanes with activity (R236). -/
  act : Nat
  resume : Bool
  partner : Option TsBody
  partner2 : Option Ts2Body
  /-- End of the settle time of R255. -/
  settle : Option Nat
  /-- End of the attempt, and end of a backoff (R254). -/
  attempt : Option Nat
  backoff : Option Nat
  /-- This end's exclusions, its request in play, and a fault of cause 5 or 6 (R256, R257). -/
  excl : Nat
  req : Bool
  fault : Bool
  /-- Width proposed, its lane map, TS2 agreeing in a row, and final (R255). -/
  prop : Nat
  map : List Nat
  agree : Nat
  final : Bool
  /-- Good flits in a row in Ready (R254). -/
  good : Nat
  /-- The link has been in Active since its last fresh start. -/
  wasActive : Bool
  /-- The partner-active event of this stay in Down has been raised (R259). -/
  told : Bool
  -- link layer
  n : Nat
  e : Nat
  held : List HFlit
  txq : List TxFlit
  res : List Nat
  shr : Nat
  lr : List Nat
  ls : Nat
  /-- Reserved and shared slots in use at the receiver, and the cumulative and reported freed counts (R249). -/
  used : List Nat
  usedSh : Nat
  freed : List Nat
  freedSh : Nat
  unrep : Nat
  unrepAt : Option Nat
  pool : List RxFlit
  nakOpen : Bool
  nakAt : Nat
  unacked : Nat
  unackedAt : Option Nat
  ackDue : Bool
  /-- Start of the replay timer, consecutive replays and the number they start from (R248). -/
  replayAt : Nat
  replays : Nat
  replayFrom : Nat
  /-- Replay indications of R251: receiver's NAKed number, and the first flit of the sender's replay. -/
  indRx : Option Nat
  indTx : Option Nat
  /-- Last class that won the arbitration, with its priorities (R179, R249). -/
  arb : Arb
  /-- Corrected symbols of each lane in the running ms (R257). -/
  corr : List (Nat × Nat)
  /-- Flits put on the lanes by the last command. -/
  sent : List SentFlit
  -- lanes
  /-- Transmit and receive settings of each lane as the PHY holds them (R260). -/
  phy : List (Nat × Nat)
  /-- Flits that wait for the lanes, the one in hand first, and its block positions already sent. -/
  line : List LineFlit
  linePos : Nat
  /-- Data blocks since the last comma, and whether that comma announced 16,384 (R239). -/
  since : Nat
  spacing : Bool
  /-- Scrambler state of each physical lane in use (R238). -/
  scr : List (Nat × BitVec 58)
  /-- Blocks that left in the last nanosecond, with their physical lanes, in order. -/
  wire : List (Nat × BitVec 66)
  /-- End of the electrical idle that follows a loopback (R262). -/
  hushEnd : Nat
  -- tests
  eye : Option EyeScan
  inj : Option DrxInj
  /-- State a loopback was entered from (R262), and the counters of test pattern 0: next sent and next expected word. -/
  loopFrom : Nat
  patTx : Nat
  patRx : Nat
  deriving DecidableEq, Repr

/-- What the link tells the Mirror Engine, the Hierarchy Agent and the RAS Unit (R251, R259). -/
inductive Ind where
  | acked (recs : List Nat)
  | flit (f : RxFlit)
  | llReset
  | down
  | active
  deriving DecidableEq, Repr

/-- The link with the engine that holds its objects, and the indications raised. -/
structure Lnk where
  eng : Eng
  d : Drx
  ind : List Ind
  deriving DecidableEq, Repr

/-- The link at reset: Off, with nothing locked, held or delivered. -/
def drx0 : Drx :=
  { locks := [], act := 0, resume := false, partner := none, partner2 := none, settle := none, attempt := none, backoff := none, excl := 0,
    req := false, fault := false, prop := 3, map := [], agree := 0, final := false, good := 0, wasActive := false, told := false, n := 0, e := 0,
    held := [], txq := [], res := [64, 64, 64, 64], shr := 768, lr := [0, 0, 0, 0], ls := 0, used := [0, 0, 0, 0], usedSh := 0,
    freed := [0, 0, 0, 0], freedSh := 0, unrep := 0, unrepAt := none, pool := [], nakOpen := false, nakAt := 0, unacked := 0, unackedAt := none,
    ackDue := false, replayAt := 0, replays := 0, replayFrom := 0, indRx := none, indTx := none, arb := { kind := 20, inst := 0, p := [], last := 0 },
    corr := [], sent := [], phy := [], line := [], linePos := 0, since := 0, spacing := false, scr := [], wire := [], hushEnd := 0, eye := none, inj := none, loopFrom := 0, patTx := 0, patRx := 0 }

end Sys2Proof.Machine
end

