-- ==== Sys2Proof/Machine/MirState.lean ====
section
/-! DEFINITION. Sys2Proof/Machine/MirState.lean: the state of the Mirror Engine and the Hierarchy Agent (chapter 11 of spec/). -/
namespace Sys2Proof.Machine

/-- A record in the mirror journal buffer (R274): its class and mseq, when it came, moved on by the time its timer paused and as it was (R306), whether it has been put in a flit, was
counted as sent, and was acknowledged by the link. -/
structure JRec where
  cls : Nat
  mseq : Nat
  mrec : MRec
  at_ : Nat
  t0 : Nat
  flitted : Bool
  counted : Bool
  acked : Bool
  deriving DecidableEq, Repr

/-- A record in the receive pool, with the flit that holds its slot. -/
structure InRec where
  cls : Nat
  mseq : Nat
  word : Nat
  fid : Nat
  deriving DecidableEq, Repr

/-- A re-mooring of the partner's, as its journal records tell it (R273, Table 09.5). -/
structure ReJ where
  unit : Nat
  role : Nat
  step : Nat
  cursors : List (Nat × Nat)
  deriving DecidableEq, Repr

/-- A sent message that has an answer in Table 11.7 and waits for it (R288). -/
structure HOut where
  seq : Nat
  msg : HMsg
  sends : Nat
  at_ : Nat
  deriving DecidableEq, Repr

/-- An answered pair (src, seq) with the answers sent, each with its own number (R288). -/
structure HAns where
  src : Nat
  seq : Nat
  ans : List (Nat × HMsg)
  deriving DecidableEq, Repr

/-- The Mirror Engine and the Hierarchy Agent. -/
structure Mir where
  -- sender, by class 0 and 1
  mseq : List Nat
  packAt : List (Option Nat)
  buf : List JRec
  /-- Last mseq sent before the latest link-layer reset (Table 11.4). -/
  sent : List Nat
  -- receiver
  rcv : List Nat
  inRecs : List InRec
  /-- A link-layer reset happened, and the numbers the partner then reports as sent (R274). -/
  need : Option (Option (Nat × Nat))
  /-- The partner's edge of R284 step 5, and this end's. -/
  edge : Option Nat
  /-- Sectors left to resynchronise; `none` while no scan runs (R284). -/
  scan : Option (List Nat)
  -- Beacons (R275, R276)
  bseq : Nat
  blast : Nat
  /-- Own Beacons of the last lease interval: number and time. -/
  bsent : List (Nat × Nat)
  /-- Receipt of the last Beacon that counted, and of the last that came by Draix. -/
  bgood : Nat
  bdrx : Nat
  bnext : Nat
  /-- MIR_SHADOW in the partner's last Beacon. -/
  pshadow : Nat
  -- fencing and failover (R277, R281)
  granted : Bool
  guard : Option Nat
  drain : Bool
  /-- This instance holds a claim record at its witness. -/
  held : Bool
  /-- Claim records kept as witness: lower node, claimant, epoch (R278). -/
  claims : List (Nat × Nat × Nat)
  rej : Option ReJ
  -- Hierarchy Agent (R288)
  hseq : Nat
  hout : List HOut
  hans : List HAns
  deriving DecidableEq, Repr

/-- The Mirror Engine and the Hierarchy Agent at reset. -/
def mir0 : Mir :=
  { mseq := [0, 0], packAt := [none, none], buf := [], sent := [0, 0], rcv := [0, 0], inRecs := [], need := none, edge := none, scan := none, bseq := 0,
    blast := 0, bsent := [], bgood := 0, bdrx := 0, bnext := 0, pshadow := 0, granted := false, guard := none, drain := false, held := false,
    claims := [], rej := none, hseq := 0, hout := [], hans := [] }

/-- The fabric side: the engine, the Draix link and the Mirror Engine together. -/
structure Fab where
  eng : Eng
  d : Drx
  mir : Mir
  deriving DecidableEq, Repr

end Sys2Proof.Machine
end

