-- ==== Sys2Proof/Machine/Names.lean ====
section
/-! DEFINITION. Sys2Proof/Machine/Names.lean: the name of every object of the dictionary, as its 16-bit index
(R13, R353; the object tables of spec/). An object given as a range has its first index. -/
namespace Sys2Proof.Machine.Ob

/- Table 15.10, R372 -/
def DEV_VENDOR_NAME : Nat := 0x0000
def DEV_MCTP_VENDOR : Nat := 0x0001
def DEV_PRODUCT : Nat := 0x0002
def DEV_CONFIG : Nat := 0x0003
def DEV_SLICES : Nat := 0x0004
def DEV_CAIDS : Nat := 0x0005
def DEV_STEPPING : Nat := 0x0006
def DEV_SERIAL : Nat := 0x0007
def DEV_UUID : Nat := 0x0008
def DEV_I3C_PID : Nat := 0x0009
def DEV_DICT_VERSION : Nat := 0x000A
def DICT_COMMIT : Nat := 0x0F00
def DICT_ABORT : Nat := 0x0F01
def DICT_STAGED : Nat := 0x0F02
def DICT_COMMIT_STATUS : Nat := 0x0F03
def DICT_COMMIT_LEAD : Nat := 0x0F04
def DICT_DRAIN_PENDING : Nat := 0x0F05
def DICT_EID : Nat := 0x0F10
def DICT_FM_EID : Nat := 0x0F11
def DICT_EVT_ENABLE : Nat := 0x0F12
def DICT_EVT_QUEUED : Nat := 0x0F13
def DICT_EVT_DROPPED : Nat := 0x0F14
def DICT_EVT_RETRY : Nat := 0x0F15
def DICT_REQ_DROPPED : Nat := 0x0F16
def DICT_REQ_WAIT : Nat := 0x0F17
def DICT_I3C_STATIC : Nat := 0x0F18
/- Table 13.10, R332 -/
def PWR_LEVEL : Nat := 0x1000
def PWR_LEVEL_NOW : Nat := 0x1001
def PWR_CLK_LOCK : Nat := 0x1002
def PWR_KEEPER_CLK : Nat := 0x1003
def PWR_DOMAIN_STATE : Nat := 0x1010
def PWR_SLEEP_TARGET : Nat := 0x1011
def PWR_VOTE_NS : Nat := 0x1012
def PWR_VOTE_S : Nat := 0x1013
def PWR_VOTE_HW : Nat := 0x1014
def PWR_FORCE_WAKE : Nat := 0x1015
def PWR_BLOCK_SLEEP : Nat := 0x1020
def PWR_BLOCK_STATE : Nat := 0x1021
def PWR_WAKE_ENABLE : Nat := 0x1022
def PWR_WAKE_TIMER : Nat := 0x1023
def PWR_WAKE_TIMER_MODE : Nat := 0x1024
def PWR_LAST_WAKE : Nat := 0x1025
def PWR_RESET_CAUSE : Nat := 0x1026
def PWR_AONREG_MODE : Nat := 0x1030
def PWR_AONREG_HP : Nat := 0x1031
def PWR_BRACE : Nat := 0x1032
def PWR_DIP_COUNT : Nat := 0x1033
def PWR_BRACE_TIME : Nat := 0x1034
def PWR_RAIL_FAULTS : Nat := 0x1035
def PWR_RAIL_LOG : Nat := 0x1036
/- Table 03.11, R85 -/
def POOL_MAX : Nat := 0x2000
def POOL_BASE : Nat := 0x2010
def POOL_UNITS : Nat := 0x2011
def POOL_TMBASE : Nat := 0x2012
def POOL_STATE : Nat := 0x2013
def CAID_PORT : Nat := 0x2020
def CAID_BIID : Nat := 0x2021
def CAID_POOLS : Nat := 0x2022
def CAID_STATE : Nat := 0x2023
def CAID_SWEEP_POOLS : Nat := 0x2024
def CAID_UNBIND : Nat := 0x2025
def TILEMAP_BASE : Nat := 0x2030
def TILE_MAP_WRITE : Nat := 0x2031
def TILE_MAP_FILL : Nat := 0x2032
def TILE_MAP_BUSY : Nat := 0x2033
def GUARD_BKG : Nat := 0x2040
def GUARD_DIR : Nat := 0x2041
def GUARD_KPR : Nat := 0x2042
def GUARD_ARM : Nat := 0x2043
def GUARD_LOCK : Nat := 0x2044
def GUARD_FAULT_LOG : Nat := 0x2045
def STRANGER_COUNT : Nat := 0x2050
def STRANGER_LOG : Nat := 0x2051
def STRANGER_EVT_GAP : Nat := 0x2052
def STRANGER_PORT_COUNT : Nat := 0x2053
def SWEEP_POISONED : Nat := 0x2060
/- Table 04.15, R107 -/
def HOLD_WINDOW : Nat := 0x3000
def READ_EXCL_GRANT : Nat := 0x3001
def SPEC_RD_FILL : Nat := 0x3002
def BI_TIMEOUT : Nat := 0x3003
def MEM_RD_TIMEOUT : Nat := 0x3004
def SNOOP_SLOTS : Nat := 0x3005
def PROTO_ERR_COUNT : Nat := 0x3010
def PROTO_ERR_LOG : Nat := 0x3011
def SPEC_RD_DROPPED : Nat := 0x3012
def SNOOP_SLOT_WAITS : Nat := 0x3013
/- Table 05.12, R129 -/
def DUP_ABSORBED : Nat := 0x3020
def ECHO_WINDOW : Nat := 0x3021
def ECHO_HITS : Nat := 0x3022
def ECHO_EARLY_EVICT : Nat := 0x3023
def BICONFLICT_COUNT : Nat := 0x3024
def BICONFLICT_STRAY : Nat := 0x3025
def WB_EXTRACTED : Nat := 0x3026
def BI_TIMEOUT_DROPPED : Nat := 0x3027
def BI_TIMEOUT_POISONED : Nat := 0x3028
def MEM_TIMEOUT_POISONED : Nat := 0x3029
def BI_TIMEOUT_LOG : Nat := 0x302A
def SPILL_REINSTALLS : Nat := 0x302B
/- Table 06.10, R161 -/
def SF_SETS_PER_SLICE : Nat := 0x3100
def SF_INDEX_KEY : Nat := 0x3101
def SF_INDEX_KEY_NEXT : Nat := 0x3102
def SF_INIT_DONE : Nat := 0x3103
def SF_REPL_UPDATE : Nat := 0x3104
def SF_VICTIM_POLICY : Nat := 0x3104
def SF_CONFLICT_WAITS : Nat := 0x3105
def SF_PRESSURE_TOP : Nat := 0x3106
def SF_CONFLICT_Q_DEPTH : Nat := 0x3107
def SF_SPILLS : Nat := 0x3108
def DBS_BASE : Nat := 0x3110
def DBS_FILLS : Nat := 0x3111
def DBS_FILL_PROBES : Nat := 0x3112
def DBS_PAGES_WRITTEN : Nat := 0x3113
def DBS_SECTORS : Nat := 0x3114
def DBS_OVERFLOWS : Nat := 0x3115
def DBS_EVICT_LINES : Nat := 0x3116
def DBS_EVICT_DECLINES : Nat := 0x3117
def DBS_POISON_HANDOFFS : Nat := 0x3118
def DBS_EVICT_RETRY : Nat := 0x3119
def DBS_OVERFLOW_LOG : Nat := 0x311A
def HOLD_COUNT : Nat := 0x3120
def SC_GROUP_COUNT : Nat := 0x3121
def SWEEP_SCAN_PAGES : Nat := 0x3122
def TAINT_LIST : Nat := 0x3130
def TAINT_CLEAR : Nat := 0x3131
def TAINT_POISONED : Nat := 0x3132
/- Table 07.9, R183 -/
def WATCH_PER_SLICE : Nat := 0x4000
def WATCH_MIN_HOST : Nat := 0x4001
def WATCH_MIN_INT : Nat := 0x4002
def WATCH_IN_USE : Nat := 0x4003
def WATCH_FULL_STALLS : Nat := 0x4004
def WATCH_QUARANTINE : Nat := 0x4005
def WATCH_QUARANTINED : Nat := 0x4006
def QF_QUEUES : Nat := 0x4010
def QF_HDR_MIN : Nat := 0x4011
def QF_DATA_MIN : Nat := 0x4012
def QF_ALLOW : Nat := 0x4013
def QF_HDR_FREE : Nat := 0x4014
def QF_DATA_FREE : Nat := 0x4015
def QF_ALLOW_EXCESS : Nat := 0x4016
def QF_WEIGHT : Nat := 0x4020
def ARB_STARVE_LIMIT : Nat := 0x4030
def ARB_STARVE_FLAG : Nat := 0x4031
def ARB_STARVE_COUNT : Nat := 0x4032
def FIFO_CORRECTED : Nat := 0x4040
def GAL_LANDING_DEPTH : Nat := 0x4050
def GAL_LAPS : Nat := 0x4051
/- Table 08.9, R212 -/
def HDC_BYTES_PER_SLICE : Nat := 0x5000
def HDC_MODE : Nat := 0x5001
def HDC_ENABLE : Nat := 0x5002
def HDC_STATUS : Nat := 0x5003
def HDC_INIT_DONE : Nat := 0x5004
def HDC_STREAM_LIMIT : Nat := 0x5005
def HDC_WB_OUTSTANDING : Nat := 0x5006
def HDC_DIRTY_LINES : Nat := 0x5007
def HDC_LOCK_WAYS_MAX : Nat := 0x5008
def HDC_PRELOAD : Nat := 0x5009
def HDC_PRELOAD_BUSY : Nat := 0x500A
def HDC_UNLOCK_ALL : Nat := 0x500B
def HDC_PRELOAD_SKIPPED : Nat := 0x500C
def HDC_PF_ENABLE : Nat := 0x5010
def HDC_PF_DISTANCE : Nat := 0x5011
def HDC_PF_DEGREE : Nat := 0x5012
def HDC_PF_ISSUED : Nat := 0x5013
def HDC_PF_USEFUL : Nat := 0x5014
def HDC_PF_WASTED : Nat := 0x5015
def HDC_HITS : Nat := 0x5016
def HDC_MISSES : Nat := 0x5017
def HDC_ALLOC_SKIPS : Nat := 0x5018
def HDC_STREAM_STOPS : Nat := 0x5019
def ATOM_SITE_POLICY : Nat := 0x5020
def ATOM_REUSE_WINDOW : Nat := 0x5021
def ATOM_H_IDLE : Nat := 0x5022
def ATOM_AT_HOME : Nat := 0x5023
def ATOM_AT_MEMORY : Nat := 0x5024
def ATOM_H_LINES : Nat := 0x5025
def ATOM_MEM_UR : Nat := 0x5026
def ATOM_HOME_FALLBACK : Nat := 0x5027
def ATOM_H_IDLE_EXITS : Nat := 0x5028
/- Table 09.8, R233 -/
def PLACE_ENABLE : Nat := 0x6000
def HEAT_SCAN_PERIOD : Nat := 0x6010
def HEAT_HALF_LIFE_SCANS : Nat := 0x6011
def HEAT_WEIGHT : Nat := 0x6012
def HEAT_PASSES : Nat := 0x6013
def HEAT_PASS_OVERRUNS : Nat := 0x6014
def HEAT_DELTAS_DROPPED : Nat := 0x6015
def HEAT_TOP : Nat := 0x6016
def DRIFT_START : Nat := 0x6020
def DRIFT_ABORT : Nat := 0x6021
def DRIFT_STATUS : Nat := 0x6022
def DRIFT_INFLIGHT : Nat := 0x6023
def DRIFT_BW_MAX : Nat := 0x6024
def DRIFT_PAUSE_OCC : Nat := 0x6025
def DRIFT_DONE : Nat := 0x6026
def DRIFT_ABORTED : Nat := 0x6027
def DRIFT_POISONED_LINES : Nat := 0x6028
def REMOOR_REQUEST : Nat := 0x6030
def REMOOR_CAID_MAP : Nat := 0x6031
def REMOOR_DEV_MAP : Nat := 0x6032
def REMOOR_STATUS : Nat := 0x6033
def REMOOR_PREPARE_MAX : Nat := 0x6034
def REMOOR_FLIP_MAX : Nat := 0x6035
def REMOOR_DRAIN : Nat := 0x6036
def REMOOR_FWD_TIMEOUT : Nat := 0x6037
def REMOOR_XFER_MAX : Nat := 0x6038
def REMOOR_FORWARDED : Nat := 0x6039
def BUCKET_MOVE : Nat := 0x6040
def BUCKET_TABLE : Nat := 0x6041
def HANDOFF_BUSY : Nat := 0x6042
def SLICE_LIT : Nat := 0x6043
def SLICE_PARK : Nat := 0x6044
def SPARE_SWAP : Nat := 0x6045
def SPARE_STATE : Nat := 0x6046
def SPARE_FOR : Nat := 0x6047
def UNIT_COUNT : Nat := 0x6100
/- Table 10.15, R264 -/
def DRX_PRESENT : Nat := 0x7000
def DRX_ENABLE : Nat := 0x7001
def DRX_TRAIN : Nat := 0x7002
def DRX_RETRAIN : Nat := 0x7003
def DRX_STATE : Nat := 0x7004
def DRX_WIDTH : Nat := 0x7005
def DRX_WIDTH_MAX : Nat := 0x7006
def DRX_LANE_MASK : Nat := 0x7007
def DRX_RATE : Nat := 0x7008
def DRX_NODE_ID : Nat := 0x7009
def DRX_EPOCH : Nat := 0x700A
def DRX_ATTEMPTS : Nat := 0x700B
def DRX_CORR_THRESHOLD : Nat := 0x700C
def DRX_EQ_TX : Nat := 0x7010
def DRX_EQ_RX : Nat := 0x7011
def DRX_EQ_ID : Nat := 0x7012
def DRX_ACK_COALESCE : Nat := 0x7020
def DRX_ACK_TIMER : Nat := 0x7021
def DRX_NAK_TIMER : Nat := 0x7022
def DRX_REPLAY_TIMER : Nat := 0x7023
def DRX_REPLAY_LIMIT : Nat := 0x7024
def DRX_CREDITS : Nat := 0x7025
def DRX_POOL_MIN : Nat := 0x7026
def DRX_FLITS_TX : Nat := 0x7030
def DRX_FLITS_RX : Nat := 0x7031
def DRX_NAKS_SENT : Nat := 0x7032
def DRX_NAKS_RCVD : Nat := 0x7033
def DRX_REPLAYS : Nat := 0x7034
def DRX_FLITS_REPLAYED : Nat := 0x7035
def DRX_DUP_DROPPED : Nat := 0x7036
def DRX_SEQ_DISCARDED : Nat := 0x7037
def DRX_RS_FAIL : Nat := 0x7038
def DRX_CRC_FAIL : Nat := 0x7039
def DRX_CREDIT_OVERRUN : Nat := 0x703A
def DRX_LL_RESETS : Nat := 0x703B
def DRX_KIND_ERR : Nat := 0x703C
def DRX_LANE_CORRECTED : Nat := 0x7040
def DRX_LANE_LOCK_LOSS : Nat := 0x7041
def DRX_TRAIN_LOG : Nat := 0x7050
def DRX_TRAININGS : Nat := 0x7051
def DRX_RETRAINS : Nat := 0x7052
def DRX_REQ_ABANDONED : Nat := 0x7053
def DRX_EYE_CTRL : Nat := 0x7060
def DRX_EYE_RESULT : Nat := 0x7061
def DRX_EYE_BUSY : Nat := 0x7062
def DRX_LOOPBACK : Nat := 0x7070
def DRX_TEST_PATTERN : Nat := 0x7071
def DRX_FE_LOOP_ALLOW : Nat := 0x7072
def DRX_PATTERN_ERRORS : Nat := 0x7073
def DRX_ERR_INJECT : Nat := 0x7074
/- Table 11.8, R290 -/
def HIER_NODE_ID : Nat := 0x8000
def HIER_ROLE : Nat := 0x8001
def HIER_MANAGER_NODES : Nat := 0x8002
def HIER_WITNESS_NODE : Nat := 0x8003
def HIER_PEER_MAP : Nat := 0x8004
def HIER_NODES : Nat := 0x8005
def HIER_MAP_EPOCH : Nat := 0x8006
def HIER_MAP_SET : Nat := 0x8007
def HIER_RETRY : Nat := 0x8008
def HIER_DUP_DROPPED : Nat := 0x8009
def HIER_WITNESS_CLEAR : Nat := 0x800A
def MIR_PARTNER_NODE : Nat := 0x8010
def MIR_STATE : Nat := 0x8011
def MIR_SHADOW : Nat := 0x8012
def MIR_EPOCH : Nat := 0x8013
def MIR_BEACON_PERIOD : Nat := 0x8014
def MIR_BEACON_MISS : Nat := 0x8015
def MIR_CLAIM_WAIT : Nat := 0x8016
def MIR_FENCE_GUARD : Nat := 0x8017
def MIR_JOURNAL_TIMEOUT : Nat := 0x8018
def MIR_PACK_WAIT : Nat := 0x8019
def MIR_LEASE_NODE : Nat := 0x801A
def MIR_REJOIN : Nat := 0x801B
def MIR_SWAP : Nat := 0x801C
def MIR_UNIT_SETTLE : Nat := 0x801D
def MIR_FORCE_SOLO : Nat := 0x801E
def MIR_RESYNC_CHANNELS : Nat := 0x801F
def MIR_DELTAS_SENT : Nat := 0x8020
def MIR_DELTAS_APPLIED : Nat := 0x8021
def MIR_HELD : Nat := 0x8022
def MIR_DELTA_MISMATCH : Nat := 0x8023
def MIR_SHEDS : Nat := 0x8024
def MIR_FAILOVERS : Nat := 0x8025
def MIR_ADOPT_POISONED : Nat := 0x8026
def MIR_ADOPTED_UNITS : Nat := 0x8027
def HIER_MAP : Nat := 0x8100
/- Table 12.7, R310 -/
def RAS_STORES : Nat := 0x9000
def RAS_CE_COUNT : Nat := 0x9001
def RAS_UE_COUNT : Nat := 0x9002
def RAS_STICKY_COUNT : Nat := 0x9003
def RAS_STICKY_FULL : Nat := 0x9004
def RAS_CAPPED_EXPIRIES : Nat := 0x9005
def RAS_DRAM_TIMEOUTS : Nat := 0x9006
def RAS_DRAM_LATE : Nat := 0x9007
def RAS_SCRUB_PERIOD : Nat := 0x9010
def RAS_SCRUB_PASSES : Nat := 0x9011
def RAS_REWRITE_AT : Nat := 0x9012
def RAS_STICKY_AT : Nat := 0x9013
def RAS_SLICE_REPAIR_AT : Nat := 0x9014
def RAS_RETIRE_CAND : Nat := 0x9020
def RAS_SPARE_BASE : Nat := 0x9021
def RAS_PAGE_RETIRE : Nat := 0x9022
def RAS_REMAP : Nat := 0x9023
def RAS_BANK_RETIRE : Nat := 0x9024
def RAS_RETIRE_BUSY : Nat := 0x9025
def RAS_SPARES_LEFT : Nat := 0x9026
def RAS_BANK_STATE : Nat := 0x9030
def RAS_TEST_ENABLE : Nat := 0x9040
def RAS_INJECT : Nat := 0x9041
def RAS_RAW_READ : Nat := 0x9042
def RAS_RAW_DATA : Nat := 0x9043
def FOGHORN_CAUSE : Nat := 0x9050
def RAS_FOGHORN_TEST : Nat := 0x9051
def RAS_LOG : Nat := 0x9100
/- Table 16.6, R385 -/
def PM_BLOCKS : Nat := 0xA000
def PM_SNAP : Nat := 0xA001
def PM_SNAP_LEAD : Nat := 0xA002
def PM_SNAP_TIME : Nat := 0xA003
def PM_SNAP_LATE : Nat := 0xA004
def PM_SNAP_BUSY : Nat := 0xA005
def PM_CTR_CLEAR : Nat := 0xA006
def PM_CTR_SEL : Nat := 0xA100
def PM_CTR : Nat := 0xA200
def PM_SNAP_CTR : Nat := 0xA300
def PM_SMP_ENABLE : Nat := 0xA400
def PM_SMP_INTERVAL : Nat := 0xA401
def PM_SMP_JITTER : Nat := 0xA402
def PM_SMP_CLASSES : Nat := 0xA403
def PM_SMP_RING_BASE : Nat := 0xA404
def PM_SMP_RING_SIZE : Nat := 0xA405
def PM_SMP_RING_HEAD : Nat := 0xA406
def PM_SMP_RING_TAIL : Nat := 0xA407
def PM_SMP_BUFFERED : Nat := 0xA408
def PM_SMP_DROPPED : Nat := 0xA409
def PM_SMP_FLUSH : Nat := 0xA40A
def PM_HIST_ENABLE : Nat := 0xA500
def PM_HIST_CLEAR : Nat := 0xA501
def PM_HIST_DROPPED : Nat := 0xA502
def PM_HIST : Nat := 0xA800
/- Table 14.10, R352 -/
def WORLD_UNIT_STATE : Nat := 0xB010
def WORLD_HO_REQ : Nat := 0xB011
def WORLD_HO_RELEASE : Nat := 0xB012
def WORLD_HO_REFUSE : Nat := 0xB013
def WORLD_HO_WAIT : Nat := 0xB014
def WORLD_IRQ_ROUTE : Nat := 0xB020
def WORLD_IRQ_PENDING : Nat := 0xB021
def WORLD_LINE_OWNER : Nat := 0xB022
def WORLD_DENY_COUNT : Nat := 0xB030
def WORLD_DENY_LOG : Nat := 0xB031
def WDT_ENABLE : Nat := 0xB040
def WDT_PERIOD : Nat := 0xB041
def WDT_WARN : Nat := 0xB042
def WDT_REMAIN : Nat := 0xB043
def WDT_PAUSE_DEBUG : Nat := 0xB044
/- Table 08.10, R213 -/
def LEASE_COUNT : Nat := 0xC000
def LEASE_BASE : Nat := 0xC001
def LEASE_ENABLE : Nat := 0xC002
def LEASE_TERM_DEFAULT : Nat := 0xC003
def LEASE_TERM_MAX : Nat := 0xC004
def LEASE_POOL : Nat := 0xC010
def LEASE_STATE : Nat := 0xC020
def LEASE_BREAK : Nat := 0xC030
def LEASE_BREAK_CAID : Nat := 0xC031
def LEASE_FREE : Nat := 0xC032
def LEASE_ACQUIRES : Nat := 0xC040
def LEASE_BROKEN : Nat := 0xC041
def LEASE_EXPIRED : Nat := 0xC042
def LEASE_REFUSED : Nat := 0xC043
/- Table 14.10, R352 -/
def DBG_ENABLE : Nat := 0xD000
def DBG_FUSE : Nat := 0xD001
def DBG_STATE : Nat := 0xD002
/- Table 16.6, R385 -/
def TRC_ENABLE : Nat := 0xD010
def TRC_SOURCES : Nat := 0xD011
def TRC_EVENTS : Nat := 0xD012
def TRC_RING_BASE : Nat := 0xD013
def TRC_RING_SIZE : Nat := 0xD014
def TRC_RING_HEAD : Nat := 0xD015
def TRC_RING_TAIL : Nat := 0xD016
def TRC_DROPPED : Nat := 0xD017
def TAP_IDCODE : Nat := 0xD018
/- Table 14.10, R352 -/
def FW_BOOT_SRC : Nat := 0xE000
def FW_BOOT_STATUS : Nat := 0xE001
def FW_MIN_SVN : Nat := 0xE002
def FW_STAGE_BASE : Nat := 0xE003
def FW_STAGE_LEN : Nat := 0xE004
def FW_ACTIVATE : Nat := 0xE005
def FW_STATUS : Nat := 0xE006
def FW_READY : Nat := 0xE007
def FW_QUIESCE_MAX : Nat := 0xE008
def FW_READY_MAX : Nat := 0xE009
def FW_VERSION : Nat := 0xE00A

end Sys2Proof.Machine.Ob
end

