-- ==== Sys2Proof/Machine/ObjTable.lean ====
section
/-! DEFINITION. Sys2Proof/Machine/ObjTable.lean: the rows of the object tables of spec/: index range, elements,
type, right, effect, default, length in bytes, writable bits, range of the commit check, admitted ENUM values
(R353 to R356, R361, R392). -/
namespace Sys2Proof.Machine

/-- Object types (Table 15.1). -/
inductive OTy where
  | u8 | u16 | u32 | u64 | bool | enum | bits32 | addr52 | str | blob
  deriving DecidableEq, Repr

/-- Access rights (Table 15.2). -/
inductive Right where
  | ro | rw | rws | wo | rc | w1c | rwl
  deriving DecidableEq, Repr

/-- Effect timings (R358, R360, R361). -/
inductive OEff where
  | none | commit | drain | reset
  deriving DecidableEq, Repr

/-- Elements limited by the configuration (R353). -/
inductive ElLim where
  | all | caid | slice
  deriving DecidableEq, Repr

/-- One row of an object table. -/
structure ObjRow where
  lo : Nat
  hi : Nat
  els : List (Nat × Nat)
  ty : OTy
  acc : Right
  eff : OEff
  dflt : Nat
  /-- The default depends on the configuration, the element or the fuses: see `objSpecial`. -/
  special : Bool
  len : Nat
  lim : ElLim
  mask : Nat
  range : Option (Nat × Nat)
  vals : List Nat
  deriving DecidableEq, Repr

/-- Objects 0x0xxx, part 1. -/
def objRows0_1 : List ObjRow := [
  { lo := 0x0000, hi := 0x0000, els := [(0, 0)], ty := .str, acc := .ro, eff := .none, dflt := 0, special := true, len := 64, lim := .all,
    mask := 0xFFFFFFFFFFFFFFFFFFFFFFFFFFFFFFFFFFFFFFFFFFFFFFFFFFFFFFFFFFFFFFFFFFFFFFFFFFFFFFFFFFFFFFFFFFFFFFFFFFFFFFFFFFFFFFFFFFFFFFFFFFFFFFFF, range := none, vals := [] },
  { lo := 0x0001, hi := 0x0001, els := [(0, 0)], ty := .u32, acc := .ro, eff := .none, dflt := 47074, special := false, len := 4, lim := .all,
    mask := 0xFFFFFFFF, range := none, vals := [] },
  { lo := 0x0002, hi := 0x0002, els := [(0, 0)], ty := .str, acc := .ro, eff := .none, dflt := 0, special := true, len := 64, lim := .all,
    mask := 0xFFFFFFFFFFFFFFFFFFFFFFFFFFFFFFFFFFFFFFFFFFFFFFFFFFFFFFFFFFFFFFFFFFFFFFFFFFFFFFFFFFFFFFFFFFFFFFFFFFFFFFFFFFFFFFFFFFFFFFFFFFFFFFFF, range := none, vals := [] },
  { lo := 0x0003, hi := 0x0003, els := [(0, 0)], ty := .enum, acc := .ro, eff := .none, dflt := 0, special := true, len := 1, lim := .all,
    mask := 0xFF, range := none, vals := [] },
  { lo := 0x0004, hi := 0x0004, els := [(0, 0)], ty := .u8, acc := .ro, eff := .none, dflt := 0, special := true, len := 1, lim := .all,
    mask := 0xFF, range := none, vals := [] },
  { lo := 0x0005, hi := 0x0005, els := [(0, 0)], ty := .u16, acc := .ro, eff := .none, dflt := 0, special := true, len := 2, lim := .all,
    mask := 0xFFFF, range := none, vals := [] },
  { lo := 0x0006, hi := 0x0006, els := [(0, 0)], ty := .str, acc := .ro, eff := .none, dflt := 0, special := true, len := 64, lim := .all,
    mask := 0xFFFFFFFFFFFFFFFFFFFFFFFFFFFFFFFFFFFFFFFFFFFFFFFFFFFFFFFFFFFFFFFFFFFFFFFFFFFFFFFFFFFFFFFFFFFFFFFFFFFFFFFFFFFFFFFFFFFFFFFFFFFFFFFF, range := none, vals := [] },
  { lo := 0x0007, hi := 0x0007, els := [(0, 0)], ty := .blob, acc := .ro, eff := .none, dflt := 0, special := true, len := 16, lim := .all,
    mask := 0xFFFFFFFFFFFFFFFFFFFFFFFFFFFFFFFF, range := none, vals := [] },
  { lo := 0x0008, hi := 0x0008, els := [(0, 0)], ty := .blob, acc := .ro, eff := .none, dflt := 0, special := true, len := 16, lim := .all,
    mask := 0xFFFFFFFFFFFFFFFFFFFFFFFFFFFFFFFF, range := none, vals := [] },
  { lo := 0x0009, hi := 0x0009, els := [(0, 0)], ty := .blob, acc := .ro, eff := .none, dflt := 0, special := true, len := 8, lim := .all,
    mask := 0xFFFFFFFFFFFFFFFF, range := none, vals := [] },
  { lo := 0x000A, hi := 0x000A, els := [(0, 0)], ty := .u16, acc := .ro, eff := .none, dflt := 1, special := false, len := 2, lim := .all,
    mask := 0xFFFF, range := none, vals := [] },
  { lo := 0x0F00, hi := 0x0F00, els := [(0, 0)], ty := .bool, acc := .wo, eff := .none, dflt := 0, special := false, len := 1, lim := .all,
    mask := 0xFF, range := none, vals := [] },
  { lo := 0x0F01, hi := 0x0F01, els := [(0, 0)], ty := .bool, acc := .wo, eff := .none, dflt := 0, special := false, len := 1, lim := .all,
    mask := 0xFF, range := none, vals := [] },
  { lo := 0x0F02, hi := 0x0F02, els := [(0, 1)], ty := .u16, acc := .ro, eff := .none, dflt := 0, special := false, len := 2, lim := .all,
    mask := 0xFFFF, range := none, vals := [] },
  { lo := 0x0F03, hi := 0x0F03, els := [(0, 1)], ty := .blob, acc := .ro, eff := .none, dflt := 0, special := false, len := 16, lim := .all,
    mask := 0xFFFFFFFFFFFFFFFFFFFFFFFFFFFFFFFF, range := none, vals := [] },
  { lo := 0x0F04, hi := 0x0F04, els := [(0, 0)], ty := .u32, acc := .rw, eff := .commit, dflt := 1000, special := false, len := 4, lim := .all,
    mask := 0xFFFFFFFF, range := some (200, 100000), vals := [] },
  { lo := 0x0F05, hi := 0x0F05, els := [(0, 0)], ty := .bits32, acc := .ro, eff := .none, dflt := 0, special := false, len := 4, lim := .all,
    mask := 0xFFFFFFFF, range := none, vals := [] },
  { lo := 0x0F10, hi := 0x0F10, els := [(0, 0)], ty := .u8, acc := .ro, eff := .none, dflt := 0, special := false, len := 1, lim := .all,
    mask := 0xFF, range := none, vals := [] },
  { lo := 0x0F11, hi := 0x0F11, els := [(0, 0)], ty := .u8, acc := .rw, eff := .commit, dflt := 0, special := false, len := 1, lim := .all,
    mask := 0xFF, range := none, vals := [] },
  { lo := 0x0F12, hi := 0x0F12, els := [(0, 0)], ty := .blob, acc := .rw, eff := .commit, dflt := 0, special := true, len := 8, lim := .all,
    mask := 0xFFFFFFFF, range := none, vals := [] },
  { lo := 0x0F13, hi := 0x0F13, els := [(0, 0)], ty := .u16, acc := .ro, eff := .none, dflt := 0, special := false, len := 2, lim := .all,
    mask := 0xFFFF, range := none, vals := [] },
  { lo := 0x0F14, hi := 0x0F14, els := [(0, 0)], ty := .u64, acc := .rc, eff := .none, dflt := 0, special := false, len := 8, lim := .all,
    mask := 0xFFFFFFFFFFFFFFFF, range := none, vals := [] },
  { lo := 0x0F15, hi := 0x0F15, els := [(0, 0)], ty := .u32, acc := .rw, eff := .commit, dflt := 10000, special := false, len := 4, lim := .all,
    mask := 0xFFFFFFFF, range := some (100, 1000000), vals := [] },
  { lo := 0x0F16, hi := 0x0F16, els := [(0, 0)], ty := .u64, acc := .rc, eff := .none, dflt := 0, special := false, len := 8, lim := .all,
    mask := 0xFFFFFFFFFFFFFFFF, range := none, vals := [] },
  { lo := 0x0F17, hi := 0x0F17, els := [(0, 0)], ty := .u32, acc := .rw, eff := .commit, dflt := 100, special := false, len := 4, lim := .all,
    mask := 0xFFFFFFFF, range := some (1, 10000), vals := [] }]

/-- Objects 0x0xxx, part 2. -/
def objRows0_2 : List ObjRow := [
  { lo := 0x0F18, hi := 0x0F18, els := [(0, 0)], ty := .u8, acc := .ro, eff := .none, dflt := 0, special := true, len := 1, lim := .all,
    mask := 0xFF, range := none, vals := [] }]

/-- Objects 0x0xxx. -/
def objRows0 : List ObjRow := objRows0_1 ++ objRows0_2

/-- Objects 0x1xxx, part 1. -/
def objRows1_1 : List ObjRow := [
  { lo := 0x1000, hi := 0x1000, els := [(0, 0)], ty := .enum, acc := .rw, eff := .commit, dflt := 0, special := false, len := 1, lim := .all,
    mask := 0xFF, range := none, vals := [0, 1, 2, 3] },
  { lo := 0x1001, hi := 0x1001, els := [(0, 0)], ty := .enum, acc := .ro, eff := .none, dflt := 7, special := false, len := 1, lim := .all,
    mask := 0xFF, range := none, vals := [] },
  { lo := 0x1002, hi := 0x1002, els := [(0, 0)], ty := .bits32, acc := .ro, eff := .none, dflt := 0, special := false, len := 4, lim := .all,
    mask := 0xFFFFFFFF, range := none, vals := [] },
  { lo := 0x1003, hi := 0x1003, els := [(0, 0)], ty := .enum, acc := .rw, eff := .commit, dflt := 0, special := false, len := 1, lim := .all,
    mask := 0xFF, range := none, vals := [0, 1] },
  { lo := 0x1010, hi := 0x1010, els := [(0, 64)], ty := .enum, acc := .ro, eff := .none, dflt := 0, special := true, len := 1, lim := .all,
    mask := 0xFF, range := none, vals := [] },
  { lo := 0x1011, hi := 0x1011, els := [(0, 64)], ty := .enum, acc := .rw, eff := .commit, dflt := 0, special := true, len := 1, lim := .all,
    mask := 0xFF, range := none, vals := [1, 2, 3] },
  { lo := 0x1012, hi := 0x1012, els := [(0, 64)], ty := .bool, acc := .rw, eff := .commit, dflt := 0, special := false, len := 1, lim := .all,
    mask := 0xFF, range := none, vals := [] },
  { lo := 0x1013, hi := 0x1013, els := [(0, 64)], ty := .bool, acc := .rws, eff := .commit, dflt := 0, special := false, len := 1, lim := .all,
    mask := 0xFF, range := none, vals := [] },
  { lo := 0x1014, hi := 0x1014, els := [(0, 64)], ty := .bool, acc := .ro, eff := .none, dflt := 0, special := true, len := 1, lim := .all,
    mask := 0xFF, range := none, vals := [] },
  { lo := 0x1015, hi := 0x1015, els := [(0, 0)], ty := .u8, acc := .wo, eff := .commit, dflt := 0, special := false, len := 1, lim := .all,
    mask := 0xFF, range := none, vals := [] },
  { lo := 0x1020, hi := 0x1020, els := [(0, 0)], ty := .enum, acc := .rws, eff := .commit, dflt := 0, special := false, len := 1, lim := .all,
    mask := 0xFF, range := none, vals := [0, 1, 2] },
  { lo := 0x1021, hi := 0x1021, els := [(0, 0)], ty := .enum, acc := .ro, eff := .none, dflt := 0, special := false, len := 1, lim := .all,
    mask := 0xFF, range := none, vals := [] },
  { lo := 0x1022, hi := 0x1022, els := [(0, 0)], ty := .bits32, acc := .rws, eff := .commit, dflt := 1, special := false, len := 4, lim := .all,
    mask := 0x1F, range := none, vals := [] },
  { lo := 0x1023, hi := 0x1023, els := [(0, 0)], ty := .u32, acc := .rws, eff := .commit, dflt := 0, special := false, len := 4, lim := .all,
    mask := 0xFFFFFFFF, range := none, vals := [] },
  { lo := 0x1024, hi := 0x1024, els := [(0, 0)], ty := .enum, acc := .rws, eff := .commit, dflt := 0, special := false, len := 1, lim := .all,
    mask := 0xFF, range := none, vals := [0, 1] },
  { lo := 0x1025, hi := 0x1025, els := [(0, 0)], ty := .blob, acc := .ro, eff := .none, dflt := 0, special := false, len := 8, lim := .all,
    mask := 0xFFFFFFFFFFFFFFFF, range := none, vals := [] },
  { lo := 0x1026, hi := 0x1026, els := [(0, 0)], ty := .blob, acc := .ro, eff := .none, dflt := 0, special := false, len := 8, lim := .all,
    mask := 0xFFFFFFFFFFFFFFFF, range := none, vals := [] },
  { lo := 0x1030, hi := 0x1030, els := [(0, 0)], ty := .enum, acc := .rws, eff := .commit, dflt := 0, special := false, len := 1, lim := .all,
    mask := 0xFF, range := none, vals := [0, 1, 2] },
  { lo := 0x1031, hi := 0x1031, els := [(0, 0)], ty := .bool, acc := .ro, eff := .none, dflt := 1, special := false, len := 1, lim := .all,
    mask := 0xFF, range := none, vals := [] },
  { lo := 0x1032, hi := 0x1032, els := [(0, 0)], ty := .bool, acc := .ro, eff := .none, dflt := 0, special := false, len := 1, lim := .all,
    mask := 0xFF, range := none, vals := [] },
  { lo := 0x1033, hi := 0x1033, els := [(0, 0)], ty := .u32, acc := .rc, eff := .none, dflt := 0, special := false, len := 4, lim := .all,
    mask := 0xFFFFFFFF, range := none, vals := [] },
  { lo := 0x1034, hi := 0x1034, els := [(0, 0)], ty := .u64, acc := .rc, eff := .none, dflt := 0, special := false, len := 8, lim := .all,
    mask := 0xFFFFFFFFFFFFFFFF, range := none, vals := [] },
  { lo := 0x1035, hi := 0x1035, els := [(0, 0)], ty := .u64, acc := .rc, eff := .none, dflt := 0, special := false, len := 8, lim := .all,
    mask := 0xFFFFFFFFFFFFFFFF, range := none, vals := [] },
  { lo := 0x1036, hi := 0x1036, els := [(0, 15)], ty := .blob, acc := .ro, eff := .none, dflt := 0, special := false, len := 8, lim := .all,
    mask := 0xFFFFFFFFFFFFFFFF, range := none, vals := [] }]

/-- Objects 0x1xxx. -/
def objRows1 : List ObjRow := objRows1_1

/-- Objects 0x2xxx, part 1. -/
def objRows2_1 : List ObjRow := [
  { lo := 0x2000, hi := 0x2000, els := [(0, 0)], ty := .u8, acc := .ro, eff := .none, dflt := 64, special := false, len := 1, lim := .all,
    mask := 0xFF, range := none, vals := [] },
  { lo := 0x2010, hi := 0x2010, els := [(0, 63)], ty := .addr52, acc := .rws, eff := .commit, dflt := 0, special := false, len := 8, lim := .all,
    mask := 0xFFFFFFFFFFFFF, range := none, vals := [] },
  { lo := 0x2011, hi := 0x2011, els := [(0, 63)], ty := .u32, acc := .rws, eff := .commit, dflt := 0, special := false, len := 4, lim := .all,
    mask := 0xFFFFFFFF, range := none, vals := [] },
  { lo := 0x2012, hi := 0x2012, els := [(0, 63)], ty := .u32, acc := .rws, eff := .commit, dflt := 0, special := false, len := 4, lim := .all,
    mask := 0xFFFFFFFF, range := none, vals := [] },
  { lo := 0x2013, hi := 0x2013, els := [(0, 63)], ty := .enum, acc := .ro, eff := .none, dflt := 0, special := false, len := 1, lim := .all,
    mask := 0xFF, range := none, vals := [] },
  { lo := 0x2020, hi := 0x2020, els := [(0, 255)], ty := .u8, acc := .rws, eff := .commit, dflt := 255, special := false, len := 1, lim := .caid,
    mask := 0xFF, range := none, vals := [] },
  { lo := 0x2021, hi := 0x2021, els := [(0, 255)], ty := .u16, acc := .rws, eff := .commit, dflt := 0, special := false, len := 2, lim := .caid,
    mask := 0xFFF, range := none, vals := [] },
  { lo := 0x2022, hi := 0x2022, els := [(0, 255)], ty := .u64, acc := .rws, eff := .commit, dflt := 0, special := false, len := 8, lim := .caid,
    mask := 0xFFFFFFFFFFFFFFFF, range := none, vals := [] },
  { lo := 0x2023, hi := 0x2023, els := [(0, 255)], ty := .enum, acc := .ro, eff := .none, dflt := 0, special := false, len := 1, lim := .caid,
    mask := 0xFF, range := none, vals := [] },
  { lo := 0x2024, hi := 0x2024, els := [(0, 255)], ty := .u64, acc := .ro, eff := .none, dflt := 0, special := false, len := 8, lim := .caid,
    mask := 0xFFFFFFFFFFFFFFFF, range := none, vals := [] },
  { lo := 0x2025, hi := 0x2025, els := [(0, 255)], ty := .enum, acc := .wo, eff := .commit, dflt := 0, special := false, len := 1, lim := .caid,
    mask := 0xFF, range := none, vals := [1, 2] },
  { lo := 0x2030, hi := 0x2030, els := [(0, 0)], ty := .addr52, acc := .rwl, eff := .commit, dflt := 4294967296, special := false, len := 8, lim := .all,
    mask := 0xFFFFFFFFFFFFF, range := none, vals := [] },
  { lo := 0x2031, hi := 0x2031, els := [(0, 0)], ty := .blob, acc := .wo, eff := .commit, dflt := 0, special := false, len := 24, lim := .all,
    mask := 0xFFFFFFFFFFFFFFFFFFFFFFFFFFFFFFFFFFFFFFFFFFFFFFFF, range := none, vals := [] },
  { lo := 0x2032, hi := 0x2032, els := [(0, 0)], ty := .blob, acc := .wo, eff := .commit, dflt := 0, special := false, len := 16, lim := .all,
    mask := 0xFFFFFFFFFFFFFFFFFFFFFFFFFFFFFFFF, range := none, vals := [] },
  { lo := 0x2033, hi := 0x2033, els := [(0, 0)], ty := .bool, acc := .ro, eff := .none, dflt := 0, special := false, len := 1, lim := .all,
    mask := 0xFF, range := none, vals := [] },
  { lo := 0x2040, hi := 0x2040, els := [(0, 255)], ty := .blob, acc := .rws, eff := .commit, dflt := 0, special := false, len := 16, lim := .all,
    mask := 0xFFFFFFFFFFFFFFFFFFFF7F3FFF0F, range := none, vals := [] },
  { lo := 0x2041, hi := 0x2041, els := [(0, 255)], ty := .blob, acc := .rws, eff := .commit, dflt := 0, special := false, len := 16, lim := .all,
    mask := 0xFFFFFFFFFFFFFFFFFFFF003F000F, range := none, vals := [] },
  { lo := 0x2042, hi := 0x2042, els := [(0, 255)], ty := .blob, acc := .rws, eff := .commit, dflt := 0, special := true, len := 16, lim := .all,
    mask := 0xFFFFFFFFFFFFFFFFFFFF003F000F, range := none, vals := [] },
  { lo := 0x2043, hi := 0x2043, els := [(0, 0)], ty := .bool, acc := .rws, eff := .commit, dflt := 0, special := false, len := 1, lim := .all,
    mask := 0xFF, range := none, vals := [] },
  { lo := 0x2044, hi := 0x2044, els := [(0, 0)], ty := .bool, acc := .rws, eff := .commit, dflt := 0, special := false, len := 1, lim := .all,
    mask := 0xFF, range := none, vals := [] },
  { lo := 0x2045, hi := 0x2045, els := [(0, 63)], ty := .blob, acc := .ro, eff := .none, dflt := 0, special := false, len := 16, lim := .all,
    mask := 0xFFFFFFFFFFFFFFFFFFFFFFFFFFFFFFFF, range := none, vals := [] },
  { lo := 0x2050, hi := 0x2050, els := [(1, 8)], ty := .u64, acc := .rc, eff := .none, dflt := 0, special := false, len := 8, lim := .all,
    mask := 0xFFFFFFFFFFFFFFFF, range := none, vals := [] },
  { lo := 0x2051, hi := 0x2051, els := [(0, 63)], ty := .blob, acc := .ro, eff := .none, dflt := 0, special := false, len := 16, lim := .all,
    mask := 0xFFFFFFFFFFFFFFFFFFFFFFFFFFFFFFFF, range := none, vals := [] },
  { lo := 0x2052, hi := 0x2052, els := [(0, 0)], ty := .u32, acc := .rw, eff := .commit, dflt := 1000, special := false, len := 4, lim := .all,
    mask := 0xFFFFFFFF, range := none, vals := [] },
  { lo := 0x2053, hi := 0x2053, els := [(0, 63)], ty := .u64, acc := .rc, eff := .none, dflt := 0, special := false, len := 8, lim := .all,
    mask := 0xFFFFFFFFFFFFFFFF, range := none, vals := [] }]

/-- Objects 0x2xxx, part 2. -/
def objRows2_2 : List ObjRow := [
  { lo := 0x2060, hi := 0x2060, els := [(0, 0)], ty := .u64, acc := .rc, eff := .none, dflt := 0, special := false, len := 8, lim := .all,
    mask := 0xFFFFFFFFFFFFFFFF, range := none, vals := [] }]

/-- Objects 0x2xxx. -/
def objRows2 : List ObjRow := objRows2_1 ++ objRows2_2

/-- Objects 0x3xxx, part 1. -/
def objRows3_1 : List ObjRow := [
  { lo := 0x3000, hi := 0x3000, els := [(0, 0)], ty := .u16, acc := .rw, eff := .commit, dflt := 128, special := false, len := 2, lim := .all,
    mask := 0xFFFF, range := some (0, 2000), vals := [] },
  { lo := 0x3001, hi := 0x3001, els := [(0, 0)], ty := .bool, acc := .rw, eff := .commit, dflt := 1, special := false, len := 1, lim := .all,
    mask := 0xFF, range := none, vals := [] },
  { lo := 0x3002, hi := 0x3002, els := [(0, 0)], ty := .bool, acc := .rw, eff := .commit, dflt := 0, special := false, len := 1, lim := .all,
    mask := 0xFF, range := none, vals := [] },
  { lo := 0x3003, hi := 0x3003, els := [(0, 0)], ty := .u32, acc := .rw, eff := .commit, dflt := 32000, special := false, len := 4, lim := .all,
    mask := 0xFFFFFFFF, range := some (1000, 1000000), vals := [] },
  { lo := 0x3004, hi := 0x3004, els := [(0, 0)], ty := .u32, acc := .rw, eff := .commit, dflt := 16000, special := false, len := 4, lim := .all,
    mask := 0xFFFFFFFF, range := some (1000, 100000), vals := [] },
  { lo := 0x3005, hi := 0x3005, els := [(0, 0)], ty := .u16, acc := .ro, eff := .none, dflt := 0, special := true, len := 2, lim := .all,
    mask := 0xFFFF, range := none, vals := [] },
  { lo := 0x3010, hi := 0x3010, els := [(0, 31)], ty := .u64, acc := .rc, eff := .none, dflt := 0, special := false, len := 8, lim := .slice,
    mask := 0xFFFFFFFFFFFFFFFF, range := none, vals := [] },
  { lo := 0x3011, hi := 0x3011, els := [(0, 63)], ty := .blob, acc := .ro, eff := .none, dflt := 0, special := false, len := 16, lim := .all,
    mask := 0xFFFFFFFFFFFFFFFFFFFFFFFFFFFFFFFF, range := none, vals := [] },
  { lo := 0x3012, hi := 0x3012, els := [(0, 0)], ty := .u64, acc := .rc, eff := .none, dflt := 0, special := false, len := 8, lim := .all,
    mask := 0xFFFFFFFFFFFFFFFF, range := none, vals := [] },
  { lo := 0x3013, hi := 0x3013, els := [(0, 0)], ty := .u64, acc := .rc, eff := .none, dflt := 0, special := false, len := 8, lim := .all,
    mask := 0xFFFFFFFFFFFFFFFF, range := none, vals := [] },
  { lo := 0x3020, hi := 0x3020, els := [(0, 0)], ty := .u64, acc := .rc, eff := .none, dflt := 0, special := false, len := 8, lim := .all,
    mask := 0xFFFFFFFFFFFFFFFF, range := none, vals := [] },
  { lo := 0x3021, hi := 0x3021, els := [(0, 0)], ty := .u16, acc := .rw, eff := .commit, dflt := 4000, special := false, len := 2, lim := .all,
    mask := 0xFFFF, range := some (1000, 16000), vals := [] },
  { lo := 0x3022, hi := 0x3022, els := [(0, 0)], ty := .u64, acc := .rc, eff := .none, dflt := 0, special := false, len := 8, lim := .all,
    mask := 0xFFFFFFFFFFFFFFFF, range := none, vals := [] },
  { lo := 0x3023, hi := 0x3023, els := [(0, 0)], ty := .u64, acc := .rc, eff := .none, dflt := 0, special := false, len := 8, lim := .all,
    mask := 0xFFFFFFFFFFFFFFFF, range := none, vals := [] },
  { lo := 0x3024, hi := 0x3024, els := [(0, 0)], ty := .u64, acc := .rc, eff := .none, dflt := 0, special := false, len := 8, lim := .all,
    mask := 0xFFFFFFFFFFFFFFFF, range := none, vals := [] },
  { lo := 0x3025, hi := 0x3025, els := [(0, 0)], ty := .u64, acc := .rc, eff := .none, dflt := 0, special := false, len := 8, lim := .all,
    mask := 0xFFFFFFFFFFFFFFFF, range := none, vals := [] },
  { lo := 0x3026, hi := 0x3026, els := [(0, 0)], ty := .u64, acc := .rc, eff := .none, dflt := 0, special := false, len := 8, lim := .all,
    mask := 0xFFFFFFFFFFFFFFFF, range := none, vals := [] },
  { lo := 0x3027, hi := 0x3027, els := [(0, 0)], ty := .u64, acc := .rc, eff := .none, dflt := 0, special := false, len := 8, lim := .all,
    mask := 0xFFFFFFFFFFFFFFFF, range := none, vals := [] },
  { lo := 0x3028, hi := 0x3028, els := [(0, 0)], ty := .u64, acc := .rc, eff := .none, dflt := 0, special := false, len := 8, lim := .all,
    mask := 0xFFFFFFFFFFFFFFFF, range := none, vals := [] },
  { lo := 0x3029, hi := 0x3029, els := [(0, 0)], ty := .u64, acc := .rc, eff := .none, dflt := 0, special := false, len := 8, lim := .all,
    mask := 0xFFFFFFFFFFFFFFFF, range := none, vals := [] },
  { lo := 0x302A, hi := 0x302A, els := [(0, 63)], ty := .blob, acc := .ro, eff := .none, dflt := 0, special := false, len := 16, lim := .all,
    mask := 0xFFFFFFFFFFFFFFFFFFFFFFFFFFFFFFFF, range := none, vals := [] },
  { lo := 0x302B, hi := 0x302B, els := [(0, 0)], ty := .u64, acc := .rc, eff := .none, dflt := 0, special := false, len := 8, lim := .all,
    mask := 0xFFFFFFFFFFFFFFFF, range := none, vals := [] },
  { lo := 0x3100, hi := 0x3100, els := [(0, 0)], ty := .u16, acc := .ro, eff := .none, dflt := 8192, special := false, len := 2, lim := .all,
    mask := 0xFFFF, range := none, vals := [] },
  { lo := 0x3101, hi := 0x3101, els := [(0, 0)], ty := .u16, acc := .ro, eff := .none, dflt := 0, special := true, len := 2, lim := .all,
    mask := 0xFFFF, range := none, vals := [] },
  { lo := 0x3102, hi := 0x3102, els := [(0, 0)], ty := .u16, acc := .rws, eff := .reset, dflt := 65535, special := false, len := 2, lim := .all,
    mask := 0xFFFF, range := none, vals := [] }]

/-- Objects 0x3xxx, part 2. -/
def objRows3_2 : List ObjRow := [
  { lo := 0x3103, hi := 0x3103, els := [(0, 0)], ty := .bool, acc := .ro, eff := .none, dflt := 0, special := false, len := 1, lim := .all,
    mask := 0xFF, range := none, vals := [] },
  { lo := 0x3104, hi := 0x3104, els := [(1, 1)], ty := .enum, acc := .rw, eff := .commit, dflt := 0, special := false, len := 1, lim := .all,
    mask := 0xFF, range := none, vals := [0, 1] },
  { lo := 0x3104, hi := 0x3104, els := [(2, 2)], ty := .enum, acc := .rw, eff := .commit, dflt := 0, special := false, len := 1, lim := .all,
    mask := 0xFF, range := none, vals := [0, 1, 2] },
  { lo := 0x3105, hi := 0x3105, els := [(0, 0)], ty := .u64, acc := .rc, eff := .none, dflt := 0, special := false, len := 8, lim := .all,
    mask := 0xFFFFFFFFFFFFFFFF, range := none, vals := [] },
  { lo := 0x3106, hi := 0x3106, els := [(0, 31)], ty := .u32, acc := .ro, eff := .none, dflt := 0, special := false, len := 4, lim := .slice,
    mask := 0xFFFFFFFF, range := none, vals := [] },
  { lo := 0x3107, hi := 0x3107, els := [(0, 0)], ty := .u8, acc := .ro, eff := .none, dflt := 64, special := false, len := 1, lim := .all,
    mask := 0xFF, range := none, vals := [] },
  { lo := 0x3108, hi := 0x3108, els := [(0, 0)], ty := .u64, acc := .rc, eff := .none, dflt := 0, special := false, len := 8, lim := .all,
    mask := 0xFFFFFFFFFFFFFFFF, range := none, vals := [] },
  { lo := 0x3110, hi := 0x3110, els := [(0, 0)], ty := .addr52, acc := .rwl, eff := .commit, dflt := 0, special := false, len := 8, lim := .all,
    mask := 0xFFFFFFFFFFFFF, range := none, vals := [] },
  { lo := 0x3111, hi := 0x3111, els := [(0, 0)], ty := .u64, acc := .rc, eff := .none, dflt := 0, special := false, len := 8, lim := .all,
    mask := 0xFFFFFFFFFFFFFFFF, range := none, vals := [] },
  { lo := 0x3112, hi := 0x3112, els := [(0, 0)], ty := .u64, acc := .rc, eff := .none, dflt := 0, special := false, len := 8, lim := .all,
    mask := 0xFFFFFFFFFFFFFFFF, range := none, vals := [] },
  { lo := 0x3113, hi := 0x3113, els := [(0, 0)], ty := .u32, acc := .ro, eff := .none, dflt := 0, special := false, len := 4, lim := .all,
    mask := 0xFFFFFFFF, range := none, vals := [] },
  { lo := 0x3114, hi := 0x3114, els := [(0, 0)], ty := .u32, acc := .ro, eff := .none, dflt := 0, special := false, len := 4, lim := .all,
    mask := 0xFFFFFFFF, range := none, vals := [] },
  { lo := 0x3115, hi := 0x3115, els := [(0, 0)], ty := .u64, acc := .rc, eff := .none, dflt := 0, special := false, len := 8, lim := .all,
    mask := 0xFFFFFFFFFFFFFFFF, range := none, vals := [] },
  { lo := 0x3116, hi := 0x3116, els := [(0, 0)], ty := .u64, acc := .rc, eff := .none, dflt := 0, special := false, len := 8, lim := .all,
    mask := 0xFFFFFFFFFFFFFFFF, range := none, vals := [] },
  { lo := 0x3117, hi := 0x3117, els := [(0, 0)], ty := .u64, acc := .rc, eff := .none, dflt := 0, special := false, len := 8, lim := .all,
    mask := 0xFFFFFFFFFFFFFFFF, range := none, vals := [] },
  { lo := 0x3118, hi := 0x3118, els := [(0, 0)], ty := .u64, acc := .rc, eff := .none, dflt := 0, special := false, len := 8, lim := .all,
    mask := 0xFFFFFFFFFFFFFFFF, range := none, vals := [] },
  { lo := 0x3119, hi := 0x3119, els := [(0, 0)], ty := .u32, acc := .rw, eff := .commit, dflt := 1000, special := false, len := 4, lim := .all,
    mask := 0xFFFFFFFF, range := some (100, 100000), vals := [] },
  { lo := 0x311A, hi := 0x311A, els := [(0, 63)], ty := .blob, acc := .ro, eff := .none, dflt := 0, special := false, len := 16, lim := .all,
    mask := 0xFFFFFFFFFFFFFFFFFFFFFFFFFFFFFFFF, range := none, vals := [] },
  { lo := 0x3120, hi := 0x3120, els := [(0, 255)], ty := .u32, acc := .ro, eff := .none, dflt := 0, special := false, len := 4, lim := .caid,
    mask := 0xFFFFFFFF, range := none, vals := [] },
  { lo := 0x3121, hi := 0x3121, els := [(0, 15)], ty := .u32, acc := .ro, eff := .none, dflt := 0, special := false, len := 4, lim := .all,
    mask := 0xFFFFFFFF, range := none, vals := [] },
  { lo := 0x3122, hi := 0x3122, els := [(0, 0)], ty := .u64, acc := .rc, eff := .none, dflt := 0, special := false, len := 8, lim := .all,
    mask := 0xFFFFFFFFFFFFFFFF, range := none, vals := [] },
  { lo := 0x3130, hi := 0x3130, els := [(0, 63)], ty := .blob, acc := .ro, eff := .none, dflt := 0, special := false, len := 16, lim := .all,
    mask := 0xFFFFFFFFFFFFFFFFFFFFFFFFFFFFFFFF, range := none, vals := [] },
  { lo := 0x3131, hi := 0x3131, els := [(0, 0)], ty := .u8, acc := .wo, eff := .commit, dflt := 0, special := false, len := 1, lim := .all,
    mask := 0xFF, range := some (0, 63), vals := [] },
  { lo := 0x3132, hi := 0x3132, els := [(0, 0)], ty := .u64, acc := .rc, eff := .none, dflt := 0, special := false, len := 8, lim := .all,
    mask := 0xFFFFFFFFFFFFFFFF, range := none, vals := [] }]

/-- Objects 0x3xxx. -/
def objRows3 : List ObjRow := objRows3_1 ++ objRows3_2

/-- Objects 0x4xxx, part 1. -/
def objRows4_1 : List ObjRow := [
  { lo := 0x4000, hi := 0x4000, els := [(0, 0)], ty := .u16, acc := .ro, eff := .none, dflt := 8192, special := false, len := 2, lim := .all,
    mask := 0xFFFF, range := none, vals := [] },
  { lo := 0x4001, hi := 0x4001, els := [(0, 0)], ty := .u16, acc := .rw, eff := .drain, dflt := 7168, special := false, len := 2, lim := .all,
    mask := 0xFFFF, range := none, vals := [] },
  { lo := 0x4002, hi := 0x4002, els := [(0, 0)], ty := .u16, acc := .rw, eff := .drain, dflt := 512, special := false, len := 2, lim := .all,
    mask := 0xFFFF, range := some (64, 2048), vals := [] },
  { lo := 0x4003, hi := 0x4003, els := [(0, 31)], ty := .u16, acc := .ro, eff := .none, dflt := 0, special := false, len := 2, lim := .slice,
    mask := 0xFFFF, range := none, vals := [] },
  { lo := 0x4004, hi := 0x4004, els := [(0, 0)], ty := .u64, acc := .rc, eff := .none, dflt := 0, special := false, len := 8, lim := .all,
    mask := 0xFFFFFFFFFFFFFFFF, range := none, vals := [] },
  { lo := 0x4005, hi := 0x4005, els := [(0, 0)], ty := .u32, acc := .rw, eff := .commit, dflt := 10000, special := false, len := 4, lim := .all,
    mask := 0xFFFFFFFF, range := some (1000, 100000), vals := [] },
  { lo := 0x4006, hi := 0x4006, els := [(0, 0)], ty := .u32, acc := .ro, eff := .none, dflt := 0, special := false, len := 4, lim := .all,
    mask := 0xFFFFFFFF, range := none, vals := [] },
  { lo := 0x4010, hi := 0x4010, els := [(0, 0)], ty := .u32, acc := .ro, eff := .none, dflt := 0, special := true, len := 4, lim := .all,
    mask := 0xFFFFFFFF, range := none, vals := [] },
  { lo := 0x4011, hi := 0x4011, els := [(0, 7)], ty := .u16, acc := .rw, eff := .drain, dflt := 0, special := true, len := 2, lim := .all,
    mask := 0xFFFF, range := none, vals := [] },
  { lo := 0x4012, hi := 0x4012, els := [(0, 7)], ty := .u16, acc := .rw, eff := .drain, dflt := 0, special := true, len := 2, lim := .all,
    mask := 0xFFFF, range := none, vals := [] },
  { lo := 0x4013, hi := 0x4013, els := [(0, 0), (1, 1), (6, 6)], ty := .u16, acc := .rw, eff := .drain, dflt := 0, special := true, len := 2, lim := .all,
    mask := 0xFFFF, range := none, vals := [] },
  { lo := 0x4014, hi := 0x4014, els := [(0, 31)], ty := .u16, acc := .ro, eff := .none, dflt := 8192, special := false, len := 2, lim := .slice,
    mask := 0xFFFF, range := none, vals := [] },
  { lo := 0x4015, hi := 0x4015, els := [(0, 31)], ty := .u16, acc := .ro, eff := .none, dflt := 4096, special := false, len := 2, lim := .slice,
    mask := 0xFFFF, range := none, vals := [] },
  { lo := 0x4016, hi := 0x4016, els := [(0, 255)], ty := .u64, acc := .rc, eff := .none, dflt := 0, special := false, len := 8, lim := .caid,
    mask := 0xFFFFFFFFFFFFFFFF, range := none, vals := [] },
  { lo := 0x4020, hi := 0x4027, els := [(0, 255)], ty := .u8, acc := .rw, eff := .commit, dflt := 0, special := false, len := 1, lim := .all,
    mask := 0xFF, range := some (0, 15), vals := [] },
  { lo := 0x4030, hi := 0x4030, els := [(0, 6)], ty := .u32, acc := .rw, eff := .commit, dflt := 0, special := true, len := 4, lim := .all,
    mask := 0xFFFFFFFF, range := none, vals := [] },
  { lo := 0x4031, hi := 0x4031, els := [(0, 6)], ty := .u64, acc := .w1c, eff := .none, dflt := 0, special := false, len := 8, lim := .all,
    mask := 0xFFFFFFFFFFFFFFFF, range := none, vals := [] },
  { lo := 0x4032, hi := 0x4032, els := [(0, 6)], ty := .u64, acc := .rc, eff := .none, dflt := 0, special := false, len := 8, lim := .all,
    mask := 0xFFFFFFFFFFFFFFFF, range := none, vals := [] },
  { lo := 0x4040, hi := 0x4040, els := [(0, 0)], ty := .u64, acc := .rc, eff := .none, dflt := 0, special := false, len := 8, lim := .all,
    mask := 0xFFFFFFFFFFFFFFFF, range := none, vals := [] },
  { lo := 0x4050, hi := 0x4050, els := [(0, 0)], ty := .u8, acc := .ro, eff := .none, dflt := 8, special := false, len := 1, lim := .all,
    mask := 0xFF, range := none, vals := [] },
  { lo := 0x4051, hi := 0x4051, els := [(0, 0)], ty := .u64, acc := .rc, eff := .none, dflt := 0, special := false, len := 8, lim := .all,
    mask := 0xFFFFFFFFFFFFFFFF, range := none, vals := [] }]

/-- Objects 0x4xxx. -/
def objRows4 : List ObjRow := objRows4_1

/-- Objects 0x5xxx, part 1. -/
def objRows5_1 : List ObjRow := [
  { lo := 0x5000, hi := 0x5000, els := [(0, 0)], ty := .u32, acc := .ro, eff := .none, dflt := 1048576, special := false, len := 4, lim := .all,
    mask := 0xFFFFFFFF, range := none, vals := [] },
  { lo := 0x5001, hi := 0x5001, els := [(0, 0)], ty := .enum, acc := .ro, eff := .none, dflt := 0, special := true, len := 1, lim := .all,
    mask := 0xFF, range := none, vals := [] },
  { lo := 0x5002, hi := 0x5002, els := [(0, 0)], ty := .bool, acc := .rw, eff := .commit, dflt := 1, special := false, len := 1, lim := .all,
    mask := 0xFF, range := none, vals := [] },
  { lo := 0x5003, hi := 0x5003, els := [(0, 0)], ty := .enum, acc := .ro, eff := .none, dflt := 3, special := false, len := 1, lim := .all,
    mask := 0xFF, range := none, vals := [] },
  { lo := 0x5004, hi := 0x5004, els := [(0, 0)], ty := .bool, acc := .ro, eff := .none, dflt := 0, special := false, len := 1, lim := .all,
    mask := 0xFF, range := none, vals := [] },
  { lo := 0x5005, hi := 0x5005, els := [(0, 0)], ty := .u8, acc := .rw, eff := .commit, dflt := 64, special := false, len := 1, lim := .all,
    mask := 0xFF, range := some (16, 127), vals := [] },
  { lo := 0x5006, hi := 0x5006, els := [(0, 0)], ty := .u8, acc := .rw, eff := .commit, dflt := 32, special := false, len := 1, lim := .all,
    mask := 0xFF, range := some (1, 64), vals := [] },
  { lo := 0x5007, hi := 0x5007, els := [(0, 0)], ty := .u32, acc := .ro, eff := .none, dflt := 0, special := false, len := 4, lim := .all,
    mask := 0xFFFFFFFF, range := none, vals := [] },
  { lo := 0x5008, hi := 0x5008, els := [(0, 0)], ty := .u8, acc := .rw, eff := .commit, dflt := 8, special := false, len := 1, lim := .all,
    mask := 0xFF, range := some (0, 12), vals := [] },
  { lo := 0x5009, hi := 0x5009, els := [(0, 0)], ty := .blob, acc := .wo, eff := .commit, dflt := 0, special := false, len := 16, lim := .all,
    mask := 0xFFFFFFFFFFFFFFFFFFFFFFFFFFFFFFFF, range := none, vals := [] },
  { lo := 0x500A, hi := 0x500A, els := [(0, 0)], ty := .bool, acc := .ro, eff := .none, dflt := 0, special := false, len := 1, lim := .all,
    mask := 0xFF, range := none, vals := [] },
  { lo := 0x500B, hi := 0x500B, els := [(0, 0)], ty := .bool, acc := .wo, eff := .commit, dflt := 0, special := false, len := 1, lim := .all,
    mask := 0xFF, range := none, vals := [] },
  { lo := 0x500C, hi := 0x500C, els := [(0, 0)], ty := .u64, acc := .rc, eff := .none, dflt := 0, special := false, len := 8, lim := .all,
    mask := 0xFFFFFFFFFFFFFFFF, range := none, vals := [] },
  { lo := 0x5010, hi := 0x5010, els := [(0, 0)], ty := .bool, acc := .rw, eff := .commit, dflt := 1, special := false, len := 1, lim := .all,
    mask := 0xFF, range := none, vals := [] },
  { lo := 0x5011, hi := 0x5011, els := [(0, 0)], ty := .u8, acc := .rw, eff := .commit, dflt := 16, special := false, len := 1, lim := .all,
    mask := 0xFF, range := some (1, 64), vals := [] },
  { lo := 0x5012, hi := 0x5012, els := [(0, 0)], ty := .u8, acc := .rw, eff := .commit, dflt := 4, special := false, len := 1, lim := .all,
    mask := 0xFF, range := some (1, 8), vals := [] },
  { lo := 0x5013, hi := 0x5013, els := [(0, 0)], ty := .u64, acc := .rc, eff := .none, dflt := 0, special := false, len := 8, lim := .all,
    mask := 0xFFFFFFFFFFFFFFFF, range := none, vals := [] },
  { lo := 0x5014, hi := 0x5014, els := [(0, 0)], ty := .u64, acc := .rc, eff := .none, dflt := 0, special := false, len := 8, lim := .all,
    mask := 0xFFFFFFFFFFFFFFFF, range := none, vals := [] },
  { lo := 0x5015, hi := 0x5015, els := [(0, 0)], ty := .u64, acc := .rc, eff := .none, dflt := 0, special := false, len := 8, lim := .all,
    mask := 0xFFFFFFFFFFFFFFFF, range := none, vals := [] },
  { lo := 0x5016, hi := 0x5016, els := [(0, 0)], ty := .u64, acc := .rc, eff := .none, dflt := 0, special := false, len := 8, lim := .all,
    mask := 0xFFFFFFFFFFFFFFFF, range := none, vals := [] },
  { lo := 0x5017, hi := 0x5017, els := [(0, 0)], ty := .u64, acc := .rc, eff := .none, dflt := 0, special := false, len := 8, lim := .all,
    mask := 0xFFFFFFFFFFFFFFFF, range := none, vals := [] },
  { lo := 0x5018, hi := 0x5018, els := [(0, 0)], ty := .u64, acc := .rc, eff := .none, dflt := 0, special := false, len := 8, lim := .all,
    mask := 0xFFFFFFFFFFFFFFFF, range := none, vals := [] },
  { lo := 0x5019, hi := 0x5019, els := [(0, 0)], ty := .u64, acc := .rc, eff := .none, dflt := 0, special := false, len := 8, lim := .all,
    mask := 0xFFFFFFFFFFFFFFFF, range := none, vals := [] },
  { lo := 0x5020, hi := 0x5020, els := [(0, 0)], ty := .enum, acc := .rw, eff := .commit, dflt := 0, special := false, len := 1, lim := .all,
    mask := 0xFF, range := none, vals := [0, 1, 2] },
  { lo := 0x5021, hi := 0x5021, els := [(0, 0)], ty := .u32, acc := .rw, eff := .commit, dflt := 2000, special := false, len := 4, lim := .all,
    mask := 0xFFFFFFFF, range := some (256, 1000000), vals := [] }]

/-- Objects 0x5xxx, part 2. -/
def objRows5_2 : List ObjRow := [
  { lo := 0x5022, hi := 0x5022, els := [(0, 0)], ty := .u32, acc := .rw, eff := .commit, dflt := 50000, special := false, len := 4, lim := .all,
    mask := 0xFFFFFFFF, range := some (1000, 4000000), vals := [] },
  { lo := 0x5023, hi := 0x5023, els := [(0, 0)], ty := .u64, acc := .rc, eff := .none, dflt := 0, special := false, len := 8, lim := .all,
    mask := 0xFFFFFFFFFFFFFFFF, range := none, vals := [] },
  { lo := 0x5024, hi := 0x5024, els := [(0, 0)], ty := .u64, acc := .rc, eff := .none, dflt := 0, special := false, len := 8, lim := .all,
    mask := 0xFFFFFFFFFFFFFFFF, range := none, vals := [] },
  { lo := 0x5025, hi := 0x5025, els := [(0, 0)], ty := .u32, acc := .ro, eff := .none, dflt := 0, special := false, len := 4, lim := .all,
    mask := 0xFFFFFFFF, range := none, vals := [] },
  { lo := 0x5026, hi := 0x5026, els := [(0, 0)], ty := .u64, acc := .rc, eff := .none, dflt := 0, special := false, len := 8, lim := .all,
    mask := 0xFFFFFFFFFFFFFFFF, range := none, vals := [] },
  { lo := 0x5027, hi := 0x5027, els := [(0, 0)], ty := .u64, acc := .rc, eff := .none, dflt := 0, special := false, len := 8, lim := .all,
    mask := 0xFFFFFFFFFFFFFFFF, range := none, vals := [] },
  { lo := 0x5028, hi := 0x5028, els := [(0, 0)], ty := .u64, acc := .rc, eff := .none, dflt := 0, special := false, len := 8, lim := .all,
    mask := 0xFFFFFFFFFFFFFFFF, range := none, vals := [] }]

/-- Objects 0x5xxx. -/
def objRows5 : List ObjRow := objRows5_1 ++ objRows5_2

/-- Objects 0x6xxx, part 1. -/
def objRows6_1 : List ObjRow := [
  { lo := 0x6000, hi := 0x6000, els := [(0, 0)], ty := .bool, acc := .rw, eff := .commit, dflt := 1, special := false, len := 1, lim := .all,
    mask := 0xFF, range := none, vals := [] },
  { lo := 0x6010, hi := 0x6010, els := [(0, 0)], ty := .u32, acc := .rw, eff := .commit, dflt := 1000, special := false, len := 4, lim := .all,
    mask := 0xFFFFFFFF, range := some (100, 60000), vals := [] },
  { lo := 0x6011, hi := 0x6011, els := [(0, 0)], ty := .u8, acc := .rw, eff := .commit, dflt := 8, special := false, len := 1, lim := .all,
    mask := 0xFF, range := some (1, 64), vals := [] },
  { lo := 0x6012, hi := 0x6012, els := [(0, 2)], ty := .u8, acc := .rw, eff := .commit, dflt := 0, special := true, len := 1, lim := .all,
    mask := 0xFF, range := none, vals := [] },
  { lo := 0x6013, hi := 0x6013, els := [(0, 0)], ty := .u64, acc := .ro, eff := .none, dflt := 0, special := false, len := 8, lim := .all,
    mask := 0xFFFFFFFFFFFFFFFF, range := none, vals := [] },
  { lo := 0x6014, hi := 0x6014, els := [(0, 0)], ty := .u64, acc := .rc, eff := .none, dflt := 0, special := false, len := 8, lim := .all,
    mask := 0xFFFFFFFFFFFFFFFF, range := none, vals := [] },
  { lo := 0x6015, hi := 0x6015, els := [(0, 0)], ty := .u64, acc := .rc, eff := .none, dflt := 0, special := false, len := 8, lim := .all,
    mask := 0xFFFFFFFFFFFFFFFF, range := none, vals := [] },
  { lo := 0x6016, hi := 0x6016, els := [(0, 63)], ty := .blob, acc := .ro, eff := .none, dflt := 0, special := false, len := 8, lim := .all,
    mask := 0xFFFFFFFFFFFFFFFF, range := none, vals := [] },
  { lo := 0x6100, hi := 0x61FF, els := [(0, 255)], ty := .u64, acc := .ro, eff := .none, dflt := 0, special := false, len := 8, lim := .all,
    mask := 0xFFFFFFFFFFFFFFFF, range := none, vals := [] },
  { lo := 0x6020, hi := 0x6020, els := [(0, 0)], ty := .blob, acc := .wo, eff := .commit, dflt := 0, special := false, len := 16, lim := .all,
    mask := 0xFFFFFFFFFFFFFFFFFFFFFFFFFFFFFFFF, range := none, vals := [] },
  { lo := 0x6021, hi := 0x6021, els := [(0, 0)], ty := .u8, acc := .wo, eff := .commit, dflt := 0, special := false, len := 1, lim := .all,
    mask := 0xFF, range := some (0, 15), vals := [] },
  { lo := 0x6022, hi := 0x6022, els := [(0, 15)], ty := .blob, acc := .ro, eff := .none, dflt := 0, special := false, len := 16, lim := .all,
    mask := 0xFFFFFFFFFFFFFFFFFFFFFFFFFFFFFFFF, range := none, vals := [] },
  { lo := 0x6023, hi := 0x6023, els := [(0, 0)], ty := .u16, acc := .rw, eff := .commit, dflt := 32, special := false, len := 2, lim := .all,
    mask := 0xFFFF, range := some (1, 2048), vals := [] },
  { lo := 0x6024, hi := 0x6024, els := [(0, 0)], ty := .u32, acc := .rw, eff := .commit, dflt := 4000, special := false, len := 4, lim := .all,
    mask := 0xFFFFFFFF, range := some (100, 50000), vals := [] },
  { lo := 0x6025, hi := 0x6025, els := [(0, 0)], ty := .u16, acc := .rw, eff := .commit, dflt := 6144, special := false, len := 2, lim := .all,
    mask := 0xFFFF, range := some (1024, 8192), vals := [] },
  { lo := 0x6026, hi := 0x6026, els := [(0, 0)], ty := .u64, acc := .rc, eff := .none, dflt := 0, special := false, len := 8, lim := .all,
    mask := 0xFFFFFFFFFFFFFFFF, range := none, vals := [] },
  { lo := 0x6027, hi := 0x6027, els := [(0, 0)], ty := .u64, acc := .rc, eff := .none, dflt := 0, special := false, len := 8, lim := .all,
    mask := 0xFFFFFFFFFFFFFFFF, range := none, vals := [] },
  { lo := 0x6028, hi := 0x6028, els := [(0, 0)], ty := .u64, acc := .rc, eff := .none, dflt := 0, special := false, len := 8, lim := .all,
    mask := 0xFFFFFFFFFFFFFFFF, range := none, vals := [] },
  { lo := 0x6030, hi := 0x6030, els := [(0, 0)], ty := .blob, acc := .wo, eff := .commit, dflt := 0, special := false, len := 8, lim := .all,
    mask := 0xFFFFFFFFFFFFFFFF, range := none, vals := [] },
  { lo := 0x6031, hi := 0x6031, els := [(0, 255)], ty := .u8, acc := .rws, eff := .commit, dflt := 255, special := false, len := 1, lim := .caid,
    mask := 0xFF, range := none, vals := [] },
  { lo := 0x6032, hi := 0x6032, els := [(0, 255)], ty := .u8, acc := .rws, eff := .commit, dflt := 255, special := false, len := 1, lim := .all,
    mask := 0xFF, range := none, vals := [] },
  { lo := 0x6033, hi := 0x6033, els := [(0, 0)], ty := .blob, acc := .ro, eff := .none, dflt := 0, special := false, len := 8, lim := .all,
    mask := 0xFFFFFFFFFFFFFFFF, range := none, vals := [] },
  { lo := 0x6034, hi := 0x6034, els := [(0, 0)], ty := .u32, acc := .rw, eff := .commit, dflt := 200, special := false, len := 4, lim := .all,
    mask := 0xFFFFFFFF, range := some (10, 100000), vals := [] },
  { lo := 0x6035, hi := 0x6035, els := [(0, 0)], ty := .u32, acc := .rw, eff := .commit, dflt := 500, special := false, len := 4, lim := .all,
    mask := 0xFFFFFFFF, range := some (10, 100000), vals := [] },
  { lo := 0x6036, hi := 0x6036, els := [(0, 0)], ty := .u32, acc := .rw, eff := .commit, dflt := 1000, special := false, len := 4, lim := .all,
    mask := 0xFFFFFFFF, range := some (100, 1000000), vals := [] }]

/-- Objects 0x6xxx, part 2. -/
def objRows6_2 : List ObjRow := [
  { lo := 0x6037, hi := 0x6037, els := [(0, 0)], ty := .u32, acc := .rw, eff := .commit, dflt := 2000, special := false, len := 4, lim := .all,
    mask := 0xFFFFFFFF, range := some (100, 1000000), vals := [] },
  { lo := 0x6038, hi := 0x6038, els := [(0, 0)], ty := .u32, acc := .rw, eff := .commit, dflt := 20000, special := false, len := 4, lim := .all,
    mask := 0xFFFFFFFF, range := some (1000, 10000000), vals := [] },
  { lo := 0x6039, hi := 0x6039, els := [(0, 0)], ty := .u64, acc := .rc, eff := .none, dflt := 0, special := false, len := 8, lim := .all,
    mask := 0xFFFFFFFFFFFFFFFF, range := none, vals := [] },
  { lo := 0x6040, hi := 0x6040, els := [(0, 0)], ty := .u16, acc := .wo, eff := .commit, dflt := 0, special := false, len := 2, lim := .all,
    mask := 0xFFFF, range := none, vals := [] },
  { lo := 0x6041, hi := 0x6041, els := [(0, 255)], ty := .u8, acc := .ro, eff := .none, dflt := 0, special := true, len := 1, lim := .all,
    mask := 0xFF, range := none, vals := [] },
  { lo := 0x6042, hi := 0x6042, els := [(0, 0)], ty := .bool, acc := .ro, eff := .none, dflt := 0, special := false, len := 1, lim := .all,
    mask := 0xFF, range := none, vals := [] },
  { lo := 0x6043, hi := 0x6043, els := [(0, 0)], ty := .bits32, acc := .ro, eff := .none, dflt := 0, special := true, len := 4, lim := .all,
    mask := 0xFFFFFFFF, range := none, vals := [] },
  { lo := 0x6044, hi := 0x6044, els := [(0, 0)], ty := .bits32, acc := .rw, eff := .commit, dflt := 0, special := false, len := 4, lim := .all,
    mask := 0xFFFFFFFF, range := none, vals := [] },
  { lo := 0x6045, hi := 0x6045, els := [(0, 0)], ty := .u8, acc := .wo, eff := .commit, dflt := 0, special := false, len := 1, lim := .all,
    mask := 0xFF, range := none, vals := [] },
  { lo := 0x6046, hi := 0x6046, els := [(0, 0)], ty := .enum, acc := .ro, eff := .none, dflt := 0, special := false, len := 1, lim := .all,
    mask := 0xFF, range := none, vals := [] },
  { lo := 0x6047, hi := 0x6047, els := [(0, 0)], ty := .u8, acc := .ro, eff := .none, dflt := 255, special := false, len := 1, lim := .all,
    mask := 0xFF, range := none, vals := [] }]

/-- Objects 0x6xxx. -/
def objRows6 : List ObjRow := objRows6_1 ++ objRows6_2

/-- Objects 0x7xxx, part 1. -/
def objRows7_1 : List ObjRow := [
  { lo := 0x7000, hi := 0x7000, els := [(0, 0)], ty := .bool, acc := .ro, eff := .none, dflt := 0, special := true, len := 1, lim := .all,
    mask := 0xFF, range := none, vals := [] },
  { lo := 0x7001, hi := 0x7001, els := [(0, 0)], ty := .bool, acc := .rw, eff := .commit, dflt := 0, special := false, len := 1, lim := .all,
    mask := 0xFF, range := none, vals := [] },
  { lo := 0x7002, hi := 0x7002, els := [(0, 0)], ty := .bool, acc := .wo, eff := .commit, dflt := 0, special := false, len := 1, lim := .all,
    mask := 0xFF, range := none, vals := [] },
  { lo := 0x7003, hi := 0x7003, els := [(0, 0)], ty := .enum, acc := .wo, eff := .commit, dflt := 0, special := false, len := 1, lim := .all,
    mask := 0xFF, range := none, vals := [1, 2] },
  { lo := 0x7004, hi := 0x7004, els := [(0, 0)], ty := .enum, acc := .ro, eff := .none, dflt := 0, special := false, len := 1, lim := .all,
    mask := 0xFF, range := none, vals := [] },
  { lo := 0x7005, hi := 0x7005, els := [(0, 0)], ty := .u8, acc := .ro, eff := .none, dflt := 0, special := false, len := 1, lim := .all,
    mask := 0xFF, range := none, vals := [] },
  { lo := 0x7006, hi := 0x7006, els := [(0, 0)], ty := .u8, acc := .rw, eff := .commit, dflt := 16, special := false, len := 1, lim := .all,
    mask := 0xFF, range := none, vals := [] },
  { lo := 0x7007, hi := 0x7007, els := [(0, 0)], ty := .u16, acc := .rw, eff := .commit, dflt := 65535, special := false, len := 2, lim := .all,
    mask := 0xFFFF, range := none, vals := [] },
  { lo := 0x7008, hi := 0x7008, els := [(0, 0)], ty := .enum, acc := .rw, eff := .commit, dflt := 0, special := false, len := 1, lim := .all,
    mask := 0xFF, range := none, vals := [0, 1] },
  { lo := 0x7009, hi := 0x7009, els := [(0, 0)], ty := .u8, acc := .ro, eff := .none, dflt := 0, special := false, len := 1, lim := .all,
    mask := 0xFF, range := none, vals := [] },
  { lo := 0x700A, hi := 0x700A, els := [(0, 0)], ty := .u8, acc := .ro, eff := .none, dflt := 0, special := false, len := 1, lim := .all,
    mask := 0xFF, range := none, vals := [] },
  { lo := 0x700B, hi := 0x700B, els := [(0, 0)], ty := .u8, acc := .ro, eff := .none, dflt := 0, special := false, len := 1, lim := .all,
    mask := 0xFF, range := none, vals := [] },
  { lo := 0x700C, hi := 0x700C, els := [(0, 0)], ty := .u32, acc := .rw, eff := .commit, dflt := 0, special := false, len := 4, lim := .all,
    mask := 0xFFFFFFFF, range := none, vals := [] },
  { lo := 0x7010, hi := 0x7010, els := [(0, 31)], ty := .u32, acc := .rw, eff := .commit, dflt := 14911232, special := false, len := 4, lim := .all,
    mask := 0xFFFFFF, range := none, vals := [] },
  { lo := 0x7011, hi := 0x7011, els := [(0, 31)], ty := .u32, acc := .rw, eff := .commit, dflt := 524, special := false, len := 4, lim := .all,
    mask := 0x3FF, range := none, vals := [] },
  { lo := 0x7012, hi := 0x7012, els := [(0, 0)], ty := .u32, acc := .rw, eff := .commit, dflt := 0, special := false, len := 4, lim := .all,
    mask := 0xFFFFFFFF, range := none, vals := [] },
  { lo := 0x7020, hi := 0x7020, els := [(0, 0)], ty := .u8, acc := .rw, eff := .commit, dflt := 32, special := false, len := 1, lim := .all,
    mask := 0xFF, range := some (1, 32), vals := [] },
  { lo := 0x7021, hi := 0x7021, els := [(0, 0)], ty := .u16, acc := .rw, eff := .commit, dflt := 400, special := false, len := 2, lim := .all,
    mask := 0xFFFF, range := some (50, 400), vals := [] },
  { lo := 0x7022, hi := 0x7022, els := [(0, 0)], ty := .u32, acc := .rw, eff := .commit, dflt := 1000, special := false, len := 4, lim := .all,
    mask := 0xFFFFFFFF, range := some (300, 100000), vals := [] },
  { lo := 0x7023, hi := 0x7023, els := [(0, 0)], ty := .u32, acc := .rw, eff := .commit, dflt := 2000, special := false, len := 4, lim := .all,
    mask := 0xFFFFFFFF, range := some (500, 100000), vals := [] },
  { lo := 0x7024, hi := 0x7024, els := [(0, 0)], ty := .u8, acc := .rw, eff := .commit, dflt := 4, special := false, len := 1, lim := .all,
    mask := 0xFF, range := some (1, 16), vals := [] },
  { lo := 0x7025, hi := 0x7025, els := [(0, 0)], ty := .blob, acc := .ro, eff := .none, dflt := 0, special := false, len := 8, lim := .all,
    mask := 0xFFFFFFFFFFFFFFFF, range := none, vals := [] },
  { lo := 0x7026, hi := 0x7026, els := [(0, 0)], ty := .u16, acc := .ro, eff := .none, dflt := 64, special := false, len := 2, lim := .all,
    mask := 0xFFFF, range := none, vals := [] },
  { lo := 0x7030, hi := 0x7030, els := [(0, 0)], ty := .u64, acc := .rc, eff := .none, dflt := 0, special := false, len := 8, lim := .all,
    mask := 0xFFFFFFFFFFFFFFFF, range := none, vals := [] },
  { lo := 0x7031, hi := 0x7031, els := [(0, 0)], ty := .u64, acc := .rc, eff := .none, dflt := 0, special := false, len := 8, lim := .all,
    mask := 0xFFFFFFFFFFFFFFFF, range := none, vals := [] }]

/-- Objects 0x7xxx, part 2. -/
def objRows7_2 : List ObjRow := [
  { lo := 0x7032, hi := 0x7032, els := [(0, 0)], ty := .u64, acc := .rc, eff := .none, dflt := 0, special := false, len := 8, lim := .all,
    mask := 0xFFFFFFFFFFFFFFFF, range := none, vals := [] },
  { lo := 0x7033, hi := 0x7033, els := [(0, 0)], ty := .u64, acc := .rc, eff := .none, dflt := 0, special := false, len := 8, lim := .all,
    mask := 0xFFFFFFFFFFFFFFFF, range := none, vals := [] },
  { lo := 0x7034, hi := 0x7034, els := [(0, 0)], ty := .u64, acc := .rc, eff := .none, dflt := 0, special := false, len := 8, lim := .all,
    mask := 0xFFFFFFFFFFFFFFFF, range := none, vals := [] },
  { lo := 0x7035, hi := 0x7035, els := [(0, 0)], ty := .u64, acc := .rc, eff := .none, dflt := 0, special := false, len := 8, lim := .all,
    mask := 0xFFFFFFFFFFFFFFFF, range := none, vals := [] },
  { lo := 0x7036, hi := 0x7036, els := [(0, 0)], ty := .u64, acc := .rc, eff := .none, dflt := 0, special := false, len := 8, lim := .all,
    mask := 0xFFFFFFFFFFFFFFFF, range := none, vals := [] },
  { lo := 0x7037, hi := 0x7037, els := [(0, 0)], ty := .u64, acc := .rc, eff := .none, dflt := 0, special := false, len := 8, lim := .all,
    mask := 0xFFFFFFFFFFFFFFFF, range := none, vals := [] },
  { lo := 0x7038, hi := 0x7038, els := [(0, 0)], ty := .u64, acc := .rc, eff := .none, dflt := 0, special := false, len := 8, lim := .all,
    mask := 0xFFFFFFFFFFFFFFFF, range := none, vals := [] },
  { lo := 0x7039, hi := 0x7039, els := [(0, 0)], ty := .u64, acc := .rc, eff := .none, dflt := 0, special := false, len := 8, lim := .all,
    mask := 0xFFFFFFFFFFFFFFFF, range := none, vals := [] },
  { lo := 0x703A, hi := 0x703A, els := [(0, 0)], ty := .u64, acc := .rc, eff := .none, dflt := 0, special := false, len := 8, lim := .all,
    mask := 0xFFFFFFFFFFFFFFFF, range := none, vals := [] },
  { lo := 0x703B, hi := 0x703B, els := [(0, 0)], ty := .u64, acc := .rc, eff := .none, dflt := 0, special := false, len := 8, lim := .all,
    mask := 0xFFFFFFFFFFFFFFFF, range := none, vals := [] },
  { lo := 0x703C, hi := 0x703C, els := [(0, 0)], ty := .u64, acc := .rc, eff := .none, dflt := 0, special := false, len := 8, lim := .all,
    mask := 0xFFFFFFFFFFFFFFFF, range := none, vals := [] },
  { lo := 0x7040, hi := 0x7040, els := [(0, 15)], ty := .u64, acc := .rc, eff := .none, dflt := 0, special := false, len := 8, lim := .all,
    mask := 0xFFFFFFFFFFFFFFFF, range := none, vals := [] },
  { lo := 0x7041, hi := 0x7041, els := [(0, 15)], ty := .u64, acc := .rc, eff := .none, dflt := 0, special := false, len := 8, lim := .all,
    mask := 0xFFFFFFFFFFFFFFFF, range := none, vals := [] },
  { lo := 0x7050, hi := 0x7050, els := [(0, 63)], ty := .blob, acc := .ro, eff := .none, dflt := 0, special := false, len := 16, lim := .all,
    mask := 0xFFFFFFFFFFFFFFFFFFFFFFFFFFFFFFFF, range := none, vals := [] },
  { lo := 0x7051, hi := 0x7051, els := [(0, 0)], ty := .u64, acc := .rc, eff := .none, dflt := 0, special := false, len := 8, lim := .all,
    mask := 0xFFFFFFFFFFFFFFFF, range := none, vals := [] },
  { lo := 0x7052, hi := 0x7052, els := [(0, 0)], ty := .u64, acc := .rc, eff := .none, dflt := 0, special := false, len := 8, lim := .all,
    mask := 0xFFFFFFFFFFFFFFFF, range := none, vals := [] },
  { lo := 0x7053, hi := 0x7053, els := [(0, 0)], ty := .u64, acc := .rc, eff := .none, dflt := 0, special := false, len := 8, lim := .all,
    mask := 0xFFFFFFFFFFFFFFFF, range := none, vals := [] },
  { lo := 0x7060, hi := 0x7060, els := [(0, 0)], ty := .blob, acc := .wo, eff := .commit, dflt := 0, special := false, len := 8, lim := .all,
    mask := 0xFFFFFFFFFFFFFFFF, range := none, vals := [] },
  { lo := 0x7061, hi := 0x7061, els := [(0, 0)], ty := .blob, acc := .ro, eff := .none, dflt := 0, special := false, len := 8, lim := .all,
    mask := 0xFFFFFFFFFFFFFFFF, range := none, vals := [] },
  { lo := 0x7062, hi := 0x7062, els := [(0, 0)], ty := .bool, acc := .ro, eff := .none, dflt := 0, special := false, len := 1, lim := .all,
    mask := 0xFF, range := none, vals := [] },
  { lo := 0x7070, hi := 0x7070, els := [(0, 0)], ty := .enum, acc := .rw, eff := .commit, dflt := 0, special := false, len := 1, lim := .all,
    mask := 0xFF, range := none, vals := [0, 1, 2, 3] },
  { lo := 0x7071, hi := 0x7071, els := [(0, 0)], ty := .enum, acc := .rw, eff := .commit, dflt := 0, special := false, len := 1, lim := .all,
    mask := 0xFF, range := none, vals := [0, 1, 2] },
  { lo := 0x7072, hi := 0x7072, els := [(0, 0)], ty := .bool, acc := .rw, eff := .commit, dflt := 0, special := false, len := 1, lim := .all,
    mask := 0xFF, range := none, vals := [] },
  { lo := 0x7073, hi := 0x7073, els := [(0, 15)], ty := .u64, acc := .rc, eff := .none, dflt := 0, special := false, len := 8, lim := .all,
    mask := 0xFFFFFFFFFFFFFFFF, range := none, vals := [] },
  { lo := 0x7074, hi := 0x7074, els := [(0, 0)], ty := .blob, acc := .wo, eff := .commit, dflt := 0, special := false, len := 8, lim := .all,
    mask := 0xFFFFFFFFFFFFFFFF, range := none, vals := [] }]

/-- Objects 0x7xxx. -/
def objRows7 : List ObjRow := objRows7_1 ++ objRows7_2

/-- Objects 0x8xxx, part 1. -/
def objRows8_1 : List ObjRow := [
  { lo := 0x8000, hi := 0x8000, els := [(0, 0)], ty := .u8, acc := .rws, eff := .commit, dflt := 255, special := false, len := 1, lim := .all,
    mask := 0xFF, range := none, vals := [] },
  { lo := 0x8001, hi := 0x8001, els := [(0, 0)], ty := .enum, acc := .rws, eff := .commit, dflt := 0, special := false, len := 1, lim := .all,
    mask := 0xFF, range := none, vals := [0, 1] },
  { lo := 0x8002, hi := 0x8002, els := [(0, 0)], ty := .u16, acc := .rws, eff := .commit, dflt := 65535, special := false, len := 2, lim := .all,
    mask := 0xFFFF, range := none, vals := [] },
  { lo := 0x8003, hi := 0x8003, els := [(0, 0)], ty := .u8, acc := .rws, eff := .commit, dflt := 255, special := false, len := 1, lim := .all,
    mask := 0xFF, range := none, vals := [] },
  { lo := 0x8004, hi := 0x8004, els := [(0, 255)], ty := .u8, acc := .rws, eff := .commit, dflt := 255, special := false, len := 1, lim := .all,
    mask := 0xFF, range := none, vals := [] },
  { lo := 0x8005, hi := 0x8005, els := [(0, 0)], ty := .blob, acc := .rws, eff := .commit, dflt := 0, special := false, len := 32, lim := .all,
    mask := 0xFFFFFFFFFFFFFFFFFFFFFFFFFFFFFFFFFFFFFFFFFFFFFFFFFFFFFFFFFFFFFFFF, range := none, vals := [] },
  { lo := 0x8006, hi := 0x8006, els := [(0, 0)], ty := .u32, acc := .ro, eff := .none, dflt := 0, special := false, len := 4, lim := .all,
    mask := 0xFFFFFFFF, range := none, vals := [] },
  { lo := 0x8007, hi := 0x8007, els := [(0, 0)], ty := .blob, acc := .wo, eff := .commit, dflt := 0, special := false, len := 8, lim := .all,
    mask := 0xFFFFFFFFFFFFFFFF, range := none, vals := [] },
  { lo := 0x8008, hi := 0x8008, els := [(0, 0)], ty := .u32, acc := .rw, eff := .commit, dflt := 20, special := false, len := 4, lim := .all,
    mask := 0xFFFFFFFF, range := some (1, 10000), vals := [] },
  { lo := 0x8009, hi := 0x8009, els := [(0, 0)], ty := .u64, acc := .rc, eff := .none, dflt := 0, special := false, len := 8, lim := .all,
    mask := 0xFFFFFFFFFFFFFFFF, range := none, vals := [] },
  { lo := 0x800A, hi := 0x800A, els := [(0, 0)], ty := .u8, acc := .wo, eff := .commit, dflt := 0, special := false, len := 1, lim := .all,
    mask := 0xFF, range := none, vals := [] },
  { lo := 0x8100, hi := 0x81FF, els := [(0, 255)], ty := .u32, acc := .ro, eff := .none, dflt := 65535, special := false, len := 4, lim := .all,
    mask := 0xFFFFFFFF, range := none, vals := [] },
  { lo := 0x8010, hi := 0x8010, els := [(0, 0)], ty := .u8, acc := .rws, eff := .commit, dflt := 255, special := false, len := 1, lim := .all,
    mask := 0xFF, range := none, vals := [] },
  { lo := 0x8011, hi := 0x8011, els := [(0, 0)], ty := .enum, acc := .ro, eff := .none, dflt := 0, special := false, len := 1, lim := .all,
    mask := 0xFF, range := none, vals := [] },
  { lo := 0x8012, hi := 0x8012, els := [(0, 0)], ty := .enum, acc := .ro, eff := .none, dflt := 0, special := false, len := 1, lim := .all,
    mask := 0xFF, range := none, vals := [] },
  { lo := 0x8013, hi := 0x8013, els := [(0, 0)], ty := .u8, acc := .ro, eff := .none, dflt := 0, special := false, len := 1, lim := .all,
    mask := 0xFF, range := none, vals := [] },
  { lo := 0x8014, hi := 0x8014, els := [(0, 0)], ty := .u16, acc := .rw, eff := .commit, dflt := 2000, special := false, len := 2, lim := .all,
    mask := 0xFFFF, range := some (500, 10000), vals := [] },
  { lo := 0x8015, hi := 0x8015, els := [(0, 0)], ty := .u8, acc := .rw, eff := .commit, dflt := 3, special := false, len := 1, lim := .all,
    mask := 0xFF, range := some (2, 8), vals := [] },
  { lo := 0x8016, hi := 0x8016, els := [(0, 0)], ty := .u32, acc := .rw, eff := .commit, dflt := 10000, special := false, len := 4, lim := .all,
    mask := 0xFFFFFFFF, range := some (1000, 100000), vals := [] },
  { lo := 0x8017, hi := 0x8017, els := [(0, 0)], ty := .u32, acc := .rw, eff := .commit, dflt := 4000, special := false, len := 4, lim := .all,
    mask := 0xFFFFFFFF, range := some (1000, 100000), vals := [] },
  { lo := 0x8018, hi := 0x8018, els := [(0, 0)], ty := .u32, acc := .rw, eff := .commit, dflt := 100, special := false, len := 4, lim := .all,
    mask := 0xFFFFFFFF, range := some (10, 100000), vals := [] },
  { lo := 0x8019, hi := 0x8019, els := [(0, 0)], ty := .u16, acc := .rw, eff := .commit, dflt := 20, special := false, len := 2, lim := .all,
    mask := 0xFFFF, range := some (0, 1000), vals := [] },
  { lo := 0x801A, hi := 0x801A, els := [(0, 0)], ty := .u8, acc := .rws, eff := .commit, dflt := 255, special := false, len := 1, lim := .all,
    mask := 0xFF, range := none, vals := [] },
  { lo := 0x801B, hi := 0x801B, els := [(0, 0)], ty := .bool, acc := .wo, eff := .commit, dflt := 0, special := false, len := 1, lim := .all,
    mask := 0xFF, range := none, vals := [] },
  { lo := 0x801C, hi := 0x801C, els := [(0, 0)], ty := .u16, acc := .wo, eff := .commit, dflt := 0, special := false, len := 2, lim := .all,
    mask := 0xFFFF, range := none, vals := [] }]

/-- Objects 0x8xxx, part 2. -/
def objRows8_2 : List ObjRow := [
  { lo := 0x801D, hi := 0x801D, els := [(0, 0)], ty := .u16, acc := .wo, eff := .commit, dflt := 0, special := false, len := 2, lim := .all,
    mask := 0xFFFF, range := none, vals := [] },
  { lo := 0x801E, hi := 0x801E, els := [(0, 0)], ty := .bool, acc := .wo, eff := .commit, dflt := 0, special := false, len := 1, lim := .all,
    mask := 0xFF, range := none, vals := [] },
  { lo := 0x801F, hi := 0x801F, els := [(0, 0)], ty := .u8, acc := .rw, eff := .commit, dflt := 8, special := false, len := 1, lim := .all,
    mask := 0xFF, range := some (1, 16), vals := [] },
  { lo := 0x8020, hi := 0x8020, els := [(0, 0)], ty := .u64, acc := .rc, eff := .none, dflt := 0, special := false, len := 8, lim := .all,
    mask := 0xFFFFFFFFFFFFFFFF, range := none, vals := [] },
  { lo := 0x8021, hi := 0x8021, els := [(0, 0)], ty := .u64, acc := .rc, eff := .none, dflt := 0, special := false, len := 8, lim := .all,
    mask := 0xFFFFFFFFFFFFFFFF, range := none, vals := [] },
  { lo := 0x8022, hi := 0x8022, els := [(0, 0)], ty := .u32, acc := .ro, eff := .none, dflt := 0, special := false, len := 4, lim := .all,
    mask := 0xFFFFFFFF, range := none, vals := [] },
  { lo := 0x8023, hi := 0x8023, els := [(0, 0)], ty := .u64, acc := .rc, eff := .none, dflt := 0, special := false, len := 8, lim := .all,
    mask := 0xFFFFFFFFFFFFFFFF, range := none, vals := [] },
  { lo := 0x8024, hi := 0x8024, els := [(0, 0)], ty := .u64, acc := .rc, eff := .none, dflt := 0, special := false, len := 8, lim := .all,
    mask := 0xFFFFFFFFFFFFFFFF, range := none, vals := [] },
  { lo := 0x8025, hi := 0x8025, els := [(0, 0)], ty := .u64, acc := .rc, eff := .none, dflt := 0, special := false, len := 8, lim := .all,
    mask := 0xFFFFFFFFFFFFFFFF, range := none, vals := [] },
  { lo := 0x8026, hi := 0x8026, els := [(0, 0)], ty := .u64, acc := .rc, eff := .none, dflt := 0, special := false, len := 8, lim := .all,
    mask := 0xFFFFFFFFFFFFFFFF, range := none, vals := [] },
  { lo := 0x8027, hi := 0x8027, els := [(0, 0)], ty := .u32, acc := .ro, eff := .none, dflt := 0, special := false, len := 4, lim := .all,
    mask := 0xFFFFFFFF, range := none, vals := [] }]

/-- Objects 0x8xxx. -/
def objRows8 : List ObjRow := objRows8_1 ++ objRows8_2

/-- Objects 0x9xxx, part 1. -/
def objRows9_1 : List ObjRow := [
  { lo := 0x9000, hi := 0x9000, els := [(0, 0)], ty := .u8, acc := .ro, eff := .none, dflt := 18, special := false, len := 1, lim := .all,
    mask := 0xFF, range := none, vals := [] },
  { lo := 0x9001, hi := 0x9001, els := [(0, 17)], ty := .u64, acc := .rc, eff := .none, dflt := 0, special := false, len := 8, lim := .all,
    mask := 0xFFFFFFFFFFFFFFFF, range := none, vals := [] },
  { lo := 0x9002, hi := 0x9002, els := [(0, 17)], ty := .u64, acc := .rc, eff := .none, dflt := 0, special := false, len := 8, lim := .all,
    mask := 0xFFFFFFFFFFFFFFFF, range := none, vals := [] },
  { lo := 0x9003, hi := 0x9003, els := [(0, 17)], ty := .u64, acc := .rc, eff := .none, dflt := 0, special := false, len := 8, lim := .all,
    mask := 0xFFFFFFFFFFFFFFFF, range := none, vals := [] },
  { lo := 0x9004, hi := 0x9004, els := [(0, 0)], ty := .u64, acc := .rc, eff := .none, dflt := 0, special := false, len := 8, lim := .all,
    mask := 0xFFFFFFFFFFFFFFFF, range := none, vals := [] },
  { lo := 0x9005, hi := 0x9005, els := [(0, 0)], ty := .u64, acc := .rc, eff := .none, dflt := 0, special := false, len := 8, lim := .all,
    mask := 0xFFFFFFFFFFFFFFFF, range := none, vals := [] },
  { lo := 0x9006, hi := 0x9006, els := [(0, 3)], ty := .u64, acc := .rc, eff := .none, dflt := 0, special := false, len := 8, lim := .all,
    mask := 0xFFFFFFFFFFFFFFFF, range := none, vals := [] },
  { lo := 0x9007, hi := 0x9007, els := [(0, 3)], ty := .u64, acc := .rc, eff := .none, dflt := 0, special := false, len := 8, lim := .all,
    mask := 0xFFFFFFFFFFFFFFFF, range := none, vals := [] },
  { lo := 0x9010, hi := 0x9010, els := [(0, 1)], ty := .u32, acc := .rw, eff := .commit, dflt := 0, special := true, len := 4, lim := .all,
    mask := 0xFFFFFFFF, range := some (60000, 604800000), vals := [] },
  { lo := 0x9011, hi := 0x9011, els := [(0, 1)], ty := .u64, acc := .ro, eff := .none, dflt := 0, special := false, len := 8, lim := .all,
    mask := 0xFFFFFFFFFFFFFFFF, range := none, vals := [] },
  { lo := 0x9012, hi := 0x9012, els := [(0, 0)], ty := .u8, acc := .rw, eff := .commit, dflt := 8, special := false, len := 1, lim := .all,
    mask := 0xFF, range := some (2, 64), vals := [] },
  { lo := 0x9013, hi := 0x9013, els := [(0, 0)], ty := .u8, acc := .rw, eff := .commit, dflt := 4, special := false, len := 1, lim := .all,
    mask := 0xFF, range := some (2, 16), vals := [] },
  { lo := 0x9014, hi := 0x9014, els := [(0, 0)], ty := .u32, acc := .rw, eff := .commit, dflt := 16, special := false, len := 4, lim := .all,
    mask := 0xFFFFFFFF, range := some (1, 65535), vals := [] },
  { lo := 0x9020, hi := 0x9020, els := [(0, 63)], ty := .blob, acc := .ro, eff := .none, dflt := 0, special := false, len := 8, lim := .all,
    mask := 0xFFFFFFFFFFFFFFFF, range := none, vals := [] },
  { lo := 0x9021, hi := 0x9021, els := [(0, 0)], ty := .addr52, acc := .rwl, eff := .commit, dflt := 0, special := false, len := 8, lim := .all,
    mask := 0xFFFFFFFFFFFFF, range := none, vals := [] },
  { lo := 0x9022, hi := 0x9022, els := [(0, 0)], ty := .blob, acc := .wo, eff := .commit, dflt := 0, special := false, len := 8, lim := .all,
    mask := 0xFFFFFFFFFFFFFFFF, range := none, vals := [] },
  { lo := 0x9023, hi := 0x9023, els := [(0, 255)], ty := .u32, acc := .ro, eff := .none, dflt := 0, special := false, len := 4, lim := .all,
    mask := 0xFFFFFFFF, range := none, vals := [] },
  { lo := 0x9024, hi := 0x9024, els := [(0, 0)], ty := .u16, acc := .wo, eff := .commit, dflt := 0, special := false, len := 2, lim := .all,
    mask := 0xFFFF, range := none, vals := [] },
  { lo := 0x9025, hi := 0x9025, els := [(0, 0)], ty := .bool, acc := .ro, eff := .none, dflt := 0, special := false, len := 1, lim := .all,
    mask := 0xFF, range := none, vals := [] },
  { lo := 0x9026, hi := 0x9026, els := [(0, 0)], ty := .u32, acc := .ro, eff := .none, dflt := 0, special := true, len := 4, lim := .all,
    mask := 0xFFFFFFFF, range := none, vals := [] },
  { lo := 0x9030, hi := 0x9032, els := [(0, 255)], ty := .u8, acc := .ro, eff := .none, dflt := 0, special := true, len := 1, lim := .all,
    mask := 0xFF, range := none, vals := [] },
  { lo := 0x9040, hi := 0x9040, els := [(0, 0)], ty := .bool, acc := .rws, eff := .commit, dflt := 0, special := false, len := 1, lim := .all,
    mask := 0xFF, range := none, vals := [] },
  { lo := 0x9041, hi := 0x9041, els := [(0, 0)], ty := .blob, acc := .wo, eff := .commit, dflt := 0, special := false, len := 24, lim := .all,
    mask := 0xFFFFFFFFFFFFFFFFFFFFFFFFFFFFFFFFFFFFFFFFFFFFFFFF, range := none, vals := [] },
  { lo := 0x9042, hi := 0x9042, els := [(0, 0)], ty := .blob, acc := .wo, eff := .commit, dflt := 0, special := false, len := 8, lim := .all,
    mask := 0xFFFFFFFFFFFFFFFF, range := none, vals := [] },
  { lo := 0x9043, hi := 0x9043, els := [(0, 0)], ty := .blob, acc := .ro, eff := .none, dflt := 0, special := false, len := 24, lim := .all,
    mask := 0xFFFFFFFFFFFFFFFFFFFFFFFFFFFFFFFFFFFFFFFFFFFFFFFF, range := none, vals := [] }]

/-- Objects 0x9xxx, part 2. -/
def objRows9_2 : List ObjRow := [
  { lo := 0x9050, hi := 0x9050, els := [(0, 0)], ty := .blob, acc := .ro, eff := .none, dflt := 0, special := false, len := 16, lim := .all,
    mask := 0xFFFFFFFFFFFFFFFFFFFFFFFFFFFFFFFF, range := none, vals := [] },
  { lo := 0x9051, hi := 0x9051, els := [(0, 0)], ty := .bool, acc := .rws, eff := .commit, dflt := 0, special := false, len := 1, lim := .all,
    mask := 0xFF, range := none, vals := [] },
  { lo := 0x9100, hi := 0x9111, els := [(0, 63)], ty := .blob, acc := .ro, eff := .none, dflt := 0, special := false, len := 16, lim := .all,
    mask := 0xFFFFFFFFFFFFFFFFFFFFFFFFFFFFFFFF, range := none, vals := [] }]

/-- Objects 0x9xxx. -/
def objRows9 : List ObjRow := objRows9_1 ++ objRows9_2

/-- Objects 0xAxxx, part 1. -/
def objRowsA_1 : List ObjRow := [
  { lo := 0xA000, hi := 0xA000, els := [(0, 0)], ty := .u64, acc := .ro, eff := .none, dflt := 0, special := true, len := 8, lim := .all,
    mask := 0xFFFFFFFFFFFFFFFF, range := none, vals := [] },
  { lo := 0xA001, hi := 0xA001, els := [(0, 0)], ty := .bool, acc := .wo, eff := .commit, dflt := 0, special := false, len := 1, lim := .all,
    mask := 0xFF, range := none, vals := [] },
  { lo := 0xA002, hi := 0xA002, els := [(0, 0)], ty := .u32, acc := .rw, eff := .commit, dflt := 1000, special := false, len := 4, lim := .all,
    mask := 0xFFFFFFFF, range := some (200, 100000), vals := [] },
  { lo := 0xA003, hi := 0xA003, els := [(0, 0)], ty := .u64, acc := .ro, eff := .none, dflt := 0, special := false, len := 8, lim := .all,
    mask := 0xFFFFFFFFFFFFFFFF, range := none, vals := [] },
  { lo := 0xA004, hi := 0xA004, els := [(0, 0)], ty := .u64, acc := .ro, eff := .none, dflt := 0, special := false, len := 8, lim := .all,
    mask := 0xFFFFFFFFFFFFFFFF, range := none, vals := [] },
  { lo := 0xA005, hi := 0xA005, els := [(0, 0)], ty := .bool, acc := .ro, eff := .none, dflt := 0, special := false, len := 1, lim := .all,
    mask := 0xFF, range := none, vals := [] },
  { lo := 0xA006, hi := 0xA006, els := [(0, 0)], ty := .u64, acc := .wo, eff := .commit, dflt := 0, special := false, len := 8, lim := .all,
    mask := 0xFFFFFFFFFFFFFFFF, range := none, vals := [] },
  { lo := 0xA100, hi := 0xA12F, els := [(0, 15)], ty := .u8, acc := .rw, eff := .commit, dflt := 0, special := false, len := 1, lim := .all,
    mask := 0xFF, range := none, vals := [] },
  { lo := 0xA200, hi := 0xA22F, els := [(0, 15)], ty := .u64, acc := .ro, eff := .none, dflt := 0, special := false, len := 8, lim := .all,
    mask := 0xFFFFFFFFFFFFFFFF, range := none, vals := [] },
  { lo := 0xA300, hi := 0xA32F, els := [(0, 15)], ty := .u64, acc := .ro, eff := .none, dflt := 0, special := false, len := 8, lim := .all,
    mask := 0xFFFFFFFFFFFFFFFF, range := none, vals := [] },
  { lo := 0xA400, hi := 0xA400, els := [(0, 0)], ty := .bool, acc := .rw, eff := .commit, dflt := 0, special := false, len := 1, lim := .all,
    mask := 0xFF, range := none, vals := [] },
  { lo := 0xA401, hi := 0xA401, els := [(0, 0)], ty := .u32, acc := .rw, eff := .commit, dflt := 4096, special := false, len := 4, lim := .all,
    mask := 0xFFFFFFFF, range := some (16, 1048576), vals := [] },
  { lo := 0xA402, hi := 0xA402, els := [(0, 0)], ty := .u8, acc := .rw, eff := .commit, dflt := 8, special := false, len := 1, lim := .all,
    mask := 0xFF, range := some (0, 20), vals := [] },
  { lo := 0xA403, hi := 0xA403, els := [(0, 0)], ty := .bits32, acc := .rw, eff := .commit, dflt := 67, special := false, len := 4, lim := .all,
    mask := 0xFF, range := none, vals := [] },
  { lo := 0xA404, hi := 0xA404, els := [(0, 0)], ty := .addr52, acc := .rw, eff := .commit, dflt := 0, special := false, len := 8, lim := .all,
    mask := 0xFFFFFFFFFFFFF, range := none, vals := [] },
  { lo := 0xA405, hi := 0xA405, els := [(0, 0)], ty := .u32, acc := .rw, eff := .commit, dflt := 0, special := false, len := 4, lim := .all,
    mask := 0xFFFFFFFF, range := none, vals := [] },
  { lo := 0xA406, hi := 0xA406, els := [(0, 0)], ty := .u32, acc := .ro, eff := .none, dflt := 0, special := false, len := 4, lim := .all,
    mask := 0xFFFFFFFF, range := none, vals := [] },
  { lo := 0xA407, hi := 0xA407, els := [(0, 0)], ty := .u32, acc := .rw, eff := .commit, dflt := 0, special := false, len := 4, lim := .all,
    mask := 0xFFFFFFFF, range := none, vals := [] },
  { lo := 0xA408, hi := 0xA408, els := [(0, 0)], ty := .u16, acc := .ro, eff := .none, dflt := 0, special := false, len := 2, lim := .all,
    mask := 0xFFFF, range := none, vals := [] },
  { lo := 0xA409, hi := 0xA409, els := [(0, 0)], ty := .u64, acc := .rc, eff := .none, dflt := 0, special := false, len := 8, lim := .all,
    mask := 0xFFFFFFFFFFFFFFFF, range := none, vals := [] },
  { lo := 0xA40A, hi := 0xA40A, els := [(0, 0)], ty := .bool, acc := .wo, eff := .commit, dflt := 0, special := false, len := 1, lim := .all,
    mask := 0xFF, range := none, vals := [] },
  { lo := 0xA500, hi := 0xA500, els := [(0, 0)], ty := .bool, acc := .rw, eff := .commit, dflt := 0, special := false, len := 1, lim := .all,
    mask := 0xFF, range := none, vals := [] },
  { lo := 0xA501, hi := 0xA501, els := [(0, 0)], ty := .bool, acc := .wo, eff := .commit, dflt := 0, special := false, len := 1, lim := .all,
    mask := 0xFF, range := none, vals := [] },
  { lo := 0xA502, hi := 0xA502, els := [(0, 0)], ty := .u64, acc := .rc, eff := .none, dflt := 0, special := false, len := 8, lim := .all,
    mask := 0xFFFFFFFFFFFFFFFF, range := none, vals := [] },
  { lo := 0xA800, hi := 0xAFFF, els := [(0, 63)], ty := .u64, acc := .ro, eff := .none, dflt := 0, special := false, len := 8, lim := .all,
    mask := 0xFFFFFFFFFFFFFFFF, range := none, vals := [] }]

/-- Objects 0xAxxx. -/
def objRowsA : List ObjRow := objRowsA_1

/-- Objects 0xBxxx, part 1. -/
def objRowsB_1 : List ObjRow := [
  { lo := 0xB010, hi := 0xB010, els := [(0, 47)], ty := .enum, acc := .ro, eff := .none, dflt := 0, special := true, len := 1, lim := .all,
    mask := 0xFF, range := none, vals := [] },
  { lo := 0xB011, hi := 0xB011, els := [(0, 0)], ty := .u8, acc := .wo, eff := .commit, dflt := 0, special := false, len := 1, lim := .all,
    mask := 0xFF, range := none, vals := [] },
  { lo := 0xB012, hi := 0xB012, els := [(0, 0)], ty := .u8, acc := .wo, eff := .commit, dflt := 0, special := false, len := 1, lim := .all,
    mask := 0xFF, range := none, vals := [] },
  { lo := 0xB013, hi := 0xB013, els := [(0, 0)], ty := .u8, acc := .wo, eff := .commit, dflt := 0, special := false, len := 1, lim := .all,
    mask := 0xFF, range := none, vals := [] },
  { lo := 0xB014, hi := 0xB014, els := [(0, 0)], ty := .u32, acc := .rws, eff := .commit, dflt := 1000, special := false, len := 4, lim := .all,
    mask := 0xFFFFFFFF, range := some (10, 1000000), vals := [] },
  { lo := 0xB020, hi := 0xB020, els := [(0, 15)], ty := .u8, acc := .rw, eff := .commit, dflt := 0, special := true, len := 1, lim := .all,
    mask := 0xFF, range := none, vals := [] },
  { lo := 0xB021, hi := 0xB021, els := [(0, 0)], ty := .bits32, acc := .w1c, eff := .none, dflt := 0, special := false, len := 4, lim := .all,
    mask := 0xFFFFFFFF, range := none, vals := [] },
  { lo := 0xB022, hi := 0xB022, els := [(0, 0)], ty := .bits32, acc := .ro, eff := .none, dflt := 65520, special := false, len := 4, lim := .all,
    mask := 0xFFFFFFFF, range := none, vals := [] },
  { lo := 0xB030, hi := 0xB030, els := [(0, 0)], ty := .u64, acc := .rc, eff := .none, dflt := 0, special := false, len := 8, lim := .all,
    mask := 0xFFFFFFFFFFFFFFFF, range := none, vals := [] },
  { lo := 0xB031, hi := 0xB031, els := [(0, 63)], ty := .blob, acc := .ro, eff := .none, dflt := 0, special := false, len := 16, lim := .all,
    mask := 0xFFFFFFFFFFFFFFFFFFFFFFFFFFFFFFFF, range := none, vals := [] },
  { lo := 0xB040, hi := 0xB040, els := [(0, 0)], ty := .bool, acc := .rws, eff := .commit, dflt := 0, special := false, len := 1, lim := .all,
    mask := 0xFF, range := none, vals := [] },
  { lo := 0xB041, hi := 0xB041, els := [(0, 0)], ty := .u32, acc := .rws, eff := .commit, dflt := 1000, special := false, len := 4, lim := .all,
    mask := 0xFFFFFFFF, range := some (10, 60000), vals := [] },
  { lo := 0xB042, hi := 0xB042, els := [(0, 0)], ty := .u8, acc := .rws, eff := .commit, dflt := 50, special := false, len := 1, lim := .all,
    mask := 0xFF, range := none, vals := [] },
  { lo := 0xB043, hi := 0xB043, els := [(0, 0)], ty := .u32, acc := .ro, eff := .none, dflt := 0, special := false, len := 4, lim := .all,
    mask := 0xFFFFFFFF, range := none, vals := [] },
  { lo := 0xB044, hi := 0xB044, els := [(0, 0)], ty := .bool, acc := .rws, eff := .commit, dflt := 1, special := false, len := 1, lim := .all,
    mask := 0xFF, range := none, vals := [] }]

/-- Objects 0xBxxx. -/
def objRowsB : List ObjRow := objRowsB_1

/-- Objects 0xCxxx, part 1. -/
def objRowsC_1 : List ObjRow := [
  { lo := 0xC000, hi := 0xC000, els := [(0, 0)], ty := .u16, acc := .ro, eff := .none, dflt := 4096, special := false, len := 2, lim := .all,
    mask := 0xFFFF, range := none, vals := [] },
  { lo := 0xC001, hi := 0xC001, els := [(0, 0)], ty := .addr52, acc := .rws, eff := .commit, dflt := 0, special := false, len := 8, lim := .all,
    mask := 0xFFFFFFFFFFFFF, range := none, vals := [] },
  { lo := 0xC002, hi := 0xC002, els := [(0, 0)], ty := .bool, acc := .rws, eff := .commit, dflt := 0, special := false, len := 1, lim := .all,
    mask := 0xFF, range := none, vals := [] },
  { lo := 0xC003, hi := 0xC003, els := [(0, 0)], ty := .u32, acc := .rw, eff := .commit, dflt := 10000, special := false, len := 4, lim := .all,
    mask := 0xFFFFFFFF, range := none, vals := [] },
  { lo := 0xC004, hi := 0xC004, els := [(0, 0)], ty := .u32, acc := .rw, eff := .commit, dflt := 1000000, special := false, len := 4, lim := .all,
    mask := 0xFFFFFFFF, range := some (1, 60000000), vals := [] },
  { lo := 0xC010, hi := 0xC01F, els := [(0, 255)], ty := .u8, acc := .rws, eff := .commit, dflt := 255, special := false, len := 1, lim := .all,
    mask := 0xFF, range := none, vals := [] },
  { lo := 0xC020, hi := 0xC02F, els := [(0, 255)], ty := .blob, acc := .ro, eff := .none, dflt := 0, special := false, len := 32, lim := .all,
    mask := 0xFFFFFFFFFFFFFFFFFFFFFFFFFFFFFFFFFFFFFFFFFFFFFFFFFFFFFFFFFFFFFFFF, range := none, vals := [] },
  { lo := 0xC030, hi := 0xC030, els := [(0, 0)], ty := .u16, acc := .wo, eff := .commit, dflt := 0, special := false, len := 2, lim := .all,
    mask := 0xFFFF, range := some (0, 4095), vals := [] },
  { lo := 0xC031, hi := 0xC031, els := [(0, 0)], ty := .u8, acc := .wo, eff := .commit, dflt := 0, special := false, len := 1, lim := .all,
    mask := 0xFF, range := none, vals := [] },
  { lo := 0xC032, hi := 0xC032, els := [(0, 0)], ty := .u16, acc := .rws, eff := .commit, dflt := 0, special := false, len := 2, lim := .all,
    mask := 0xFFFF, range := some (0, 4095), vals := [] },
  { lo := 0xC040, hi := 0xC040, els := [(0, 0)], ty := .u64, acc := .rc, eff := .none, dflt := 0, special := false, len := 8, lim := .all,
    mask := 0xFFFFFFFFFFFFFFFF, range := none, vals := [] },
  { lo := 0xC041, hi := 0xC041, els := [(0, 0)], ty := .u64, acc := .rc, eff := .none, dflt := 0, special := false, len := 8, lim := .all,
    mask := 0xFFFFFFFFFFFFFFFF, range := none, vals := [] },
  { lo := 0xC042, hi := 0xC042, els := [(0, 0)], ty := .u64, acc := .rc, eff := .none, dflt := 0, special := false, len := 8, lim := .all,
    mask := 0xFFFFFFFFFFFFFFFF, range := none, vals := [] },
  { lo := 0xC043, hi := 0xC043, els := [(0, 0)], ty := .u64, acc := .rc, eff := .none, dflt := 0, special := false, len := 8, lim := .all,
    mask := 0xFFFFFFFFFFFFFFFF, range := none, vals := [] }]

/-- Objects 0xCxxx. -/
def objRowsC : List ObjRow := objRowsC_1

/-- Objects 0xDxxx, part 1. -/
def objRowsD_1 : List ObjRow := [
  { lo := 0xD000, hi := 0xD000, els := [(0, 0)], ty := .bits32, acc := .rws, eff := .commit, dflt := 0, special := false, len := 4, lim := .all,
    mask := 0xF, range := none, vals := [] },
  { lo := 0xD001, hi := 0xD001, els := [(0, 0)], ty := .bits32, acc := .ro, eff := .none, dflt := 0, special := true, len := 4, lim := .all,
    mask := 0xFFFFFFFF, range := none, vals := [] },
  { lo := 0xD002, hi := 0xD002, els := [(0, 0)], ty := .enum, acc := .ro, eff := .none, dflt := 0, special := false, len := 1, lim := .all,
    mask := 0xFF, range := none, vals := [] },
  { lo := 0xD010, hi := 0xD010, els := [(0, 0)], ty := .bool, acc := .rw, eff := .commit, dflt := 0, special := false, len := 1, lim := .all,
    mask := 0xFF, range := none, vals := [] },
  { lo := 0xD011, hi := 0xD011, els := [(0, 0)], ty := .bits32, acc := .rw, eff := .commit, dflt := 0, special := false, len := 4, lim := .all,
    mask := 0x7, range := none, vals := [] },
  { lo := 0xD012, hi := 0xD012, els := [(0, 7)], ty := .u16, acc := .rw, eff := .commit, dflt := 0, special := false, len := 2, lim := .all,
    mask := 0xFFFF, range := none, vals := [] },
  { lo := 0xD013, hi := 0xD013, els := [(0, 0)], ty := .addr52, acc := .rw, eff := .commit, dflt := 0, special := false, len := 8, lim := .all,
    mask := 0xFFFFFFFFFFFFF, range := none, vals := [] },
  { lo := 0xD014, hi := 0xD014, els := [(0, 0)], ty := .u32, acc := .rw, eff := .commit, dflt := 0, special := false, len := 4, lim := .all,
    mask := 0xFFFFFFFF, range := none, vals := [] },
  { lo := 0xD015, hi := 0xD015, els := [(0, 0)], ty := .u32, acc := .ro, eff := .none, dflt := 0, special := false, len := 4, lim := .all,
    mask := 0xFFFFFFFF, range := none, vals := [] },
  { lo := 0xD016, hi := 0xD016, els := [(0, 0)], ty := .u32, acc := .rw, eff := .commit, dflt := 0, special := false, len := 4, lim := .all,
    mask := 0xFFFFFFFF, range := none, vals := [] },
  { lo := 0xD017, hi := 0xD017, els := [(0, 0)], ty := .u64, acc := .rc, eff := .none, dflt := 0, special := false, len := 8, lim := .all,
    mask := 0xFFFFFFFFFFFFFFFF, range := none, vals := [] },
  { lo := 0xD018, hi := 0xD018, els := [(0, 0)], ty := .u32, acc := .ro, eff := .none, dflt := 0, special := true, len := 4, lim := .all,
    mask := 0xFFFFFFFF, range := none, vals := [] }]

/-- Objects 0xDxxx. -/
def objRowsD : List ObjRow := objRowsD_1

/-- Objects 0xExxx, part 1. -/
def objRowsE_1 : List ObjRow := [
  { lo := 0xE000, hi := 0xE000, els := [(0, 0)], ty := .enum, acc := .ro, eff := .none, dflt := 0, special := true, len := 1, lim := .all,
    mask := 0xFF, range := none, vals := [] },
  { lo := 0xE001, hi := 0xE001, els := [(0, 0)], ty := .enum, acc := .ro, eff := .none, dflt := 0, special := false, len := 1, lim := .all,
    mask := 0xFF, range := none, vals := [] },
  { lo := 0xE002, hi := 0xE002, els := [(0, 0)], ty := .u16, acc := .rws, eff := .commit, dflt := 0, special := true, len := 2, lim := .all,
    mask := 0xFFFF, range := none, vals := [] },
  { lo := 0xE003, hi := 0xE003, els := [(0, 0)], ty := .addr52, acc := .rws, eff := .commit, dflt := 0, special := false, len := 8, lim := .all,
    mask := 0xFFFFFFFFFFFFF, range := none, vals := [] },
  { lo := 0xE004, hi := 0xE004, els := [(0, 0)], ty := .u32, acc := .rw, eff := .commit, dflt := 0, special := false, len := 4, lim := .all,
    mask := 0xFFFFFFFF, range := some (512, 1048576), vals := [] },
  { lo := 0xE005, hi := 0xE005, els := [(0, 0)], ty := .bool, acc := .wo, eff := .commit, dflt := 0, special := false, len := 1, lim := .all,
    mask := 0xFF, range := none, vals := [] },
  { lo := 0xE006, hi := 0xE006, els := [(0, 0)], ty := .enum, acc := .ro, eff := .none, dflt := 0, special := false, len := 1, lim := .all,
    mask := 0xFF, range := none, vals := [] },
  { lo := 0xE007, hi := 0xE007, els := [(0, 0)], ty := .bool, acc := .wo, eff := .commit, dflt := 0, special := false, len := 1, lim := .all,
    mask := 0xFF, range := none, vals := [] },
  { lo := 0xE008, hi := 0xE008, els := [(0, 0)], ty := .u32, acc := .rw, eff := .commit, dflt := 5000, special := false, len := 4, lim := .all,
    mask := 0xFFFFFFFF, range := some (100, 1000000), vals := [] },
  { lo := 0xE009, hi := 0xE009, els := [(0, 0)], ty := .u32, acc := .rw, eff := .commit, dflt := 100, special := false, len := 4, lim := .all,
    mask := 0xFFFFFFFF, range := some (10, 10000), vals := [] },
  { lo := 0xE00A, hi := 0xE00A, els := [(0, 1)], ty := .u32, acc := .ro, eff := .none, dflt := 0, special := false, len := 4, lim := .all,
    mask := 0xFFFFFFFF, range := none, vals := [] }]

/-- Objects 0xExxx. -/
def objRowsE : List ObjRow := objRowsE_1

/-- The rows of the block of 4,096 indices that holds index `idx` (Table 15.11). -/
def objRows (idx : Nat) : List ObjRow :=
  match idx / 4096 with
  | 0x0 => objRows0
  | 0x1 => objRows1
  | 0x2 => objRows2
  | 0x3 => objRows3
  | 0x4 => objRows4
  | 0x5 => objRows5
  | 0x6 => objRows6
  | 0x7 => objRows7
  | 0x8 => objRows8
  | 0x9 => objRows9
  | 0xA => objRowsA
  | 0xB => objRowsB
  | 0xC => objRowsC
  | 0xD => objRowsD
  | 0xE => objRowsE
  | _ => []

/-- The row that names object `idx` with element `el`, if the tables list it (R353). -/
def objRow (idx el : Nat) : Option ObjRow :=
  (objRows idx).find? fun r => decide (r.lo ≤ idx) && decide (idx ≤ r.hi) && r.els.any fun e => decide (e.1 ≤ el) && decide (el ≤ e.2)

end Sys2Proof.Machine
end

