-- ==== Sys2Proof/Machine/Ops.lean ====
section
/-! DEFINITION. Sys2Proof/Machine/Ops.lean: the named operations every unit uses: bit fields, sorted maps, the
objects of the dictionary, logs, events and interrupt sources, the address map and the published hashes. -/
namespace Sys2Proof.Machine
open Ob

/-! ## Bits and maps -/

/-- Bit field [hi:lo] of a number (R10). -/
def bits (n hi lo : Nat) : Nat := n / 2 ^ lo % 2 ^ (hi + 1 - lo)

/-- Bit [i] of a number (R10). -/
def bit (n i : Nat) : Bool := n.testBit i

/-- The number with bit i set. -/
def setBit (n i : Nat) : Nat := n ||| 2 ^ i

/-- The number with bit i clear. -/
def clearBit (n i : Nat) : Nat := if n.testBit i then n - 2 ^ i else n

/-- The bits of a number as positions below `w`. -/
def bitList (n w : Nat) : List Nat := (List.range w).filter fun i => n.testBit i

/-- A number of `w` bits without the bits of `m`. -/
def maskOff (n m w : Nat) : Nat := (bitList n w).foldl (fun a i => if m.testBit i then a else a + 2 ^ i) 0

/-- One if true. -/
def b2n (b : Bool) : Nat := if b then 1 else 0

/-- Value at a key of a sorted map, `d` where the map lists none. -/
def kget {α : Type} (d : α) (k : Nat) : List (Nat × α) → α
  | [] => d
  | (k', v) :: t => if k' = k then v else kget d k t

/-- A sorted map with a key set; keys stay strictly rising. -/
def kput {α : Type} (k : Nat) (v : α) : List (Nat × α) → List (Nat × α)
  | [] => [(k, v)]
  | (k', v') :: t => if k < k' then (k, v) :: (k', v') :: t else if k = k' then (k, v) :: t else (k', v') :: kput k v t

/-- A sorted map without a key. -/
def kdel {α : Type} (k : Nat) : List (Nat × α) → List (Nat × α)
  | [] => []
  | (k', v) :: t => if k' = k then t else (k', v) :: kdel k t

/-- The list with the first element that meets `p` changed by `f`. -/
def updFirst {α : Type} (p : α → Bool) (f : α → α) : List α → List α
  | [] => []
  | a :: t => if p a then f a :: t else a :: updFirst p f t

/-- The list with every element that meets `p` changed by `f`. -/
def updAll {α : Type} (p : α → Bool) (f : α → α) (l : List α) : List α := l.map fun a => if p a then f a else a

/-- A sorted list with a number inserted once. -/
def insertNat (n : Nat) : List Nat → List Nat
  | [] => [n]
  | a :: t => if n < a then n :: a :: t else if n = a then a :: t else a :: insertNat n t

/-- The list without a number. -/
def dropNat (n : Nat) (l : List Nat) : List Nat := l.filter fun a => a != n

/-- Element of a list of line fields, by k. -/
def nth {α : Type} (d : α) (l : List α) (k : Nat) : α := l.getD k d

/-! ## Configuration and objects -/

/-- Number of home slices N. -/
def Eng.n (e : Eng) : Nat := e.fz.cfg.slices

/-- CAID count C. -/
def Eng.c (e : Eng) : Nat := e.fz.cfg.caids

/-- SDT-H32. -/
def Eng.isH32 (e : Eng) : Bool := e.fz.cfg == .h32

/-- Default line of interrupt source s (Table 14.3). -/
def irqRouteDefault (s : Nat) : Nat :=
  if s = 15 then 0xFF else if s = 1 ∨ s = 4 ∨ s = 5 ∨ s = 6 ∨ s = 8 ∨ s = 14 then 0 else 4

/-- Base weight and starvation-limit defaults of Table 07.7, by arbiter row. -/
def starveDefault (el : Nat) : Nat := nth 0 [256, 4096, 1024, 1024, 2048, 96, 512] el

/-- Bytes of a text, least significant first, as one number (STR objects of Table 15.10). -/
def strNat (l : List Nat) : Nat := l.reverse.foldl (fun a b => a * 256 + b) 0

/-- Defaults that depend on the element, the configuration or the fuses: Tables 07.5 and 07.7, R45, R83, R174,
R203 and the object tables of each chapter. -/
def objSpecial (fz : Fuses) (idx el : Nat) : Nat :=
  let n := fz.cfg.slices
  let c := fz.cfg.caids
  let i32 := fz.cfg == .h32
  if idx = CAID_PORT then 0xFF
  else if idx = TILEMAP_BASE then 0x100000000
  else if idx = GUARD_KPR then if el = 0 then 0xF + 0x10 * 2 ^ 16 + 0xFF * 2 ^ 72 else 0
  else if idx = SNOOP_SLOTS then 4096 / n
  else if idx = SF_INDEX_KEY_NEXT then 0xFFFF
  else if idx = QF_QUEUES then n * 8 * c
  else if idx = QF_HDR_MIN then nth 0 [5120, 1536, 128, 32, 32, 128, 512, 256] el
  else if idx = QF_DATA_MIN then nth 0 [0, 1536, 0, 0, 1024, 0, 512, 256] el
  else if idx = QF_ALLOW then if el = 0 then 5120 / c else if el = 1 then 1536 / c else 512 / c
  else if idx = ARB_STARVE_LIMIT then starveDefault el
  else if idx = HDC_MODE then b2n i32
  else if LEASE_POOL ≤ idx ∧ idx ≤ LEASE_POOL + 15 then 0xFF
  else if idx = HEAT_WEIGHT then nth 0 [1, 2, 4] el
  else if idx = REMOOR_CAID_MAP then 0xFF
  else if idx = REMOOR_DEV_MAP then 0xFF
  else if idx = BUCKET_TABLE then el % n
  else if idx = SLICE_LIT then 2 ^ n - 1
  else if idx = SPARE_FOR then 0xFF
  else if idx = DRX_PRESENT then b2n i32
  else if idx = DRX_LANE_MASK then 0xFFFF
  else if DRX_EQ_TX = idx then 0xE38700
  else if DRX_EQ_RX = idx then 0x20C
  else if idx = HIER_NODE_ID then 0xFF
  else if idx = HIER_MANAGER_NODES then 0xFFFF
  else if idx = HIER_WITNESS_NODE then 0xFF
  else if idx = HIER_PEER_MAP then 0xFF
  else if HIER_MAP ≤ idx ∧ idx ≤ HIER_MAP + 0xFF then 0xFFFF
  else if idx = MIR_PARTNER_NODE then 0xFF
  else if idx = MIR_LEASE_NODE then 0xFF
  else if idx = RAS_SCRUB_PERIOD then if el = 0 then 3600000 else 86400000
  else if idx = RAS_SPARES_LEFT then 256 + 2 ^ 16 * (match fz.cfg with | .h8 => 12 | .h16 => 17 | .h32 => 48)
  else if RAS_BANK_STATE ≤ idx ∧ idx ≤ RAS_BANK_STATE + 2 then
    let b := (idx - RAS_BANK_STATE) * 256 + el
    let used := match fz.cfg with | .h8 => 148 | .h16 => 271 | .h32 => 528
    let all := match fz.cfg with | .h8 => 160 | .h16 => 288 | .h32 => 576
    if b < used then 2 else if b < all then 1 else 0
  else if idx = PWR_DOMAIN_STATE then
    if el = 4 then 3 else if el = 0x40 then 3 else if 0x20 ≤ el ∧ n ≤ el - 0x20 then 3 else if el = 5 then 2 else 0
  else if idx = PWR_SLEEP_TARGET then if el = 4 ∨ el = 0x40 then 3 else 2
  else if idx = PWR_VOTE_HW then b2n (decide (0x20 ≤ el ∧ el - 0x20 < n))
  else if idx = PWR_WAKE_ENABLE then 1
  else if idx = WORLD_UNIT_STATE then
    if el ≤ 0x11 then 1 else if 0x24 ≤ el ∧ el ≤ 0x2F then 1 else 0
  else if idx = WORLD_IRQ_ROUTE then irqRouteDefault el
  else if idx = WORLD_LINE_OWNER then 0xFFF0
  else if idx = DBG_FUSE then fz.debugFuse
  else if idx = FW_BOOT_SRC then fz.bootSource
  else if idx = FW_MIN_SVN then fz.minSvn
  else if idx = DEV_VENDOR_NAME then strNat [73, 115, 97, 99, 105, 97]
  else if idx = DEV_MCTP_VENDOR then 0xB7E2
  else if idx = DEV_PRODUCT then strNat [83, 101, 100, 105, 97, 115, 116]
  else if idx = DEV_CONFIG then match fz.cfg with | .h8 => 0 | .h16 => 1 | .h32 => 2
  else if idx = DEV_SLICES then n
  else if idx = DEV_CAIDS then c
  else if idx = DEV_STEPPING then fz.stepMajor + 256 * fz.stepMinor
  else if idx = DEV_SERIAL then fz.serial
  else if idx = DEV_UUID then fz.uuid
  else if idx = DEV_I3C_PID then fz.i3cPid
  else if idx = DICT_EVT_ENABLE then 0xFFFFFFFF
  else if idx = DICT_I3C_STATIC then fz.i3cStatic
  else if idx = PM_BLOCKS then
    match fz.cfg with | .h32 => 0xFFFFFFFFFFFF | .h16 => 0xFFFF + 0x7F * 2 ^ 33 + 0x3F * 2 ^ 42 | .h8 => 0xFF + 0x7F * 2 ^ 33 + 0x3F * 2 ^ 42
  else if idx = PM_SMP_CLASSES then 0x43
  else if idx = TAP_IDCODE then 1 + fz.tapManuf % 2 ^ 11 * 2 + 0x5D73 * 2 ^ 12 + fz.tapStep % 16 * 2 ^ 28
  else 0

/-- Default of an object's element (R356). -/
def objDefault (fz : Fuses) (idx el : Nat) : Nat :=
  match objRow idx el with
  | some r => if r.special then objSpecial fz idx el else r.dflt
  | none => 0

/-- Value held by an object's element. -/
def Eng.obj (e : Eng) (idx el : Nat) : Nat := kget (objDefault e.fz idx el) (idx * 256 + el) e.objs

/-- Value held by element 0x00 of an object. -/
def Eng.ob (e : Eng) (idx : Nat) : Nat := e.obj idx 0

/-- The engine with an object's element set. -/
def Eng.set (e : Eng) (idx el v : Nat) : Eng := { e with objs := kput (idx * 256 + el) v e.objs }

/-- A counter object raised by an amount, at 64 bits. -/
def Eng.addObj (e : Eng) (idx el v : Nat) : Eng := e.set idx el ((e.obj idx el + v) % 2 ^ 64)

/-- A counter object raised by one. -/
def Eng.inc (e : Eng) (idx : Nat) (el : Nat := 0) : Eng := e.addObj idx el 1

/-- A gauge object lowered, never below zero. -/
def Eng.dec (e : Eng) (idx el : Nat) : Eng := e.set idx el (e.obj idx el - 1)

/-- The entries of a log table, newest first. -/
def Eng.log (e : Eng) (idx : Nat) : List Nat := kget [] idx e.logs

/-- A log table with an entry added as its newest and the oldest beyond its depth dropped. -/
def Eng.logPush (e : Eng) (idx depth v : Nat) : Eng :=
  { e with logs := kput idx ((v :: e.log idx).take depth) e.logs }

/-- Event `code` of counter block `blk` happens `n` times: its selected counters count, and the trace unit is told where
TRC_EVENTS names the pair (R374, R381, R384). Every `code` counted is above 0, the default of PM_CTR_SEL. Block 46 stops while PM
sleeps. -/
def Eng.pm (e : Eng) (blk code n : Nat) : Eng :=
  if n = 0 ∨ (blk = 46 ∧ e.obj PWR_DOMAIN_STATE 5 ≠ 0) then e
  else
    let hit := (e.objs.filter fun p => p.1 / 256 == PM_CTR_SEL + blk && p.2 == code).map fun p => p.1 % 256
    let e := hit.foldl (fun e i => e.addObj (PM_CTR + blk) i n) e
    if e.ob TRC_ENABLE = 1 ∧ bit (e.ob TRC_SOURCES) 2 ∧ ((List.range 8).any fun i => e.obj TRC_EVENTS i == blk + code * 256) then
      { e with marks := e.marks ++ List.replicate n (blk, code) }
    else e

/-- The next free value's index, and the engine with it used up. -/
def Eng.draw (e : Eng) : Nat × Eng := (e.fresh, { e with fresh := e.fresh + 1 })

/-! ## Events and interrupt sources -/

/-- An interrupt source becomes pending (R340). -/
def Eng.irq (e : Eng) (src : Nat) : Eng := e.set WORLD_IRQ_PENDING 0 (setBit (e.ob WORLD_IRQ_PENDING) src)

/-- One record at the end of the event queue (Table 15.9). -/
def Eng.pushEv (e : Eng) (code args : Nat) : Eng :=
  { e with evq := e.evq ++ [{ num := e.evNum, code := code, time := e.ts, args := args, sends := 0, at_ := 0 }],
           evNum := (e.evNum + 1) % 2 ^ 32 }

/-- An event, as R370 queues, counts or drops it. -/
def Eng.event (e : Eng) (code args : Nat) : Eng :=
  if !bit (e.ob DICT_EVT_ENABLE) code && code != 0x13 then e.inc DICT_EVT_DROPPED
  else if 1024 ≤ e.evq.length then
    let e := e.inc DICT_EVT_DROPPED
    Eng.irq { e with evLost := (e.evLost + 1) % 2 ^ 32 } 11
  else if e.evLost = 0 then e.pushEv code args
  else
    let e := { e.pushEv 0x13 e.evLost with evLost := 0 }
    if 1024 ≤ e.evq.length then
      let e := e.inc DICT_EVT_DROPPED
      Eng.irq { e with evLost := 1 } 11
    else e.pushEv code args

/-- Argument bytes of an event from pairs of byte position and value (Table 15.8). -/
def evArgs (l : List (Nat × Nat)) : Nat := l.foldl (fun a p => a + p.2 * 2 ^ (8 * p.1)) 0

/-- A hierarchy message leaves for the Hierarchy Agent (R287). -/
def Eng.hsend (e : Eng) (typ dst body : Nat) (req : Option Req) (ans : Option FwdAns) (re : Option Nat) : Eng :=
  { e with hmsgs := e.hmsgs ++ [({ typ := typ, dst := dst, body := body, req := req, ans := ans, re := re, epoch := if typ < 0x10 then e.ob MIR_EPOCH else 0 } : HMsg)] }

/-- A break message leaves for stop 44, behind the lease commands that reached it first (R207, R208). -/
def Eng.sendBreak (e : Eng) (lease caid : Option Nat) (cause : Nat) : Eng :=
  { e with breaks := e.breaks ++ [({ lease := lease, caid := caid, cause := cause, after := (e.leaseReqs.filter fun l => l.status == 8).length } : BreakMsg)] }

/-! ## Address map and hashes -/

/-- Steering bucket of a line (R45). -/
def bucketOf (line : Nat) : Nat :=
  let s := line / 4
  bits s 7 0 ^^^ bits s 15 8 ^^^ bits s 23 16 ^^^ bits s 31 24 ^^^ bits s 39 32 ^^^ bits s 43 40

/-- The stop of the spare slice (Table 01.4). -/
def spareStop : Nat := 32

/-- Slice that owns a bucket: the table's entry, or the spare where the internal spare bit is set (R45, R231). -/
def Eng.bucketOwner (e : Eng) (b : Nat) : Nat := if e.spareBkt.contains b then spareStop else e.obj BUCKET_TABLE b

/-- Slice that owns a line (R45, R20). -/
def Eng.owner (e : Eng) (line : Nat) : Nat := e.bucketOwner (bucketOf line)

/-- Slice number a slice carries (R3, R162). -/
def Eng.sliceNum (e : Eng) (s : Nat) : Nat := if s = spareStop then e.ob SPARE_FOR else s

/-- Slice whose port the slice's outbound beats leave by (R25). -/
def Eng.portOf (e : Eng) (s : Nat) : Nat := e.sliceNum s

/-- The slices that exist now: the home slices, and the spare from its swap on (R231). -/
def Eng.sliceList (e : Eng) : List Nat :=
  List.range e.n ++ (if e.ob SPARE_STATE = 0 then [] else [spareStop])

/-- Lines in one mooring unit. -/
def unitLines : Nat := 2 ^ 24

/-- First line of a pool's window. -/
def Eng.poolBase (e : Eng) (p : Nat) : Nat := e.obj POOL_BASE p / 64

/-- A line lies in pool p's window (R62). -/
def Eng.inPool (e : Eng) (p line : Nat) : Bool :=
  decide (e.poolBase p ≤ line) && decide (line < e.poolBase p + e.obj POOL_UNITS p * unitLines)

/-- The present pool whose window holds a line (R62, R69). -/
def Eng.poolOf (e : Eng) (line : Nat) : Option Nat :=
  (List.range 64).find? fun p => decide (0 < e.obj POOL_UNITS p) && e.inPool p line

/-- Tile-map index of a line of pool p (R77). -/
def Eng.tileIdx (e : Eng) (p line : Nat) : Nat := e.obj POOL_TMBASE p + (line - e.poolBase p) / 32768

/-- Mooring unit of a line of pool p (R66). -/
def Eng.unitOf (e : Eng) (p line : Nat) : Nat := e.obj POOL_TMBASE p / 512 + (line - e.poolBase p) / unitLines

/-- Mooring unit of a line, where a pool holds it. -/
def Eng.lineUnit (e : Eng) (line : Nat) : Option Nat := (e.poolOf line).map fun p => e.unitOf p line

/-- This instance is home for a mooring unit (R66). -/
def Eng.moored (e : Eng) (u : Nat) : Bool := e.moor.contains u

/-- Pool sector number of a line of pool p (R132). -/
def Eng.psnOf (e : Eng) (p line : Nat) : Nat :=
  e.tileIdx p line * 8192 + (line - e.poolBase p) % 32768 / 4

/-- Pool sector number of a line, or 0 where no pool holds it. -/
def Eng.psn (e : Eng) (line : Nat) : Nat :=
  match e.poolOf line with
  | some p => e.psnOf p line
  | none =>
    match e.purges.find? fun q => decide (q.2.1 ≤ line) && decide (line < q.2.1 + q.2.2.1 * unitLines) with
    | some q => (q.2.2.2 + (line - q.2.1) / 32768) * 8192 + (line - q.2.1) % 32768 / 4
    | none => 0

/-- Tile-map index that a pool sector number names (R132). -/
def psnTile (psn : Nat) : Nat := bits psn 37 13

/-- `sf_key` in force (R135). -/
def Eng.sfKey (e : Eng) : Nat := bits (e.ob SF_INDEX_KEY) 12 0

/-- SFA set of a pool sector number under a key (R134). -/
def sfaSet (key psn : Nat) : Nat :=
  let hi := bits psn 37 13
  bits psn 12 0 ^^^ bits hi 12 0 ^^^ (bits hi 24 13 * 2) % 8192 ^^^ bits key 12 0

/-- DBS page of a pool sector number under a key (R142). -/
def dbsPage (key psn : Nat) : Nat := bits psn 19 0 ^^^ bits psn 37 20 ^^^ bits key 12 0

/-- Home burst of a pool sector number (R142). -/
def dbsHome (psn : Nat) : Nat := (bits psn 31 20 ^^^ bits psn 37 32) % 60

/-- HDC set of a pool sector number under a key (R185). -/
def hdcSet (key psn : Nat) : Nat :=
  bits psn 7 0 ^^^ (bits psn 12 8 * 8) ^^^ bits psn 20 13 ^^^ bits psn 28 21 ^^^ bits psn 36 29
    ^^^ bits psn 37 37 ^^^ bits key 7 0

/-- DRAM channel of a DBS page or of any byte address divided by 4,096 (R47, R142). -/
def pageCh (page : Nat) : Nat := page % 4

/-- Device address [51:6] of a line under a tile-map entry of pool p (R77). -/
def Eng.dpaOf (e : Eng) (t : Tent) (line : Nat) : Nat := t.dpa * 32768 + (line - e.poolBase t.pool) % 32768

/-- State of a CAID: 0 Unbound, 1 Bound, 2 Sweeping-planned, 3 Sweeping-surprise (Table 03.1). -/
def Eng.caidSt (e : Eng) (c : Nat) : Nat := e.obj CAID_STATE c

/-- CAIDs that coarse-group snooping covers for a line of pool p (R67). -/
def Eng.covered (e : Eng) (p c : Nat) : Bool :=
  (e.caidSt c == 1 && bit (e.obj CAID_POOLS c) p)
    || ((e.caidSt c == 1 || e.caidSt c == 2) && bit (e.obj CAID_SWEEP_POOLS c) p)

/-- All CAIDs of the configuration. -/
def Eng.caidList (e : Eng) : List Nat := List.range e.c

/-- A log time field, TSCLK [47:0]. -/
def Eng.t48 (e : Eng) : Nat := e.ts % 2 ^ 48

/-! ## States -/

/-- Code of a stable state (Table 04.5). -/
def LSt.code : LSt → Nat
  | .I => 0 | .S1 _ => 1 | .S2 _ _ => 2 | .SC _ => 3 | .X _ => 4 | .H => 5 | .P => 6 | .spare => 7

/-- Sharer field of a stable state (Table 04.5). -/
def LSt.field : LSt → Nat
  | .S1 a => a | .S2 a b => a + 256 * b | .SC g => g | .X o => o | _ => 0

/-- CAIDs a state names by pointer (R152). -/
def LSt.ptrs : LSt → List Nat
  | .S1 a => [a] | .S2 a b => [a, b] | .X o => [o] | _ => []

/-- Group bits of a state in SC (R152). -/
def LSt.groups : LSt → List Nat
  | .SC g => bitList g 16 | _ => []

/-- A state names a holder. -/
def LSt.held : LSt → Bool
  | .S1 _ | .S2 _ _ | .SC _ | .X _ => true
  | _ => false

/-- Group of a CAID (Table 04.5). -/
def grp (c : Nat) : Nat := c / 16

/-- Add CAID c as a sharer (Table 04.6). -/
def LSt.add (s : LSt) (c : Nat) : LSt :=
  match s with
  | .I => .S1 c
  | .S1 a => if a = c then .S1 c else .S2 (min a c) (max a c)
  | .S2 a b => if a = c ∨ b = c then .S2 a b else .SC (setBit (setBit (2 ^ grp a) (grp b)) (grp c))
  | .SC g => .SC (setBit g (grp c))
  | .X o => if o = c then .S1 c else .S2 (min o c) (max o c)
  | s => s

/-- Remove CAID c (Table 04.6). -/
def LSt.remove (s : LSt) (c : Nat) : LSt :=
  match s with
  | .S1 a => if a = c then .I else .S1 a
  | .S2 a b => if a = c then .S1 b else if b = c then .S1 a else .S2 a b
  | .X o => if o = c then .I else .X o
  | s => s

/-- Code of a transient state (Table 05.1). -/
def TC.code : TC → Nat
  | .open0 => 0 | .isD => 1 | .ixD => 2 | .sxB => 3 | .xsB => 4 | .xsW => 5 | .xxB => 6 | .xxW => 7 | .evB => 8
  | .drC => 9 | .ahB => 0xA | .mrF => 0xB | .sxC => 0xC | .xsC => 0xD | .xxC => 0xE | .evC => 0xF | .ahC => 0x10
  | .isT => 0x11 | .ixT => 0x12 | .sxT => 0x13 | .xsT => 0x14 | .xxT => 0x15 | .evT => 0x16 | .drT => 0x17
  | .ahT => 0x18

/-- A `_T` form. -/
def TC.isTForm : TC → Bool
  | .isT | .ixT | .sxT | .xsT | .xxT | .evT | .drT | .ahT => true
  | _ => false

/-- A `_B` or `_C` form: a round is open (Table 05.1). -/
def TC.isRound : TC → Bool
  | .sxB | .xsB | .xxB | .evB | .ahB | .sxC | .xsC | .xxC | .evC | .ahC => true
  | _ => false

/-- The `_T` form of the same prefix (Table 05.1); the open state and `MR_F` have none (R390). -/
def TC.tform : TC → TC
  | .isD | .isT => .isT
  | .ixD | .ixT => .ixT
  | .sxB | .sxC | .sxT => .sxT
  | .xsB | .xsC | .xsW | .xsT => .xsT
  | .xxB | .xxC | .xxW | .xxT => .xxT
  | .evB | .evC | .evT => .evT
  | .drC | .drT => .drT
  | .ahB | .ahC | .ahT => .ahT
  | .open0 => .open0
  | .mrF => .mrF

/-- The `_C` form of a `_B` form, and other states unchanged (R118). -/
def TC.toC : TC → TC
  | .sxB => .sxC | .xsB => .xsC | .xxB => .xxC | .evB => .evC | .ahB => .ahC
  | t => t

/-! ## Protocol errors and refusals -/

/-- A PROTO_ERR_LOG entry (Table 04.16). -/
def protoEntry (e : Eng) (cause kind opc caid st line : Nat) : Nat :=
  cause + kind * 2 ^ 8 + opc * 2 ^ 12 + caid * 2 ^ 16 + st * 2 ^ 24 + line * 2 ^ 28 + e.t48 * 2 ^ 74

/-- A protocol error counted and logged for a slice number (R17, R88, R112). -/
def Eng.protoErr (e : Eng) (slice cause kind opc caid st line : Nat) : Eng :=
  (e.inc PROTO_ERR_COUNT (e.sliceNum slice)).logPush PROTO_ERR_LOG 64 (protoEntry e cause kind opc caid st line)

/-- A STRANGER_LOG entry (Table 03.4). -/
def strangerEntry (e : Eng) (reason kind opc caid port line : Nat) : Nat :=
  reason + kind * 2 ^ 4 + opc * 2 ^ 8 + caid * 2 ^ 12 + port * 2 ^ 20 + line * 2 ^ 28 + e.t48 * 2 ^ 74

/-- The stranger event of R71, at most one per CAID in STRANGER_EVT_GAP. -/
def Eng.strangerEvent (e : Eng) (reason caid port line : Nat) : Eng :=
  let gap := e.ob STRANGER_EVT_GAP * 1000
  match e.stranger.find? fun p => p.1 == caid with
  | some (_, t) =>
    if e.ts < t + gap then e
    else Eng.event { e with stranger := kput caid e.ts e.stranger } 0x01
      (evArgs [(0, reason), (1, caid), (2, port), (3, line)])
  | none => Eng.event { e with stranger := kput caid e.ts e.stranger } 0x01
      (evArgs [(0, reason), (1, caid), (2, port), (3, line)])

/-- A refusal counted, logged and reported (R71). -/
def Eng.refuse (e : Eng) (reason kind opc caid port line : Nat) : Eng :=
  let e := e.inc STRANGER_COUNT reason
  let e := if reason = 1 ∨ reason = 4 then e.inc STRANGER_PORT_COUNT (port % 64) else e
  let e := e.logPush STRANGER_LOG 64 (strangerEntry e reason kind opc caid port line)
  e.strangerEvent reason caid port line

/-! ## Partition Guard -/

/-- Paths of the Partition Guard (R80). -/
inductive GPath where
  | backing | directory | keeper
  deriving DecidableEq, Repr

/-- Objects that hold a path's region registers. -/
def GPath.obj : GPath → Nat
  | .backing => GUARD_BKG | .directory => GUARD_DIR | .keeper => GUARD_KPR

/-- A region register permits an access (R81): initiator bit, world, write, first and last page, device, pool. -/
def guardMatch (path : GPath) (r init : Nat) (secure wr : Bool) (pa pb dev pool : Nat) : Bool :=
  bit r 0 && bit (bits r 23 16) init && (if wr then bit r 2 else bit r 1) && (!bit r 3 || secure)
    && decide (bits r 71 32 ≤ pa) && decide (pb ≤ bits r 111 72)
    && (path != .backing || (bits r 15 8 == dev && (bit r 30 || bits r 29 24 == pool)))

/-- An access is permitted on its path (R81, R83). -/
def Eng.guardOk (e : Eng) (path : GPath) (init : Nat) (secure wr : Bool) (pa pb dev pool : Nat) : Bool :=
  (path == .keeper || e.ob GUARD_ARM == 1)
    && (List.range 256).any fun i => guardMatch path (e.obj path.obj i) init secure wr pa pb dev pool

/-- A refused access, logged with its interrupt (R82). -/
def Eng.guardFault (e : Eng) (path : GPath) (init : Nat) (wr : Bool) (page : Nat) : Eng :=
  let p := match path with | .backing => 0 | .directory => 1 | .keeper => 2
  (e.logPush GUARD_FAULT_LOG 64 (p + init * 4 + b2n wr * 2 ^ 8 + (page % 2 ^ 40) * 2 ^ 9 + e.ts * 2 ^ 49 % 2 ^ 113)).irq 1

/-! ## Beat fields of a request (Table 02.3, Table 04.1) -/

/-- Kind of the beat that brought a request. -/
def Op.kind : Op → Nat
  | .memWr | .memWrPtl => 1
  | .atomic => 6
  | _ => 0

/-- Opcode of the beat that brought a request, `uio_op` for kind 0x6; 0 for an internal operation, which no beat brought. -/
def Req.opc (r : Req) : Nat :=
  match r.op with
  | .memRd | .memWr => 1
  | .memRdData | .memWrPtl => 2
  | .memSpecRd => 8
  | .memInvNT => 9
  | .memClnEvct => 10
  | .atomic => r.row
  | _ => 0

/-! ## Watch contexts -/

/-- A context by slice and index. -/
def Eng.ctx (e : Eng) (slice idx : Nat) : Option Ctx := e.ctxs.find? fun x => x.slice == slice && x.idx == idx

/-- The engine with a context replaced. -/
def Eng.setCtx (e : Eng) (x : Ctx) : Eng :=
  { e with ctxs := updFirst (fun y => y.slice == x.slice && y.idx == x.idx) (fun _ => x) e.ctxs }

/-- The engine without a context: it retires (R164). -/
def Eng.delCtx (e : Eng) (slice idx : Nat) : Eng :=
  { e with ctxs := e.ctxs.filter fun y => !(y.slice == slice && y.idx == idx) }

/-- The operation is an HDC write-back, which is open on no line (R190). -/
def Op.isWback : Op → Bool
  | .wback => true
  | _ => false

/-- The context allocated for a line, write-backs apart: the one that holds the line's way, before one that waits for a way. -/
def Eng.lineCtx (e : Eng) (line : Nat) : Option Ctx :=
  let mine := e.ctxs.filter fun x => x.req.line == line && !x.req.op.isWback
  match mine.find? fun x => decide (x.phase ≠ .waitSet) with
  | some x => some x
  | none => mine.head?

/-- A backing access of the line is open (R105): by its context or by an HDC write-back, whose second write counts until it is
issued (R220). -/
def Eng.lineAcc (e : Eng) (line : Nat) : Bool := e.ctxs.any fun x => x.req.line == line && (x.acc.isSome || (x.req.op.isWback && x.dup.isSome))

/-- Context occupancy of a slice (R95, R164). -/
def Eng.occ (e : Eng) (slice : Nat) : Nat := (e.ctxs.filter fun x => x.slice == slice).length

/-- DevLoad band of a slice's occupancy (R95). -/
def occBand (n : Nat) : Nat := if n < 4096 then 0 else if n < 6144 then 1 else if n < 7373 then 2 else 3

/-- DevLoad of an answer: the occupancy band, or the device's last DevLoad where higher (R95). -/
def Eng.devLoadOf (e : Eng) (slice : Nat) (t : Option Tent) : Nat :=
  match t with
  | some t => if t.valid then max (occBand (e.occ slice)) (kget 0 t.dev e.devLoad) else occBand (e.occ slice)
  | none => occBand (e.occ slice)

/-- HTID of a context (R162). -/
def Eng.htid (e : Eng) (slice idx : Nat) : Nat := e.sliceNum slice * 8192 + idx

/-- Words of a store with an error beyond correction, as the RAS Unit sees them (R291): the mask on the stored
codeword, 0 where none. -/
def Eng.errMask (e : Eng) (store unit word : Nat) : Nat :=
  match e.errs.find? fun b => b.store == store && b.unit == unit && b.word == word with
  | some b => b.mask
  | none => 0

end Sys2Proof.Machine
end

