-- ==== Sys2Proof/Machine/PlatState.lean ====
section
/-! DEFINITION. Sys2Proof/Machine/PlatState.lean: the state of power, reset, Keeper, the dictionary's paths, the
management transports, the Performance Monitor, the trace unit and the TAP (chapters 13 to 16 of spec/). -/
namespace Sys2Proof.Machine

/-! ## Power (chapter 13) -/

/-- A rail's outputs and handshake (Table 02.8, R57). -/
structure Rail where
  field : Nat
  req : Bool
  ack : Bool
  /-- Setting before the request now open (R58). -/
  old : Nat
  /-- Setting to request once the rail is free and Brace allows it. -/
  want : Option Nat
  /-- AONCLK time at which `req` rose (R58). -/
  since : Nat := 0
  deriving DecidableEq, Repr

/-- How far the block has come towards service (R320, R328 to R330, Table 13.7). -/
inductive Run where
  /-- No always-on input supply. -/
  | dead
  /-- A reset input or a supply hold keeps the block in reset. -/
  | held
  /-- Steps 3, 5 and 6 of Table 13.7 wait for their rails. -/
  | vco
  | vsa
  | vsl
  | up
  deriving DecidableEq, Repr

/-- A running change of performance level (R318). -/
structure LevelCh where
  target : Nat
  raise : Bool
  /-- The rail handshake has ended (raise), or the clocks have switched (lower). -/
  half : Bool
  deriving DecidableEq, Repr

/-- Steps of block sleep at which the block waits (Table 13.5, R323, R324). -/
inductive SlpSt where
  | awake
  /-- Steps 1 and 2: admission is closed. -/
  | quiescing
  /-- Step 4: wake detection passes to the wake sampler. -/
  | arming
  /-- Step 5: the slice rail goes off, then the array rail to retention. -/
  | offVsl
  | offVsa
  /-- Step 6. -/
  | offVsa2
  | offVco
  | asleep
  /-- R324: the regulator settles. -/
  | hp
  /-- R324 step 3: CORE rail. -/
  | onVco
  | onVsa
  | onVsl
  deriving DecidableEq, Repr

/-- The Power and Clock Controller. -/
structure Pwr where
  /-- Time since the always-on supply was applied, in ns, by AONCLK, which runs whatever CORE does (R55, R329). -/
  aon : Nat
  run : Run
  por : Bool
  warm : Bool
  /-- Held by a brown-out, and by a supply reset (R320, R328). -/
  brown : Bool
  supply : Bool
  /-- The supply is below the warning level, or `pw_vwarn_n` asserted, while the block is in block Eclipse (R328). -/
  low : Bool
  chipReq : Bool
  /-- Rails `vco`, `vsa`, `vsl`, `vml` in that order. -/
  rails : List Rail
  level : Option LevelCh
  /-- The last PWR_LEVEL committed while a change was running (R318). -/
  levelNext : Option Nat
  slp : SlpSt
  /-- 1 block Eclipse, 2 block Extinguished. -/
  slpTo : Nat
  /-- Source code of the wake that exits next, and whether it is a level (R322, R325). -/
  wake : Option (Nat × Bool)
  /-- Time Brace was entered (R327). -/
  braceAt : Nat
  /-- A regulator switch to high power is running (R319). -/
  hpWait : Bool
  /-- Time that switch began. -/
  hpAt : Nat
  /-- Domains woken by PWR_FORCE_WAKE and not voted for since (R319). -/
  forced : List Nat
  /-- AONCLK time at which a domain's running entry or exit may end (Table 13.3), and at which block sleep was reached. -/
  domEnds : List (Nat × Nat)
  sleptAt : Nat
  wdtOn : Bool
  /-- AONCLK cycles counted by the secure watchdog (R347). -/
  wdtCnt : Nat
  wdtWarned : Bool
  /-- End of step 4 of Table 13.5. -/
  armEnd : Nat
  /-- Level wake sources now asserted, by bit of Table 13.6. -/
  levels : List Nat
  deriving DecidableEq, Repr

/-! ## Keeper (chapter 14) -/

/-- State banked per world (R335). -/
structure Bank where
  mstatus : BitVec 32
  mtvec : BitVec 32
  mepc : BitVec 32
  mcause : BitVec 32
  mtval : BitVec 32
  mscratch : BitVec 32
  mie : BitVec 32
  mtimecmp : BitVec 64
  mcycle : BitVec 64
  minstret : BitVec 64
  kwdwin : BitVec 12
  deriving DecidableEq, Repr

/-- A firmware image in SRAM (Table 14.7). -/
structure Img where
  load : Nat
  len : Nat
  entry : Nat
  version : Nat
  deriving DecidableEq, Repr

/-- Firmware update in progress (R351): the image a rollback returns to, the new one, and the deadline of step 2 or step 4. -/
structure FwUpd where
  old : Option Img
  new : Img
  ends : Nat
  deriving DecidableEq, Repr

/-- Keeper: the hart, its memory, debug and firmware state. -/
structure Kpr where
  /-- Keeper has left reset (step 4 of Table 13.7). -/
  on : Bool
  /-- Secure firmware has been loaded and entered (R336). -/
  booted : Bool
  world : World
  /-- Machine mode. -/
  mmode : Bool
  pc : BitVec 32
  /-- x1 to x31. -/
  regs : Vector (BitVec 32) 31
  nb : Bank
  sb : Bank
  /-- `kwstat` [1] and [2], `kwentry`, `kwnepc` (Table 14.2). -/
  ret : Bool
  npp : Bool
  kwentry : BitVec 32
  kwnepc : BitVec 32
  /-- DBG_STATE as a world, and a halt request that waits (R349). -/
  halted : Option World
  haltReq : Bool
  /-- Local SRAM, and the carrier DRAM that firmware images use, as cells (address, byte); an unlisted cell reads 0 (log
  entry 7). -/
  sram : List Host.Cell
  dram : List Host.Cell
  /-- Image transfer opened by FW_BEGIN: its length (R365). -/
  imgLen : Option Nat
  upd : Option FwUpd
  /-- Requesting world of a unit's pending hand-over, by unit (R342). -/
  hoBy : List (Nat × World)
  /-- Time a hand-over was requested, and once its reset has begun the time that ends, by unit (R342, Table 14.4). -/
  hoAt : List (Nat × Nat)
  /-- Units released whose reset has not begun (R343). -/
  hoRel : List Nat
  /-- Breakpoints set through the debug module (Table 14.8). -/
  bps : List Nat
  /-- The normal image in force: load offset, length, entry offset, version (R350, R351). -/
  nimg : Option Img
  deriving DecidableEq, Repr

/-! ## The dictionary's paths (chapter 15) -/

/-- A write of an object's element. -/
structure OWr where
  idx : Nat
  el : Nat
  val : Nat
  deriving DecidableEq, Repr

/-- One world's copy of the object access port (Table 15.4). -/
structure Oap where
  obj : Nat
  status : Nat
  busy : Bool
  data : BitVec 512
  deriving DecidableEq, Repr

/-- A commit on its way to its commit edge (R358): `arrival` is the edge at which the port sees it, `lead` the
DICT_COMMIT_LEAD in force there once it has arrived, `ws` the writes it carries, in ascending order of index and element. -/
structure Cmt where
  world : World
  arrival : Nat
  lead : Option Nat
  num : Nat
  ws : List OWr
  deriving DecidableEq, Repr

/-- Where an MCTP packet came from and its response goes: the mailbox with a route cookie, or I3C (R368, R369). -/
inductive Via where
  | mailbox (cookie : Nat)
  | i3c
  deriving DecidableEq, Repr

/-- Addressing of an MCTP message: transport, peer EID, tag and tag owner. -/
structure MAddr where
  via : Via
  eid : Nat
  tag : Nat
  owner : Bool
  deriving DecidableEq, Repr

/-- An assembly in progress (R364). -/
structure Asm where
  addr : MAddr
  seq : Nat
  bytes : List (BitVec 8)
  deriving DecidableEq, Repr

/-- A dictionary request waiting in its world's queue (R366, R367). -/
structure DReqQ where
  world : World
  addr : MAddr
  inst : Nat
  cmd : Nat
  body : List (BitVec 8)
  at_ : Nat
  /-- The commit it has made and whose outcome it awaits. -/
  cmt : Option Nat
  deriving DecidableEq, Repr

/-- A message or word the endpoint sends: its transport, and the packet's bytes (R364 to R369). -/
structure MOut where
  via : Via
  bytes : List (BitVec 8)
  deriving DecidableEq, Repr

/-- The I3C target (R368). -/
structure I3c where
  dyn : Option Nat
  ibi : Bool
  mwl : Nat
  mrl : Nat
  /-- HDR has been entered: the target waits for the exit pattern. -/
  hdr : Bool
  /-- Bytes the target answered on the bus to the last read or GET; `nack` marks a refusal. -/
  answer : List (BitVec 8)
  nack : Bool
  deriving DecidableEq, Repr

/-- The dictionary's paths. -/
structure Dic where
  stS : List OWr
  stN : List OWr
  oapS : Oap
  oapN : Oap
  commits : List Cmt
  numS : Nat
  numN : Nat
  /-- T of the last commit handled, and whether one has been. -/
  lastT : Option Nat
  asms : List Asm
  reqs : List DReqQ
  /-- Packets waiting on the mailbox, the words of the one that leaves now, and packets waiting for I3C reads. -/
  mbQ : List MOut
  mbOut : List (BitVec 32)
  i3cQ : List (List (BitVec 8))
  i3c : I3c
  /-- Next MCTP tag for EVENT requests. -/
  tag : Nat
  /-- Transport on which each endpoint was last heard. -/
  routes : List (Nat × Via)
  deriving DecidableEq, Repr

/-! ## Performance Monitor, trace and TAP (chapter 16) -/

/-- A histogram key: CAID, opcode class and bin (R380). -/
structure HKey where
  caid : Nat
  cls : Nat
  bin : Nat
  deriving DecidableEq, Repr

/-- A merged histogram increment of a slice (R380). -/
structure HMerge where
  slice : Nat
  key : HKey
  count : Nat
  deriving DecidableEq, Repr

/-- What a trace record marks (R384): a Keeper flow record (0 taken branch, 1 trap, 2 `mret`, 3 world switch) of a world, an
event of a counter block, or a loss of records. -/
inductive TrcK where
  | flow (kind : Nat) (w : World)
  | event (blk code : Nat)
  | loss (n : Nat)
  deriving DecidableEq, Repr

/-- A trace record with its TSCLK [47:0]. -/
structure TrcRec where
  kind : TrcK
  time : Nat
  deriving DecidableEq, Repr

/-- The monitor, the trace unit and the TAP. -/
structure Pm where
  /-- Selected records on their way to stop 46, and the sampler buffer (R376, R378). -/
  smpWay : List (BitVec 512)
  smpBuf : List (BitVec 512)
  merges : List HMerge
  /-- Time at which a slice last sent its merged increments, by slice (R380). -/
  mergeAt : List (Nat × Nat)
  /-- Increments on their way to stop 46. -/
  histWay : List (HKey × Nat)
  /-- Bins by CAID, class and bin: `(caid * 8 + cls) * 64 + bin`. -/
  bins : List (Nat × Nat)
  /-- Snapshot blocks that have not copied, and those of them that have received the broadcast in time (R375). -/
  snapLeft : List Nat
  snapArmed : List Nat
  /-- Records of the trace FIFO, oldest first, and records lost since the last loss marker (R384). -/
  trc : List TrcRec
  trcLost : Nat
  /-- Records of a committed flush that have not reached the ring (R378). -/
  flush : Option Nat
  /-- TAP: instruction register, segment insertion bits, and status bits of the instruments (R382, R383). -/
  ir : Nat
  sib : Nat
  stat : Nat
  /-- Value the last instrument operation captured into the data register. -/
  dr : Nat
  /-- The TAP debug module is attached (R349). -/
  attached : Bool
  deriving DecidableEq, Repr

end Sys2Proof.Machine
end

