-- ==== Sys2Proof/Machine/ChipState.lean ====
section
/-! DEFINITION. Sys2Proof/Machine/ChipState.lean: the whole block but its queue of waiting commands, and the value every part has
after a reset. -/
namespace Sys2Proof.Machine
open Ob

/-- The block: coherence side, Draix link, Mirror Engine and Hierarchy Agent, power and clocks, Keeper, the dictionary's paths,
and the Performance Monitor with the trace unit and the TAP. -/
structure Chip where
  eng : Eng
  d : Drx
  mir : Mir
  pwr : Pwr
  kpr : Kpr
  dic : Dic
  pm : Pm
  deriving DecidableEq, Repr

/-- The fabric side of the block. -/
def Chip.fab (c : Chip) : Fab := { eng := c.eng, d := c.d, mir := c.mir }

/-- The block with its fabric side replaced. -/
def Chip.setFab (c : Chip) (f : Fab) : Chip := { c with eng := f.eng, d := f.d, mir := f.mir }

/-- The state of the RAS Unit at reset. -/
def ras0 : RasSt :=
  { repeats := [], stuck := [], avoid := [], armed := [], recent := [], repairSent := [], scrub := [], bank := none }

/-- No re-mooring. -/
def noRemoor : Remoor :=
  { role := .none, unit := 0, peer := 0, step := 0, cursors := [], sent := [], committed := [], wrote := [], timer := none, failed := [] }

/-- The coherence side at reset (R33, R56, R136, R330, R356): every object at its default but those listed. -/
def eng0 (fz : Fuses) (fresh : Nat) (keep : List (Nat × Nat)) : Eng :=
  { fz := fz, ts := 0, fresh := fresh, objs := keep, logs := [], svc := [], portUp := [], portLow := [], retry := [], outq := [], stages := [], bktOut := [], uerrN := [], uerr := [],
    brace := false, foghorn := false, devLoad := [], moor := [], purges := [], sweeps := [], uscans := [], rfound := [], stranger := [], qf := [], lineq := [], slots := [],
    arbs := [], undo := [], rx := [], gal := [], islots := [], drainEff := [], ctxs := [], quar := [], snps := [], hold := [], sfa := [], spill := [], waiters := [], pressure := [], fills := [],
    dbs := [], overflows := [], evicts := [], taint := [], hdc := [], evb := [], streams := [], preload := none, hdcLeft := [], pred := [], echo := [],
    hIdle := [], leases := [], leaseReqs := [], breaks := [], tmap := [], written := [], tcache := [], walks := [], tileWrs := [], seqs := [],
    dcmds := [], hdrGap := [], dopen := [], withheld := [], remap := [], heatBuf := [], heatPass := 0, heatLeft := none, unitHeat := [], unitDbs := [],
    heatMsgs := [], heatDue := 0, heatWait := false, chans := [], halted := [], remoor := noRemoor, installs := [], mapLog := [], rmgr := [],
    fwds := [], handoff := none, swap := none, spareBkt := [], mrecs := [], mirHold := false, fenced := false, deltas := [], survivor := false,
    mswap := none, hmsgs := [], smps := [], smpGap := [], smpSeq := [], hists := [], marks := [], errs := [], ras := ras0, wayOff := [], rwlDone := [],
    evq := [], evNum := 0, evLost := 0, notices := [] }

/-- A bank of Keeper's state at reset: 0 (log entry 4). -/
def bank0 : Bank :=
  { mstatus := 0, mtvec := 0, mepc := 0, mcause := 0, mtval := 0, mscratch := 0, mie := 0, mtimecmp := 0, mcycle := 0, minstret := 0, kwdwin := 0 }

/-- Keeper in reset: S-M at the boot ROM, once it leaves reset (R336); registers the spec gives no value are 0 (log entry 4). -/
def kpr0 (dram : List Host.Cell) : Kpr :=
  { on := false, booted := false, world := .secure, mmode := true, pc := 0, regs := Vector.replicate 31 0, nb := bank0, sb := bank0, ret := false,
    npp := false, kwentry := 0, kwnepc := 0, halted := none, haltReq := false, sram := [], dram := dram, imgLen := none, upd := none, hoBy := [],
    hoAt := [], hoRel := [], bps := [], nimg := none }

/-- One world's object access port at reset. -/
def oap0 : Oap := { obj := 0, status := 0, busy := false, data := 0 }

/-- The dictionary's paths at reset. The I3C limits are those of the packets of R368. -/
def dic0 : Dic :=
  { stS := [], stN := [], oapS := oap0, oapN := oap0, commits := [], numS := 0, numN := 0, lastT := none, asms := [], reqs := [], mbQ := [],
    mbOut := [], i3cQ := [], i3c := { dyn := none, ibi := false, mwl := 68, mrl := 68, hdr := false, answer := [], nack := false }, tag := 0, routes := [] }

/-- The monitor, the trace unit and the TAP at reset; the TAP holds IDCODE (R382). -/
def pm0 : Pm :=
  { smpWay := [], smpBuf := [], merges := [], mergeAt := [], histWay := [], bins := [], snapLeft := [], snapArmed := [], trc := [], trcLost := 0, flush := none, ir := 1, sib := 0,
    stat := 0, dr := 0, attached := false }

/-- A rail at rest at a setting. -/
def railAt (v : Nat) : Rail := { field := v, req := false, ack := false, old := v, want := none }

/-- The rails at the reset values of Table 02.8: all off. -/
def rails0 : List Rail := [railAt 0, railAt 0, railAt 7, railAt 0]

/-- The Power and Clock Controller while a reset input is asserted. -/
def pwr0 : Pwr :=
  { aon := 0, run := .held, por := true, warm := false, brown := false, supply := false, low := false, chipReq := false, rails := rails0, level := none, levelNext := none,
    slp := .awake, slpTo := 0, wake := none, braceAt := 0, hpWait := false, hpAt := 0, forced := [], domEnds := [], sleptAt := 0, wdtOn := false, wdtCnt := 0, wdtWarned := false, armEnd := 0, levels := [] }

/-- Identity and configuration in fuses: the part modelled is an SDT-H32 (R391, log entry 3). -/
def fuses0 : Fuses :=
  { cfg := .h32, stepMajor := 0x42, stepMinor := 0x31, serial := 1, uuid := 0x00000000000000800040000000000001, i3cPid := 1, i3cStatic := 0x2A,
    debugFuse := 0, bootSource := 0, minSvn := 0, keyHash := [0, 0, 0, 0], tapManuf := 1, tapStep := 1, bootWin := 0 }

/-- The block with the always-on supply applied and `rs_por_n` asserted (R33, R356). -/
def Chip.reset : Chip :=
  { eng := eng0 fuses0 0 [], d := drx0, mir := mir0, pwr := pwr0, kpr := kpr0 [], dic := dic0, pm := pm0 }

end Sys2Proof.Machine
end

