-- ==== Sys2Proof/Machine/State.lean ====
section
/-! DEFINITION. Sys2Proof/Machine/State.lean: the machine's state, its reset value, and the reasons a step can stop. -/
namespace Sys2Proof.Machine

/-- The block, and the commands that wait, first in, first out. -/
structure State extends Chip where
  pending : List Instr
  deriving DecidableEq, Repr

/-- Reasons for a fault. No command of this block faults: every error that the spec names is an effect on State. -/
inductive Fault where
  /-- No definition raises it; the type is kept inhabited for the host's interface. Safe. -/
  | noFault
  deriving DecidableEq, Repr

/-- Reasons for a refusal. -/
inductive Refusal where
  /-- An arm of `exec` whose command has no meaning yet. Safe: the machine stops. -/
  | notModelled (mnemonic : String)
  deriving DecidableEq, Repr

/-- The machine after reset: the always-on supply applied, `rs_por_n` asserted, every object at its default, no command waiting
(R33, R56, R356; log entries 4 and 16). -/
def State.reset : State := { toChip := Chip.reset, pending := [] }

end Sys2Proof.Machine
end

