-- ==== Sys2Proof/Machine/Ecc.lean ====
section
/-! DEFINITION. Sys2Proof/Machine/Ecc.lean: the error codes of chapter 12 and the RAS Unit's counts, logs and repeat
tables (R291 to R300, R303). -/
namespace Sys2Proof.Machine
open Ob

/-- R17 for a unit whose protocol-error counter and log have no object of their own (log entry 59). -/
def Eng.unitErr (e : Eng) (unit code : Nat) : Eng :=
  { e with uerrN := kput unit (kget 0 unit e.uerrN + 1) e.uerrN, uerr := ((unit, code, e.ts) :: e.uerr).take 64 }

/-! ## SEC-DED (R292) -/

/-- Number of bits set below width w. -/
def weight (n w : Nat) : Nat := (bitList n w).length

/-- Columns of the data bits: the r-bit vectors of odd weight 3 or more, in ascending order. -/
def oddCols (r : Nat) : List Nat := (List.range (2 ^ r)).filter fun v => weight v r % 2 == 1 && decide (3 ≤ weight v r)

/-- Columns of a code over k data bits with r check bits, data bits first. -/
def secCols (k r : Nat) : List Nat := (oddCols r).take k ++ (List.range r).map fun i => 2 ^ i

/-- Check bits of a data word (R292). -/
def secCheck (k r data : Nat) : Nat :=
  ((oddCols r).take k).zipIdx.foldl (fun s c => if data.testBit c.2 then s ^^^ c.1 else s) 0

/-- What a code says of a word as it is read. -/
inductive Ecc where
  | ok
  | corr (pos : Nat) (syn : Nat)
  | bad (syn : Nat)
  deriving DecidableEq, Repr

/-- Syndrome of an error pattern: data bits from bit 0, check bits from bit k. -/
def secSyn (k r mask : Nat) : Nat :=
  (secCols k r).zipIdx.foldl (fun s c => if mask.testBit c.2 then s ^^^ c.1 else s) 0

/-- Outcome of a SEC-DED read of a word with an error pattern (R292). -/
def secRead (k r mask : Nat) : Ecc :=
  let s := secSyn k r mask
  if s = 0 then .ok
  else match (secCols k r).findIdx? fun c => c == s with
    | some i => .corr i s
    | none => .bad s

/-! ## Symbol codes over GF(16) (R293, R294) -/

/-- Multiplication by α in GF(16), field polynomial x^4 + x + 1. -/
def gfX (a : Nat) : Nat := if a < 8 then 2 * a else (2 * a) ^^^ 0b10011

/-- Product in GF(16). -/
def gfMul (a b : Nat) : Nat :=
  (if b.testBit 0 then a else 0) ^^^ (if b.testBit 1 then gfX a else 0) ^^^ (if b.testBit 2 then gfX (gfX a) else 0)
    ^^^ (if b.testBit 3 then gfX (gfX (gfX a)) else 0)

/-- A 12-bit column scaled by an element of GF(16). -/
def colMul (g v : Nat) : Nat :=
  gfMul g (bits v 3 0) + 16 * gfMul g (bits v 7 4) + 256 * gfMul g (bits v 11 8)

/-- The value is a multiple of some column of a list. -/
def isMul (cols : List Nat) (v : Nat) : Bool := cols.any fun u => (List.range 16).any fun g => colMul g u == v

/-- The test a candidate column must pass (R293). -/
def acceptCol (cols : List Nat) (v : Nat) : Bool :=
  let basis := [1, 2, 4, 8]
  !isMul cols v
    && cols.all fun u => basis.all fun e1 => basis.all fun e2 =>
      !isMul cols (colMul e1 u ^^^ colMul e2 v)
        && cols.all fun w => w == u || !isMul [v] (colMul e1 u ^^^ colMul e2 w)

/-- The column search of R293, over the candidates left. -/
def searchCols : List Nat → List Nat → List Nat → List Nat
  | [], _, h => h
  | v :: t, cols, h =>
    if h.length = 32 then h
    else if acceptCol cols v then searchCols t (cols ++ [v]) (h ++ [v]) else searchCols t cols h

/-- The columns that the search of R293 accepts, over every value of 12 bits. -/
def symSearch : List Nat := searchCols ((List.range 4095).map (· + 1)) [0x100, 0x010, 0x001] []

/-- The data columns of R293: the 17 that `symSearch` evaluates to, which are all it accepts, and free ones for the symbols left
(log entry 35). -/
def symCols : List Nat :=
  [0x035, 0x0A3, 0x111, 0x123, 0x132, 0x145, 0x154, 0x166, 0x177, 0x18F, 0x19E, 0x1AC, 0x1BD, 0x1CA, 0x1DB, 0x1E9, 0x1F8]
    ++ (List.range 15).map fun i => (Config.symColumn (17 + i)).toNat

/-- Check field of a word of n data symbols: c0, c1, c2 from bit 0 (R293). -/
def symCheck (n data : Nat) : Nat :=
  let s := (symCols.take n).zipIdx.foldl (fun s c => s ^^^ colMul (bits data (4 * c.2 + 3) (4 * c.2)) c.1) 0
  bits s 11 8 + 16 * bits s 7 4 + 256 * bits s 3 0

/-- Syndrome of an error pattern: data symbols from bit 0, check symbols c0, c1, c2 from bit 4n, as (S0, S1, S2) in
bits [11:8], [7:4], [3:0]. -/
def symSyn (n mask : Nat) : Nat :=
  let d := (symCols.take n).zipIdx.foldl (fun s c => s ^^^ colMul (bits mask (4 * c.2 + 3) (4 * c.2)) c.1) 0
  let c := mask / 2 ^ (4 * n)
  d ^^^ (bits c 3 0 * 256 + bits c 7 4 * 16 + bits c 11 8)

/-- Symbols of an error pattern that are not 0, over n data symbols and three check symbols. -/
def badSymbols (n mask : Nat) : List Nat := (List.range (n + 3)).filter fun i => bits mask (4 * i + 3) (4 * i) != 0

/-- Outcome by the syndrome (R294). -/
def symBySyn (n s : Nat) : Ecc :=
  let nz := (if bits s 11 8 = 0 then 0 else 1) + (if bits s 7 4 = 0 then 0 else 1) + (if bits s 3 0 = 0 then 0 else 1)
  if s = 0 then .ok
  else if nz = 1 then .corr (n + (if bits s 11 8 != 0 then 0 else if bits s 7 4 != 0 then 1 else 2)) s
  else match (symCols.take n).findIdx? fun h => isMul [h] s with
    | some i => .corr i s
    | none => .bad s

/-- Outcome of a read under a symbol code: an error within one symbol is corrected and one of two bits in two symbols detected, as
Table 12.1 guarantees; every other goes by its syndrome (R294). -/
def symRead (n mask : Nat) : Ecc :=
  let s := symSyn n mask
  match badSymbols n mask with
  | [] => .ok
  | [i] => .corr i s
  | _ => if weight mask (4 * n + 12) = 2 then .bad s else symBySyn n s

/-- Data and check bits of a SEC-DED store (Table 12.1). -/
def storeBits (store : Nat) : Nat × Nat :=
  if store = 0 ∨ store = 1 ∨ store = 5 then (119, 9)
  else if store = 3 then (32, 7)
  else if store = 0xC then (120, 8)
  else if store = 0xD then (119, 9)
  else (64, 8)

/-- Outcome of reading a word of a store whose stored codeword differs by a mask, data bits from bit 0 and check bits from
bit 128 (Table 12.1, R292, R294). -/
def storeRead (store mask : Nat) : Ecc :=
  let d := mask % 2 ^ 128
  let c := mask / 2 ^ 128
  if store = 4 ∨ store = 6 ∨ store = 7 then symRead 32 (d % 2 ^ 128 + c * 2 ^ 128)
  else if store = 8 ∨ store = 0xA then symRead 29 (d % 2 ^ 116 + c * 2 ^ 116)
  else
    let (k, r) := storeBits store
    secRead k r (d % 2 ^ k + c % 2 ^ r * 2 ^ k)

/-! ## Counts, logs and the repeat table (R297, R299) -/

/-- A RAS_LOG entry (Table 12.2). -/
def Eng.rasEntry (e : Eng) (store ev unit word pos syn : Nat) : Eng :=
  e.logPush (RAS_LOG + store) 64
    (store + ev * 2 ^ 5 + unit * 2 ^ 8 + word % 2 ^ 40 * 2 ^ 13 + pos * 2 ^ 53 + syn * 2 ^ 61 + e.t48 * 2 ^ 73)

/-- The word's repeat-table entry. -/
def Eng.repeatOf (e : Eng) (store unit word : Nat) : Option Repeat :=
  e.ras.repeats.find? fun r => r.store == store && r.unit == unit && r.word == word

/-- A retirement candidate gains an event, or takes a free element (R301). -/
def Eng.retireCand (e : Eng) (kind table num : Nat) : Eng :=
  let key := 1 + kind * 2 + table * 4 + num * 8
  match (List.range 64).find? fun i => e.obj RAS_RETIRE_CAND i % 2 ^ 23 == key with
  | some i => e.set RAS_RETIRE_CAND i (key + min (bits (e.obj RAS_RETIRE_CAND i) 38 23 + 1) 0xFFFF * 2 ^ 23)
  | none =>
    match (List.range 64).find? fun i => e.obj RAS_RETIRE_CAND i % 2 == 0 with
    | some i => e.set RAS_RETIRE_CAND i (key + 2 ^ 23)
    | none => e

/-- The bank or page of a word becomes a retirement candidate (Table 12.3, R301). -/
def Eng.candOf (e : Eng) (store word : Nat) : Eng :=
  if store = 8 ∨ store = 9 then e.retireCand 0 0 ((word - e.ob DBS_BASE) / 4096)
  else if store = 0xA ∨ store = 0xB then e.retireCand 0 1 ((word - e.ob TILEMAP_BASE) / 4096)
  else if store = 6 ∨ store = 7 ∨ store = 0x11 then e
  else e.retireCand 1 0 (bits word 23 14)

/-- The store is one of a slice's partitions (R298). -/
def sliceStore (store : Nat) : Bool := store = 0 ∨ store = 1 ∨ store = 2 ∨ store = 4 ∨ store = 5 ∨ store = 0xC ∨ store = 0xD

/-- An uncorrectable or sticky event of a slice within 24 h; above the limit the slice-repair event, once (R303). -/
def Eng.sliceEvent (e : Eng) (store unit : Nat) : Eng :=
  if !sliceStore store then e
  else
    let day := 86400 * 10 ^ 9
    let rec_ := (unit, e.ts) :: e.ras.recent.filter fun (r : Nat × Nat) => decide (e.ts < r.2 + day)
    let e := { e with ras := { e.ras with recent := rec_ } }
    if e.ob RAS_SLICE_REPAIR_AT < (rec_.filter fun r => r.1 == unit).length ∧ !e.ras.repairSent.contains unit then
      Eng.event { e with ras := { e.ras with repairSent := unit :: e.ras.repairSent } } 0x0D (evArgs [(0, unit)])
    else e

/-- The pass that reads a store: 0 of the SFA group, 1 of the DBS, 2 of the heat walker (R298). -/
def passOf (store : Nat) : Nat := if store = 8 ∨ store = 9 then 1 else if store = 0xA ∨ store = 0xB then 2 else 0

/-- Completed passes of a kind (R298). -/
def Eng.passN (e : Eng) (g : Nat) : Nat := if g = 2 then e.ob HEAT_PASSES else e.obj RAS_SCRUB_PASSES g

/-- Completed passes of a store's period (R298). -/
def Eng.passes (e : Eng) (store : Nat) : Nat := e.passN (passOf store)

/-- A pass of a kind has ended: entries rewritten before it that have not failed again leave the repeat tables (R299 step 5). -/
def Eng.repeatsPass (e : Eng) (g : Nat) : Eng :=
  { e with ras := { e.ras with repeats := e.ras.repeats.filter fun (r : Repeat) => !(passOf r.store == g && r.rewritten && !r.sticky && decide (r.mark + 1 < e.passN g)) } }

/-- A word is relocated, or stays in service where the sticky table of its unit is full (R300). -/
def Eng.stickyWord (e : Eng) (store unit word : Nat) : Eng :=
  let e := ((e.rasEntry store 3 unit word 0 0).inc RAS_STICKY_COUNT store).sliceEvent store unit
  let e := e.candOf store word
  let e := if store = 3 then (e.irq 4).irq 3 else e.irq 3
  if store = 3 ∨ store = 0xA ∨ store = 0xB ∨ store = 9 then e
  else if store = 8 then { e with ras := { e.ras with stuck := e.ras.stuck ++ [(unit, store, word)] } }
  else if 32 ≤ ((e.ras.stuck.filter fun s => s.1 == unit && s.2.1 != 8).length + (e.wayOff.filter fun w => (if w.1 == 0 || w.1 == 5 then e.sliceNum w.2.1 else w.2.1) == unit).length) then e.inc RAS_STICKY_FULL
  else { e with ras := { e.ras with stuck := e.ras.stuck ++ [(unit, store, word)] } }

/-- A correction updates the repeat table (R299). -/
def Eng.repeatUpd (e : Eng) (store unit word : Nat) : Eng :=
  match e.repeatOf store unit word with
  | none =>
    let mine := e.ras.repeats.filter fun r => r.store == store && r.unit == unit
    let kept : List Repeat := if 64 ≤ mine.length then
        (match mine.find? fun r => !r.sticky with
         | some o => e.ras.repeats.filter fun r => decide (r ≠ o)
         | none => e.ras.repeats)
      else e.ras.repeats
    if 64 ≤ mine.length ∧ mine.all (fun r => r.sticky) then e
    else { e with ras := { e.ras with repeats := kept ++ [({ store := store, unit := unit, word := word, count := 1, rewritten := false, mark := 0, sticky := false } : Repeat)] } }
  | some r =>
    let r := { r with count := r.count + 1 }
    let put (e : Eng) (r : Repeat) : Eng :=
      { e with ras := { e.ras with repeats := updFirst (fun (q : Repeat) => q.store == store && q.unit == unit && q.word == word) (fun _ => r) e.ras.repeats } }
    if r.sticky then put e r
    else if r.rewritten ∧ r.mark + 1 < e.passes store then
      { e with ras := { e.ras with repeats := e.ras.repeats.filter fun (q : Repeat) => !(q.store == store && q.unit == unit && q.word == word) } }
    else if r.rewritten ∧ e.ob RAS_STICKY_AT ≤ r.count then (put e { r with sticky := true }).stickyWord store unit word
    else put e r

/-- A corrected word (R297, R299), of a FIFO in FIFO_CORRECTED as well (R181); `scrub` where the scrubber corrected it. -/
def Eng.corrected (e : Eng) (store unit word pos syn : Nat) (scrub : Bool) : Eng :=
  let e := e.inc RAS_CE_COUNT store
  let e := if store = 0xC then e.inc FIFO_CORRECTED else e
  let e := if scrub then e.rasEntry store 1 unit word pos syn
    else if (e.repeatOf store unit word).isNone then e.rasEntry store 0 unit word pos syn else e
  e.repeatUpd store unit word

/-- An uncorrectable word (R297, R301, R303, R304). -/
def Eng.uncorrectable (e : Eng) (store unit word syn : Nat) : Eng :=
  let e := (e.inc RAS_UE_COUNT store).rasEntry store 2 unit word 0xFF syn
  ((e.sliceEvent store unit).candOf store word).irq 3

/-- Read a stored word through its code: the counts, and true where the word is lost (R292, R294, R297). -/
def Eng.eccRead (e : Eng) (store unit word : Nat) (scrub : Bool) : Eng × Bool :=
  let m := e.errMask store unit word
  if m = 0 then (e, false)
  else match storeRead store m with
    | .ok => (e, false)
    | .corr pos syn => (e.corrected store unit word pos syn scrub, false)
    | .bad syn => (e.uncorrectable store unit word syn, true)

/-- A word is written: its errors go, and an armed injection takes effect (R305). -/
def Eng.eccWrite (e : Eng) (store unit word : Nat) : Eng :=
  let here (b : BitErr) : Bool := b.store == store && b.unit == unit && b.word == word
  let e1 := { e with errs := e.errs.filter fun b => !here b }
  match e.ras.armed.find? here with
  | some b =>
    Eng.rasEntry { e1 with errs := b :: e1.errs, ras := { e1.ras with armed := e1.ras.armed.filter fun c => !here c } } store 6 unit word 0 0
  | none => e1

/-! ## Keeper's SRAM (Table 12.4; a word is named by its byte address in Table 14.1) -/

/-- Words of the SRAM that are in error or armed, among n bytes from an offset. -/
def Eng.sramWords (e : Eng) (o n : Nat) : List Nat :=
  (((e.errs ++ e.ras.armed).filter fun b => b.store == 3 && decide (0x10000000 + o < b.word + 4) && decide (b.word < 0x10000000 + o + n)).map fun b => b.word).eraseDups

/-- Words of the SRAM are written. -/
def Eng.sramPut (e : Eng) (ws : List Nat) : Eng := ws.foldl (fun e w => e.eccWrite 3 0 w) e

/-- Keeper writes bytes of the SRAM. -/
def Eng.sramWrite (e : Eng) (o n : Nat) : Eng := e.sramPut (e.sramWords o n)

/-- Keeper reads bytes of the SRAM: corrections are counted, and the first word beyond correction, if one is met, is named. -/
def Eng.sramRead (e : Eng) (o n : Nat) : Eng × Option Nat :=
  (e.sramWords o n).foldl (fun (s : Eng × Option Nat) w =>
    let r := s.1.eccRead 3 0 w false
    (r.1, if r.2 ∧ s.2.isNone then some w else s.2)) (e, none)

/-- Keeper reads or writes bytes of the SRAM: the engine after it, and the word beyond correction that it met. -/
def Eng.sramUse (e : Eng) (wr : Bool) (o n : Nat) : Eng × Option Nat := if wr then (e.sramWrite o n, none) else e.sramRead o n

end Sys2Proof.Machine
end

