-- ==== Sys2Proof/Machine/Queues.lean ====
section
/-! DEFINITION. Sys2Proof/Machine/Queues.lean: slot pools, queues, arbiters, the outbound entries of the ports
(chapters 02 and 07 of spec/). -/
namespace Sys2Proof.Machine
open Ob

/-! ## Slot pools (R173 to R175) -/

/-- Key of a drain-effect value held by a slice until it drains (R360). -/
def drainKey (slice idx el : Nat) : Nat := (slice * 65536 + idx) * 256 + el

/-- Value of a drain-effect object in force at a slice (R360). -/
def Eng.eff (e : Eng) (slice idx el : Nat) : Nat := kget (e.obj idx el) (drainKey slice idx el) e.drainEff

/-- Object of the class minima: header or data. -/
def minObj (data : Bool) : Nat := if data then QF_DATA_MIN else QF_HDR_MIN

/-- Slots of a kind per slice (R173). -/
def poolSize (data : Bool) : Nat := if data then 4096 else 8192

/-- Slots of a slice and kind that are held. -/
def Eng.held (e : Eng) (slice : Nat) (data : Bool) : List QSlot :=
  e.slots.filter fun q => q.slice == slice && q.data == data

/-- Slots of a slice and kind that a sticky word has withheld (R300). -/
def Eng.slotsOff (e : Eng) (slice : Nat) (data : Bool) : List Nat :=
  (e.wayOff.filter fun w => w.1 == 2 && w.2.1 == e.sliceNum slice && w.2.2.1 % 2 == b2n data).map fun w => w.2.2.1 / 2

/-- Words or entries of a structure that sticky words have withheld (R300). -/
def Eng.offN (e : Eng) (store slice kind : Nat) : Nat := (e.wayOff.filter fun w => w.1 == store && w.2.1 == e.sliceNum slice && w.2.2.1 == kind).length

/-- Slots beyond the sum of the minima (R173); a withheld slot comes off this part (log entry 57). -/
def Eng.sharedSize (e : Eng) (slice : Nat) (data : Bool) : Nat :=
  poolSize data - (((List.range 8).map fun k => e.eff slice (minObj data) k).sum + (e.slotsOff slice data).length)

/-- CAID c is within its allowance of class k's minimum at a slice (R174). -/
def Eng.allowed (e : Eng) (slice k c : Nat) (data : Bool) : Bool :=
  if k = 0 ∨ k = 1 ∨ k = 6 then
    decide (((e.held slice data).filter fun q => q.cls == k && q.caid == c && !q.shared && !q.relinked).length
      < e.eff slice QF_ALLOW k)
  else true

/-- The first number, of k from n, that a list does not hold. -/
def slotNum (used : List Nat) : Nat → Nat → Nat
  | 0, n => n
  | k + 1, n => if used.contains n then slotNum used k (n + 1) else n

/-- The number of the slot that an entry takes at a slice, beside the slots of a list. -/
def Eng.newSlot (e : Eng) (slice : Nat) (data : Bool) (l : List QSlot) : Nat :=
  let used := ((l.filter fun q => q.slice == slice && q.data == data).map fun q => q.num) ++ e.slotsOff slice data
  slotNum used used.length 0

/-- Take one slot for an entry, by the order of R173: its class's minimum, then the shared part (never for class
7), or none. Beyond its allowance an entry of classes 0, 1 and 6 is counted in QF_ALLOW_EXCESS (R174). Which free slot it is is the model's
choice: the one of lowest number (DESIGN CHOICE, log entry 57). -/
def Eng.takeSlot (e : Eng) (slice k c gid : Nat) (data : Bool) : Option Eng :=
  let h := e.held slice data
  let inMin := (h.filter fun q => q.cls == k && !q.shared).length
  let ok := e.allowed slice k c data
  let q : QSlot := { gid := gid, slice := slice, num := e.newSlot slice data e.slots, cls := k, caid := c, data := data, shared := false, relinked := false }
  if ok && decide (inMin < e.eff slice (minObj data) k) then some { e with slots := q :: e.slots }
  else if k != 7 && decide ((h.filter fun q => q.shared).length < e.sharedSize slice data) then
    let e := if ok then e else e.inc QF_ALLOW_EXCESS c
    some { e with slots := { q with shared := true } :: e.slots }
  else none

/-- Free every slot of an entry. -/
def Eng.freeSlots (e : Eng) (gid : Nat) : Eng := { e with slots := e.slots.filter fun q => q.gid != gid }

/-- Free the data slots of an entry (R175). -/
def Eng.freeData (e : Eng) (gid : Nat) : Eng := { e with slots := e.slots.filter fun q => !(q.gid == gid && q.data) }

/-- The entry's header slot becomes the entry of its response (R175). -/
def Eng.relink (e : Eng) (gid : Nat) : Eng :=
  { e with slots := updAll (fun q => q.gid == gid) (fun q => { q with relinked := true }) e.slots }

/-- Free header or data slots of a slice (QF_HDR_FREE, QF_DATA_FREE). -/
def Eng.freeCount (e : Eng) (slice : Nat) (data : Bool) : Nat := poolSize data - ((e.held slice data).length + (e.slotsOff slice data).length)

/-- The entry holds a slot of a kind. -/
def Eng.hasSlot (e : Eng) (gid : Nat) (data : Bool) : Bool := e.slots.any fun q => q.gid == gid && q.data == data

/-- Slots of an answer: the header slot relinked from its request and a data slot it already has, or slots of its class taken where they are
free, as for a sorter's own answer and for data that no backing read brought (R173, R175). -/
def Eng.ownSlots (e : Eng) (slice k c gid : Nat) (data : Bool) : Eng :=
  let e := if e.hasSlot gid false then e else (e.takeSlot slice k c gid false).getD e
  if data && !e.hasSlot gid true then (e.takeSlot slice k c gid true).getD e else e

/-- The data slot of a writeback goes on with the flow that needs its data for a requester (R175, R104). -/
def Eng.giveData (e : Eng) (gid dst : Nat) : Eng :=
  { e with slots := updAll (fun q => q.gid == gid && q.data) (fun q => { q with gid := dst }) e.slots }

/-- The operation carries write or operand data into a data slot. -/
def Op.hasData : Op → Bool
  | .memWr | .memWrPtl | .atomic => true
  | _ => false

/-- Bring an entry into its queue with its slots, or leave it waiting (R173). -/
def Eng.enqueue (e : Eng) (slice : Nat) (r : Req) : Option Eng :=
  match e.takeSlot slice r.cls r.caid r.gid false with
  | none => none
  | some e1 =>
    if r.op.hasData then
      match e1.takeSlot slice r.cls r.caid r.gid true with
      | none => none
      | some e2 => some { e2 with qf := e2.qf ++ [{ slice := slice, req := r }] }
    else some { e1 with qf := e1.qf ++ [{ slice := slice, req := r }] }

/-! ## Arbiters (R179) -/

/-- Priority of a requester: its base weight where no round has changed it. -/
def Arb.prio (a : Arb) (base : Nat → Nat) (i : Nat) : Nat := kget (base i) i a.p

/-- One round of the rule of R179 over the asserting requesters in ascending index. -/
def Arb.round (a : Arb) (base : Nat → Nat) (req : List Nat) : Option (Nat × Arb) :=
  match req with
  | [] => none
  | h :: t =>
    if req = [a.last] then some (a.last, a)
    else
      let top := t.foldl (fun m i => max m (a.prio base i)) (a.prio base h)
      let cand := req.filter fun i => a.prio base i == top
      let cand := if 1 < cand.length then cand.filter fun i => i != a.last else cand
      let w := (cand.find? fun i => decide (a.last < i)).getD (cand.headD h)
      let p := req.foldl (fun m i => kput i (if i = w then base i else min (a.prio base i + 1) 15) m) a.p
      some (w, { a with p := p, last := w })

/-- An arbiter's state; one that has run no round has every p[i] = b[i] and last = 0 (R179). -/
def Eng.arb (e : Eng) (kind inst : Nat) : Arb :=
  (e.arbs.find? fun a => a.kind == kind && a.inst == inst).getD { kind := kind, inst := inst, p := [], last := 0 }

/-- The engine with an arbiter's state stored. -/
def Eng.setArb (e : Eng) (a : Arb) : Eng :=
  { e with arbs := a :: e.arbs.filter fun b => !(b.kind == a.kind && b.inst == a.inst) }

/-- Run one round of an arbiter of the engine. Kinds are the rows of Table 07.7 from 0, and 7 for the response lane (R170). The class level
of the slice arbiter keeps the time of each class's last grant (R180). -/
def Eng.arbitrate (e : Eng) (kind inst : Nat) (base : Nat → Nat) (req : List Nat) : Option (Nat × Eng) :=
  let a0 := e.arb kind inst
  match a0.round base req with
  | none => none
  | some (w, a) =>
    let a := if kind = 0 then { a with won := kput w e.ts a.won } else a
    some (w, if a = a0 then e else e.setArb a)

/-- An arbiter whose every requester that asserts is in a list runs a round, where only its state matters. -/
def Eng.runArb (e : Eng) (kind inst : Nat) (base : Nat → Nat) (req : List Nat) : Eng :=
  match e.arbitrate kind inst base req with
  | some (_, e) => e
  | none => e

/-- Base weights of the HDC bank arbiter: slice pipeline, write-back engine, prefetcher, Migration DMA (Table 07.7). -/
def hdcBase (i : Nat) : Nat := nth 0 [3, 1, 0, 0] i

/-- A requester of a slice's HDC bank is granted (Table 07.7). -/
def Eng.hdcBank (e : Eng) (slice rq : Nat) : Eng := e.runArb 6 slice hdcBase [rq]

/-- Distinct values of a list in ascending order. -/
def ascend (l : List Nat) : List Nat := l.foldl (fun a n => insertNat n a) []

/-! ## Outbound entries -/

/-- Requester index of an entry at its port's egress arbiter: classes 3 and 4 by CAID, class 5 by CAID with the
forwarded fan-out blocks last (Table 07.7). -/
def OEnt.rq (o : OEnt) : Nat := if o.grp = 0 then (o.cls - 3) * 256 + o.v else o.v

/-- Base weight of an egress requester (Table 07.7). -/
def Eng.egressBase (e : Eng) (grp i : Nat) : Nat :=
  if grp = 0 then e.obj (QF_WEIGHT + 3 + i / 256) (i % 256)
  else if grp = 1 then (if i < 256 then e.obj (QF_WEIGHT + 5) i else 0)
  else 0

/-- Entries of a port and group. -/
def Eng.outAt (e : Eng) (port grp : Nat) : List OEnt := e.outq.filter fun o => o.at_ == port && o.grp == grp

/-- Oldest entry of each egress queue of a port and group that may leave: a class 3 entry waits for its paired class
4 entry (R175), and a `BI-ConflictAck` for its header slot (R175). -/
def Eng.eligible (e : Eng) (l : List OEnt) : List OEnt :=
  l.filter fun o => (match l.find? fun q => q.rq == o.rq with | some h => h.id == o.id | none => false)
    && (match o.pair with | some p => !(l.any fun q => q.id == p) | none => true)
    && (o.beat.op != .biConflictAck || e.hasSlot o.gid false)

/-- The region of a port's slice is Occulted, Eclipse or Extinguished: its outputs are clamped (R34). -/
def Eng.portClamped (e : Eng) (port : Nat) : Bool := [1, 2, 3].contains (e.obj PWR_DOMAIN_STATE (0x20 + port))

/-- Present the next beat of a port and group if none is presented (R36, R179; groups 2 and 3 leave in order). -/
def Eng.present (e : Eng) (port grp : Nat) : Eng :=
  let l := e.outAt port grp
  if l.any fun o => o.presented then e
  else if 2 ≤ grp then
    match l with
    | [] => e
    | h :: _ => { e with outq := updFirst (fun o => o.id == h.id) (fun o => { o with presented := true }) e.outq }
  else
    let el := e.eligible l
    let k := if grp = 0 then 2 else 3
    match e.arbitrate k port (e.egressBase grp) (ascend (el.map OEnt.rq)) with
    | none => e
    | some (w, e') =>
      match el.find? fun o => o.rq == w with
      | none => e
      | some h => { e' with outq := updFirst (fun o => o.id == h.id) (fun o => { o with presented := true }) e'.outq,
                            undo := e.arb k port :: e.undo.filter fun a => !(a.kind == k && a.inst == port) }

/-- The beat granted at a port and group withdraws: the round's priority changes are not applied (R179). -/
def Eng.unround (e : Eng) (port grp : Nat) : Eng :=
  let k := if grp = 0 then 2 else 3
  match e.undo.find? fun a => a.kind == k && a.inst == port with
  | some a => if grp ≤ 1 then { e.setArb a with undo := e.undo.filter fun b => !(b.kind == k && b.inst == port) } else e
  | none => e

/-- Add an outbound entry; it is presented at once when its port and group are idle. -/
def Eng.send (e : Eng) (o : OEnt) : Eng := Eng.present { e with outq := e.outq ++ [o] } o.at_ o.grp

/-- A beat with every field 0. -/
def beat0 : OBeat :=
  { kind := 0, op := .cmp, addr := 0, tag := 0, caid := 0, port := 0, poison := false, biId := 0, biTag := 0,
    devLoad := 0, uop := 0, usize := 0, uoff := 0, be := 0, data := 0 }

/-- Entries of a slice's backing egress FIFO (R175): each entry carries its slice. -/
def Eng.egressFifo (e : Eng) (slice : Nat) : Nat := (e.outq.filter fun o => o.grp == 2 && (match o.src with | some (s, _) => s == slice | none => false)).length

/-- What an answer carries beside its NDR: nothing, line data, or the no-such-memory form (Table 04.4). -/
inductive Drs where
  | none
  | data (d : Data) (poison : Bool)
  | nxm
  deriving DecidableEq, Repr

/-- Opcode class of a request and its t0 for the histograms (R379); row 8 and lease commands have none. -/
def Eng.histOf (e : Eng) (r : Req) : Option (Nat × Nat) :=
  let lease := e.ob LEASE_ENABLE == 1 && decide (e.ob LEASE_BASE / 64 ≤ r.line) && decide (r.line < e.ob LEASE_BASE / 64 + 4096)
  match r.op with
  | .memRd | .memRdData => some (if r.row = 4 then 1 else if r.row = 3 then 2 else 0, r.t0)
  | .memInv | .memInvNT | .memClnEvct => some (if r.row = 5 then 3 else 4, r.t0)
  | .memWr => some (5, r.t0)
  | .memWrPtl => some (6, r.t0)
  | .atomic => if lease then none else some (7, r.t0)
  | _ => none

/-- The answer of a request adds nothing to the histograms: it was refused, or answered under R61 (R379). -/
def Eng.noHist (e : Eng) (gid : Nat) : Eng := { e with outq := e.outq.map fun (o : OEnt) => if o.gid = gid then { o with hist := none } else o }

/-- Send the answer of a request from a port: the DRS beat first, then the NDR, both in the requester's queues (R89,
R175). The header slot of the request becomes the answer's entry. Returns the id of the last beat. -/
def Eng.reply (e : Eng) (port : Nat) (r : Req) (dl : Nat) (drs : Drs) (ndr : Option OutOp) (grant : Bool) : Eng × Nat :=
  let e := e.relink r.gid
  let b := { beat0 with tag := r.tag, caid := r.caid, port := r.port, devLoad := dl }
  let (e, pair) := match drs with
    | .none => (e, none)
    | d =>
      let id := e.fresh
      let op : OutOp := match d with | .nxm => .memDataNxm | _ => .memData
      let (dat, p) := match d with | .data x p => (x, p) | _ => ((0 : Data), false)
      let e := e.ownSlots port 4 r.caid r.gid (match d with | .nxm => false | _ => true)
      (Eng.send { e with fresh := e.fresh + 1 }
        { id := id, at_ := port, grp := 0, cls := 4, v := r.caid, pair := none, presented := false, src := none,
          beat := { b with kind := 4, op := op, data := dat, poison := p, addr := 0 },
          grant := false, gid := r.gid, ans := some r.op, hist := e.histOf r }, some id)
  match ndr with
  | none => (e, pair.getD e.fresh)
  | some op =>
    let id := e.fresh
    let e := e.ownSlots port 3 r.caid r.gid false
    (Eng.send { e with fresh := e.fresh + 1 }
      { id := id, at_ := port, grp := 0, cls := 3, v := r.caid, pair := pair, presented := false, src := some (r.line, r.gid),
        beat := { b with kind := 3, op := op }, grant := grant, gid := r.gid, ans := some r.op, hist := e.histOf r }, id)

/-- Send a UIO completion of kind 0x7 (Table 02.3). -/
def Eng.replyUio (e : Eng) (port : Nat) (r : Req) (status : Nat) (d : Data) : Eng × Nat :=
  let e := (e.relink r.gid).ownSlots port 4 r.caid r.gid true
  let id := e.fresh
  (Eng.send { e with fresh := e.fresh + 1 }
    { id := id, at_ := port, grp := 0, cls := 4, v := r.caid, pair := none, presented := false, src := some (r.line, r.gid),
      beat := { beat0 with kind := 7, op := .uioCpl status, tag := r.tag, caid := r.caid, port := r.port, data := d },
      grant := false, gid := r.gid, ans := some r.op, hist := e.histOf r }, id)

/-- `MemData-NXM` without an NDR, outside the histograms (Tables 03.2 and 04.3). -/
def Eng.answerNxm (e : Eng) (port : Nat) (r : Req) (dl : Nat) : Eng := (e.reply port r dl .nxm none false).1.noHist r.gid

/-- `Cmp` granting no state, outside the histograms (Tables 03.2, 04.3 and 02.11). -/
def Eng.answerCmp (e : Eng) (port : Nat) (r : Req) (dl : Nat) : Eng := (e.reply port r dl .none (some .cmp) false).1.noHist r.gid

/-- A kind 0x7 completion that reports a failure, outside the histograms: status 1 UR, 4 CA (R70, R198, Table 02.11). -/
def Eng.answerFail (e : Eng) (port : Nat) (r : Req) (status : Nat) : Eng := (e.replyUio port r status 0).1.noHist r.gid

/-- Answer of a refused request (Table 03.2) from a port. -/
def Eng.refusedForm (e : Eng) (port : Nat) (r : Req) (dl : Nat) : Eng :=
  match r.op with
  | .memRd | .memRdData => e.answerNxm port r dl
  | .memInv | .memInvNT | .memClnEvct => e.answerCmp port r dl
  | .atomic => e.answerFail port r 1
  | _ => e.freeSlots r.gid

/-- Safe form of a request under Foghorn (Table 02.11). -/
def Eng.safeForm (e : Eng) (port : Nat) (r : Req) (dl : Nat) : Eng :=
  match r.op with
  | .memRd | .memRdData => (e.reply port r dl (.data Data.ones true) (some .cmp) false).1.noHist r.gid
  | .memInv | .memInvNT | .memClnEvct => e.answerCmp port r dl
  | .atomic => e.answerFail port r 4
  | _ => e.freeSlots r.gid

/-! ## Ingress stages (R167) -/

/-- Depth of an ingress stage. -/
def stageDepth (grp : Nat) : Nat := if grp = 3 then 4 else 16

/-- Beats in the group 0 stage of a port. -/
def Eng.stage0 (e : Eng) (port : Nat) : List Req := (e.stages.filter fun s => s.1 == port).map fun s => s.2.2

/-- The slice number that drains now: slices drain one at a time in ascending order (R360). -/
def Eng.draining (e : Eng) : Option Nat := (List.range 32).find? fun k => bit (e.ob DICT_DRAIN_PENDING) k

/-- A slice holds admission: it drains, or the block stops it (R360, R321). -/
def Eng.holdsAdmission (e : Eng) (slice : Nat) : Bool := e.draining == some (e.sliceNum slice) || e.ob PWR_BLOCK_STATE != 0

/-- `xb_rx_rdy[0]` of a port (R167, R61, R321): svc, no Brace, at least 2 free entries. -/
def Eng.rdy0 (e : Eng) (port : Nat) : Bool :=
  e.svc.contains port && !e.brace && e.ob PWR_BLOCK_STATE == 0
    && decide ((e.stage0 port).length + e.offN 0xC port 4 + 2 ≤ stageDepth 0)

/-- Beats that the stage of a port holds in one of the groups 1 to 3 (R167). -/
def Eng.stageN (e : Eng) (port grp : Nat) : Nat := kget 0 (port * 4 + grp) e.rx

/-- `xb_rx_rdy` of groups 1 to 3 of a port (R38, R167): svc, and at least 2 free entries. -/
def Eng.rdyG (e : Eng) (port grp : Nat) : Bool := e.svc.contains port && decide (e.stageN port grp + 2 ≤ stageDepth grp)

/-- `xb_rx_rdy` of a port. -/
def Eng.rdy (e : Eng) (port grp : Nat) : Bool := if grp = 0 then e.rdy0 port else e.rdyG port grp

/-! ## The Gallery (R23, R24, R168, R182) -/

/-- Kinds of Gallery traffic (Table 01.5). -/
inductive GTraffic where
  | request | response | fanOut | spareOut | dbsFill | dbsSpill | dbsSweep | tileWalk | hdc | delta | lease | hierarchy | snapshot
  | freezeDrain | dictionary | heat | heatFlush | evict | visit | drift | handoff | handoffDone | leaseCompletion | leaseBreak
  | mirrorDelta | sampler | errorReport
  deriving DecidableEq, Repr

/-- Queue Fabric class of a kind of traffic (Table 01.5); `k` is the class of what it carries or of the request it serves. -/
def GTraffic.cls (t : GTraffic) (k : Nat) : Nat :=
  match t with
  | .request | .response | .spareOut | .dbsFill | .tileWalk | .handoff | .leaseCompletion => k
  | .fanOut => 5
  | .lease => 6
  | _ => 7

/-- Lane of a class: 0 R, 1 S, 2 I (R168). -/
def laneOf (cls : Nat) : Nat := if cls = 0 ∨ cls = 1 ∨ cls = 6 then 0 else if cls = 7 then 2 else 1

/-- Lane of a kind of traffic (R24, R168). -/
def GTraffic.lane (t : GTraffic) (k : Nat) : Nat := laneOf (t.cls k)

/-- Stops on the ring (R23). -/
def Eng.ringStops (e : Eng) : Nat := match e.fz.cfg with | .h8 => 21 | .h16 => 29 | .h32 => 48

/-- A stop is on the ring (R23, Table 01.4). -/
def Eng.onRing (e : Eng) (stop : Nat) : Bool :=
  decide (stop < e.n) || (decide (33 ≤ stop ∧ stop < 48) && (e.isH32 || (stop != 40 && stop != 41))) || (e.isH32 && stop == 32)

/-- Stops between two stops, in ascending order of stop number (clockwise). -/
def Eng.hopsUp (e : Eng) (a b : Nat) : Nat :=
  ((List.range 48).filter fun i => e.onRing i && (if a ≤ b then decide (a < i ∧ i ≤ b) else decide (a < i ∨ i ≤ b))).length

/-- Base weights of a Gallery stop's output arbiter: through traffic, then injection lanes S, R and I (Table 07.7). -/
def galBase (i : Nat) : Nat := if i = 0 then 4 else 0

/-- A message is injected at a stop's output in its shorter direction (R25, Table 07.7): instance stop × 2, one more for clockwise. Its
transit takes no time (log entry 9), so that it is the output's only requester. -/
def Eng.galInject (e : Eng) (a b lane : Nat) : Eng :=
  if a = b then e
  else
    let up := e.hopsUp a b
    e.runArb 5 (a * 2 + b2n (decide (2 * up ≤ e.ringStops))) galBase [if lane = 0 then 2 else if lane = 1 then 1 else 3]

/-- A message of a kind of traffic goes from a stop to another (R24). -/
def Eng.galSend (e : Eng) (t : GTraffic) (k a b : Nat) : Eng := e.galInject a b (t.lane k)

/-- Depth of a landing buffer (GAL_LANDING_DEPTH). -/
def landDepth : Nat := 8

/-- Key of a landing buffer of a slice stop among the stages, for lanes R and I. -/
def landKey (lane slice : Nat) : Nat := 4000 + lane * 100 + slice

/-- Landing entries of a lane in use at a slice stop (R168). -/
def Eng.landed (e : Eng) (lane slice : Nat) : Nat :=
  if lane = 1 then kget 0 (256 + slice) e.rx else (e.stage0 (landKey lane slice)).length

/-- Circling messages for which a stop reserves the landing entries of a lane that free (R168): those of 4 laps or more. -/
def Eng.reservers (e : Eng) (lane slice : Nat) : List GMsg := e.gal.filter fun m => m.lane == lane && m.dst == slice && decide (4 ≤ m.laps)

/-- A message finds a landing entry: a free one that is not reserved, or, once it has completed 4 laps, a free one that no message of more
laps, nor one of as many that reached the stop first, has reserved (R168). `before` counts those messages. -/
def Eng.mayLand (e : Eng) (lane slice before : Nat) : Bool := decide (e.landed lane slice + before < landDepth)

/-- A message lands (R168); one of lane S is in the landing buffer until the response lane serves it. -/
def Eng.land (e : Eng) (lane slice : Nat) (r : Option Req) : Eng :=
  match r with
  | some r => { e with stages := e.stages ++ [(landKey lane slice, e.ts, r)] }
  | none => { e with rx := kput (256 + slice) (e.landed 1 slice + 1) e.rx }

/-- A message reaches its stop: it lands or circles (R168). -/
def Eng.galArrive (e : Eng) (lane slice : Nat) (r : Option Req) : Eng :=
  if e.mayLand lane slice (e.reservers lane slice).length then e.land lane slice r
  else { e with fresh := e.fresh + 1, gal := e.gal ++ [({ id := e.fresh, lane := lane, dst := slice, req := r, laps := 0, since := e.ts } : GMsg)] }

/-- Nanoseconds of one lap at a GALCLK of f MHz (R182). -/
def Eng.lapTime (e : Eng) (f : Nat) : Nat := (e.ringStops * 1000 + f - 1) / f

/-- A circling message completes a lap where its time has passed: it lands if it can, or goes on (R168). -/
def Eng.lapOf (e : Eng) (f : Nat) (m : GMsg) : Eng :=
  if e.ts < m.since + e.lapTime f then e
  else
    let m' := { m with laps := m.laps + 1, since := e.ts }
    let e := e.inc GAL_LAPS
    let others := (e.reservers m.lane m.dst).filter fun o => o.id != m.id
    -- the list of circling messages is in the order in which they first reached their stop
    let first := ((e.gal.takeWhile fun o => o.id != m.id).filter fun o => others.contains o && o.laps == m'.laps).length
    let before := if 4 ≤ m'.laps then (others.filter fun o => decide (m'.laps < o.laps)).length + first else others.length
    if e.mayLand m.lane m.dst before then Eng.land { e with gal := e.gal.filter fun o => o.id != m.id } m.lane m.dst m.req
    else { e with gal := updFirst (fun o => o.id == m.id) (fun _ => m') e.gal }

/-- A beat of groups 1 to 3 is taken at a port for a slice: it occupies its stage until the response lane or the slice's control port has
served it, or, for a slice at another stop, that stop's landing buffer (R167, R168, R170). Its effect is the command's (log entry 57). -/
def Eng.rxTake (e : Eng) (port grp slice : Nat) : Eng :=
  let e := e.pm port 4 1
  if grp = 3 ∨ slice = port then { e with rx := kput (port * 4 + grp) (e.stageN port grp + 1) e.rx }
  else (e.galSend .response 2 port slice).galArrive 1 slice none

/-- The response lane of a slice serves one message in an SLCLK cycle: of its port's group 1 stage, its group 2 stage, or the lane S landing
buffer, by the rule of R179 with equal base weights (R170). -/
def Eng.laneServe (e : Eng) (slice : Nat) : Eng :=
  let key (i : Nat) : Nat := if i = 2 then 256 + slice else slice * 4 + 1 + i
  match e.arbitrate 7 slice (fun _ => 0) ((List.range 3).filter fun i => kget 0 (key i) e.rx != 0) with
  | none => e
  | some (w, e) => { e.pm slice 5 1 with rx := (kput (key w) (kget 0 (key w) e.rx - 1) e.rx).filter fun p => p.2 != 0 }

/-- Key of the class 7 entries that wait at a slice's own source for a slot of it (R173), among the stages. -/
def intStage (slice : Nat) : Nat := 1000 + slice

/-- Key of the class 7 entries that leave a source at another stop (R24). -/
def farStage : Nat := 1998

/-- Key of the ingress stage of stop 42 among the stages. -/
def hierStage : Nat := 1999

/-- Slice whose landing buffer a key names. -/
def landOf (key : Nat) : Option (Nat × Nat) := if key < 4000 then none else some ((key - 4000) / 100, (key - 4000) % 100)

/-- Port by which a request in a stage or landing buffer is answered under Foghorn (R61). -/
def Eng.stagePort (e : Eng) (key : Nat) : Nat :=
  match landOf key with
  | some (_, s) => e.portOf s
  | none => if key < 64 then key else 0

/-- A discarded beat of a group 0 stage is logged as it reaches the head (R37). The entry carries the beat's kind in `row`, its opcode in
`v` and the line's state in `usize`. -/
def Eng.dropBad (e : Eng) (port : Nat) (r : Req) : Eng := e.protoErr port 6 r.row r.v r.caid r.usize r.line

/-- The class of a group 0 stage entry that R37 discards. -/
def badCls : Nat := 8

/-- The head of a stage or landing buffer moves on: into its queue under R173, to the Gallery, or away; none where it waits. -/
def Eng.stageOut (e : Eng) (key : Nat) (r : Req) : Option Eng :=
  if r.cls = badCls then some (e.dropBad key r)
  else
    let (here, o) : Bool × Nat := match landOf key with
      | some (_, s) => (true, s)
      | none => (key == e.owner r.line || (decide (1000 ≤ key) && key != farStage && key != hierStage), e.owner r.line)
    if here then (if r.cls != 7 && e.holdsAdmission o then none else e.enqueue o r)
    else
      let from_ := if key < 64 then key else if key = farStage then 38 else 42
      some ((e.galSend (if r.cls = 7 then .drift else .request) r.cls from_ o).galArrive (laneOf r.cls) o (some r))

/-- Move the entries of one stage on, in order, until one must wait (R167, R168, R173). -/
def drainStage (key : Nat) : List (Nat × Nat × Req) → Eng → Eng
  | [], e => e
  | s :: t, e =>
    match e.stageOut key s.2.2 with
    | some e' => drainStage key t { e' with stages := e'.stages.filter fun p => !(p.1 == key && p.2.2.gid == s.2.2.gid) }
    | none => e

/-- A `BI-ConflictAck` that waits for its header slot takes one that has freed (R175). -/
def Eng.ackSlots (e : Eng) : Eng :=
  (e.outq.filter fun o => o.beat.op == .biConflictAck && !e.hasSlot o.gid false).foldl (fun e o =>
    match e.takeSlot o.at_ 2 o.beat.caid o.gid false with
    | some e => (e.relink o.gid).present o.at_ 0
    | none => e) e

/-- Move what can move from every port's group 0 stage, every class 7 source and every landing buffer, in this order. -/
def Eng.pump (e : Eng) : Eng :=
  let e := if e.outq.any fun o => o.beat.op == .biConflictAck then e.ackSlots else e
  let go (e : Eng) (key : Nat) : Eng := drainStage key (e.stages.filter fun s => s.1 == key) e
  let e := (ascend (e.stages.map fun s => s.1)).foldl go e
  (ascend ((e.stages.filter fun s => decide (4000 ≤ s.1)).map fun s => s.1)).foldl go e

/-- Circling messages complete their laps, and what has landed moves on (R168); f is GALCLK in MHz. -/
def Eng.galTick (e : Eng) (f : Nat) : Eng :=
  if e.gal.isEmpty then e else (e.gal.foldl (fun e m => e.lapOf f m) e).pump

end Sys2Proof.Machine
end

