-- ==== Sys2Proof/Machine/Directory.lean ====
section
/-! DEFINITION. Sys2Proof/Machine/Directory.lean: the directory of a slice: SFA ways, spill buffer, set-conflict queue,
fills, taint list, counts, and the update of a line with the delta it emits (chapter 06 of spec/; R266, R268, R282). -/
namespace Sys2Proof.Machine
open Ob

/-! ## Region-home map (R266) -/

/-- Region-home map entry of a unit (Table 11.1). -/
def Eng.mapEntry (e : Eng) (u : Nat) : Nat := e.obj (HIER_MAP + u / 256) (u % 256)

/-- The unit of a line is served under the presumption rules of R282. -/
def Eng.adopted (e : Eng) (line : Nat) : Bool :=
  match e.lineUnit line with
  | some u => bit (e.mapEntry u) 16 && bits (e.mapEntry u) 7 0 == e.ob HIER_NODE_ID
  | none => false

/-- This instance mirrors the unit of a line (R266, R272). -/
def Eng.mirrorsLine (e : Eng) (line : Nat) : Bool :=
  match e.lineUnit line with
  | some u => e.isH32 && bits (e.mapEntry u) 15 8 == e.ob HIER_NODE_ID && e.ob HIER_NODE_ID != 0xFF
      && bits (e.mapEntry u) 7 0 != e.ob HIER_NODE_ID
  | none => false

/-- Deltas and records are emitted: MIR_STATE reads joining or mirrored (R268), or fencing, in which they keep accumulating
(R276; log entry 25). -/
def Eng.mirOn (e : Eng) : Bool := e.isH32 && (e.ob MIR_STATE == 1 || e.ob MIR_STATE == 2 || e.ob MIR_STATE == 4)

/-- Records are emitted for a unit (R268, R273). -/
def Eng.mirroredUnit (e : Eng) (u : Nat) : Bool :=
  e.mirOn && bits (e.mapEntry u) 15 8 != 0xFF
    && bits (e.mapEntry u) 7 0 == e.ob HIER_NODE_ID

/-- Send a journal record (R273); the second part is its name, for an action that waits for its ACK (R270). -/
def Eng.journal (e : Eng) (word : Nat) : Eng × Nat :=
  ({ e with fresh := e.fresh + 1, mrecs := e.mrecs ++ [({ id := e.fresh, kind := 2, word := word, line := 0, st := .I } : MRec)] }, e.fresh)

/-- Deltas are emitted for the unit of a line (R268). -/
def Eng.mirrored (e : Eng) (line : Nat) : Bool :=
  match e.lineUnit line with
  | some u => e.mirroredUnit u
  | none => false

/-- Shadow class of a state (R268): X(c), H, P, and all others together as I. -/
def LSt.shadow : LSt → LSt
  | .X c => .X c | .H => .H | .P => .P | _ => .I

/-- Line delta record (Table 11.2). -/
def lineDelta (line : Nat) (st : LSt) : Nat := 1 + st.code * 16 + st.field * 256 + line * 2 ^ 16

/-- Emit the line delta of an update from `old` to `new`, if the update moves the line between shadow classes (R268).
The second part is the record an update into X or P waits for (R270). -/
def Eng.emitLine (e : Eng) (line : Nat) (old new : LSt) : Eng × Option Nat :=
  if e.mirrored line && decide (old.shadow ≠ new.shadow) then
    let id := e.fresh
    let e := e.galSend .delta 7 (e.owner line) 40
    ({ e with fresh := id + 1,
              mrecs := e.mrecs ++ [{ id := id, kind := 0, word := lineDelta line new.shadow, line := line, st := new.shadow }] },
     if e.mirHold then (match new with | .X _ => some id | .P => some id | _ => none) else none)
  else (e, none)

/-! ## Counts (R152) -/

/-- Lower the counts of a state's holders. -/
def Eng.uncount (e : Eng) (st : LSt) : Eng :=
  let e := st.ptrs.foldl (fun e c => e.dec HOLD_COUNT c) e
  st.groups.foldl (fun e g => e.dec SC_GROUP_COUNT g) e

/-- Raise the counts of a state's holders. -/
def Eng.count (e : Eng) (st : LSt) : Eng :=
  let e := st.ptrs.foldl (fun e c => e.inc HOLD_COUNT c) e
  st.groups.foldl (fun e g => e.inc SC_GROUP_COUNT g) e

/-! ## Where a sector's entry is (R130) -/

/-- Four lines in I. -/
def allI : List LSt := [.I, .I, .I, .I]

/-- The SFA way that holds a sector. -/
def Eng.sfaFind (e : Eng) (slice sector : Nat) : Option SfaWay :=
  e.sfa.find? fun w => w.slice == slice && w.sector == sector && !w.resv

/-- The spill-buffer entry that holds a sector. -/
def Eng.spillFind (e : Eng) (slice sector : Nat) : Option Spill :=
  e.spill.find? fun s => s.slice == slice && s.sector == sector && !s.back

/-- A DBS page, if its page-valid bit is set (R136). -/
def Eng.page (e : Eng) (p : Nat) : Option DbsPage := e.dbs.find? fun q => q.page == p

/-- The authoritative lines of a sector (R130). -/
def Eng.sectorLines (e : Eng) (slice sector : Nat) : List LSt :=
  match e.sfaFind slice sector with
  | some w => w.l
  | none =>
    match e.spillFind slice sector with
    | some s => s.l
    | none =>
      match e.page (dbsPage e.sfKey (e.psn (sector * 4))) with
      | some p => match p.bursts.find? fun b => b.sector == sector with
        | some b => b.l
        | none => allI
      | none => allI

/-- The authoritative state of a line. -/
def Eng.lineSt (e : Eng) (slice line : Nat) : LSt := nth .I (e.sectorLines slice (line / 4)) (line % 4)

/-- A way is pinned (R137): reserved for a fill, an open or held context on one of its lines, or an eviction of it. -/
def Eng.pinned (e : Eng) (w : SfaWay) : Bool :=
  w.resv
    || (e.ctxs.any fun x => x.slice == w.slice && x.req.line / 4 == w.sector && !x.req.op.isWback
          && decide (x.phase ≠ .waitSet))
    || (e.evicts.any fun v => v.slice == w.slice && v.sector == w.sector && v.inSfa)

/-! ## Ranks (R139) -/

/-- Make a way most recently used: rank 0, and ranks below its old rank raised by one. -/
def Eng.touchSfa (e : Eng) (slice set way old : Nat) : Eng :=
  { e with sfa := e.sfa.map fun w =>
                if w.slice == slice && w.set == set then
                (if w.way = way then { w with rank := 0 } else if w.rank < old then { w with rank := w.rank + 1 } else w)
                else w }

/-- A lookup hit (R139; nothing with SF_REPL_UPDATE at 1). -/
def Eng.hitSfa (e : Eng) (w : SfaWay) : Eng := if e.obj SF_REPL_UPDATE 1 = 1 then e else e.touchSfa w.slice w.set w.way w.rank

/-! ## Updating a line -/

/-- What is written where a rule would write `st` to a line: SC with no group where the unit is adopted and the rule
writes I (R282). -/
def Eng.presumed (e : Eng) (line : Nat) (st : LSt) : LSt := if st = .I ∧ e.adopted line then .SC 0 else st

/-- The records of lines in H follow an update: a line that enters H without an AtomicOp counts its idle time from there, and a line that
leaves H has none (R202). -/
def Eng.hRecord (e : Eng) (line : Nat) (st : LSt) : Eng :=
  if st = .H then
    (if e.hIdle.any fun h => h.line == line then e else { e with hIdle := { line := line, since := e.ts } :: e.hIdle })
  else { e with hIdle := e.hIdle.filter fun (h : HIdle) => h.line != line }

/-- Write a line's state in its SFA way, or in the spill entry marked evicting; counts and delta follow (R133, R152,
R268). A way left with four lines in I and `dbs` 0 frees, at once where no context pins it, else as the last one retires (R137). A sector
that is in neither has no entry to write: its set is tainted (R155). -/
def Eng.setLine (e : Eng) (slice line : Nat) (st : LSt) : Eng × Option Nat :=
  let sector := line / 4
  let st := e.presumed line st
  let old := e.lineSt slice line
  if old = st ∨ ((e.sfaFind slice sector).isNone ∧ (e.spillFind slice sector).isNone) then (e, none)
  else
    let e1 : Eng := match e.sfaFind slice sector with
      | some w =>
        let l := w.l.set (line % 4) st
        if l = allI ∧ w.dbs = false ∧ !e.pinned w then
          { e with sfa := e.sfa.filter fun (v : SfaWay) => !(v.slice == w.slice && v.set == w.set && v.way == w.way) }
        else
          { e with sfa := updFirst (fun v => v.slice == w.slice && v.set == w.set && v.way == w.way)
                        (fun v => { v with l := l, dirty := true }) e.sfa }
      | none =>
        { e with spill := updFirst (fun s => s.slice == slice && s.sector == sector && !s.back)
                      (fun s => { s with l := s.l.set (line % 4) st }) e.spill }
    let e2 := ((e1.uncount old).count st).hRecord line st
    e2.emitLine line old st

/-! ## Taint (R159) -/

/-- A set of a slice's partition is tainted. -/
def Eng.setTainted (e : Eng) (slice set : Nat) : Bool :=
  e.taint.any fun t => t.kind == 0 && t.slice == e.sliceNum slice && t.whr == set

/-- A DBS page is tainted. -/
def Eng.pageTainted (e : Eng) (p : Nat) : Bool := e.taint.any fun t => t.kind == 1 && t.whr == p

/-- The lowest free element of the taint list. -/
def Eng.taintFree (e : Eng) : Option Nat := (List.range 64).find? fun i => !(e.taint.any fun t => t.el == i)

/-- Foghorn asserts with a cause and unit, or counts a later cause (R308): boundary effects of R61 follow in
`Eng.foghornClose`. -/
def Eng.foghornMark (e : Eng) (cause unit : Nat) : Eng :=
  let old := e.ob FOGHORN_CAUSE
  if e.foghorn ∧ !e.fenced then
    let later := min (bits old 76 61 + 1) 0xFFFF
    e.set FOGHORN_CAUSE 0 (old % 2 ^ 61 + later * 2 ^ 61)
  else
    let e := e.set FOGHORN_CAUSE 0 (cause + unit * 2 ^ 8 + e.t48 * 2 ^ 13)
    Eng.event { e with foghorn := true, fenced := false } 0x11 (evArgs [(0, cause), (1, unit)])

/-- Enter a set of a slice number or a page in the taint list (R159). A taint that would need a 65th entry is a Foghorn condition. -/
def Eng.addTaint (e : Eng) (kind slice whr : Nat) : Eng :=
  if e.taint.any fun t => t.kind == kind && t.slice == slice && t.whr == whr then e
  else
    match e.taintFree with
    | some i => { e with taint := e.taint ++ [{ el := i, kind := kind, slice := slice, whr := whr, time := e.t48 }] }
    | none => e.foghornMark 0x01 slice

/-! ## Victims, spills and fills -/

/-- The DBS controller may issue DRAM commands (R149). -/
def Eng.dbsUp (e : Eng) : Bool := e.rwlDone.contains DBS_BASE && e.ob GUARD_ARM == 1

/-- Moving the way's sector out needs a DBS write (R138). -/
def SfaWay.needsWrite (w : SfaWay) : Bool := !((w.dbs && !w.dirty) || (!w.dbs && decide (w.l = allI)))

/-- Spill-buffer entries in use at a slice, or withheld (R119, R300). -/
def Eng.spillUsed (e : Eng) (slice : Nat) : Nat := (e.spill.filter fun s => s.slice == slice).length + e.offN 0xC slice 0

/-- Live lines of a sector (Table 06.2). -/
def live (l : List LSt) : Nat := (l.filter fun s => decide (s ≠ .I)).length

/-- Way `a` is chosen before way `b` by SF_VICTIM_POLICY (Table 06.2); equal ways by lowest number. -/
def victimBefore (policy : Nat) (a b : SfaWay) : Bool :=
  let byRank := decide (b.rank < a.rank) || (a.rank == b.rank && decide (a.way < b.way))
  if policy = 1 then decide (live a.l < live b.l) || (live a.l == live b.l && byRank)
  else if policy = 2 then
    (!a.needsWrite && b.needsWrite) || (a.needsWrite == b.needsWrite && byRank)
  else byRank

/-- A way of a set for a missing sector: a free way, else an unpinned way by policy, only ways that need no write while
the spill buffer is full or the DBS is not up (R138, R149). The second part is the way's old sector. -/
def Eng.pickWay (e : Eng) (slice set : Nat) : Option (Nat × Option SfaWay) :=
  let mine := e.sfa.filter fun w => w.slice == slice && w.set == set
  let usable := (List.range 16).filter fun i => !(e.wayOff.contains (0, slice, set, i))
  match usable.find? fun i => !(mine.any fun w => w.way == i) with
  | some i => some (i, none)
  | none =>
    let noWrite := decide (16 ≤ e.spillUsed slice) || !e.dbsUp
    let cand := mine.filter fun w => usable.contains w.way && !e.pinned w && !(noWrite && w.needsWrite)
    match cand with
    | [] => none
    | h :: t =>
      let w := t.foldl (fun b a => if victimBefore (e.obj SF_VICTIM_POLICY 2) a b then a else b) h
      some (w.way, some w)

/-- The previous sector of a chosen way leaves (R138). -/
def Eng.spillOut (e : Eng) (w : SfaWay) : Eng :=
  let e := { e with sfa := e.sfa.filter fun (v : SfaWay) => !(v.slice == w.slice && v.set == w.set && v.way == w.way) }
  if !w.needsWrite then e
  else
    let kind : SpillK := if w.l = allI then .release else if w.dbs then .rewrite else .placement
    let e := e.inc SF_SPILLS
    { e with spill := e.spill ++ [{ slice := w.slice, sector := w.sector, psn := w.psn, l := w.l, kind := kind, dbs := w.dbs, slot := w.slot, seq := none, chosen := none, back := false }] }

/-- Install a sector in a way of its set (R139). -/
def Eng.install (e : Eng) (slice sector psn set way oldRank : Nat) (l : List LSt) (dbs dirty : Bool) (slot : Nat) : Eng :=
  let e := { e with sfa := (e.sfa.filter fun (v : SfaWay) => !(v.slice == slice && v.set == set && v.way == way)) ++
                         [({ slice := slice, set := set, way := way, psn := psn, sector := sector, l := l, rank := oldRank, dbs := dbs, dirty := dirty, slot := slot, resv := false } : SfaWay)] }
  let e := e.touchSfa slice set way oldRank
  if l = allI ∧ dbs = false ∧ !(e.ctxs.any fun x => x.slice == slice && x.req.line / 4 == sector)
      ∧ !(e.deltas.any fun d => d.slice == slice && d.line / 4 == sector) then
    { e with sfa := e.sfa.filter fun (v : SfaWay) => !(v.slice == slice && v.set == set && v.way == way) }
  else e

/-- Reinstall a sector from the spill buffer in a chosen way (R119, R148). A placement without a chosen burst is cancelled; a rewrite, a
release or a placement that has chosen its burst still completes from its buffer entry, whether or not it has started. -/
def Eng.reinstall (e : Eng) (s : Spill) (set way oldRank : Nat) : Eng :=
  let e := (e.inc SPILL_REINSTALLS).pm s.slice 0x13 1
  let stays : Eng := { e with spill := updFirst (fun t => t.slice == s.slice && t.sector == s.sector && !t.back) (fun t => { t with back := true }) e.spill }
  match s.kind, s.chosen with
  | .rewrite, _ => stays.install s.slice s.sector s.psn set way oldRank s.l true false s.slot
  | .release, _ => stays.install s.slice s.sector s.psn set way oldRank s.l false false 0
  | .placement, some b => stays.install s.slice s.sector s.psn set way oldRank s.l true false b
  | _, _ =>
    let e := { e with spill := e.spill.filter fun t => !(t.slice == s.slice && t.sector == s.sector && !t.back) }
    e.install s.slice s.sector s.psn set way oldRank s.l false true 0

/-- Four lines in P (R159). -/
def allP : List LSt := [.P, .P, .P, .P]

/-- What the directory side of a lookup came to. -/
inductive DirRes where
  /-- The sector is in the SFA. -/
  | ready
  /-- It waits for its fill. -/
  | filling
  /-- It waits for a way of its set. -/
  | noWay
  deriving DecidableEq, Repr

/-- Raise a set's pressure counter on an entry into the set-conflict queue (R140). -/
def Eng.pressureUp (e : Eng) (slice set : Nat) : Eng :=
  let key := slice * 8192 + set
  let v := min (kget 0 key e.pressure + 1) 255
  let e := { e with pressure := kput key v e.pressure }
  let top := e.obj SF_PRESSURE_TOP (e.sliceNum slice)
  if bits top 20 13 < v then e.set SF_PRESSURE_TOP (e.sliceNum slice) (set + v * 2 ^ 13) else e

/-- The directory lookup of a sector: hit, reinstall from the spill buffer, taint, or reservation of a way and start of
its fill (R119, R120, R138 to R140, R143, R159). The caller queues a waiter on `noWay`. The fill's DRAM read starts in
`Dbs.lean` from `res = reading`. -/
def Eng.dirLookup (e : Eng) (slice sector psn : Nat) (waited : Bool) : Eng × DirRes :=
  let set := sfaSet e.sfKey psn
  match e.sfaFind slice sector with
  | some w => ((e.hitSfa w).pm slice 0x11 1, .ready)
  | none =>
    if e.fills.any fun f => f.slice == slice && f.sector == sector then (e, .filling)
    else if !waited && (e.waiters.any fun t => t.slice == slice && t.set == set) then (e, .noWay)
    else
      match e.pickWay slice set with
      | none => (e, .noWay)
      | some (way, old) =>
        let rank := match old with | some w => w.rank | none => 15
        match e.spillFind slice sector with
        | some s =>
          let e := match old with | some w => e.spillOut w | none => e
          (e.reinstall s set way rank, .ready)
        | none =>
          let e := match old with | some w => e.spillOut w | none => e
          if e.setTainted slice set then
            let e := e.addObj TAINT_POISONED 0 4
            (e.install slice sector psn set way rank allP false true 0, .ready)
          else
            let pg := dbsPage e.sfKey psn
            let res : FillRes := if e.pageTainted pg then .tainted
              else if !e.dbsUp || (e.page pg).isNone then .absent else .reading
            ({ e with
                sfa := e.sfa ++ [{ slice := slice, set := set, way := way, psn := psn, sector := sector, l := allI, rank := rank, dbs := false, dirty := false, slot := 0, resv := true }],
                fills := e.fills ++ [{ slice := slice, sector := sector, psn := psn, set := set, way := way, res := res }] },
             .filling)

/-- The reserved way of a fill becomes free. -/
def Eng.dropResv (e : Eng) (slice set way : Nat) : Eng :=
  { e with sfa := e.sfa.filter fun (v : SfaWay) => !(v.slice == slice && v.set == set && v.way == way && v.resv) }

/-- A completed fill installs its sector (R143, R159). -/
def Eng.fillInstall (e : Eng) (f : Fill) : Eng :=
  let rank := match e.sfa.find? fun v => v.slice == f.slice && v.set == f.set && v.way == f.way with
    | some w => w.rank
    | none => 15
  let e := { e with fills := e.fills.filter fun g => !(g.slice == f.slice && g.sector == f.sector) }
  match f.res with
  | .found b l => e.install f.slice f.sector f.psn f.set f.way rank l true false b
  | .tainted => (e.addObj TAINT_POISONED 0 4).install f.slice f.sector f.psn f.set f.way rank allP false true 0
  | _ => e.install f.slice f.sector f.psn f.set f.way rank allI false false 0

/-- An SFA way fails beyond correction: it becomes free, its four lines count as lost and its set is tainted (R155). -/
def Eng.sfaFail (e : Eng) (w : SfaWay) : Eng :=
  let e := { e with sfa := e.sfa.filter fun (v : SfaWay) => !(v.slice == w.slice && v.set == w.set && v.way == w.way) }
  let e := e.addObj TAINT_POISONED 0 4
  e.addTaint 0 (e.sliceNum w.slice) w.set

end Sys2Proof.Machine
end

