-- ==== Sys2Proof/Machine/Hdc.lean ====
section
/-! DEFINITION. Sys2Proof/Machine/Hdc.lean: the Home Data Cache: probes, allocation, update, removal, victims, the
stream table, and the contention predictor and echo table of the Atomic Unit (chapter 08 of spec/). -/
namespace Sys2Proof.Machine
open Ob

/-! ## Data of a line -/

/-- Mask of the data bits that byte enables select. -/
def beMask (be : Be) : Data :=
  (List.range 64).foldl (fun m i => if be.getLsbD i then m ||| (BitVec.ofNat 512 0xFF <<< (8 * i)) else m) 0

/-- New bytes over old ones where enabled (R104). -/
def merge (old new : Data) (be : Be) : Data :=
  let m := beMask be
  (old &&& ~~~m) ||| (new &&& m)

/-- Operand size in bytes (Table 02.3). -/
def opBytes (usize : Nat) : Nat := if usize = 0 then 4 else if usize = 1 then 8 else 16

/-- The n-byte little-endian integer at byte `off` of a line (R199). -/
def getInt (d : Data) (off n : Nat) : Nat := d.toNat / 2 ^ (8 * off) % 2 ^ (8 * n)

/-- A line with the n-byte integer at byte `off` replaced (R199). -/
def putInt (d : Data) (off n v : Nat) : Data :=
  let m : Data := BitVec.ofNat 512 (2 ^ (8 * n) - 1) <<< (8 * off)
  (d &&& ~~~m) ||| ((BitVec.ofNat 512 (v % 2 ^ (8 * n)) <<< (8 * off)) &&& m)

/-- An AtomicOp on a line: the new line and the old value (R199). Operands in the request's data field, as Table 02.3
packs them. -/
def atomicExec (uop usize uoff : Nat) (operands d : Data) : Data × Nat :=
  let n := opBytes usize
  let old := getInt d uoff n
  let a := getInt operands 0 n
  let b := getInt operands 16 n
  let new := if uop = 1 then (old + a) % 2 ^ (8 * n) else if uop = 2 then a else if old = a then b else old
  (putInt d uoff n new, old)

/-! ## Probes and ranks -/

/-- The way that holds a sector. -/
def Eng.hdcFind (e : Eng) (slice sector : Nat) : Option HWay :=
  e.hdc.find? fun w => w.slice == slice && w.sector == sector

/-- The HDC answers probes: its status is enabled or disabling (R186, R196). -/
def Eng.hdcLive (e : Eng) : Bool := e.ob HDC_STATUS == 1 || e.ob HDC_STATUS == 2

/-- Allocations are allowed (Table 08.2: none while disabling or disabled). -/
def Eng.hdcAllocs (e : Eng) : Bool := e.ob HDC_STATUS == 1

/-- Data of a line in its way or in the eviction buffer, with its dirty bit and whether the buffer gave it (R190). -/
def Eng.hdcProbe (e : Eng) (slice line : Nat) : Option (Data × Bool × Bool) :=
  if !e.hdcLive then none
  else
    match e.hdcFind slice (line / 4) with
    | some w =>
      if nth false w.lv (line % 4) then some (nth 0 w.d (line % 4), nth false w.ld (line % 4), false)
      else (e.evb.find? fun v => v.slice == slice && v.line == line && v.inBuf).map fun v => (v.data, true, true)
    | none => (e.evb.find? fun v => v.slice == slice && v.line == line && v.inBuf).map fun v => (v.data, true, true)

/-- A line is in its way (not in the eviction buffer). -/
def Eng.hdcHas (e : Eng) (slice line : Nat) : Bool :=
  match e.hdcFind slice (line / 4) with
  | some w => e.hdcLive && nth false w.lv (line % 4)
  | none => false

/-- Make a way most recently used in its set (R188). -/
def Eng.touchHdc (e : Eng) (slice set way old : Nat) : Eng :=
  { e with hdc := e.hdc.map fun w =>
                    if w.slice == slice && w.set == set then
                      (if w.way = way then { w with rank := 0 } else if w.rank < old then { w with rank := w.rank + 1 } else w)
                    else w }

/-- Change the way that holds a sector. -/
def Eng.updHdc (e : Eng) (slice sector : Nat) (f : HWay → HWay) : Eng :=
  { e with hdc := updFirst (fun w => w.slice == slice && w.sector == sector) f e.hdc }

/-- A hit clears the `lp` bit of a prefetched line, and is counted (R192). -/
def Eng.pfHit (e : Eng) (slice line : Nat) : Eng :=
  match e.hdcFind slice (line / 4) with
  | some w =>
    if nth false w.lp (line % 4) then (e.inc HDC_PF_USEFUL).updHdc slice (line / 4) fun w => { w with lp := w.lp.set (line % 4) false } else e
  | none => e

/-- A read hit: rank, and a first hit of a prefetched line (R188, R192). -/
def Eng.hdcHit (e : Eng) (slice line : Nat) : Eng :=
  match e.hdcFind slice (line / 4) with
  | some w => (e.pfHit slice line).touchHdc slice w.set w.way w.rank
  | none => e

/-- Lines of a sector that are dirty. -/
def dirtyLines (w : HWay) : List Nat := (List.range 4).filter fun k => nth false w.lv k && nth false w.ld k

/-- Lines in the eviction buffer of a slice (R190). -/
def Eng.evbUsed (e : Eng) (slice : Nat) : Nat := (e.evb.filter fun v => v.slice == slice && v.inBuf).length

/-- A way may be a victim (R190). -/
def Eng.hdcVictim (e : Eng) (w : HWay) : Bool :=
  !w.lock && !(w.lh.any id) && w.resv.isEmpty
    && !(e.ctxs.any fun x => x.slice == w.slice && x.req.line / 4 == w.sector && !x.req.op.isWback && decide (x.phase = .opened))
    && decide (e.evbUsed w.slice + (dirtyLines w).length ≤ 16)

/-- A way of a sector's set for an allocation: a free one, else the highest-ranked that qualifies (R190). -/
def Eng.hdcPick (e : Eng) (slice set : Nat) : Option (Nat × Option HWay) :=
  let mine := e.hdc.filter fun w => w.slice == slice && w.set == set
  let usable := (List.range 16).filter fun i => !(e.wayOff.contains (5, slice, set, i))
  match usable.find? fun i => !(mine.any fun w => w.way == i) with
  | some i => some (i, none)
  | none =>
    match mine.filter fun w => usable.contains w.way && e.hdcVictim w with
    | [] => none
    | h :: t =>
      let w := t.foldl (fun b a => if decide (b.rank < a.rank) || (a.rank == b.rank && decide (a.way < b.way)) then a else b) h
      some (w.way, some w)

/-- A victim leaves: its dirty lines move to the eviction buffer, unhit prefetched lines count as wasted (R190, R192). -/
def Eng.hdcEvict (e : Eng) (w : HWay) : Eng :=
  let wasted := ((List.range 4).filter fun k => nth false w.lv k && nth false w.lp k).length
  let e := e.addObj HDC_PF_WASTED 0 wasted
  let moved : List EvLine := (dirtyLines w).map fun k => { slice := w.slice, line := w.sector * 4 + k, data := nth 0 w.d k, inBuf := true, ctx := none }
  { e with hdc := e.hdc.filter (fun (v : HWay) => !(v.slice == w.slice && v.set == w.set && v.way == w.way)),
           evb := e.evb ++ moved }

/-- The sector has a way, or one can be chosen (R188, R200). -/
def Eng.hdcCanAlloc (e : Eng) (slice line : Nat) : Bool :=
  (e.hdcFind slice (line / 4)).isSome || (e.hdcPick slice (hdcSet e.sfKey (e.psn line))).isSome

/-- Allocate for a line: its sector's way, or one chosen for it, takes rank 0; `none` where no way can be chosen (R188, R190). -/
def Eng.hdcAlloc (e : Eng) (slice line : Nat) : Option Eng :=
  let sector := line / 4
  match e.hdcFind slice sector with
  | some w => some (e.touchHdc slice w.set w.way w.rank)
  | none =>
    let set := hdcSet e.sfKey (e.psn line)
    match e.hdcPick slice set with
    | none => none
    | some (way, old) =>
      let rank := match old with | some w => w.rank | none => 15
      let e := match old with | some w => e.hdcEvict w | none => e
      let f4 := [false, false, false, false]
      let w : HWay := { slice := slice, set := set, way := way, psn := e.psn line, sector := sector, lv := f4, ld := f4, lh := f4, lp := f4, d := [0, 0, 0, 0], lock := false, rank := rank, resv := [] }
      some (Eng.touchHdc { e with hdc := w :: e.hdc } slice set way rank)

/-- Write a line's data in its way. -/
def Eng.hdcPut (e : Eng) (slice line : Nat) (d : Data) (dirty pf : Bool) : Eng :=
  e.updHdc slice (line / 4) fun w =>
    { w with lv := w.lv.set (line % 4) true, ld := w.ld.set (line % 4) dirty, lp := w.lp.set (line % 4) pf,
             d := w.d.set (line % 4) d }

/-- Allocate and write a line, counting a skip where no way can be chosen (R188). -/
def Eng.hdcFill (e : Eng) (slice line : Nat) (d : Data) (dirty pf : Bool) : Eng :=
  match e.hdcAlloc slice line with
  | some e => e.hdcPut slice line d dirty pf
  | none => e.inc HDC_ALLOC_SKIPS

/-- Remove a line's data (R92); an unhit prefetched line counts as wasted (R192). -/
def Eng.hdcRemove (e : Eng) (slice line : Nat) : Eng :=
  match e.hdcFind slice (line / 4) with
  | some w =>
    let e := if nth false w.lv (line % 4) && nth false w.lp (line % 4) then e.inc HDC_PF_WASTED else e
    e.updHdc slice (line / 4) fun w =>
      { w with lv := w.lv.set (line % 4) false, ld := w.ld.set (line % 4) false, lh := w.lh.set (line % 4) false,
               lp := w.lp.set (line % 4) false }
  | none => e

/-- Set or clear a line's `lh` bit. -/
def Eng.hdcSetH (e : Eng) (slice line : Nat) (h : Bool) : Eng :=
  e.updHdc slice (line / 4) fun w => { w with lh := w.lh.set (line % 4) h }

/-- Reserve or release a way for a context (R200). -/
def Eng.hdcResv (e : Eng) (slice line idx : Nat) (on : Bool) : Eng :=
  e.updHdc slice (line / 4) fun w => { w with resv := if on then idx :: w.resv else w.resv.filter (fun (i : Nat) => i != idx) }

/-- A sector holds a locked way (Table 08.2). -/
def Eng.hdcLocked (e : Eng) (slice line : Nat) : Bool :=
  match e.hdcFind slice (line / 4) with
  | some w => w.lock
  | none => false

/-- Locked ways of a set (R191). -/
def Eng.lockedWays (e : Eng) (slice set : Nat) : Nat :=
  (e.hdc.filter fun w => w.slice == slice && w.set == set && w.lock).length

/-- A line of a preload needs a way in a set that has HDC_LOCK_WAYS_MAX locked ways (R191). -/
def Eng.preloadFull (e : Eng) (line : Nat) : Bool :=
  let s := e.owner line
  (e.hdcFind s (line / 4)).isNone && decide (e.ob HDC_LOCK_WAYS_MAX ≤ e.lockedWays s (hdcSet e.sfKey (e.psn line)))

/-- Writes go through to the backing device: SDT-H32, HDC disabling or disabled (R29, R196). -/
def Eng.writeThrough (e : Eng) : Bool := e.isH32 || e.ob HDC_STATUS != 1

/-! ## Streams (R189, R192) -/

/-- The stream of a CAID and tile at a slice. -/
def Eng.stream (e : Eng) (slice caid tile : Nat) : Option Stream :=
  e.streams.find? fun s => s.slice == slice && s.caid == caid && s.tile == tile

/-- Store a stream as the most recently used, the least recently used beyond 64 dropped. -/
def Eng.putStream (e : Eng) (s : Stream) : Eng :=
  let mine := e.streams.filter fun t => t.slice == s.slice && !(t.caid == s.caid && t.tile == s.tile)
  let rest := e.streams.filter fun t => t.slice != s.slice
  { e with streams := (s :: mine).take (64 - e.offN 0xD s.slice 2) ++ rest }

/-- The stream found by its key, or a new one with nothing recorded. -/
def Eng.streamOr (e : Eng) (slice caid tile : Nat) : Stream :=
  (e.stream slice caid tile).getD { slice := slice, caid := caid, tile := tile, lastRd := none, stride := 0, conf := 0, lastWr := none, count := 0 }

/-- A full-line write updates its stream; true where the write stops allocation (R189). -/
def Eng.streamWrite (e : Eng) (slice caid tile o : Nat) : Eng × Bool :=
  let s := e.streamOr slice caid tile
  let seq := match s.lastWr with | some l => decide (l < o) && decide (o ≤ l + 64) | none => false
  let cnt := if seq then min (s.count + 1) 127 else 0
  let lim := e.ob HDC_STREAM_LIMIT
  let e := e.putStream { s with count := cnt, lastWr := some o }
  let e := if s.count < lim ∧ lim ≤ cnt then e.inc HDC_STREAM_STOPS else e
  (e, decide (lim ≤ cnt))

/-- A read miss trains its stream; the lines to consider for prefetch follow, in order (R192). -/
def Eng.streamRead (e : Eng) (slice caid tile o : Nat) : Eng × List Nat :=
  let s := e.streamOr slice caid tile
  match s.lastRd with
  | none => (e.putStream { s with lastRd := some o, stride := 0, conf := 0 }, [])
  | some l =>
    let d : Int := (o : Int) - (l : Int)
    let same := decide (d ≠ 0) && decide (d = s.stride)
    let conf := if same then min (s.conf + 1) 3 else 0
    let stride := if same then s.stride else d
    let e := e.putStream { s with lastRd := some o, stride := stride, conf := conf }
    if conf < 2 then (e, [])
    else
      (e, (List.range (e.ob HDC_PF_DISTANCE)).filterMap fun (j : Nat) =>
        let x : Int := (o : Int) + stride * ((j : Int) + 1)
        if 0 ≤ x ∧ x < 32768 then some x.toNat else none)

/-! ## Contention predictor (R201) -/

/-- Line number of the predictor (R201). -/
def Eng.predLn (e : Eng) (line : Nat) : Nat := e.psn line * 4 + line % 4

/-- Sets per slice. -/
def Eng.predSets (e : Eng) : Nat := 8192 / e.n

/-- Set of a line number. -/
def Eng.predSet (e : Eng) (ln : Nat) : Nat := (bits ln 9 0 ^^^ bits ln 19 10 ^^^ bits ln 29 20 ^^^ bits ln 39 30) % e.predSets

/-- Tag of a line number. -/
def predTag (ln : Nat) : Nat := bits ln 39 11

/-- The predictor entry of a line. -/
def Eng.predFind (e : Eng) (slice line : Nat) : Option Pred :=
  let ln := e.predLn line
  e.pred.find? fun p => p.slice == slice && p.set == e.predSet ln && p.ln == predTag ln

/-- Store an entry as the most recently used of its set, 8 ways (R201). -/
def Eng.putPred (e : Eng) (p : Pred) : Eng :=
  let mine := e.pred.filter fun q => q.slice == p.slice && q.set == p.set && q.ln != p.ln
  let rest := e.pred.filter fun q => !(q.slice == p.slice && q.set == p.set)
  { e with pred := (p :: mine).take (8 - e.offN 0xD p.slice (4 + 8 * p.set)) ++ rest }

/-- An AtomicOp uses and updates the predictor: the counter before the update is the prediction (R200, R201). -/
def Eng.predAtomic (e : Eng) (slice line : Nat) : Eng × Nat :=
  let ln := e.predLn line
  let now := bits e.ts 21 6
  match e.predFind slice line with
  | none => (e.putPred { slice := slice, set := e.predSet ln, ln := predTag ln, ctr := 1, time := now, line := line }, 1)
  | some p =>
    let u := (now + 2 ^ 16 - p.time) % 2 ^ 16
    let ctr := if u * 64 < e.ob ATOM_REUSE_WINDOW then min (p.ctr + 1) 3 else p.ctr - 1
    (e.putPred { p with ctr := ctr, time := now }, p.ctr)

/-- A host request moved the line out of H (R201). -/
def Eng.predLower (e : Eng) (slice line : Nat) : Eng :=
  match e.predFind slice line with
  | some p => { e with pred := updFirst (fun q => q.slice == p.slice && q.set == p.set && q.ln == p.ln)
                                (fun q => { q with ctr := q.ctr - 1 }) e.pred }
  | none => e

/-! ## Echo table (R127) -/

/-- Entries of a slice's partition. -/
def Eng.echoSize (e : Eng) (slice : Nat) : Nat := 4096 / e.n - e.offN 0xD slice 1

/-- An entry passes the age test of R127. -/
def Eng.echoFresh (e : Eng) (x : Echo) : Bool :=
  x.valid && decide (((bits e.ts 21 6 + 2 ^ 16 - x.time) % 2 ^ 16) * 64 < x.window + 64)

/-- Write an entry in its slice's partition, replacing the oldest (R127). -/
def Eng.putEcho (e : Eng) (x : Echo) : Eng :=
  let mine := e.echo.filter fun y => y.slice == x.slice
  let rest := e.echo.filter fun y => y.slice != x.slice
  let early := match mine.getLast? with
    | some o => decide (e.echoSize x.slice ≤ mine.length) && e.echoFresh o
    | none => false
  let e := if early then e.inc ECHO_EARLY_EVICT else e
  { e with echo := (x :: mine).take (e.echoSize x.slice) ++ rest }

/-- The entry a UIO beat matches (R127). -/
def Eng.echoHit (e : Eng) (slice : Nat) (r : Req) : Option Echo :=
  e.echo.find? fun x => x.slice == slice && x.caid == r.caid && x.tag == r.tag && x.line == r.line && x.op == r.row
    && x.size == r.usize && x.off == r.uoff && e.echoFresh x

/-! ## Lines in H (R202) -/

/-- Record an AtomicOp as the last on a line in H (R202). -/
def Eng.hTouch (e : Eng) (line : Nat) : Eng :=
  { e with hIdle := { line := line, since := e.ts } :: e.hIdle.filter (fun (h : HIdle) => h.line != line) }

/-- A line has left H: its idle record goes and its copy's `lh` bit clears (R202). -/
def Eng.hLeave (e : Eng) (slice line : Nat) : Eng :=
  Eng.hdcSetH { e with hIdle := e.hIdle.filter (fun (h : HIdle) => h.line != line) } slice line false

end Sys2Proof.Machine
end

