-- ==== Sys2Proof/Machine/Dram.lean ====
section
/-! DEFINITION. Sys2Proof/Machine/Dram.lean: the DRAM port and the sequences of accesses that the DBS controller, the
Tile Map Unit, the sweeps, the scrubber and the ring writers make through it (R47 to R49, R145 to R149, R76, R81). The
content of DBS pages and tile-map pages is held as the tables themselves; a sequence's accesses are the commands it
presents, and the table changes when the sequence's writes have completed (log entry 10). -/
namespace Sys2Proof.Machine
open Ob

/-- DRAM burst address A[39:6] of burst x (0 to 63) of a DBS page, through the page remap (R141, R157, R301). -/
def Eng.dbsAddr (e : Eng) (page x : Nat) : Nat :=
  match e.remap.find? fun m => m.1 == page && !m.2.2 with
  | some m => e.ob RAS_SPARE_BASE / 64 + m.2.1 * 64 + x
  | none => e.ob DBS_BASE / 64 + page * 64 + x

/-- DRAM burst address A[39:6] of burst x of a tile-map page, through the page remap (R76, R301). -/
def Eng.tileAddr (e : Eng) (page x : Nat) : Nat :=
  match e.remap.find? fun m => m.1 == page && m.2.2 with
  | some m => e.ob RAS_SPARE_BASE / 64 + m.2.1 * 64 + x
  | none => e.ob TILEMAP_BASE / 64 + page * 64 + x

/-- Key of a tile-map page among the page locks. -/
def tileLock (page : Nat) : Nat := 2 ^ 20 + page

/-- Initiator bit of a requester of the DRAM channel arbiter (Tables 03.9, 07.7): DBS controller, walker and sweeps are
coherence engines, then the scrubber and the ring writers. -/
def rqInit (rq : Nat) : Nat := if rq = 3 then 5 else if rq = 4 then 2 else 0

/-- A lock is held by some sequence. -/
def Eng.lockHeld (e : Eng) (k : Nat) : Bool := e.seqs.any fun s => s.locked && s.lock == some k

/-- Page locks in use on a channel (16 at most). -/
def Eng.locksUsed (e : Eng) (ch : Nat) : Nat := (e.seqs.filter fun s => s.ch == ch && s.locked && s.lock.isSome).length

/-- Page of a sector under the key in force. -/
def Eng.pageOf (e : Eng) (psn : Nat) : Nat := dbsPage e.sfKey psn

/-- Addresses of a whole page. -/
def Eng.wholeDbs (e : Eng) (p : Nat) : List Nat := (List.range 64).map fun x => e.dbsAddr p x

/-- Remove the spill-buffer entry whose sequence has ended; a later spill of its sector stays (R148). -/
def Eng.dropSpill (e : Eng) (sp : Spill) : Eng :=
  { e with spill := e.spill.filter fun (s : Spill) => !(s.slice == sp.slice && s.sector == sp.sector && s.seq == sp.seq) }

/-- A spill, rewrite or release of a tainted page writes nothing; its live lines are lost (R156). -/
def Eng.spillTainted (e : Eng) (sp : Spill) : Eng :=
  (e.addObj TAINT_POISONED 0 (live sp.l)).dropSpill sp

/-- The spill entry a sequence works for. -/
def Eng.seqSpill (e : Eng) (slice sector id : Nat) : Option Spill :=
  e.spill.find? fun s => s.slice == slice && s.sector == sector && s.seq == some id

/-- Record the burst a placement has chosen. -/
def Eng.choose (e : Eng) (slice sector id b : Nat) : Eng :=
  { e with spill := updFirst (fun (s : Spill) => s.slice == slice && s.sector == sector && s.seq == some id)
                      (fun s => { s with chosen := some b }) e.spill }

/-- End a sequence: its lock is free. -/
def Eng.endSeq (e : Eng) (id : Nat) : Eng := { e with seqs := e.seqs.filter fun (s : DSeq) => s.id != id }

/-- The Gallery message by which a slice asks a DRAM channel stop for a sequence (Table 01.5); sequences of the controllers themselves have
none. A fill or walk is in the class of the request that waits, of which the model takes class 0. -/
def Eng.seqTraffic (e : Eng) (kind : SeqK) (ch : Nat) : Eng :=
  match kind with
  | .fill s _ _ | .fillDecode s _ => e.galSend .dbsFill 0 s (33 + ch)
  | .walk s _ | .walkDecode s _ => e.galSend .tileWalk 0 s (33 + ch)
  | .rewrite s _ | .place s _ | .release s _ => e.galSend .dbsSpill 7 s (33 + ch)
  | _ => e

/-- Change a sequence. -/
def Eng.updSeq (e : Eng) (id : Nat) (f : DSeq → DSeq) : Eng := { e with seqs := updFirst (fun t => t.id == id) f e.seqs }

/-- Give a sequence its next stages, with the failures of the stages behind it forgotten. -/
def Eng.nextStages (e : Eng) (id : Nat) (st : List (List DReq)) : Eng := e.updSeq id fun t => { t with stages := st, bad := [], soft := [] }

/-- Reads of bursts. -/
def rds (l : List Nat) : List DReq := l.map fun a => { op := .rd, addr := a }

/-- Full writes of bursts. -/
def wrs (l : List Nat) : List DReq := l.map fun a => { op := .wr, addr := a }

/-- A spill sequence has its page lock. One whose sector has been reinstalled meanwhile is cancelled (R148). Where the page is tainted it writes nothing (R156); where the page's bit is clear a release has
nothing to free (R147), and a rewrite or a placement is the first write of the page, with the sector at its home burst (R145, R146). -/
def Eng.spillLocked (e : Eng) (id slice sector : Nat) (release : Bool) : Eng :=
  match e.seqSpill slice sector id with
  | none => e.endSeq id
  | some sp =>
    let p := e.pageOf sp.psn
    if e.pageTainted p then (e.spillTainted sp).endSeq id
    else if (e.page p).isSome then e
    else if release then (e.dropSpill sp).endSeq id
    else (e.choose slice sector id (dbsHome sp.psn)).updSeq id fun t => { t with kind := .place slice sector, stages := [wrs (e.wholeDbs p)] }

/-- A waiting sequence has its lock. A tile-map write reads its page first where the page's written bit is set by then (R76). -/
def Eng.lockTaken (e : Eng) (s : DSeq) : Eng :=
  let e := e.updSeq s.id fun t => { t with locked := true }
  match s.kind with
  | .place sl sec => e.spillLocked s.id sl sec false
  | .rewrite sl sec => e.spillLocked s.id sl sec false
  | .release sl sec => e.spillLocked s.id sl sec true
  | .tileWrite p =>
    let all := (List.range 64).map fun x => e.tileAddr p x
    e.updSeq s.id fun t => { t with stages := (if e.written.contains p then [rds all] else []) ++ [wrs all] }
  | _ => e

/-- Grant a waiting sequence its lock when the page and one of the channel's 16 locks are free; the oldest waits first. -/
def Eng.grantLocks (e : Eng) : Eng :=
  e.seqs.foldl (fun e s =>
    if s.locked then e
    else match s.lock with
      | none => e.lockTaken s
      | some k =>
        if e.lockHeld k || decide (16 ≤ e.locksUsed s.ch) then e
        else e.lockTaken s) e

/-- Queue the commands of a sequence's next stage at its channel. A command the Partition Guard refuses is a fault of the directory
path and counts as a failed access (R82, R144). Nothing new is queued in Brace or under Foghorn (R149, Table 02.11). -/
def Eng.presentStage (e : Eng) (s : DSeq) : Eng :=
  if !s.locked || s.out != 0 || s.pend || e.brace || e.foghorn then e
  else match s.stages with
    | [] => e
    | st :: rest =>
      let init := rqInit s.rq
      let sec := s.rq == 4 && e.obj WORLD_UNIT_STATE (if s.kind == .trcRing then 0x11 else 0x10) % 2 == 0
      let ok := st.filter fun a => e.guardOk .directory init sec (a.op != .rd) (a.addr / 64) (a.addr / 64) 0 0
      let no := st.filter fun a => !e.guardOk .directory init sec (a.op != .rd) (a.addr / 64) (a.addr / 64) 0 0
      let e := no.foldl (fun e a => e.guardFault .directory init (a.op != .rd) (a.addr / 64)) e
      let ok := if s.rq == 3 && !no.isEmpty then [] else ok
      let cmds : List DCmd := ok.map fun a => { ch := a.addr / 64 % 4, rq := s.rq, seq := s.id, a := a }
      let bad := (no.filter fun a => a.op == .rd).map fun a => (a.addr, none)
      let wb := no.any fun a => a.op != .rd
      { e with dcmds := e.dcmds ++ cmds,
               seqs := updFirst (fun t => t.id == s.id) (fun t => { t with stages := rest, out := ok.length, ph := t.ph + 1, bad := t.bad ++ bad, wbad := t.wbad || wb, pend := true, refused := t.refused || !no.isEmpty }) e.seqs }

/-! ## The command a channel presents (R47, R48, R153) -/

/-- Base weights of the DRAM channel arbiter (Table 07.7). -/
def dramBase (i : Nat) : Nat := if i < 2 then 2 else 0

/-- One of the members of a list, which one left open (log entry 6). -/
def Eng.pick (e : Eng) (l : List Nat) : Option (Nat × Eng) :=
  match l with
  | [] => none
  | h :: _ => some (l.getD (Config.choice e.fresh % l.length) h, { e with fresh := e.fresh + 1 })

/-- Tags of a channel that are free. -/
def Eng.freeTags (e : Eng) (ch : Nat) : List Nat :=
  (List.range 256).filter fun t => !(e.dopen.any fun o => o.ch == ch && o.tag == t) && !(e.withheld.contains (ch, t))

/-- The command is a sweep's header read. -/
def Eng.isHdr (e : Eng) (c : DCmd) : Bool :=
  match e.seqs.find? fun s => s.id == c.seq with
  | some s => (match s.kind with | .sweepHdr _ _ => true | _ => false)
  | none => false

/-- A channel may present a sweep's header read: 7 other commands, or the time of 8 command slots at the 1 GHz of DRCLK, since the last one
(R153; log entry 56). -/
def Eng.hdrMay (e : Eng) (ch : Nat) : Bool :=
  match kget (7, 0) ch e.hdrGap with | (n, t) => decide (7 ≤ n) || decide (t + 8 ≤ e.ts)

/-- A channel that presents nothing presents the arbiter's choice with a free tag, and holds it until it is taken (R48, R179). Nothing new
is presented in Brace or under Foghorn (Table 02.11). -/
def Eng.dramPresent (e : Eng) (ch : Nat) : Eng :=
  let mine := e.dcmds.filter fun c => c.ch == ch
  if e.brace || e.foghorn || mine.any fun c => c.tag.isSome then e
  else
    let may := mine.filter fun c => !e.isHdr c || e.hdrMay ch
    match e.pick (e.freeTags ch) with
    | none => e
    | some (t, e1) =>
      match e1.arbitrate 4 ch dramBase (ascend (may.map fun c => c.rq)) with
      | none => e
      | some (w, e2) =>
        match may.find? fun c => c.rq == w with
        | none => e
        | some c =>
          let gap := if e.isHdr c then (0, e.ts) else match kget (7, 0) ch e.hdrGap with | (n, t) => (min (n + 1) 7, t)
          { e2 with dcmds := updFirst (fun d => decide (d = c)) (fun d => { d with tag := some t }) e2.dcmds, hdrGap := kput ch gap e2.hdrGap }

/-- Present what every sequence that may go on has to present, and on each channel one command. -/
def Eng.presentAll (e : Eng) : Eng :=
  (List.range 4).foldl (fun e ch => e.dramPresent ch) (e.grantLocks.seqs.foldl (fun e s => e.presentStage s) e.grantLocks)

/-- Start a sequence (R145 to R149). -/
def Eng.newSeq (e : Eng) (kind : SeqK) (ch rq : Nat) (lock : Option Nat) (stages : List (List DReq)) : Eng :=
  let id := e.fresh
  let e := e.seqTraffic kind ch
  let s : DSeq := { id := id, ch := ch, kind := kind, rq := rq, lock := lock, locked := lock.isNone, stages := stages, out := 0, ph := 0, bad := [], wbad := false }
  Eng.presentAll { e with fresh := id + 1, seqs := e.seqs ++ [s] }


/-! ## The page codes (R295, R296) -/

/-- Interleave of byte n of a DBS page; the header is in none (Table 06.4, R141). -/
def dbsLane (n : Nat) : Option Nat := if n < 16 then none else if n < 256 then some ((n - 16) / 15) else some (n % 16)

/-- Interleave of byte n of a tile-map page (R296). -/
def tileLane (n : Nat) : Option Nat :=
  let i := n / 16
  let b := n % 16
  some (if b = 10 then i % 16 else if b < 10 then (i + b + 1) % 16 else (i + b) % 16)

/-- Bytes of a burst that a failed read leaves wrong: all of one that is erased, those that differ of another. -/
def wrongBytes (d : Option Data) : List Nat :=
  match d with
  | none => List.range 64
  | some m => (List.range 64).filter fun y => bits m.toNat (8 * y + 7) (8 * y) != 0

/-- What the failures of a whole-page read cost interleave j: an erased byte 1, a byte error at an unknown position 2 (R295, R296). The
address of a burst in the page is the low six bits of its number. -/
def laneCost (lane : Nat → Option Nat) (bad : List (Nat × Option Data)) (j : Nat) : Nat :=
  (bad.map fun b => ((wrongBytes b.2).filter fun y => lane (b.1 % 64 * 64 + y) == some j).length * (if b.2.isSome then 2 else 1)).sum

/-- The RS(255,240) decode of a whole DBS page succeeds (R144, R295): 2e + f is at most 15 in every interleave. -/
def pageDecodes (bad : List (Nat × Option Data)) : Bool := (List.range 16).all fun j => decide (laneCost dbsLane bad j ≤ 15)

/-- The [256, 240, 17] decode of a whole tile-map page succeeds (R296): 2e + f is at most 16 in every interleave. -/
def tileDecodes (bad : List (Nat × Option Data)) : Bool := (List.range 16).all fun j => decide (laneCost tileLane bad j ≤ 16)

/-- Everything a whole-page read found wrong. -/
def DSeq.wrong (s : DSeq) : List (Nat × Option Data) := s.bad ++ s.soft.map fun b => (b.1, some b.2)

/-- The whole-page decode of a sequence that has read its page at burst address `base`: each interleave that the page code corrects or
gives up is counted and logged (R295 to R297), and the second part tells that the page decodes. -/
def Eng.decodePage (e : Eng) (s : DSeq) (base : Nat) (tile : Bool) : Eng × Bool :=
  let cost := laneCost (if tile then tileLane else dbsLane) s.wrong
  let lim := if tile then 16 else 15
  let st := if tile then 0xB else 9
  let scrub := match s.kind with | .scrub .. | .heat _ => true | _ => false
  let e := if s.wrong.isEmpty then e
    else (List.range 16).foldl (fun e j =>
      if cost j = 0 then e
      else if cost j ≤ lim then e.corrected st s.ch (base * 64) j 0 scrub
      else e.uncorrectable st s.ch (base * 64) 0) e
  (e, if tile then tileDecodes s.wrong else pageDecodes s.wrong)

end Sys2Proof.Machine
end

