-- ==== Sys2Proof/Machine/Dbs.lean ====
section
/-! DEFINITION. Sys2Proof/Machine/Dbs.lean: what the DBS controller and the Tile Map Unit do as the accesses of their
sequences complete: fills, page decodes, rewrites, placements, releases, overflows, walks and tile-map writes
(R76, R78, R79, R143 to R151, R156, R159, R296). -/
namespace Sys2Proof.Machine
open Ob

/-! ## DBS pages -/

/-- An unwritten page with nothing in it. -/
def emptyPage (p : Nat) : DbsPage := { page := p, bursts := [], cont := [], pgrp := 0, plow := 0, scg := 0, wgen := 0 }

/-- Summary bits a sector adds (Table 06.6). -/
def sumPtr (l : List LSt) (f : Nat → Nat) : Nat :=
  (l.flatMap LSt.ptrs).foldl (fun a c => setBit a (f c)) 0

/-- Group bits a sector's SC lines add. -/
def sumScg (l : List LSt) : Nat := (l.flatMap LSt.groups).foldl setBit 0

/-- Summaries widened by a sector (a write sequence sets bits and clears none). -/
def DbsPage.widen (p : DbsPage) (l : List LSt) : DbsPage :=
  { p with pgrp := p.pgrp ||| sumPtr l grp, plow := p.plow ||| sumPtr l (fun c => c % 16), scg := p.scg ||| sumScg l,
           wgen := (p.wgen + 1) % 256 }

/-- Cyclic positions from a home burst up to, not including, `b`. -/
def pathTo (home b : Nat) : List Nat := (List.range ((b + 60 - home) % 60)).map fun d => (home + d) % 60

/-- Summaries and `cont` recomputed exactly, as a whole-page write does (R148). -/
def DbsPage.exact (p : DbsPage) : DbsPage :=
  let ls := p.bursts.flatMap fun b => b.l
  let cont := p.bursts.flatMap fun b => pathTo (dbsHome b.psn) b.b
  { p with pgrp := sumPtr ls grp, plow := sumPtr ls (fun c => c % 16), scg := sumScg ls,
           cont := ascend cont, wgen := (p.wgen + 1) % 256 }

/-- Entry generations after a write of their burst (Table 06.5). -/
def Burst.bump (b : Burst) : Burst := { b with gens := b.gens.map fun g => (g + 1) % 256 }

/-- The page after a whole-page write, which writes every entry; `h0` where its header was rebuilt from the decoded entries with `wgen` 0
(R144, R148). -/
def DbsPage.whole (p : DbsPage) (h0 : Bool) : DbsPage :=
  let q := { p.exact with bursts := p.bursts.map Burst.bump }
  if h0 then { q with wgen := 0 } else q

/-- A page written whole without the sectors of a window (R64). -/
def DbsPage.without (p : DbsPage) (here : Nat → Bool) (h0 : Bool) : DbsPage :=
  DbsPage.whole { p with bursts := p.bursts.filter fun (b : Burst) => !here b.sector } h0

/-- Store a page. -/
def Eng.setPage (e : Eng) (p : DbsPage) : Eng :=
  { e with dbs := p :: e.dbs.filter fun (q : DbsPage) => q.page != p.page }

/-- First free burst of a page in cyclic order from a home burst, the avoid list of the page skipped (R146, R300). -/
def firstFree (p : DbsPage) (home : Nat) (avoid : List Nat) : Option Nat :=
  ((List.range 60).map fun d => (home + d) % 60).find? fun b => !(p.bursts.any fun x => x.b == b) && !avoid.contains b

/-- Bursts of a page on its channel's avoid list (R300). -/
def Eng.avoidOf (e : Eng) (p : Nat) : List Nat := (e.ras.avoid.filter fun a => a.2.1 == p).map fun a => a.2.2

/-- The burst that holds a sector. -/
def DbsPage.burstOf (p : DbsPage) (sector : Nat) : Option Burst := p.bursts.find? fun b => b.sector == sector

/-- A sector in a burst of a page, with the `cont` bits of its path set and the page's generations as they were. -/
def DbsPage.place (p : DbsPage) (b sector psn : Nat) (l : List LSt) : DbsPage :=
  let gens := match p.bursts.find? fun x => x.b == b with | some o => o.gens | none => [0, 0, 0, 0]
  let nb : Burst := { b := b, sector := sector, psn := psn, l := l, gens := gens }
  { p with bursts := nb :: p.bursts.filter (fun (x : Burst) => x.b != b), cont := ascend (p.cont ++ pathTo (dbsHome psn) b) }

/-- Write a sector in a burst of a page: its burst and those whose `cont` changes are written (R145, R146). -/
def DbsPage.put (p : DbsPage) (b sector psn : Nat) (l : List LSt) : DbsPage :=
  let q := p.place b sector psn l
  DbsPage.widen { q with bursts := q.bursts.map fun (x : Burst) => if x.b = b ∨ (q.cont.contains x.b ∧ !p.cont.contains x.b) then x.bump else x } l

/-- Free a burst, its `cont` kept (R147). -/
def DbsPage.free (p : DbsPage) (b : Nat) : DbsPage :=
  { p with bursts := p.bursts.filter (fun (x : Burst) => x.b != b), wgen := (p.wgen + 1) % 256 }

/-- The DBS field of a mooring unit changes (R217). -/
def Eng.unitDbsAdd (e : Eng) (psn : Nat) (up : Bool) : Eng :=
  let u := bits psn 37 22
  let v := kget 0 u e.unitDbs
  { e with unitDbs := kput u (if up then v + 1 else v - 1) e.unitDbs }

/-- Addresses of the head bursts of a page. -/
def Eng.heads (e : Eng) (p : Nat) : List Nat := (List.range 4).map fun h => e.dbsAddr p h

/-- Address of a sector burst of a page. -/
def Eng.burstAddr (e : Eng) (p b : Nat) : Nat := e.dbsAddr p (4 + b)

/-- Addresses of a whole tile-map page. -/
def Eng.wholeTile (e : Eng) (p : Nat) : List Nat := (List.range 64).map fun x => e.tileAddr p x

/-- A whole-page read has ended: whether head burst H0 failed in it, so that the header is rebuilt (R144). -/
def Eng.markH0 (e : Eng) (s : DSeq) : Eng :=
  e.updSeq s.id fun t => { t with h0 := s.bad.any fun b => b.1 % 64 == 0 }

/-- A page is entered in the taint list (R144, R156, R159). -/
def Eng.taintPage (e : Eng) (p : Nat) : Eng := e.addTaint 1 0 p

/-! ## Fills (R143, R144) -/

/-- Set a fill's result. -/
def Eng.setFill (e : Eng) (slice sector : Nat) (r : FillRes) : Eng :=
  { e with fills := updFirst (fun (f : Fill) => f.slice == slice && f.sector == sector) (fun f => { f with res := r }) e.fills }

/-- Start the DRAM read of every fill that needs one and has none (R143). -/
def Eng.startFills (e : Eng) : Eng :=
  e.fills.foldl (fun e f =>
    let has := e.seqs.any fun s => match s.kind with
      | .fill sl sec _ => sl == f.slice && sec == f.sector
      | .fillDecode sl sec => sl == f.slice && sec == f.sector
      | _ => false
    if decide (f.res = .reading) && !has then
      let p := e.pageOf f.psn
      let b := dbsHome f.psn
      ((e.inc DBS_FILLS).pm f.slice 0x12 1).newSeq (.fill f.slice f.sector b) (pageCh p) 0 none [rds [e.burstAddr p b]]
    else e) e

/-- The page's own search for a sector, burst by burst from its home (R143). -/
def findBurst (p : DbsPage) (sector psn : Nat) : FillRes :=
  match p.burstOf sector with
  | some b => if (pathTo (dbsHome psn) b.b).all fun x => p.cont.contains x then .found b.b b.l else .absent
  | none => .absent

/-- A fill's read of burst `b` has ended (R143): found, absent, the next probe, or the decode of R144. -/
def Eng.fillStage (e : Eng) (s : DSeq) (slice sector b : Nat) : Eng :=
  match e.fills.find? fun f => f.slice == slice && f.sector == sector with
  | none => e.endSeq s.id
  | some f =>
    let p := e.pageOf f.psn
    if !s.bad.isEmpty then
      (e.endSeq s.id).newSeq (.fillDecode slice sector) (pageCh p) 0 (some p) [rds (e.wholeDbs p)]
    else
      match e.page p with
      | none => (e.endSeq s.id).setFill slice sector .absent
      | some q =>
        match q.bursts.find? fun x => x.b == b && x.sector == sector with
        | some x => (e.endSeq s.id).setFill slice sector (.found x.b x.l)
        | none =>
          let nb := (b + 1) % 60
          if !q.cont.contains b || nb == dbsHome f.psn then (e.endSeq s.id).setFill slice sector .absent
          else
            let e := e.inc DBS_FILL_PROBES
            (e.updSeq s.id fun t => { t with kind := .fill slice sector nb }).nextStages s.id [rds [e.burstAddr p nb]]

/-- The whole-page decode of a fill has read the page, or has rewritten it (R144). -/
def Eng.fillDecodeStage (e : Eng) (s : DSeq) (slice sector : Nat) : Eng :=
  match e.fills.find? fun f => f.slice == slice && f.sector == sector with
  | none => e.endSeq s.id
  | some f =>
    let p := e.pageOf f.psn
    if s.ph = 1 then
      let (e, ok) := e.decodePage s (e.dbsAddr p 0) false
      if ok then (e.markH0 s).nextStages s.id [wrs (e.wholeDbs p)]
      else ((e.taintPage p).setFill slice sector .tainted).endSeq s.id
    else if s.wbad then ((e.taintPage p).setFill slice sector .tainted).endSeq s.id
    else
      match e.page p with
      | some q => ((e.setPage (q.whole s.h0)).setFill slice sector (findBurst q sector f.psn)).endSeq s.id
      | none => (e.setFill slice sector .absent).endSeq s.id

/-! ## Spill sequences (R145 to R148) -/

/-- A reinstalled sector records the burst its placement wrote, and so does a later spill of it that waits (R145, R146, R148). -/
def Eng.recordSlot (e : Eng) (sp : Spill) (b : Nat) : Eng :=
  { e with sfa := updFirst (fun (w : SfaWay) => w.slice == sp.slice && w.sector == sp.sector && !w.resv)
                    (fun w => { w with dbs := true, slot := b }) e.sfa,
           spill := updAll (fun (s : Spill) => s.slice == sp.slice && s.sector == sp.sector && s.seq != sp.seq) (fun s => { s with slot := b }) e.spill }

/-- Start a spill entry's sequence, which waits for its page lock (R145 to R147). -/
def Eng.startSpill (e : Eng) (sp : Spill) : Eng :=
  let p := e.pageOf sp.psn
  let id := e.fresh
  let e := { e with spill := updFirst (fun (s : Spill) => decide (s = sp)) (fun s => { s with seq := some id }) e.spill }
  let inPlace := [rds (e.burstAddr p sp.slot :: e.heads p), wrs [e.burstAddr p sp.slot], wrs (e.heads p)]
  match sp.kind with
  | .rewrite => e.newSeq (.rewrite sp.slice sp.sector) (pageCh p) 0 (some p) inPlace
  | .placement => e.newSeq (.place sp.slice sp.sector) (pageCh p) 0 (some p) [rds (e.heads p)]
  | .release => e.newSeq (.release sp.slice sp.sector) (pageCh p) 0 (some p) inPlace
  | .evicting => e

/-- A read inside a sequence failed: read and decode the whole page under the same lock (R144). -/
def Eng.startDecode (e : Eng) (s : DSeq) (p : Nat) : Eng :=
  e.updSeq s.id fun t => { t with kind := .decode p (match s.kind with | .rewrite .. => 1 | .release .. => 2 | _ => 3), stages := [rds (e.wholeDbs p)], bad := [], soft := [], ph := 0 }

/-- The page of a spill sequence with its change made; `whole` where a whole-page write carries it (R144 to R148). -/
def Spill.change (sp : Spill) (q : DbsPage) : Option Bool → DbsPage
  | none => match sp.kind with
    | .release => q.free sp.slot
    | .rewrite => q.put (sp.chosen.getD sp.slot) sp.sector sp.psn sp.l
    | _ => q.put (sp.chosen.getD (dbsHome sp.psn)) sp.sector sp.psn sp.l
  | some h0 => match sp.kind with
    | .release => (q.free sp.slot).whole h0
    | .rewrite => (q.place (sp.chosen.getD sp.slot) sp.sector sp.psn sp.l).whole h0
    | _ => (q.place (sp.chosen.getD (dbsHome sp.psn)) sp.sector sp.psn sp.l).whole h0

/-- A rewrite, release or placement has written its page: the table changes, its counters and its spill-buffer entry follow. -/
def Eng.applySpill (e : Eng) (sp : Spill) (p : Nat) (whole : Option Bool) : Eng :=
  let e := e.pm (33 + pageCh p) 0x43 1
  let e := e.setPage (sp.change ((e.page p).getD (emptyPage p)) whole)
  match sp.kind with
  | .release => (e.unitDbsAdd sp.psn false).dropSpill sp
  | .rewrite =>
    match sp.chosen with
    | some b => ((e.unitDbsAdd sp.psn true).recordSlot sp b).dropSpill sp
    | none => e.dropSpill sp
  | _ =>
    let b := sp.chosen.getD (dbsHome sp.psn)
    let e := e.unitDbsAdd sp.psn true
    (if sp.back then e.recordSlot sp b else e).dropSpill sp

/-- The rewrite or release of a sector: its reads, its burst write, its head writes have ended (R145, R147). -/
def Eng.inPlaceStage (e : Eng) (s : DSeq) (slice sector : Nat) : Eng :=
  match e.seqSpill slice sector s.id with
  | none => e.endSeq s.id
  | some sp =>
    let p := e.pageOf sp.psn
    if s.wbad then ((e.taintPage p).spillTainted sp).endSeq s.id
    else if !s.bad.isEmpty then e.startDecode s p
    else if s.stages.isEmpty then (e.applySpill sp p none).endSeq s.id
    else e

/-- The stages of a placement once burst f is known (R146 steps 5 to 8): every burst from home to f is read, since `cont` lies in the
bursts (Table 06.7), and those whose `cont` changes are written. -/
def Eng.placeStages (e : Eng) (q : DbsPage) (psn f : Nat) : List (List DReq) :=
  let p := q.page
  let path := pathTo (dbsHome psn) f
  let conts := path.filter fun b => !q.cont.contains b
  [rds ((f :: path).map fun b => e.burstAddr p b)]
    ++ (if conts.isEmpty then [] else [wrs (conts.map fun b => e.burstAddr p b)])
    ++ [wrs [e.burstAddr p f], wrs (e.heads p)]

/-- A placement finds no free burst in its page: its overflow begins with a read of the whole page (R150 step 1). -/
def Eng.startOverflow (e : Eng) (s : DSeq) (slice sector p : Nat) : Eng :=
  let e := e.inc DBS_OVERFLOWS
  let o : Overflow := { id := s.id, page := p, zsector := sector, zslice := slice, st := .reading, asked := 0, declined := [], shadow := false, kept := false, allDeclined := false, retryAt := 0, lines := 0 }
  let e := { e with overflows := e.overflows ++ [o] }
  (e.updSeq s.id fun t => { t with kind := .overflow p }).nextStages s.id [rds (e.wholeDbs p)]

/-- A placement's accesses have ended (R146). A page with no free burst starts an overflow (R150). -/
def Eng.placeStage (e : Eng) (s : DSeq) (slice sector : Nat) : Eng :=
  match e.seqSpill slice sector s.id with
  | none => e.endSeq s.id
  | some sp =>
    let p := e.pageOf sp.psn
    if s.wbad then ((e.taintPage p).spillTainted sp).endSeq s.id
    else if !s.bad.isEmpty then e.startDecode s p
    else if s.stages.isEmpty ∧ sp.chosen.isSome then (e.applySpill sp p none).endSeq s.id
    else if sp.chosen.isNone then
      match e.page p with
      | none => e.nextStages s.id [wrs (e.wholeDbs p)]
      | some q =>
        match firstFree q (dbsHome sp.psn) (e.avoidOf p) with
        | some f => (e.choose slice sector s.id f).nextStages s.id (e.placeStages q sp.psn f)
        | none => e.startOverflow s slice sector p
    else e

/-- The decode inside a sequence has read the page, or has rewritten it with the change (R144, R148). A placement that finds no free
burst in the corrected page goes on as an overflow (R146 step 4). -/
def Eng.decodeStage (e : Eng) (s : DSeq) (p : Nat) : Eng :=
  match e.spill.find? fun sp => sp.seq == some s.id, e.page p with
  | some sp, some q =>
    let f := if sp.kind = .placement ∧ sp.chosen.isNone then firstFree q (dbsHome sp.psn) (e.avoidOf p) else some 0
    if s.ph = 1 then
      let (e, ok) := e.decodePage s (e.dbsAddr p 0) false
      if !ok then ((e.taintPage p).spillTainted sp).endSeq s.id
      else
        let e := (e.markH0 s).nextStages s.id [wrs (e.wholeDbs p)]
        match f with
        | some b => if sp.kind = .placement ∧ sp.chosen.isNone then e.choose sp.slice sp.sector s.id b else e
        | none => e
    else if s.wbad then ((e.taintPage p).spillTainted sp).endSeq s.id
    else if f.isSome then (e.applySpill sp p (some s.h0)).endSeq s.id
    else (e.setPage (q.whole s.h0)).startOverflow { s with ph := 0 } sp.slice sp.sector p
  | _, _ => e.endSeq s.id

/-! ## Overflow (R150) -/

/-- Score of a line (R150 step 2). -/
def lineScore : LSt → Nat
  | .I => 0 | .H => 1 | .S1 _ => 1 | .S2 _ _ => 2 | .X _ => 2 | .SC g => 16 * (bitList g 16).length | .P => 64 | .spare => 64

/-- The lowest-scoring burst that has not declined, the lowest number on a tie (R150 steps 2 and 3). -/
def lowest (q : DbsPage) (declined : List Nat) : Option Burst :=
  let cand := q.bursts.filter fun b => !declined.contains b.b
  let sc (b : Burst) : Nat := (b.l.map lineScore).sum
  match cand with
  | [] => none
  | h :: t => some (t.foldl (fun m b => if decide (sc b < sc m) || (sc b == sc m && decide (b.b < m.b)) then b else m) h)

/-- A DBS_OVERFLOW_LOG entry (Table 06.8). -/
def Eng.ovLog (e : Eng) (o : Overflow) (outcome : Nat) : Eng :=
  let line0 := o.vsector * 4
  e.logPush DBS_OVERFLOW_LOG 64
    (o.page + o.asked * 2 ^ 20 + outcome * 2 ^ 26 + o.lines * 2 ^ 29 + line0 * 2 ^ 32 + e.t48 * 2 ^ 78)

/-- The shed record of an overflowing page whose bursts have all declined, one of them as shadow (R272). -/
def Eng.shed (e : Eng) (q : DbsPage) : Eng :=
  match lowest { q with bursts := q.bursts.filter fun (b : Burst) => e.mirrorsLine (b.sector * 4) } [] with
  | some b => ((e.inc MIR_SHEDS).journal (5 + b.sector * 2 ^ 8)).1
  | none => e

/-- Change the overflow with a name. -/
def Eng.setOv (e : Eng) (id : Nat) (f : Overflow → Overflow) : Eng :=
  { e with overflows := updFirst (fun (o : Overflow) => o.id == id) f e.overflows }

/-- Send EVICT for the next burst, or wait DBS_EVICT_RETRY once every burst has declined (R150 steps 3 and 4). -/
def Eng.ovNext (e : Eng) (id : Nat) : Eng :=
  match e.overflows.find? fun o => o.id == id with
  | none => e
  | some o =>
    match e.page o.page with
    | none => e
    | some q =>
      match lowest { q with bursts := q.bursts.filter fun (b : Burst) => !(e.evicts.any fun v => v.sector == b.sector) } o.declined with
      | some b => e.setOv id fun o => { o with st := .evictSent, asked := b.b, vsector := b.sector, lines := 0 }
      | none =>
        let e := if o.shadow then e.shed q else e
        let e := e.setOv id fun o => { o with st := .retryWait, declined := [], allDeclined := true, retryAt := e.ts + e.ob DBS_EVICT_RETRY }
        (e.updSeq id fun t => { t with locked := false, lock := none }).presentAll

/-- An overflow meets a tainted page: Z is handled as a spill to a tainted page (R150 step 1, R156). -/
def Eng.overflowTainted (e : Eng) (s : DSeq) (o : Overflow) : Eng :=
  let e := (e.ovLog o 3).taintPage o.page
  let e := { e with overflows := e.overflows.filter fun (x : Overflow) => x.id != o.id }
  match e.seqSpill o.zslice o.zsector s.id with
  | some sp => (e.spillTainted sp).endSeq s.id
  | none => e.endSeq s.id

/-- The accesses of an overflow's sequence have ended: the whole-page read of step 1, which a failed burst makes a whole-page write
(R144, R150), or those that release or rewrite the evicted burst (R151 step 7). -/
def Eng.overflowStage (e : Eng) (s : DSeq) (p : Nat) : Eng :=
  let all := [wrs (e.wholeDbs p)]
  let store : Eng := match e.page p with | some q => e.setPage (q.whole s.h0) | none => e
  match e.overflows.find? fun o => o.id == s.id with
  | none => e.endSeq s.id
  | some o =>
    let sent (e : Eng) : Eng := e.setOv s.id fun o => { o with st := if o.st = .releasing then .completeSent else .keptSent }
    if s.wbad then e.overflowTainted s o
    else match o.st with
      | .releasing | .rewriting =>
        if s.whole = 1 then
          let (e, ok) := e.decodePage s (e.dbsAddr p 0) false
          if ok then ((e.markH0 s).updSeq s.id fun t => { t with whole := 2 }).nextStages s.id all else e.overflowTainted s o
        else if s.whole = 2 then sent (store.updSeq s.id fun t => { t with whole := 0 })
        else if !s.bad.isEmpty then (e.updSeq s.id fun t => { t with whole := 1 }).nextStages s.id [rds (e.wholeDbs p)]
        else if !s.stages.isEmpty then e
        else sent e
      | .correcting => store.ovNext s.id
      | _ =>
        let (e, ok) := e.decodePage s (e.dbsAddr p 0) false
        if !ok then e.overflowTainted s o
        else if s.wrong.isEmpty then e.ovNext s.id
        else ((e.markH0 s).setOv s.id fun o => { o with st := .correcting }).nextStages s.id all

/-! ## Tile map (R76 to R79) -/

/-- A tile-map entry with every field 0 (R76). -/
def tent0 : Tent := { valid := false, drift := false, dev := 0, dpa := 0, gen := 0, pool := 0, heat := 0 }

/-- Bits [54:0] of an entry (Table 03.7). -/
def Tent.word (t : Tent) : Nat :=
  b2n t.valid + b2n t.drift * 2 + t.dev * 2 ^ 2 + t.dpa * 2 ^ 10 + t.gen * 2 ^ 41 + t.pool * 2 ^ 49

/-- Fields of an entry from its word (Table 03.7). -/
def Tent.ofWord (w : Nat) : Tent :=
  { valid := bit w 0, drift := bit w 1, dev := bits w 9 2, dpa := bits w 40 10, gen := bits w 48 41, pool := bits w 54 49, heat := bits w 79 56 }

/-- Tile-map entry i as the table holds it; a page whose written bit is clear reads as valid 0 (R76). -/
def Eng.tent (e : Eng) (i : Nat) : Tent := if e.written.contains (i / 256) then kget tent0 i e.tmap else tent0

/-- A slice sends a heat delta to the DRAM channel of its entry (R215). -/
def Eng.heatDelta (e : Eng) (i d : Nat) : Eng := { e with heatMsgs := e.heatMsgs ++ [(i, d)] }

/-- A heat delta arrives at its channel's merge buffer (R215). -/
def Eng.heatArrive (e : Eng) (i d : Nat) : Eng :=
  let ch := i / 256 % 4
  if e.heatBuf.any fun h => h.1 == ch && h.2.1 == i then
    { e with heatBuf := updFirst (fun h => h.1 == ch && h.2.1 == i) (fun h => (h.1, h.2.1, min (h.2.2 + d) (2 ^ 24 - 1))) e.heatBuf }
  else if (e.heatBuf.filter fun h => h.1 == ch).length < 4096 then { e with heatBuf := e.heatBuf ++ [(ch, i, d)] }
  else e.inc HEAT_DELTAS_DROPPED

/-- Invalidate an entry in every slice's tile-cache partition; its deltas are sent (R79, R215). A walk that has its answer and has not
installed it reads the table again. -/
def Eng.tileInval (e : Eng) (i : Nat) : Eng :=
  let ds := (e.tcache.filter fun t => t.i == i).map fun t => t.delta
  let e := { e with tcache := e.tcache.filter fun (t : TcEnt) => t.i != i,
                    walks := e.walks.map fun (w : Walk) => if w.i = i ∧ w.res.isSome then { w with stale := true } else w }
  ds.foldl (fun e d => if d = 0 then e else e.heatDelta i d) e

/-- Entry after a write of new fields: gen rises when valid, dev, dpa or pool changes; heat kept (R79). -/
def tentWrite (old new : Tent) : Tent :=
  let chg := old.valid != new.valid || old.dev != new.dev || old.dpa != new.dpa || old.pool != new.pool
  { new with gen := if chg then (old.gen + 1) % 256 else old.gen, heat := old.heat, drift := old.drift }

/-- Store a tile-map entry in the table and set its page's written bit. -/
def Eng.putTent (e : Eng) (i : Nat) (t : Tent) : Eng :=
  { e with tmap := kput i t e.tmap, written := insertNat (i / 256) e.written }

/-- A tile-map page is lost: its written bit is cleared and the event names it (Table 12.4). -/
def Eng.tilePageLost (e : Eng) (p : Nat) : Eng :=
  let e := { e with written := dropNat p e.written, tmap := e.tmap.filter fun (x : Nat × Tent) => x.1 / 256 != p }
  let e := (ascend ((e.tcache.filter fun t => t.i / 256 == p).map fun t => t.i)).foldl (fun e i => e.tileInval i) e
  (e.event 0x0E (evArgs [(0, p)])).irq 3

/-- The entry a queued write leaves (R79, Table 09.2). -/
def TileWr.result (w : TileWr) (cur : Tent) : Tent :=
  match w.what with
  | .write => tentWrite cur w.ent
  | .mark => { cur with drift := true }
  | .flip => { cur with drift := false, dev := w.ent.dev, dpa := w.ent.dpa, gen := (cur.gen + 1) % 256 }
  | .unmark => { cur with drift := false }
  | .raw => w.ent

/-- The writes of a sequence take effect, each after its invalidation (R79); a Drift's change also moves its
descriptor on (Table 09.2). -/
def Eng.applyTileWrs (e : Eng) (id : Nat) : Eng :=
  let mine := e.tileWrs.filter fun w => w.seq == id
  let e := { e with tileWrs := e.tileWrs.filter fun (w : TileWr) => w.seq != id }
  mine.foldl (fun e w =>
    let t := w.result (e.tent w.i)
    let e := (e.tileInval w.i).putTent w.i t
    if e.mirroredUnit (w.i / 512) then
      let (e, id) := e.journal (1 + w.i * 2 ^ 8 + t.word * 2 ^ 33)
      { e with chans := updFirst (fun (c : Chan) => c.tile == w.i) (fun c => { c with wait := some id }) e.chans }
    else e) e

/-- Queue tile-map writes and start one sequence for each page (R76). -/
def Eng.tileWrite (e : Eng) (ws : List TileWr) : Eng :=
  (ascend (ws.map fun w => w.i / 256)).foldl (fun e p =>
    let mine := (ws.filter fun w => w.i / 256 == p).map fun w => { w with seq := e.fresh }
    Eng.newSeq { e with tileWrs := e.tileWrs ++ mine } (.tileWrite p) (pageCh p) 1 (some (tileLock p)) []) e

/-- A page write's accesses have ended (R76). -/
def Eng.tileWriteStage (e : Eng) (s : DSeq) (p : Nat) : Eng :=
  if !s.wrong.isEmpty then
    let (e, ok) := e.decodePage s (e.tileAddr p 0) true
    (if ok then e else e.tilePageLost p).updSeq s.id fun t => { t with bad := [], soft := [] }
  else if s.wbad then
    let e := e.tilePageLost p
    Eng.endSeq { e with tileWrs := e.tileWrs.filter fun (w : TileWr) => w.seq != s.id } s.id
  else if s.stages.isEmpty then (e.applyTileWrs s.id).endSeq s.id
  else e

/-- Set a walk's result. -/
def Eng.setWalk (e : Eng) (slice i : Nat) (r : Option Tent) : Eng :=
  { e with walks := updFirst (fun (w : Walk) => w.slice == slice && w.i == i) (fun w => { w with res := some r }) e.walks }

/-- Start a walk (R78): a page whose written bit is clear answers valid 0 without a DRAM read. -/
def Eng.startWalk (e : Eng) (slice i : Nat) : Eng :=
  if e.walks.any fun w => w.slice == slice && w.i == i then e
  else
    let p := i / 256
    if !e.written.contains p || e.ob GUARD_ARM == 0 then
      { e with walks := e.walks ++ [{ slice := slice, i := i, seq := none, res := some (some tent0) }] }
    else
      let id := e.fresh
      let w : Walk := { slice := slice, i := i, seq := some id, res := none }
      let e := { e with walks := e.walks ++ [w] }
      e.newSeq (.walk slice i) (pageCh p) 1 none [rds [e.tileAddr p (i % 256 / 4)]]

/-- A walk's read has ended (R78, R296, Table 12.4). -/
def Eng.walkStage (e : Eng) (s : DSeq) (slice i : Nat) : Eng :=
  let p := i / 256
  if s.bad.isEmpty then (e.setWalk slice i (some (e.tent i))).endSeq s.id
  else (e.endSeq s.id).newSeq (.walkDecode slice i) (pageCh p) 1 (some (tileLock p)) [rds (e.wholeTile p)]

/-- The whole-page decode of a walk (R296, Table 12.4). -/
def Eng.walkDecodeStage (e : Eng) (s : DSeq) (slice i : Nat) : Eng :=
  let p := i / 256
  if s.ph = 1 then
    let (e, ok) := e.decodePage s (e.tileAddr p 0) true
    -- an entry whose pool field was wrong and is so after the decode is not corrected (R77; log entry 55)
    let still := e.walks.any fun w => w.slice == slice && w.i == i && w.pool.any fun q => (e.tent i).pool != q
    if ok && !still then e.nextStages s.id [wrs (e.wholeTile p)]
    else ((e.tilePageLost p).setWalk slice i (some tent0)).endSeq s.id
  else if s.wbad then ((e.tilePageLost p).setWalk slice i (some tent0)).endSeq s.id
  else (e.setWalk slice i (some (e.tent i))).endSeq s.id

/-! ## Heat passes (R216, R217) -/

/-- Heat of an entry after the walker has visited it (R216). -/
def heatAfter (halve : Bool) (t : Tent) (d : Nat) : Nat :=
  if !t.valid then 0 else min ((if halve then t.heat / 2 else t.heat) + d) (2 ^ 24 - 1)

/-- The walker visits the entries of a page: deltas are taken, heats and the unit's counter change (R216, R217). -/
def Eng.heatVisit (e : Eng) (p : Nat) : Eng :=
  let halve := decide (e.heatPass % e.ob HEAT_HALF_LIFE_SCANS = 0)
  let mine := e.tmap.filter fun x => x.1 / 256 == p
  let dOf (i : Nat) : Nat := match e.heatBuf.find? fun h => h.2.1 == i with | some h => h.2.2 | none => 0
  let new := mine.map fun x => (x.1, { x.2 with heat := heatAfter halve x.2 (dOf x.1) })
  let before := (mine.map fun x => x.2.heat).sum
  let after := (new.map fun x => x.2.heat).sum
  let u := p / 2
  { e with tmap := new.foldl (fun m x => kput x.1 x.2 m) e.tmap,
           heatBuf := e.heatBuf.filter (fun h => h.2.1 / 256 != p),
           unitHeat := kput u (kget 0 u e.unitHeat + after - before) e.unitHeat }

/-- A pass starts: every slice flushes its deltas, and the walker has every written page before it (R216). -/
def Eng.heatBegin (e : Eng) : Eng :=
  let e := e.tcache.foldl (fun e t => if t.delta = 0 then e else (e.galSend .heat 7 t.slice (33 + pageCh (t.i / 256))).heatDelta t.i t.delta) e
  { e with tcache := e.tcache.map (fun (t : TcEnt) => { t with delta := 0 }), heatPass := e.heatPass + 1, heatLeft := some e.written, heatWait := false }

/-- A pass ends: HEAT_TOP lists the 64 hottest valid tiles (R216, R217). -/
def Eng.heatEnd (e : Eng) : Eng :=
  let hot := (e.tmap.filter fun x => x.2.valid && e.written.contains (x.1 / 256)).map fun x => (x.2.heat, x.1)
  let ins (l : List (Nat × Nat)) (a : Nat × Nat) : List (Nat × Nat) :=
    (l.takeWhile fun b => decide (a.1 ≤ b.1)) ++ a :: (l.dropWhile fun b => decide (a.1 ≤ b.1))
  let top := (hot.foldl ins []).take 64
  Eng.repeatsPass (Eng.inc { e with heatLeft := none, logs := kput HEAT_TOP (top.map fun a => a.2 + a.1 * 2 ^ 25) e.logs } HEAT_PASSES) 2

/-- The walker reads the next page of the pass, if one is left; otherwise the pass ends. -/
def Eng.heatIssue (e : Eng) : Eng :=
  match e.heatLeft with
  | none => e
  | some [] => e.heatEnd
  | some (p :: t) =>
    Eng.newSeq { e with heatLeft := some t } (.heat p) (pageCh p) 1 (some (tileLock p)) [rds (e.wholeTile p), wrs (e.wholeTile p)]

/-- The walker goes on after a page; a pass that was due while another ran starts as that one ends (R216). -/
def Eng.heatNext (e : Eng) : Eng :=
  let e1 := e.heatIssue
  if e1.heatLeft = none ∧ e1.heatWait then e1.heatBegin.heatIssue else e1

/-- A page of a heat pass has been read, or written back (R216). The walker takes its deltas as the page has been read, and the page is
written where an entry has changed or a word was corrected. -/
def Eng.heatStage (e : Eng) (s : DSeq) (p : Nat) : Eng :=
  if s.ph = 1 then
    let (e, ok) := e.decodePage s (e.tileAddr p 0) true
    let v := e.heatVisit p
    if !ok then ((e.tilePageLost p).endSeq s.id).heatNext
    else if s.corr ∨ !s.wrong.isEmpty ∨ v.tmap ≠ e.tmap then v.updSeq s.id fun t => { t with bad := [], soft := [] }
    else (v.endSeq s.id).heatNext
  else if s.wbad then ((e.tilePageLost p).endSeq s.id).heatNext
  else (e.endSeq s.id).heatNext

end Sys2Proof.Machine
end

