-- ==== Sys2Proof/Machine/Flow.lean ====
section
/-! DEFINITION. Sys2Proof/Machine/Flow.lean: the flow of a Watch context: snoop rounds, backing accesses, writes at the
home, grants, `_T` forms and retirement (chapters 04, 05 and 08 of spec/). -/
namespace Sys2Proof.Machine
open Ob

/-- Snoop slots of a slice that are free (R98); during a swap slice k has 0 to 63 and the spare the rest (R231). -/
def Eng.freeSnoops (e : Eng) (slice : Nat) : List Nat :=
  let k := 4096 / e.n
  let all := List.range k
  let all := if e.ob SPARE_STATE = 1 ∧ slice = spareStop then all.filter fun i => decide (k / 2 ≤ i)
    else if e.ob SPARE_STATE = 1 ∧ slice = e.ob SPARE_FOR then all.filter fun i => decide (i < k / 2)
    else all
  all.filter fun i => !(e.snps.any fun s => e.sliceNum s.slice == e.sliceNum slice && s.slot == i)

/-- A context index is free for a slice: not allocated, not withheld, and on its side of a swap (R164, R166, R231). -/
def Eng.idxFree (e : Eng) (slice idx : Nat) : Bool :=
  decide (idx < 8192) && !(e.ctxs.any fun x => e.sliceNum x.slice == e.sliceNum slice && x.idx == idx)
    && !(e.quar.any fun q => e.sliceNum q.slice == e.sliceNum slice && q.idx == idx)
    && !(e.wayOff.contains (1, e.sliceNum slice, 0, idx))
    && (e.ob SPARE_STATE != 1 || (if slice = spareStop then decide (4096 ≤ idx) else if slice = e.ob SPARE_FOR then decide (idx < 4096) else true))

/-- Contexts of a slice that a share has given out, withheld indices among them (R164, R166). -/
def Eng.shareUsed (e : Eng) (slice : Nat) (s : Share) : Nat :=
  (e.ctxs.filter fun x => x.slice == slice && decide (x.share = s)).length + (e.quar.filter fun q => q.slice == slice && decide (q.share = s)).length

/-- The share a new context of a class is taken from, if one is free (R164). R164 does not say which indices are of which share: any index
is of the share that gives it out until it is free again. Indices taken out of service by R300 come off the shared remainder, then off the
host share (DESIGN CHOICE, log entry 57). -/
def Eng.shareFor (e : Eng) (slice cls : Nat) : Option Share :=
  let mh := e.eff slice WATCH_MIN_HOST 0
  let mi := e.eff slice WATCH_MIN_INT 0
  let off := (e.wayOff.filter fun w => w.1 == 1 && w.2.1 == e.sliceNum slice).length
  let rem := 8192 - mh - mi
  if cls = 7 then (if e.shareUsed slice .int < mi then some .int else none)
  else if e.shareUsed slice .host < mh - (off - rem) then some .host
  else if e.shareUsed slice .rem < rem - off then some .rem
  else none

/-! ## Shape of a flow -/

/-- Rows 1, 2 and 4: reads that snoop only another owner (Table 04.2). -/
def Req.isRead (r : Req) : Bool := r.op matches .memRd | .memRdData
/-- Rows 9 to 11. -/
def Req.isWrite (r : Req) : Bool := r.op matches .memWr | .memWrPtl
/-- A fill that answers no requester (R87, R191, R192). -/
def Req.isFill (r : Req) : Bool := r.op matches .memSpecRd | .prefetch | .preload _

/-- Holders of a line of pool p (R97). -/
def Eng.holders (e : Eng) (p : Nat) (st : LSt) : List Nat :=
  match st with
  | .SC g => e.caidList.filter fun c => e.covered p c && g.testBit (grp c)
  | s => s.ptrs

/-- Targets of the round a flow opens with, and its snoop type (R96, R97, R124, Table 03.6). -/
def Eng.targets (e : Eng) (r : Req) (st : LSt) (p : Nat) : List Nat × Snp :=
  match r.op with
  | .memRd | .memRdData =>
    if r.row = 3 then ((e.holders p st).filter fun c => c != r.caid, .inv)
    else match st with
      | .X o => if o = r.caid then ([], .data) else ([o], if r.row = 4 then .cur else .data)
      | _ => ([], .data)
  | .memInv | .memInvNT => if r.row = 5 then ((e.holders p st).filter fun c => c != r.caid, .inv) else ([], .inv)
  | .memWr | .memWrPtl => ((e.holders p st).filter fun c => c != r.caid, .inv)
  | .atomic => (e.holders p st, .inv)
  | .evict _ => (e.holders p st, .inv)
  | .visit c true => if (e.holders p st).contains c then ([c], .inv) else ([], .inv)
  | _ => ([], .inv)

/-- The line was in X with an owner other than the requester when the flow began. -/
def Ctx.otherOwner (x : Ctx) : Bool :=
  match x.start with
  | .X o => o != x.req.caid || x.req.cls == 7 || x.req.op == .atomic
  | _ => false

/-- The record of the line after the round so far, applied to the state at the start of the flow (R91, R100). -/
def Ctx.recorded (x : Ctx) : LSt :=
  let s := x.gone.foldl LSt.remove x.start
  match s with
  | .X o => if x.shared.contains o then .S1 o else .X o
  | s => s

/-- A row 1 read is granted ownership (R92). -/
def Eng.lone (e : Eng) (x : Ctx) : Bool :=
  e.ob READ_EXCL_GRANT == 1 &&
    match x.start with
    | .I => true
    | .S1 a => a == x.req.caid
    | .X o => o == x.req.caid || x.gone.contains o
    | _ => false

/-- The flow grants ownership to its requester (R92). -/
def Eng.grantsOwn (e : Eng) (x : Ctx) : Bool :=
  match x.req.op with
  | .memRd | .memRdData => x.req.row == 3 || (x.req.row == 1 && e.lone x)
  | .memInv | .memInvNT => x.req.row == 5
  | _ => false

/-- Slot a context holds. -/
def Eng.slotOf (e : Eng) (x : Ctx) : Option Slot :=
  match x.sslot with
  | some s => e.snps.find? fun t => t.slice == x.slice && t.slot == s
  | none => none

/-- Targets of a context's open round whose bit for this line is set. -/
def Eng.bitsSet (e : Eng) (x : Ctx) : List Tgt :=
  match e.slotOf x with
  | some s => s.tgts.filter fun t => t.bit && (!s.blk || t.left.contains (x.req.line % 4))
  | none => []

/-- The context waits for a round: one to start, or bits still set. -/
def Eng.roundOpen (e : Eng) (x : Ctx) : Bool := x.want.isSome || !(e.bitsSet x).isEmpty

/-- A writeback whose write is not complete (Table 05.1). -/
def Ctx.wbOpen (x : Ctx) : Bool := x.wbs.any fun w => !w.done

/-- A dirty HDC copy that the flow writes back before it ends (R92, R87, R124): rows 5 and `MemInvNT`, and an AtomicOp at memory that has
not gone out. -/
def Eng.owesFlush (e : Eng) (x : Ctx) : Bool :=
  (match e.hdcProbe x.slice x.req.line with | some (_, d, buf) => d && !buf | none => false)
    && (match x.req.op with
        | .memInv => x.req.row == 5
        | .memInvNT => true
        | .atomic => x.site == .memory && x.needUio
        | _ => false)

/-- Transient code of a context outside the `_T` forms, from what it awaits (Table 05.1, R118). -/
def Eng.code (e : Eng) (x : Ctx) : TC :=
  let rnd := e.roundOpen x
  let cf := (e.bitsSet x).any fun t => t.conflict
  let b (t : TC) : TC := if cf then t.toC else t
  let more := x.acc.isSome || x.needRead || x.needWrite || e.owesFlush x || x.needUio || x.wbOpen || x.dup.isSome
  -- the `_W` forms follow a round (Table 05.1): one was opened where a target was snooped
  let inW := x.wbOpen && x.otherOwner && x.ntg != 0
  match x.req.op with
  | .evict _ => b .evB
  | .drift _ => .drC
  | .remoor => .mrF
  | .memSpecRd | .prefetch | .preload _ => .isD
  | .atomic =>
    if x.site = .home then (if x.start = .H ∧ !x.needRead ∧ !x.acc.isSome then .open0 else b .ahB)
    else if rnd then (if x.otherOwner then b .xxB else b .sxB)
    else if inW then .xxW else if more then .ixD else .open0
  | .memRd | .memRdData =>
    if x.req.row = 3 then
      if rnd then (if x.otherOwner then b .xxB else b .sxB)
      else if inW then .xxW else if more then .ixD else .open0
    else if x.otherOwner then
      if rnd then b .xsB else if inW then .xsW else if more then (if e.grantsOwn x then .ixD else .isD) else .open0
    else if more then (if e.grantsOwn x then .ixD else .isD) else .open0
  | .visit _ _ | .memInv | .memInvNT | .memWr | .memWrPtl =>
    if rnd then (if x.otherOwner then b .xxB else b .sxB)
    else if inW then .xxW else if more then .ixD else .open0
  | _ => .open0

/-- Store a context with its transient code brought up to date; a `_T` form keeps its form (R113). -/
def Eng.putCtx (e : Eng) (x : Ctx) : Eng := e.setCtx (if x.tc.isTForm then x else { x with tc := e.code x })

/-! ## Snoop rounds (R98, R101) -/

/-- A target of a round as its copy is queued. -/
def newTgt (e : Eng) (blk : List Nat) (c : Nat) : Tgt :=
  { caid := c, bit := true, left := blk, taken := false, run := 0, start := 0, restarted := false, conflict := false, value := e.ob BI_TIMEOUT }

/-- Split a list in blocks of 16 (R101). -/
def blocks16 (l : List Nat) : List (List Nat) :=
  (List.range ((l.length + 15) / 16)).map fun i => (l.drop (16 * i)).take 16

/-- The ports that the blocks of a round leave by: the slice's own, then the next slice stops in ascending order whose
`xb_svc` is 1, wrapping (R101). -/
def Eng.fanPorts (e : Eng) (slice n : Nat) : List Nat :=
  let own := e.portOf slice
  let others := ((List.range e.n).map fun d => (own + 1 + d) % e.n).filter fun p => p != own && e.svc.contains p
  let ring := own :: others
  (List.range n).map fun i => ring.getD (i % ring.length) own

/-- A copy for another target of the same round. -/
def Eng.copyFor (e : Eng) (b : OBeat) (c : Nat) : OBeat := { b with caid := c, port := e.obj CAID_PORT c, biId := e.obj CAID_BIID c }

/-- Queue a round as class 5 entries, one at the slice's own port and one at the port of each further block of 16, which goes there as one
lane S message; the egress expands an entry into its copies (R98, R101, R171). R171 puts an entry in the queue of its target CAID and does
not say which one of several: the model takes the first CAID of the entry, and for a forwarded block the queue of the fan-out blocks (DESIGN
CHOICE, log entry 55). -/
def Eng.sendCopies (e : Eng) (slice slot line gid : Nat) (snp : Snp) (blk : Bool) (tgts : List Nat) : Eng :=
  let bs := blocks16 (ascend tgts)
  let ps := e.fanPorts slice bs.length
  let b : OBeat := { beat0 with kind := 5, op := .snp snp blk, addr := line, biTag := e.sliceNum slice * (4096 / e.n) + slot }
  (bs.zip ps).foldl (fun e (p : List Nat × Nat) =>
    match p.1 with
    | [] => e
    | c :: rest =>
      let own := p.2 == e.portOf slice
      let o : OEnt := { id := e.fresh, at_ := p.2, grp := 1, cls := 5, v := if own then c else 256, pair := none, presented := false, src := some (slice, slot), beat := e.copyFor b c, grant := false, gid := gid, more := rest }
      Eng.send { e.galSend .fanOut 5 slice p.2 with fresh := e.fresh + 1 } o) e

/-- R103 holds a snoop of these targets: one of them is an owner of the line inside its hold window. The model holds an AtomicOp of that
owner itself as well: its round would snoop the owner, which R103 forbids, though R103 does not have the window delay the owner's own
requests (DESIGN CHOICE, log entry 55). -/
def Eng.heldRound (e : Eng) (line : Nat) (ts : List Nat) : Bool :=
  e.hold.any fun h => h.line == line && ts.contains h.owner
    && (match h.ends with | none => true | some t => decide (e.ts < t))

/-- The context serves a visit of a planned sweep. -/
def Ctx.planned (x : Ctx) : Bool := x.req.op matches .visit _ true

/-- Snoop slots of a slice that hold a round of a planned sweep (R75). -/
def Eng.plannedRounds (e : Eng) (slice : Nat) : Nat :=
  (e.snps.filter fun s => s.slice == slice && s.ctxs.any fun c => match e.ctx slice c.2 with | some x => x.planned | none => false).length

/-- A round may be sent now: R103 does not hold it, and a planned sweep has fewer than 16 out at the slice (R75, R103). -/
def Eng.mayRound (e : Eng) (x : Ctx) (ts : List Nat) : Bool :=
  !e.heldRound x.req.line ts && !(x.planned && decide (16 ≤ e.plannedRounds x.slice))

/-- The operation may have its four lines snooped by one block (R99): a planned sweep's visit, or `EV_B`. -/
def Op.inBlock : Op → Bool
  | .visit _ true => true
  | .evict _ => true
  | _ => false

/-- The contexts of a planned sweep, or of an eviction, that share one `BISnpInvBlk` with x: open contexts of the other three lines of the
sector, each with a round waiting that has the same single target (R99, R151 step 6). A planned sweep's visits share a block where all four
wait at the time the first of them takes its slot (DEDUCED, log entry 55). -/
def Eng.blockMates (e : Eng) (x : Ctx) : List Ctx :=
  if x.req.op.inBlock && x.want.any fun ts => ts.length == 1 then
    let ys := e.ctxs.filter fun y => y.slice == x.slice && y.req.line / 4 == x.req.line / 4 && y.idx != x.idx && y.req.op.inBlock && y.phase == .opened && y.sslot.isNone && y.want == x.want
    if ys.length = 3 then ys else []
  else []

/-- A context waiting for a round takes a free snoop slot and sends the round's copies; it waits where none is free
(R98), while R103 holds it, or while a planned sweep has 16 out (R75). A round with no target is over. -/
def Eng.takeSnoop (e : Eng) (x : Ctx) : Eng × Ctx :=
  match x.want with
  | none => (e, x)
  | some ts =>
    if x.sslot.isSome then (e, x)
    else if ts.isEmpty then (e, { x with want := none })
    else if !e.mayRound x ts then (e, x)
    else
      match e.pick (e.freeSnoops x.slice) with
      | none => (e, x)
      | some (s, e1) =>
        let gid := e1.fresh
        match Eng.takeSlot { e1 with fresh := gid + 1 } x.slice 5 (ts.headD 0) gid false with
        | none => (e, x)
        | some e =>
          let mates := e.blockMates x
          let blk := !mates.isEmpty
          let got (y : Ctx) : Ctx := { y with want := none, sslot := some s, ntg := y.ntg + ts.length }
          let lines := (x :: mates).map fun y => (y.req.line % 4, y.idx)
          let sl : Slot := { slice := x.slice, slot := s, ctxs := lines, sector := x.req.line / 4, snp := x.snp, blk := blk, tgts := (ascend ts).map (newTgt e (if blk then [0, 1, 2, 3] else [])) }
          let e := (e.pm x.slice 0x15 1).pm x.slice 0x16 ts.length
          let e := mates.foldl (fun e y => e.setCtx (got y)) { e with snps := e.snps ++ [sl] }
          (e.sendCopies x.slice s (if blk then x.req.line / 4 * 4 else x.req.line) gid x.snp blk ts, got x)

/-- A context whose round found no free slot is counted (R98, SNOOP_SLOT_WAITS). -/
def Eng.slotWait (e : Eng) (x : Ctx) : Eng :=
  match x.want with
  | some ts => if e.mayRound x ts then e.inc SNOOP_SLOT_WAITS else e
  | none => e

/-- Free a context's slot once no bit of it is set (R98). -/
def Eng.freeSnoop (e : Eng) (x : Ctx) : Eng × Ctx :=
  match e.slotOf x with
  | some s =>
    if s.tgts.any fun t => t.bit then (if s.blk && (e.bitsSet x).isEmpty then (e, { x with sslot := none }) else (e, x))
    else ({ e with snps := e.snps.filter fun (t : Slot) => !(t.slice == s.slice && t.slot == s.slot) },
          { x with sslot := none, fl := if s.tgts.any fun t => t.restarted then setBit x.fl 1 else x.fl })
  | none => (e, { x with sslot := none })

/-! ## Answers -/

/-- The requester can be sent nothing: it departed (R73). -/
def Eng.deaf (e : Eng) (c : Nat) : Bool := e.caidSt c == 3 || e.caidSt c == 0

/-- Send an answer to a request, or to the node that forwarded it (R89, R226). -/
def Eng.answer (e : Eng) (slice : Nat) (r : Req) (t : Option Tent) (drs : Drs) (ndr : Option OutOp) (grant : Bool) : Eng × Nat :=
  match r.remote with
  | some (node, id) =>
    let a : FwdAns := { caid := r.caid, tag := r.tag, ndr := none, drs := 0, uio := none, data := 0, poison := false }
    let e := match drs with
      | .none => e
      | .data d p => e.hsend 0x1C node 0 none (some { a with drs := 1, data := d, poison := p }) (some id)
      | .nxm => e.hsend 0x1C node 0 none (some { a with drs := 2 }) (some id)
    let e := match ndr with
      | none => e
      | some o => e.hsend 0x1C node 0 none (some { a with ndr := some (match o with | .cmpS => 1 | .cmpE => 2 | .cmpM => 3 | _ => 0) }) (some id)
    (e.freeSlots r.gid, 0)
  | none => e.reply (e.portOf slice) r (e.devLoadOf slice t) drs ndr grant

/-- Send a UIO completion, or return it to the node that forwarded the request. -/
def Eng.answerUio (e : Eng) (slice : Nat) (r : Req) (status : Nat) (d : Data) : Eng × Nat :=
  match r.remote with
  | some (node, id) =>
    ((e.freeSlots r.gid).hsend 0x1C node 0 none (some { caid := r.caid, tag := r.tag, ndr := none, drs := 0, uio := some status, data := d, poison := false }) (some id), 0)
  | none => e.replyUio (e.portOf slice) r status d

/-- The form of Table 03.2 returned to the node that forwarded a request (R225, R226). -/
def Eng.refusedFwd (e : Eng) (slice : Nat) (r : Req) : Eng :=
  match r.op with
  | .memRd | .memRdData => (e.answer slice r none .nxm none false).1
  | .memInv | .memInvNT | .memClnEvct => (e.answer slice r none .none (some .cmp) false).1
  | .atomic => (e.answerUio slice r 1 0).1
  | _ => e.freeSlots r.gid

/-- Complete an AtomicOp: its slice writes the echo entry and sends the completion (R127). -/
def Eng.atomAnswer (e : Eng) (slice : Nat) (r : Req) (status : Nat) (d : Data) : Eng × Nat :=
  let (e, o) := e.answerUio slice r status d
  (e.putEcho { slice := slice, valid := true, caid := r.caid, tag := r.tag, line := r.line, op := r.row, size := r.usize, off := r.uoff, status := status, time := bits e.ts 21 6, window := e.ob ECHO_WINDOW, result := BitVec.ofNat 512 (getInt d 0 (opBytes r.usize)) }, o)

/-- Complete a snoop writeback: `Cmp` to its writer, unless it departed (R111, R73). -/
def Eng.cmpWb (e : Eng) (slice : Nat) (r : Req) (t : Option Tent) : Eng :=
  if e.deaf r.caid then e.freeSlots r.gid else (e.answer slice r t .none (some .cmp) false).1

/-- Answer on entering a `_T` form (Table 05.6). -/
def Eng.tAnswer (e : Eng) (x : Ctx) : Eng :=
  if x.answered || x.reqGone then e
  else
    match x.req.op with
    | .memRd | .memRdData => (e.answer x.slice x.req x.tile (.data Data.ones true) (some .cmp) false).1
    | .memInv | .memInvNT | .memClnEvct => (e.answer x.slice x.req x.tile .none (some .cmp) false).1
    | .atomic => (e.atomAnswer x.slice x.req 4 0).1
    | _ => e.freeSlots x.req.gid

/-- Safe-form answer of a flow closed under Foghorn is `Eng.safeForm`; answer of a request to a line in P (Table 04.7,
rows 1 to 8 and AtomicOp). -/
def Eng.pAnswer (e : Eng) (slice : Nat) (r : Req) (t : Option Tent) : Eng :=
  match r.op with
  | .memRd | .memRdData => (e.answer slice r t (.data Data.ones true) (some .cmp) false).1
  | .memInv | .memInvNT | .memClnEvct => (e.answer slice r t .none (some .cmp) false).1
  | .atomic => (e.atomAnswer slice r 4 0).1
  | _ => e.freeSlots r.gid

/-! ## Backing accesses (R105, R115, R81, R220) -/

/-- Drift channel that holds a tile. -/
def Eng.chanOf (e : Eng) (i : Nat) : Option Chan := e.chans.find? fun c => c.tile == i

/-- Device address of the line under a context's tile-map entry. -/
def Eng.ctxDpa (e : Eng) (x : Ctx) : Nat × Nat :=
  match x.tile with
  | some t => (t.dev, t.dpa * 32768 + (x.req.line - e.poolBase t.pool) % 32768)
  | none => (0, 0)

/-- Destination of a Drift for the line of a context (R122, R220). -/
def Eng.driftDst (e : Eng) (x : Ctx) : Option (Nat × Nat) :=
  match x.tile with
  | some t => (e.chanOf x.tileI).map fun c => (c.ddev, c.dframe * 32768 + (x.req.line - e.poolBase t.pool) % 32768)
  | none => none

/-- Initiator bit of a context's accesses (Table 03.9): Migration DMA for its copies, coherence engine otherwise. -/
def Req.initBit (r : Req) : Nat := match r.op with | .drift _ => 1 | .resync _ => 1 | _ => 0

/-- Outbound beat of an access. -/
def accBeat (e : Eng) (x : Ctx) (a : Acc) : OBeat :=
  { beat0 with
    kind := (match a.kind with | .rd => 8 | .wr => 9 | .wrPtl => 9 | .uio => 0xC),
    op := (match a.kind with | .rd => .bkRd | .wr => .bkWr | .wrPtl => .bkWrPtl | .uio => .bkUio),
    addr := a.dpa, tag := e.htid x.slice x.idx, port := a.dev, poison := a.poison, be := a.be, data := a.data,
    uop := if a.kind = .uio then x.req.row else 0, usize := if a.kind = .uio then x.req.usize else 0,
    uoff := if a.kind = .uio then x.req.uoff else 0 }

/-- The world of a Migration DMA channel is its owner's (R341). -/
def Req.secureInit (e : Eng) (r : Req) : Bool :=
  match r.op with
  | .drift ch => e.obj WORLD_UNIT_STATE ch % 2 == 0
  | .resync ch => e.obj WORLD_UNIT_STATE ch % 2 == 0
  | _ => false

/-- Result of trying to issue an access. -/
inductive Issue where
  | sent (e : Eng) (x : Ctx)
  | wait
  | refused (e : Eng)

/-- Issue an access if the line has none open, the egress FIFO has room and the Guard permits it (R105, R81, R175). A read
first reserves a class 4 data slot. -/
def Eng.issue (e : Eng) (x : Ctx) (a : Acc) : Issue :=
  if e.lineAcc x.req.line || decide (64 ≤ e.egressFifo x.slice + e.offN 0xC x.slice 2) || e.foghorn then .wait
  else
    let pg := a.dpa / 64
    let pool := match x.tile with | some t => t.pool | none => 0
    if !e.guardOk .backing x.req.initBit (x.req.secureInit e) (a.kind != .rd) pg pg a.dev pool then
      .refused (e.guardFault .backing x.req.initBit (a.kind != .rd) pg)
    else
      let e1 := if a.kind = .rd then e.takeSlot x.slice 4 x.req.caid x.req.gid true else some e
      match e1 with
      | none => .wait
      | some e =>
        let o : OEnt := { id := e.fresh, at_ := e.portOf x.slice, grp := 2, cls := 2, v := 0, pair := none, presented := false, src := some (x.slice, x.idx), beat := accBeat e x a, grant := false, gid := 0 }
        let e := e.pm x.slice (match a.kind with | .rd => 0x1B | .uio => 0 | _ => 0x1C) (if a.kind = .uio then 0 else 1)
        .sent (Eng.send { e with fresh := e.fresh + 1 } o) { x with acc := some a }

/-- A plain access of a context. -/
def mkAcc (kind : AccK) (why : AccFor) (at_ : Nat × Nat) (d : Data) (be : Be) (p : Bool) : Acc :=
  { kind := kind, why := why, dev := at_.1, dpa := at_.2, data := d, be := be, poison := p, deadline := none }

/-! ## Writes at the home (R29, R104, R111, Table 08.2) -/

/-- Perform a write of a request's data at the home: in the HDC, with nothing more to wait for, or as the backing access
it needs. `full` is the line's data where the flow holds all of it. -/
def Eng.homeWrite (e : Eng) (x : Ctx) (r : Req) (full : Option Data) (why : AccFor) : Eng × Option Acc :=
  let at_ := e.ctxDpa x
  let line := r.line
  let hit := e.hdcHas x.slice line
  let cur := match e.hdcProbe x.slice line with | some (d, _, _) => d | none => 0
  let pool := match x.tile with | some t => t.pool | none => 0
  let o := (line - e.poolBase pool) % 32768
  -- a full-line write updates its stream (R189); the detector has no effect in SDT-H32
  let (e, stop) := if r.op = .memWr ∧ !e.isH32 then e.streamWrite x.slice r.caid x.tileI o else (e, false)
  if r.poison then
    (e.hdcRemove x.slice line, some (mkAcc (if r.op = .memWrPtl then .wrPtl else .wr) why at_ r.data r.be true))
  else
    let e := if hit then e.pfHit x.slice line else e
    match r.op, full with
    | .memWrPtl, none =>
      if hit then
        let d := merge cur r.data r.be
        if !e.writeThrough then (e.hdcPut x.slice line d true false, none)
        else if e.isH32 then (e.hdcPut x.slice line d false false, some (mkAcc .wrPtl why at_ r.data r.be false))
        else (e.hdcPut x.slice line d true false, some (mkAcc .wr why at_ d Be.full false))
      else (e, some (mkAcc .wrPtl why at_ r.data r.be false))
    | _, _ =>
      let d := match full with | some f => f | none => r.data
      if e.writeThrough then
        ((if hit then e.hdcPut x.slice line d (!e.isH32) false else e), some (mkAcc .wr why at_ d Be.full false))
      else
        if hit then (e.hdcPut x.slice line d true false, none)
        else if stop then (e, some (mkAcc .wr why at_ d Be.full false))
        else
          match e.hdcAlloc x.slice line with
          | some e => (e.hdcPut x.slice line d true false, none)
          | none => (e.inc HDC_ALLOC_SKIPS, some (mkAcc .wr why at_ d Be.full false))

/-- Data a writeback leaves with the flow (R104, R111). -/
def Ctx.holdWb (x : Ctx) (r : Req) : Ctx :=
  if r.op = .memWrPtl then
    if x.gotBe = Be.full then { x with got := merge x.got r.data r.be }
    else { x with got := merge x.got r.data r.be, gotBe := x.gotBe ||| r.be }
  else { x with got := r.data, gotBe := Be.full, fromHdc := false, hdcDirty := false }

/-! ## Advancing a flow -/

/-- A copy of the line waits in the eviction buffer (R190). -/
def Eng.inEvb (e : Eng) (slice line : Nat) : Bool := e.evb.any fun v => v.slice == slice && v.line == line && v.inBuf

/-- What an open context does next. -/
inductive Next where
  | wait
  | finish
  | wb (r : Req)
  | dup (a : Acc)
  | read
  | flush
  | exec
  | write
  | uio
  | dst

/-- The next step of a flow under the access rules of R105 and the order of R104, R111, R122 and R124. -/
def Eng.nextStep (e : Eng) (x : Ctx) : Next :=
  if x.acc.isSome then .wait
  else match x.dup with
  | some a => .dup a
  | none =>
    match x.wbs.find? fun w => !w.done with
    | some w => if e.inEvb x.slice x.req.line then .wait else .wb w.req
    | none =>
      let rnd := e.roundOpen x
      if x.tc.isTForm || x.refused then (if rnd then .wait else .finish)
      else if x.needRead && (!x.readAfter || !rnd) then
        (if x.gotBe = Be.full then (if rnd then .wait else .exec) else if e.inEvb x.slice x.req.line then .wait else .read)
      else if rnd then .wait
      else if x.needWrite then (if e.inEvb x.slice x.req.line then .wait else .write)
      else if e.owesFlush x then .flush
      else if x.needUio then (if e.inEvb x.slice x.req.line then .wait else .uio)
      else
        match x.req.op with
        | .atomic => if x.site = .home ∧ x.uioRes.isNone then .exec else if x.uioRd then (if x.gotBe = Be.full then .dst else .read) else .finish
        | .drift _ => if x.fin then .finish else .dst
        | .remoor => if x.fin then .finish else .wait
        | _ => .finish

/-- Enter a `_T` form (R113), with the party whose failure caused it dropped. The open state and `MR_F` have none (R390);
they are left as they are here. -/
def Eng.enterT (e : Eng) (x : Ctx) (party : Option Nat) : Eng :=
  let x := match party with | some c => { x with gone := c :: x.gone } | none => x
  if x.tc.isTForm then e.setCtx x
  else
    let e := (e.pm x.slice 0x1E 1).tAnswer x
    let p := match x.tile with | some t => t.pool | none => 0
    let set := (e.bitsSet x).map fun t => t.caid
    let rest := (e.holders p x.recorded).filter fun c => !(x.req.cls != 7 && c == x.req.caid) && !x.gone.contains c && !set.contains c
    let e := if x.req.op.hasData then e.freeData x.req.gid else e
    let x := { x with tc := x.tc.tform, toP := true, answered := true, needRead := false, needWrite := false,
                      needUio := false, uioRd := false, snp := .inv, want := if rest.isEmpty then none else some rest }
    let (e, x) := e.takeSnoop x
    (e.slotWait x).setCtx x

/-- State of the line when a flow ends (Table 04.2, Table 04.6, R91 to R93, R121, R122, R124, Table 03.6). -/
def Eng.finalSt (e : Eng) (x : Ctx) : LSt :=
  let c := x.req.caid
  let rec_ := x.recorded
  -- a departed requester is recorded as it was and in no other way; the surprise sweep then visits the line (R73, code DR)
  let left : LSt := match rec_ with | .S1 a => if a = c then .S1 a else .I | .X o => if o = c then .X o else .I | _ => .I
  if x.toP then .P
  else if x.refused then rec_
  else match x.req.op with
    | .memRd | .memRdData =>
      if x.req.row = 4 then rec_
      else if x.reqGone then (if x.req.row = 3 then left else rec_)
      else if e.grantsOwn x then .X c
      else rec_.add c
    | .memInv | .memInvNT =>
      if x.req.row = 5 then (if x.reqGone then left else .X c) else rec_.remove c
    | .memClnEvct => rec_.remove c
    | .memWr | .memWrPtl =>
      if x.start = .P ∧ (x.req.op = .memWrPtl ∨ x.req.poison) then .P
      else if x.req.row = 9 then .I
      else if x.reqGone then left
      else if x.req.row = 10 then .S1 c else .X c
    | .atomic => if x.site = .home then .H else .I
    | .visit v true => match x.start with | .SC g => .SC g | s => if x.gone.contains v then rec_ else s
    | .visit v false => match x.start with | .X o => if o = v then .P else .X o | .SC g => .SC g | s => s.remove v
    | .evict _ => .I
    | .putState s => s
    | _ => x.start

/-- The engine with the sweep of an id changed. -/
def Eng.updSweep (e : Eng) (id : Nat) (f : Sweep → Sweep) : Eng := { e with sweeps := updFirst (fun (w : Sweep) => w.id == id) f e.sweeps }

/-- Pools that the running sweeps of a CAID cover. -/
def Eng.sweptPools (e : Eng) (c : Nat) : Nat := (e.sweeps.filter fun w => w.caid == c).foldl (fun a w => a ||| w.pools) 0

/-- A sweep ends. One of every pool of its CAID makes it Unbound, and what other sweeps of it had still to do goes with it; one of some
pools clears the sweep-pools bits that no other running sweep of the CAID covers (R72, R154). -/
def Eng.sweepEnd (e : Eng) (w : Sweep) : Eng :=
  if w.all then
    let e := { e with sweeps := e.sweeps.filter fun (v : Sweep) => v.caid != w.caid }
    let e := (((e.set CAID_STATE w.caid 0).set CAID_PORT w.caid 0xFF).set CAID_BIID w.caid 0).set CAID_POOLS w.caid 0
    let e := e.set CAID_SWEEP_POOLS w.caid 0
    e.event 0x03 (evArgs [(0, w.caid), (1, b2n (!w.planned)), (2, w.poisoned)])
  else
    let e := { e with sweeps := e.sweeps.filter fun (v : Sweep) => v.id != w.id }
    e.set CAID_SWEEP_POOLS w.caid (maskOff (e.obj CAID_SWEEP_POOLS w.caid) (maskOff w.pools (e.sweptPools w.caid) 64) 64)

/-- A sweep has nothing left to do (R154). The model has a sweep whose scans are complete wait for every visit they queued: R154 does
not say whether it ends before them, and R72 has the CAID leave its state at the last line visited (DESIGN CHOICE, log entry 55). -/
def Eng.sweepOver (e : Eng) (w : Sweep) : Bool :=
  (w.sfaDone && w.dbsLeft == some [] && !w.reading && w.visits == 0)
    || (w.all && e.obj HOLD_COUNT w.caid == 0 && (!w.planned || e.obj SC_GROUP_COUNT (grp w.caid) == 0))

/-- End every sweep that is over. -/
def Eng.checkSweeps (e : Eng) : Eng :=
  e.sweeps.foldl (fun e w => match e.sweeps.find? fun v => v.id == w.id with | some v => if e.sweepOver v then e.sweepEnd v else e | none => e) e

/-- A visit of the sweep with an id has retired. -/
def Eng.visitDone (e : Eng) (id : Nat) (poisoned : Bool) : Eng :=
  let e := e.updSweep id fun w => { w with visits := w.visits - 1, poisoned := w.poisoned + b2n poisoned }
  let e := if poisoned then e.inc SWEEP_POISONED else e
  e.checkSweeps

/-- Change the running overflow of a page that stands at a point (one of a page's overflows holds its lock). -/
def Eng.updOv (e : Eng) (p : Nat) (st : OvSt) (f : Overflow → Overflow) : Eng :=
  { e with overflows := updFirst (fun (o : Overflow) => o.page == p && o.st == st) f e.overflows }

/-- The overflow's sequence reads and writes the evicted burst and the head bursts (R145, R147, inside the page lock), and stands at
`st`. -/
def Eng.ovWrites (e : Eng) (page b : Nat) (st : OvSt) : Eng :=
  match e.overflows.find? fun o => o.page == page && o.st == .serving with
  | some o =>
    let e := e.updOv page .serving fun o => { o with st := st, kept := o.kept || st == .rewriting }
    Eng.presentAll (e.nextStages o.id [rds (e.burstAddr page b :: e.heads page), wrs [e.burstAddr page b], wrs (e.heads page)])
  | none => e

/-- An eviction's line has retired; the last one releases the burst and answers COMPLETE, or KEPT where a line ended in P
(R151 step 7). -/
def Eng.evictDone (e : Eng) (page line : Nat) (inP : Bool) : Eng :=
  match e.evicts.find? fun v => v.page == page with
  | none => e
  | some v =>
    let left := v.left.filter fun k => k != line % 4
    let v := { v with left := left, keptP := v.keptP || inP }
    if !left.isEmpty then { e with evicts := updFirst (fun (w : Evict) => w.page == page) (fun _ => v) e.evicts }
    else
      let e := { e with evicts := e.evicts.filter fun (w : Evict) => w.page != page }
      if 2 ^ 20 ≤ page then
        let kind : SpillK := if v.keptP then .rewrite else .release
        let e := { e with spill := updAll (fun (s : Spill) => s.slice == v.slice && s.sector == v.sector && decide (s.kind = SpillK.evicting)) (fun s => { s with kind := kind }) e.spill }
        match e.sfaFind v.slice v.sector with
        | some w =>
          if v.keptP then e
          else if !w.dbs then { e with sfa := e.sfa.filter fun (u : SfaWay) => !(u.slice == w.slice && u.set == w.set && u.way == w.way) }
          else if e.spillUsed v.slice < 16 then e.spillOut { w with l := allI, dirty := true }
          else e
        | none => e
      else if v.keptP then
        let l := e.sectorLines v.slice v.sector
        let e := match e.page page with | some q => e.setPage (q.put v.burst v.sector v.psn l) | none => e
        let e := { e with spill := e.spill.filter fun (s : Spill) => !(s.slice == v.slice && s.sector == v.sector && decide (s.kind = SpillK.evicting)),
                          sfa := updFirst (fun (w : SfaWay) => w.slice == v.slice && w.sector == v.sector) (fun w => { w with dirty := false }) e.sfa }
        e.ovWrites page v.burst .rewriting
      else
        let e := { e with spill := e.spill.filter fun (s : Spill) => !(s.slice == v.slice && s.sector == v.sector && decide (s.kind = SpillK.evicting)),
                          sfa := e.sfa.filter fun (w : SfaWay) => !(w.slice == v.slice && w.sector == v.sector) }
        let e := match e.page page with | some q => e.setPage (q.free v.burst) | none => e
        (e.unitDbsAdd v.psn false).ovWrites page v.burst .releasing

/-- A copy of a Drift has retired: the channel's cursor advances (R219, R221). -/
def Eng.copyDone (e : Eng) (ch : Nat) (poisoned : Bool) : Eng :=
  let e := if poisoned then e.inc DRIFT_POISONED_LINES else e
  { e with chans := updFirst (fun (c : Chan) => c.ch == ch) (fun c => { c with cursor := c.cursor + 1 }) e.chans }

/-- Requests on their way to a queue: in a stage, in a landing buffer, or circling. -/
def Eng.inbound (e : Eng) : List Req := (e.stages.map fun s => s.2.2) ++ e.gal.filterMap fun m => m.req

/-- Operations of a channel that are under way (R219). -/
def Eng.driftOpen (e : Eng) (ch : Nat) : Nat :=
  ((e.qf ++ e.lineq).filter fun q => q.req.op == .drift ch).length + (e.inbound.filter fun r => r.op == .drift ch).length
    + (e.ctxs.filter fun x => x.req.op == .drift ch).length

/-- An aborting channel with nothing under way returns its entry to the source (R221 steps 2 and 3). -/
def Eng.abortStep (e : Eng) (ch : Nat) : Eng :=
  match e.chans.find? fun c => c.ch == ch with
  | none => e
  | some c =>
    if c.phase = .abort ∧ !c.aborted ∧ e.driftOpen ch = 0 then
      Eng.tileWrite { e with chans := updFirst (fun (d : Chan) => d.ch == ch) (fun d => { d with aborted := true }) e.chans } [{ i := c.tile, what := .unmark, ent := tent0 }]
    else e

/-- A channel halts: its Drift will abort (R82, R122, R221). -/
def Eng.haltChan (e : Eng) (ch : Nat) : Eng :=
  { e with halted := insertNat ch e.halted,
           chans := updFirst (fun (c : Chan) => c.ch == ch && decide (c.phase = .copy)) (fun c => { c with phase := .abort }) e.chans }

/-- The SFA way of a sector frees where no line of it is live, it has no DBS slot and no context stays on it (R133). -/
def Eng.freeIdle (e : Eng) (slice line : Nat) : Eng :=
  { e with sfa := e.sfa.filter fun (w : SfaWay) =>
             !(w.slice == slice && w.sector == line / 4 && !w.resv && !w.dbs && decide (w.l = allI) && !e.pinned w) }

/-- A context retires: it leaves Watch, its reservation and its way's pin go (R137, R164, R200). -/
def Eng.retire (e : Eng) (x : Ctx) : Eng :=
  let e := (e.delCtx x.slice x.idx).pm x.slice 0x17 1
  let e := if x.smp.isSome then
      { e with smps := e.smps ++ [({ x := x, htid := e.htid x.slice x.idx, after := if x.req.op = .remoor && x.fin then 7 else (e.lineSt x.slice x.req.line).code, ret := e.ts - x.req.t0 } : Smp)] }
    else e
  let e := (x.wbs.filter fun w => !w.done).foldl (fun e w => e.freeSlots w.req.gid) e
  let e := if x.site = .home then e.hdcResv x.slice x.req.line x.idx false else e
  e.freeIdle x.slice x.req.line

/-- Answer the requester of a flow that has ended and retire its context (R89, R92, R93, R175, R203, R270). -/
def Eng.conclude (e : Eng) (x : Ctx) : Eng :=
  let r := x.req
  let (e, out) : Eng × Nat :=
    if x.answered || x.reqGone then (if x.answered then e else e.freeSlots r.gid, 0)
    else match r.op with
      | .memRd | .memRdData =>
        if x.toP then e.answer x.slice r x.tile (.data Data.ones true) (some .cmp) false
        else if r.row = 4 then e.answer x.slice r x.tile (.data x.got false) (some .cmp) false
        else if e.grantsOwn x then
          e.answer x.slice r x.tile (.data x.got false) (some (if x.hdcDirty then .cmpM else .cmpE)) true
        else e.answer x.slice r x.tile (.data x.got false) (some .cmpS) false
      | .memInv | .memInvNT =>
        if r.row = 5 ∧ !x.toP then e.answer x.slice r x.tile .none (some .cmpE) true
        else e.answer x.slice r x.tile .none (some .cmp) false
      | .memClnEvct => e.answer x.slice r x.tile .none (some .cmp) false
      | .memWr | .memWrPtl => (e.freeData r.gid).answer x.slice r x.tile .none (some .cmp) false
      | .atomic =>
        match x.uioRes with
        | some (s, d) => (e.freeData r.gid).atomAnswer x.slice r s d
        | none => (e.freeData r.gid).atomAnswer x.slice r 4 0
      | _ => (e.freeSlots r.gid, 0)
  let e := if out != 0 ∧ !x.toP ∧ (r.op matches .memRd | .memRdData | .memInv | .memInvNT) ∧ e.grantsOwn x then
      { e with hold := { line := r.line, owner := r.caid, ends := none } :: e.hold.filter (fun (h : Hold) => h.line != r.line) }
    else e
  let e := e.retire x
  match r.op with
  | .visit c planned => e.visitDone r.sweep (!planned && (match x.start with | .X o => o == c | _ => false))
  | .evict page => e.evictDone page r.line x.toP
  | .drift ch => (e.copyDone ch x.toP).abortStep ch
  | _ => e

/-- HDC effects of a flow's end (Table 08.2, R92, R94, R195). -/
def Eng.hdcAtEnd (e : Eng) (x : Ctx) : Eng :=
  let r := x.req
  if e.finalSt x = .P ∧ x.start ≠ .P then e.hdcRemove x.slice r.line
  else if x.toP || x.refused then e
  else if e.grantsOwn x && !x.reqGone && !(r.isWrite) then e.hdcRemove x.slice r.line
  else match r.op with
    | .memRd | .memRdData =>
      if x.fromHdc || !e.hdcAllocs || e.hdcHas x.slice r.line then e
      else if !e.isH32 || e.hdcLocked x.slice r.line then e.hdcFill x.slice r.line x.got false false
      else e
    | .memSpecRd => if e.hdcAllocs then e.hdcFill x.slice r.line x.got false false else e
    | .prefetch => if e.hdcAllocs then e.hdcFill x.slice r.line x.got false true else e
    | .preload lock =>
      if !e.hdcAllocs then e
      else if e.preloadFull r.line then e.inc HDC_PRELOAD_SKIPPED
      else
        let e := e.hdcFill x.slice r.line x.got false false
        if lock then e.updHdc x.slice (r.line / 4) fun w => { w with lock := true } else e
    | .memInvNT => e.hdcRemove x.slice r.line
    | .atomic =>
      if x.site = .home then (e.hdcSetH x.slice r.line true).hTouch r.line else e.hdcRemove x.slice r.line
    | _ => e

/-- A resynchronisation copy emits the line delta of a line in X, H or P (R284 step 3). -/
def Eng.resyncLine (e : Eng) (slice line : Nat) : Eng :=
  let st := e.lineSt slice line
  if st.shadow = .I ∨ !e.mirrored line then e
  else { e with fresh := e.fresh + 1, mrecs := e.mrecs ++ [({ id := e.fresh, kind := 0, word := lineDelta line st.shadow, line := line, st := st.shadow } : MRec)] }

/-- The flow has nothing left to wait for: the directory is updated, then the answer leaves, at once or once the delta it
emitted is acknowledged (R104, R270). -/
def Eng.finish (e : Eng) (x : Ctx) : Eng :=
  let st := e.finalSt x
  -- the copy that an ownership grant removes decides `Cmp-M` (R92)
  let x := { x with hdcDirty := (match e.hdcProbe x.slice x.req.line with | some (_, d, false) => d | _ => false), stampM := e.ts - x.req.t0 }
  let e := e.hdcAtEnd x
  match x.req.op with
  | .resync _ => (e.resyncLine x.slice x.req.line).conclude x
  | .remoor | .wback => e.conclude x
  | op =>
    if (x.req.isFill || (op matches .drift _)) && !x.toP then e.conclude x
    else
      let e := if x.start = .H ∧ st ≠ .H then e.hLeave x.slice x.req.line else e
      let (e, w) := e.setLine x.slice x.req.line st
      match w with
      | some d => e.setCtx { x with phase := .ackWait d, fl := setBit x.fl 6 }
      | none => e.conclude x

/-- The refused access of an internal path (Table 03.10): a read answers poisoned data, and the flow ends, once its round has, with the
requester not recorded; a write or AtomicOp sends the line to P; a Migration DMA channel halts. -/
def Eng.guardRefused (e : Eng) (x : Ctx) (wr : Bool) : Eng :=
  match x.req.op with
  | .drift ch => (((e.haltChan ch).freeSlots x.req.gid).retire x).abortStep ch
  | .resync ch => ((e.haltChan ch).freeSlots x.req.gid).retire x
  | _ =>
    if wr then
      let e := if x.req.isWrite then (e.pAnswer x.slice x.req x.tile) else e
      e.enterT { x with answered := x.answered || x.req.isWrite } none
    else
      let e := if x.reqGone || x.answered then e.freeSlots x.req.gid else e.pAnswer x.slice x.req x.tile
      e.setCtx { x with refused := true, answered := true, needRead := false }

/-- A refused access, after which the flow goes on where it is still open. -/
def Eng.refusedStep (e : Eng) (x : Ctx) (wr : Bool) : Eng × Option Ctx :=
  let e := e.guardRefused x wr
  (e, e.ctx x.slice x.idx)

/-- An acquired write ends a writeback of the flow. -/
def Eng.wbDone (e : Eng) (x : Ctx) (gid : Nat) : Eng × Ctx :=
  match x.wbs.find? fun w => w.req.gid == gid with
  | none => (e, x)
  | some w =>
    let x := (x.holdWb w.req)
    let x := { x with wbs := updFirst (fun (v : Wb) => v.req.gid == gid) (fun v => { v with done := true }) x.wbs, toP := x.toP || w.req.poison }
    let e := if x.req.isRead && !x.toP && !x.answered then e.giveData gid x.req.gid else e.freeData gid
    (e.cmpWb x.slice w.req x.tile, x)

/-- A state with every CAID translated through REMOOR_CAID_MAP; a group becomes the groups of its Bound members' mapped
CAIDs (R224, R226). -/
def Eng.mapSt (e : Eng) (p : Nat) (s : LSt) : LSt :=
  let m (c : Nat) : Nat := e.obj REMOOR_CAID_MAP c
  match s with
  | .S1 a => .S1 (m a)
  | .S2 a b => .S2 (min (m a) (m b)) (max (m a) (m b))
  | .X o => .X (m o)
  | .SC g => .SC ((e.caidList.filter fun c => g.testBit (grp c) && e.caidSt c == 1 && bit (e.obj CAID_POOLS c) p).foldl (fun a c => setBit a (grp (m c))) 0)
  | s => s

/-- Body of SECTOR (Table 11.7). -/
def sectorBody (sector : Nat) (l : List LSt) : Nat :=
  sector + (l.zipIdx.map fun p => (p.1.code + p.1.field * 8) * 2 ^ (44 + 19 * p.2)).sum

/-- A transfer operation whose four `MR_F` contexts are open and whose HDC copies are written back sends SECTOR to N
(R224); with its SFA entry lost, four lines in P (R390). -/
def Eng.remoorCheck (e : Eng) (x : Ctx) : Eng :=
  let sector := x.req.line / 4
  if x.req.op ≠ .remoor ∨ e.remoor.sent.contains sector then e
  else
    let mine := e.ctxs.filter fun y => y.slice == x.slice && y.req.line / 4 == sector && y.req.op == .remoor && decide (y.phase = .opened)
    if mine.length ≠ 4 ∨ (e.evb.any fun v => v.line / 4 == sector) then e
    else
      let p := (e.poolOf x.req.line).getD 0
      let l := if e.remoor.failed.contains sector then [LSt.P, .P, .P, .P] else (e.sectorLines x.slice sector).map (e.mapSt p)
      let e := { e with remoor := { e.remoor with sent := insertNat sector e.remoor.sent } }
      e.hsend 0x14 e.remoor.peer (sectorBody sector l) none none none

/-- One step of a flow; `none` as the context when it has nothing to do at once. -/
def Eng.advanceOne (e : Eng) (x : Ctx) : Eng × Option Ctx :=
  let go (a : Acc) : Eng × Option Ctx :=
    match e.issue x a with
    | .sent e x => (e.putCtx x, none)
    | .wait => (e.putCtx x, none)
    | .refused e => e.refusedStep { x with needRead := false, needWrite := false, needUio := false } (a.kind != .rd)
  match e.nextStep x with
  | .wait => ((e.putCtx x).remoorCheck x, none)
  | .finish => (e.finish x, none)
  | .dup a =>
    match e.issue x a with
    | .sent e x => (e.putCtx { x with dup := none }, none)
    | .wait => (e.putCtx x, none)
    | .refused e => if a.why == .poison then (e.putCtx { x with dup := none, toP := true }, none) else e.refusedStep { x with dup := none } true
  | .wb r =>
    if e.lineAcc r.line then (e.putCtx x, none)
    else
      let (e1, a) := e.homeWrite x r none (.wb r.gid)
      match a with
      | none =>
        let (e1, x) := e1.wbDone x r.gid
        (e1, some x)
      | some a =>
        match e1.issue x a with
        | .sent e2 x => (e2.putCtx x, none)
        | .wait => (e.putCtx x, none)
        | .refused e2 => (e2.freeSlots r.gid).refusedStep { x with wbs := x.wbs.filter fun w => w.req.gid != r.gid } true
  | .read => go (mkAcc .rd .read (e.ctxDpa x) 0 Be.full false)
  | .flush =>
    match e.hdcProbe x.slice x.req.line with
    | some (d, true, false) =>
      match e.issue x (mkAcc .wr .hdc (e.ctxDpa x) d Be.full false) with
      | .sent e x => (e.putCtx x, none)
      | .wait => (e.putCtx x, none)
      | .refused e => e.refusedStep { x with needWrite := false } true
    | _ => (e, some { x with needWrite := false })
  | .write =>
    if e.lineAcc x.req.line then (e.putCtx x, none)
    else
      let full : Option Data := if x.req.op = .memWrPtl then (if x.gotBe = Be.full then some (merge x.got x.req.data x.req.be) else none) else none
      let (e1, a) := e.homeWrite x x.req full .own
      match a with
      | none => (e1.freeData x.req.gid, some { x with needWrite := false, toP := x.toP || x.req.poison })
      | some a =>
        match e1.issue x a with
        | .sent e2 x => (e2.putCtx { x with needWrite := false, toP := x.toP || x.req.poison }, none)
        | .wait => (e.putCtx x, none)
        | .refused e2 => e2.refusedStep { x with needWrite := false } true
  | .uio => go (mkAcc .uio .uio (e.ctxDpa x) x.req.data x.req.be false)
  | .exec =>
    match x.req.op with
    | .atomic =>
      if x.site = .home then
        let cur := match e.hdcProbe x.slice x.req.line with | some (d, _, _) => d | none => x.got
        let cur := if x.gotBe = Be.full ∧ !x.wbs.isEmpty then x.got else if x.fromHdc then cur else if x.gotBe = Be.full then x.got else cur
        let (new, old) := atomicExec x.req.row x.req.usize x.req.uoff x.req.data cur
        let e := if (e.hdcFind x.slice (x.req.line / 4)).isSome then e else (e.hdcAlloc x.slice x.req.line).getD e
        let e := e.hdcPut x.slice x.req.line new (!e.isH32) false
        let e := e.inc ATOM_AT_HOME
        let x := { x with needRead := false, uioRes := some (0, BitVec.ofNat 512 old) }
        if e.isH32 then
          match e.issue x (mkAcc .wr .own (e.ctxDpa x) new Be.full false) with
          | .sent e x => (e.putCtx x, none)
          | .wait => (e.putCtx { x with dup := some (mkAcc .wr .own (e.ctxDpa x) new Be.full false) }, none)
          | .refused e => e.refusedStep { x with needWrite := false } true
        else (e, some x)
      else (e, some { x with needRead := false })
    | _ => (e, some { x with needRead := false })
  | .dst =>
    match e.driftDst x with
    | none => (e, some { x with fin := true, uioRd := false })
    | some at_ =>
      let pois := x.start == .P
      match e.issue x (mkAcc .wr .driftDst at_ (if pois then Data.ones else x.got) Be.full pois) with
      | .sent e x => (e.putCtx { x with fin := true, uioRd := false }, none)
      | .wait => (e.putCtx x, none)
      | .refused e => e.refusedStep x true

/-- Run a flow until it waits or ends. The bound covers the writebacks a flow can hold. -/
def Eng.advance : Nat → Eng → Ctx → Eng
  | 0, e, x => e.putCtx x
  | k + 1, e, x =>
    let (e1, x1) := e.takeSnoop x
    let (e2, x2) := e1.freeSnoop x1
    match e2.advanceOne x2 with
    | (e3, none) => e3
    | (e3, some x3) => Eng.advance k e3 x3

/-- Advance a context as far as it goes. -/
def Eng.adv (e : Eng) (x : Ctx) : Eng := Eng.advance (x.wbs.length + 8) e x

/-- Advance the context with a slice and index, if it is open. -/
def Eng.advIdx (e : Eng) (slice idx : Nat) : Eng :=
  match e.ctx slice idx with
  | some x => if x.phase = .opened then e.adv x else e
  | none => e

/-- Advance every open context of a line. -/
def Eng.advLine (e : Eng) (line : Nat) : Eng :=
  match e.lineCtx line with
  | some x => if x.phase = .opened then e.adv x else e
  | none => e

/-- Advance every open context of a slice: something they may have waited for has freed. -/
def Eng.advSlice (e : Eng) (slice : Nat) : Eng :=
  (e.ctxs.filter fun x => x.slice == slice && decide (x.phase = .opened) && !x.req.op.isWback).foldl (fun e x => e.advIdx x.slice x.idx) e

/-! ## HDC write-backs (R190, R196) -/

/-- An internal operation's queue entry (Table 07.4). -/
def intReq (e : Eng) (op : Op) (row v line : Nat) : Req :=
  { gid := e.fresh, op := op, cls := 7, row := row, v := v, caid := 0, port := 0, tag := 0, line := line, poison := false,
    be := 0, data := 0, usize := 0, uoff := 0, t0 := e.ts, remote := none, sweep := 0, passed := false }

/-- Queue an internal operation of a source at another stop, the Migration DMA, in class 7 at the slice that owns its line (R172, R173): it
goes there as a lane I message (R24, R168). -/
def Eng.sendInt (e : Eng) (op : Op) (row v line : Nat) : Eng :=
  let r := intReq e op row v line
  Eng.pump { e with fresh := e.fresh + 1, stages := e.stages ++ [(farStage, e.ts, r)] }

/-- An operation of the slice itself that is no source of Table 07.4, a preload's fill (R191) or a line's way to P (log entry 11), enters
its line's queue directly, behind the entries there; it has no class 7 queue and no slot (DESIGN CHOICE, log entry 57). -/
def Eng.sendOwn (e : Eng) (op : Op) (line : Nat) : Eng :=
  { e with fresh := e.fresh + 1, lineq := e.lineq ++ [({ slice := e.owner line, req := intReq e op 0 0 line } : QEnt)] }

/-- Queue a visit of a sweep in class 7 (R154, R172): one that a slice's scan found at the slice itself, one that a DBS controller found as
a lane I message (R24). -/
def Eng.sendVisit (e : Eng) (w : Sweep) (far : Bool) (line : Nat) : Eng :=
  let r := { intReq e (.visit w.caid w.planned) 1 (0x20 + w.caid % 32) line with sweep := w.id }
  Eng.pump { e with fresh := e.fresh + 1, stages := e.stages ++ [(if far then farStage else intStage (e.owner line), e.ts, r)] }

/-- A line goes to P outside any context of it (R115, R194): at once where its sector is in the SFA or the spill buffer, else by
an internal operation that fills the sector first (log entry 11). -/
def Eng.poisonLine (e : Eng) (slice line : Nat) : Eng :=
  if (e.sfaFind slice (line / 4)).isSome || (e.spillFind slice (line / 4)).isSome then (e.setLine slice line .P).1
  else e.sendOwn (.putState .P) line

/-- Tile-map index of a line of a present or purging pool (R62, R64). -/
def Eng.tileOfLine (e : Eng) (line : Nat) : Option Nat :=
  match e.poolOf line with
  | some p => some (e.tileIdx p line)
  | none => (e.purges.find? fun q => decide (q.2.1 ≤ line) && decide (line < q.2.1 + q.2.2.1 * unitLines)).map
      fun q => q.2.2.2 + (line - q.2.1) / 32768

/-- Start the write-back of a line of the eviction buffer or of a walk, through an internal-share context (log
entry 11). -/
def Eng.startWback (e : Eng) (v : EvLine) : Eng :=
  let now : Option Data := if v.inBuf then some v.data
    else match e.hdcFind v.slice (v.line / 4) with
      | some w => if nth false w.lv (v.line % 4) && nth false w.ld (v.line % 4) then some (nth 0 w.d (v.line % 4)) else none
      | none => none
  let open_ := (e.evb.filter fun (w : EvLine) => w.slice == v.slice && !w.inBuf && w.ctx.isSome).length
  if v.ctx.isSome || e.lineAcc v.line || (!v.inBuf && ((e.lineCtx v.line).isSome || decide (e.ob HDC_WB_OUTSTANDING ≤ open_))) then e
  else if now = none then { e with evb := e.evb.filter fun (w : EvLine) => !(w.slice == v.slice && w.line == v.line && !w.inBuf) }
  else
    match e.tileOfLine v.line, e.pick ((List.range 8192).filter fun i => e.idxFree v.slice i), e.shareFor v.slice 7 with
    | some i, some (idx, e), some sh =>
      let e := e.hdcBank v.slice 1
      let v := { v with data := now.getD v.data }
      let t := e.tent i
      let r : Req := { gid := 0, op := .wback, cls := 7, row := 0, v := 0, caid := 0, port := 0, tag := 0, line := v.line, poison := false, be := Be.full, data := v.data, usize := 0, uoff := 0, t0 := e.ts, remote := none, sweep := 0, passed := false }
      let x : Ctx := { slice := v.slice, idx := idx, share := sh, req := r, phase := .opened, tc := .open0, start := .I, needFill := false, needWalk := false, tile := some t, tileI := i, got := v.data, gotBe := Be.full, fromHdc := true, hdcDirty := false, sslot := none, snp := .inv, want := none, roundDone := true, gone := [], shared := [], wbs := [], acc := none, dup := none, needRead := false, readAfter := false, needWrite := false, needUio := false, uioRd := false, uioRes := none, site := .none, toP := false, reqGone := false, answered := true, fin := false, stampQ := 0, stampL := 0, stampS := 0, stampM := 0, topen := e.ts }
      match e.issue x (mkAcc .wr .hdc (e.ctxDpa x) v.data Be.full v.poison) with
      | .sent e x =>
        { e with ctxs := e.ctxs ++ [x], evb := updFirst (fun (w : EvLine) => w.slice == v.slice && w.line == v.line && w.inBuf == v.inBuf) (fun w => { w with ctx := some idx }) e.evb }
      | .wait => e
      | .refused e =>
        let e := e.poisonLine v.slice v.line
        { e with evb := e.evb.filter fun (w : EvLine) => !(w.slice == v.slice && w.line == v.line && w.inBuf == v.inBuf) }
    | _, _, _ => e

/-- The second write of a write-back goes to the destination of its tile's Drift once it can (R220). A refused one leaves the line in P
(Table 03.10). -/
def Eng.wbackDst (e : Eng) (x : Ctx) : Eng :=
  match x.dup with
  | none => e
  | some d =>
    let y := { x with dup := none }
    match (e.setCtx y).issue y d with
    | .sent e y => e.setCtx y
    | .wait => e
    | .refused e =>
      let e := e.delCtx x.slice x.idx
      let e := { e with evb := e.evb.filter fun (v : EvLine) => !(v.slice == x.slice && v.line == x.req.line && v.ctx == some x.idx) }
      e.poisonLine x.slice x.req.line

/-- Start every write-back that can start, and the second writes that wait. -/
def Eng.startWbacks (e : Eng) : Eng :=
  let e := (e.ctxs.filter fun x => x.req.op.isWback && x.dup.isSome).foldl (fun e x => e.wbackDst x) e
  e.evb.foldl (fun e v => e.startWback v) e

/-- A write-back has completed: the eviction-buffer entry frees, or the line is marked clean; the line's flow goes on
(R190, R196, R105). -/
def Eng.wbackDone (e : Eng) (x : Ctx) : Eng :=
  let line := x.req.line
  let walk := e.evb.any fun v => v.slice == x.slice && v.line == line && !v.inBuf
  let e := { e.delCtx x.slice x.idx with evb := e.evb.filter fun (v : EvLine) => !(v.slice == x.slice && v.line == line && v.ctx == some x.idx) }
  let e := if walk && nth 0 (match e.hdcFind x.slice (line / 4) with | some w => w.d | none => []) (line % 4) == x.req.data then
      e.updHdc x.slice (line / 4) fun w => { w with ld := w.ld.set (line % 4) false }
    else e
  (e.advLine line).startWbacks

end Sys2Proof.Machine
end

