-- ==== Sys2Proof/Machine/Lookup.lean ====
section
/-! DEFINITION. Sys2Proof/Machine/Lookup.lean: grants into per-line queues, the lookup of a request and the opening of
its context in the cell of Table 05.3 (chapters 04, 05, 07 and 08 of spec/). -/
namespace Sys2Proof.Machine
open Ob

/-! ## Tile cache (R78, R214, R215) -/

/-- Sets of a slice's tile-cache partition. -/
def Eng.tcSets (e : Eng) : Nat := 65536 / (8 * e.n)

/-- The tile-cache entry of an index. -/
def Eng.tcFind (e : Eng) (slice i : Nat) : Option TcEnt := e.tcache.find? fun t => t.slice == slice && t.i == i

/-- Make an entry the most recently used. -/
def Eng.tcTouch (e : Eng) (t : TcEnt) : Eng :=
  { e with tcache := t :: e.tcache.filter fun (u : TcEnt) => !(u.slice == t.slice && u.i == t.i) }

/-- Install an entry; the least recently used of a full set leaves and its delta is sent. -/
def Eng.tcInstall (e : Eng) (slice i : Nat) (t : Tent) : Eng :=
  let e := { e with tcache := e.tcache.filter fun (u : TcEnt) => !(u.slice == slice && u.i == i) }
  let mine := e.tcache.filter fun u => u.slice == slice && u.i % e.tcSets == i % e.tcSets
  let e := match mine.getLast? with
    | some o =>
      if 8 ≤ mine.length then
        let e := { e with tcache := e.tcache.filter fun (u : TcEnt) => !(u.slice == slice && u.i == o.i) }
        if o.delta = 0 then e else (e.galSend .heat 7 slice (33 + pageCh (o.i / 256))).heatDelta o.i o.delta
      else e
    | none => e
  { e with tcache := ({ slice := slice, i := i, ent := t, delta := 0 } : TcEnt) :: e.tcache }

/-- Heat a request adds (R214). -/
def Eng.heatWeight (e : Eng) (r : Req) : Nat :=
  match r.op with
  | .memRd | .memRdData => e.obj HEAT_WEIGHT 0
  | .memWr | .memWrPtl => e.obj HEAT_WEIGHT 1
  | .atomic => e.obj HEAT_WEIGHT 2
  | _ => 0

/-- Add heat to a tile-cache entry. -/
def Eng.heatAdd (e : Eng) (slice i w : Nat) : Eng :=
  if w = 0 then e
  else { e with tcache := updFirst (fun (t : TcEnt) => t.slice == slice && t.i == i)
                            (fun t => { t with delta := min (t.delta + w) (2 ^ 24 - 1) }) e.tcache }

/-! ## Contexts -/

/-- A context as it is allocated for a request. -/
def mkCtx (e : Eng) (slice idx : Nat) (sh : Share) (r : Req) (tileI : Nat) : Ctx :=
  { slice := slice, idx := idx, share := sh, req := r, phase := .fetch, tc := .open0, start := .I, needFill := false,
    needWalk := false, tile := none, tileI := tileI, got := 0, gotBe := 0, fromHdc := false, hdcDirty := false,
    sslot := none, snp := .inv, want := none, roundDone := false, gone := [], shared := [], wbs := [], acc := none,
    dup := none, needRead := false, readAfter := false, needWrite := false, needUio := false, uioRd := false,
    uioRes := none, site := .none, toP := false, reqGone := e.deaf r.caid && r.cls != 7 && r.remote.isNone,
    answered := false, fin := false, stampQ := e.ts - r.t0, stampL := 0, stampS := 0, stampM := 0, topen := 0 }

/-! ## Failing words (R155, R194, R390) -/

/-- Word address of an SFA way, an HDC tag entry or an HDC data chunk (Table 12.2; log entry 14). -/
def sfaWord (set way : Nat) : Nat := Config.place 0 (set * 16 + way)
/-- Word address of an HDC tag entry. -/
def hdcTagWord (set way : Nat) : Nat := Config.place 5 (set * 16 + way)
/-- Word address of chunk c of line k of an HDC way. -/
def hdcDataWord (set way k c : Nat) : Nat := Config.place 4 (((set * 16 + way) * 4 + k) * 4 + c)

/-- A context whose SFA entry has failed (R155, R390). -/
def Eng.entryLost (e : Eng) (x : Ctx) : Eng :=
  match x.req.op with
  | .remoor => { e with remoor := { e.remoor with failed := insertNat (x.req.line / 4) e.remoor.failed } }
  | _ =>
    if x.tc = .open0 then (e.tAnswer x).retire x
    else
      let e := e.enterT x none
      e.advIdx x.slice x.idx

/-- An SFA entry failed beyond correction: it is cleared, its set tainted, and its contexts meet R155 or R390. -/
def Eng.sfaLost (e : Eng) (w : SfaWay) : Eng :=
  let mine := e.ctxs.filter fun x => x.slice == w.slice && x.req.line / 4 == w.sector && decide (x.phase = .opened) && !x.req.op.isWback
  mine.foldl (fun e x => match e.ctx x.slice x.idx with | some x => e.entryLost x | none => e) (e.sfaFail w)

/-- The SFA entry of a sector is read through its code (R155). -/
def Eng.sfaCheck (e : Eng) (slice sector : Nat) : Eng :=
  match e.sfaFind slice sector with
  | none => e
  | some w =>
    match e.eccRead 0 (e.sliceNum slice) (sfaWord w.set w.way) false with
    | (e, true) => (e.eccWrite 0 (e.sliceNum slice) (sfaWord w.set w.way)).sfaLost w
    | (e, false) => e

/-- An HDC tag entry failed (R194): the way is cleared; a set with dirty lines or lines in H raises Foghorn. -/
def Eng.hdcTagLost (e : Eng) (w : HWay) : Eng :=
  let risky := !e.isH32 && (e.hdc.any fun v => v.slice == w.slice && v.set == w.set && ((v.ld.any id) || (v.lh.any id)))
  let e := { e with hdc := e.hdc.filter fun (v : HWay) => !(v.slice == w.slice && v.set == w.set && v.way == w.way) }
  if risky then e.foghornMark 0x02 (e.sliceNum w.slice) else e

/-- A data chunk of an HDC line failed (R194). -/
def Eng.hdcDataLost (e : Eng) (w : HWay) (k : Nat) : Eng :=
  let line := w.sector * 4 + k
  let keep := e.isH32 || !(nth false w.ld k || nth false w.lh k)
  let e := e.hdcRemove w.slice line
  -- in SDT-H32 only `lv` clears: a line in H keeps its state and its way (R194, R195)
  if keep then (if nth false w.lh k then e.hdcSetH w.slice line true else e) else e.poisonLine w.slice line

/-- The HDC tag and the data of a line are read through their codes (R194). -/
def Eng.hdcCheck (e : Eng) (slice line : Nat) : Eng :=
  match e.hdcFind slice (line / 4) with
  | none => e
  | some w =>
    let u := e.sliceNum slice
    match e.eccRead 5 u (hdcTagWord w.set w.way) false with
    | (e, true) => (e.eccWrite 5 u (hdcTagWord w.set w.way)).hdcTagLost w
    | (e, false) =>
      let k := line % 4
      if !(nth false w.lv k) then e
      else
        let (e, bad) := (List.range 4).foldl (fun (a : Eng × Bool) c =>
          let (e, b) := a.1.eccRead 4 u (hdcDataWord w.set w.way k c) false
          (e, a.2 || b)) (e, false)
        if bad then ((List.range 4).foldl (fun e c => e.eccWrite 4 u (hdcDataWord w.set w.way k c)) e).hdcDataLost w k else e

/-! ## Opening a context -/

/-- A slice refuses a request with reason 0x8, in the form of Table 03.2, here or to the node that forwarded it (R69, R70, R89, R225). -/
def Eng.refuse8 (e : Eng) (x : Ctx) : Eng :=
  let r := x.req
  let e := e.refuse 8 r.op.kind r.opc r.caid r.port r.line
  let e := if x.reqGone then e.freeSlots r.gid
    else if r.remote.isSome then e.refusedFwd x.slice r
    else e.refusedForm (e.portOf x.slice) r (occBand (e.occ x.slice))
  e.retire x

/-- Groups of the CAIDs that are Bound to a pool (R282). -/
def Eng.boundGroups (e : Eng) (p : Nat) : Nat :=
  (e.caidList.filter fun c => e.caidSt c == 1 && bit (e.obj CAID_POOLS c) p).foldl (fun g c => setBit g (grp c)) 0

/-- The state a lookup finds, with the spare code of R90 and the presumptions of R282 applied. -/
def Eng.foundSt (e : Eng) (x : Ctx) (p : Nat) : Eng × LSt :=
  let line := x.req.line
  match e.lineSt x.slice line with
  | .spare =>
    let e := e.protoErr x.slice 4 x.req.op.kind x.req.opc x.req.caid 7 line
    ((e.setLine x.slice line .P).1, .P)
  | .I => if e.adopted line then (e, .SC (e.boundGroups p)) else (e, .I)
  | .X c =>
    if e.adopted line && e.caidSt c != 1 then (((e.setLine x.slice line .P).1).inc MIR_ADOPT_POISONED, .P) else (e, .X c)
  | s => (e, s)

/-- A line in H goes to I with its HDC copy kept (R94, R202); `low` where a host request moves it (R201). -/
def Eng.leaveH (e : Eng) (slice line : Nat) (low : Bool) : Eng :=
  let e := (e.setLine slice line .I).1
  let e := e.hLeave slice line
  if low then e.predLower slice line else e

/-- The HDC probe of an opening context (R190, R104): its data is held. -/
def Eng.probe (e : Eng) (x : Ctx) : Eng × Ctx :=
  let e := e.hdcBank x.slice 0
  match e.hdcProbe x.slice x.req.line with
  | some (d, dirty, buf) =>
    let e := (e.inc HDC_HITS).pm x.slice 0x14 1
    let e := if buf then e else e.hdcHit x.slice x.req.line
    (e, { x with got := d, gotBe := Be.full, fromHdc := true, hdcDirty := dirty, fl := setBit x.fl 5 })
  | none => (if e.hdcLive then e.inc HDC_MISSES else e, x)

/-- A read's probe runs while its fill is open, and its result is held (R28). -/
def Eng.earlyProbe (e : Eng) (x : Ctx) : Eng × Ctx :=
  if x.needFill && x.req.isRead then
    let (e, x) := e.probe x
    (e, { x with probed := true })
  else (e, x)

/-- Site of an AtomicOp on a line not in H or P, with its way reserved where the home is chosen (R200, R201). -/
def Eng.atomSite (e : Eng) (x : Ctx) : Eng × Ctx :=
  let line := x.req.line
  let (e, ctr) := e.predAtomic x.slice line
  let pol := e.ob ATOM_SITE_POLICY
  let home := e.ob HDC_STATUS == 1 && (pol == 1 || (pol != 2 && decide (2 ≤ ctr)))
  if !home then (e, { x with site := .memory })
  else match e.hdcAlloc x.slice line with
    | some e => (e.hdcResv x.slice line x.idx true, { x with site := .home })
    | none => (e.inc ATOM_HOME_FALLBACK, { x with site := .memory })

/-- Accesses a flow will need (Table 04.2, Table 05.1, R104, R105, R122, R124, R220). -/
def Eng.plan (e : Eng) (x : Ctx) : Eng × Ctx :=
  let r := x.req
  let after := x.otherOwner
  match r.op with
  | .memRd | .memRdData =>
    let (e, x) := if x.probed then (e, x) else e.probe x
    (e, { x with needRead := !x.fromHdc, readAfter := after })
  | .memInv | .memInvNT => (e, x)
  | .memWr | .memWrPtl =>
    let hit := (e.hdcProbe x.slice r.line).isSome
    let e := e.hdcBank x.slice 0
    (if hit then (e.inc HDC_HITS).pm x.slice 0x14 1 else if e.hdcLive then e.inc HDC_MISSES else e, { x with needWrite := true, fl := if hit then setBit x.fl 5 else x.fl })
  | .atomic =>
    if x.site = .home then
      let (e, x) := e.probe x
      (e, { x with needRead := !x.fromHdc, readAfter := (match x.start with | .X _ => true | _ => false) })
    else
      (e.inc ATOM_AT_MEMORY, { x with needUio := true,
                                       uioRd := (match x.tile with | some t => t.drift | none => false) })
  | .preload _ =>
    -- a copy in the eviction buffer supplies the data (R190)
    match e.hdcProbe x.slice r.line with
    | some (d, _, _) => (e, { x with got := d, gotBe := Be.full, fromHdc := true })
    | none => (e, { x with needRead := true })
  | .memSpecRd => (e, { x with needRead := true })
  | .prefetch => (e.hdcBank x.slice 2, { x with needRead := true })
  | .drift _ =>
    let e := e.hdcBank x.slice 3
    if x.start = .P then (e, x)
    else match e.hdcProbe x.slice r.line with
      | some (d, _, _) => (e, { x with got := d, gotBe := Be.full, fromHdc := true })
      | none => (e, { x with needRead := true })
  | .evict _ =>
    if x.start = .P then
      (e.inc DBS_POISON_HANDOFFS, { x with dup := some (mkAcc .wr .poison (e.ctxDpa x) Data.ones Be.full true) })
    else (e, x)
  | _ => (e, x)

/-- Writes of snooped CAIDs waiting in the per-line queue are taken as snoop writebacks (R110, R111). -/
def Eng.extract (e : Eng) (x : Ctx) (ts : List Nat) : Eng × Ctx × List Nat :=
  let mine := e.lineq.filter fun q => q.slice == x.slice && q.req.line == x.req.line && q.req.isWrite && ts.contains q.req.caid
  if mine.isEmpty then (e, x, ts)
  else
    let e := { e with lineq := e.lineq.filter fun (q : QEnt) => !(mine.any fun m => m.req.gid == q.req.gid) }
    let e := e.addObj WB_EXTRACTED 0 mine.length
    let done := (mine.filter fun q => q.req.row == 9).map fun q => q.req.caid
    let wbs : List Wb := mine.map fun q => { req := q.req, done := false }
    (e, { x with wbs := x.wbs ++ wbs, gone := x.gone ++ ascend done }, ts.filter fun c => !done.contains c)

/-- A context opens (R109, R376): its class may make it eligible for the sampler, which takes the g-th eligible opening. -/
def Eng.markOpen (e : Eng) (x : Ctx) : Eng × Ctx :=
  let x := { x with occ0 := e.occ x.slice, tc0 := e.code x }
  if e.ob PM_SMP_ENABLE = 0 ∨ e.foghorn ∨ e.obj PWR_DOMAIN_STATE 5 ≠ 0 ∨ !(bit (e.ob PM_SMP_CLASSES) x.req.cls) then (e, x)
  else
    let j := e.ob PM_SMP_JITTER
    let n := e.ob PM_SMP_INTERVAL
    let (g, e) := match kget 0 x.slice e.smpGap with
      | 0 => (n - (if j = 0 then 0 else 2 ^ (j - 1)) + (if j = 0 then 0 else Config.entropy e.fresh % 2 ^ j), { e with fresh := e.fresh + 1 })
      | g => (g, e)
    if g ≤ 1 then
      let q := kget 0 x.slice e.smpSeq
      ({ e with smpGap := kput x.slice 0 e.smpGap, smpSeq := kput x.slice ((q + 1) % 65536) e.smpSeq }, { x with smp := some q })
    else ({ e with smpGap := kput x.slice (g - 1) e.smpGap }, x)

/-- Open a context whose state is known: fix the targets, take waiting writebacks, start the round and the accesses
(R109, R110, R97, R105, R192). -/
def Eng.openOn0 (e : Eng) (x : Ctx) (p : Nat) : Eng :=
  let (ts, snp) := e.targets x.req x.start p
  if e.heldRound x.req.line ts then e.setCtx { x with phase := .held, fl := setBit x.fl 7 }
  else
    let (e, x) := if x.req.op = .atomic ∧ x.site = .none then e.atomSite x else (e, x)
    let (e, x, ts) := e.extract { x with snp := snp } ts
    let lost := ts.filter fun c => e.caidSt c == 3
    let ts := ts.filter fun c => e.caidSt c != 3
    let owner := match x.start with | .X o => lost.contains o | _ => false
    let x := { x with gone := x.gone ++ lost }
    let (e, x) := e.plan { x with phase := .opened, want := some ts, topen := e.ts, stampL := e.ts - x.req.t0 }
    let (e, x) := e.markOpen x
    let e := e.setCtx x
    let e := if owner then ((e.inc SWEEP_POISONED).enterT { x with want := none, tc := e.code x } none).advIdx x.slice x.idx else e.adv x
    match e.ctx x.slice x.idx with
    | some y => if y.phase == .opened && !y.tc.isTForm then e.slotWait y else e
    | none => e

/-- The tile-map side of a lookup: a hit gives the entry, a miss starts a walk. -/
def Eng.lookTile (e : Eng) (x : Ctx) : Eng × Ctx :=
  match e.tcFind x.slice x.tileI with
  | some t => ((e.tcTouch t).heatAdd x.slice x.tileI (e.heatWeight x.req), { x with tile := some t.ent })
  | none => (e.startWalk x.slice x.tileI, { x with needWalk := true })

/-- The directory side of a lookup: hit, fill, or the set-conflict queue. -/
def Eng.lookDir (e : Eng) (x : Ctx) (waited : Bool) : Eng × Ctx :=
  let sector := x.req.line / 4
  let psn := e.psn x.req.line
  let set := sfaSet e.sfKey psn
  let e := e.sfaCheck x.slice sector
  let fl := if (e.sfaFind x.slice sector).isSome then setBit x.fl 2 else if (e.spillFind x.slice sector).isSome then setBit x.fl 3 else x.fl
  match e.dirLookup x.slice sector psn waited with
  | (e, .ready) => (e, { x with needFill := false, phase := .fetch, fl := fl })
  | (e, .filling) =>
    let e := e.startFills
    let rd := e.fills.any fun f => f.slice == x.slice && f.sector == sector && decide (f.res = .reading)
    (e, { x with needFill := true, phase := .fetch, fl := if rd then setBit x.fl 4 else x.fl })
  | (e, .noWay) =>
    if waited then (e, { x with needFill := true, phase := .waitSet })
    else
      let e := ((e.inc SF_CONFLICT_WAITS).pm x.slice 0x1A 1).pressureUp x.slice set
      ({ e with waiters := e.waiters ++ [({ slice := x.slice, set := set, sector := sector, psn := psn, ctx := some x.idx } : Waiter)] },
       { x with needFill := true, phase := .waitSet })

/-- Lines a training miss prefetches, and their fills (R192). -/
def Eng.prefetch (e : Eng) (x : Ctx) (p : Nat) : Eng :=
  let base := x.req.line - (x.req.line - e.poolBase p) % 32768
  let o := x.req.line - base
  let (e, cand) := e.streamRead x.slice x.req.caid x.tileI o
  let step (acc : Eng × Nat) (c : Nat) : Eng × Nat :=
    let (e, n) := acc
    let line := base + c
    let okSt := match e.lineSt x.slice line with | .I | .S1 _ | .S2 _ _ | .SC _ => true | _ => false
    let ok := decide (n < e.ob HDC_PF_DEGREE) && e.owner line == x.slice && okSt && (e.hdcProbe x.slice line).isNone
      && (e.lineCtx line).isNone && !(e.lineq.any fun q => q.req.line == line)
      && decide (e.egressFifo x.slice ≤ 32)
    if !ok then (e, n)
    else match e.shareFor x.slice 7, e.pick ((List.range 8192).filter fun i => e.idxFree x.slice i) with
      | some sh, some (idx, e) =>
        let y := { mkCtx e x.slice idx sh (intReq e .prefetch 0 0 line) x.tileI with tile := x.tile }
        let e := { e.inc HDC_PF_ISSUED with ctxs := e.ctxs ++ [y], fresh := e.fresh + 1 }
        let (e, y) := e.lookDir y false
        (if y.needFill then e.setCtx y else e.openOn0 { y with start := e.lineSt x.slice line } p, n + 1)
      | _, _ => (e, n)
  (cand.foldl step (e, 0)).1

/-- Open a context whose state is known; a read miss of rows 1, 2 and 4 trains the stream (R192). -/
def Eng.openOn (e : Eng) (x : Ctx) (p : Nat) : Eng :=
  let trains := (x.req.op matches .memRd | .memRdData) && x.req.row != 3 && (e.hdcProbe x.slice x.req.line).isNone
    && !e.heldRound x.req.line (e.targets x.req x.start p).1
  let e := e.openOn0 x p
  if trains && e.ob HDC_PF_ENABLE == 1 && e.ob HDC_STATUS == 1 then e.prefetch x p else e

/-- The context drops its hint, fill or visit: nothing changes. -/
def Eng.dropCtx (e : Eng) (x : Ctx) : Eng :=
  let e := (e.freeSlots x.req.gid).retire x
  match x.req.op with
  | .memSpecRd => e.inc SPEC_RD_DROPPED
  | .preload _ => e.inc HDC_PRELOAD_SKIPPED
  | .visit _ _ => e.visitDone x.req.sweep false
  | .evict page => e.evictDone page x.req.line false
  | _ => e

/-- The pool field of a request's tile-map entry differs from the pool of its address: the entry counts as uncorrectable, leaves the tile
cache, and its page is read whole and decoded while the request waits (R77, R304). -/
def Eng.wrongPool (e : Eng) (x : Ctx) (p : Nat) : Eng :=
  let i := x.tileI
  let page := i / 256
  let e := (e.uncorrectable 0xA (pageCh page) (e.tileAddr page (i % 256 / 4) * 64 + i % 4 * 16) 0).tileInval i
  let e := e.setCtx { x with needWalk := true, phase := .fetch }
  if e.walks.any fun w => w.slice == x.slice && w.i == i then e
  else
    let w : Walk := { slice := x.slice, i := i, seq := some e.fresh, res := none, pool := some p }
    Eng.newSeq { e with walks := e.walks ++ [w] } (.walkDecode x.slice i) (pageCh page) 1 (some (tileLock page)) [rds (e.wholeTile page)]

/-- A context opens: the cell of Table 05.3 for the state found (R109, R112). A preload's line in no pool is dropped as skipped: R191 names
no such line (DESIGN CHOICE, log entry 55). -/
def Eng.openCtx (e : Eng) (x : Ctx) : Eng :=
  let r := x.req
  match e.poolOf r.line with
  | none => if r.cls = 7 then e.dropCtx x else e.refuse8 x
  | some p =>
    let tv := match x.tile with | some t => t.valid | none => false
    let tp := match x.tile with | some t => t.pool == p | none => false
    if r.cls ≠ 7 ∧ !tv then e.refuse8 x
    else if r.cls ≠ 7 ∧ !tp then e.wrongPool x p
    else
      let (e, st) := (e.hdcCheck x.slice r.line).foundSt x p
      match r.op with
      | .memRd | .memRdData | .memInv | .memInvNT | .memClnEvct =>
        match st with
        | .P => (e.pAnswer x.slice r x.tile).retire x
        | .H => (e.leaveH x.slice r.line true).openOn { x with start := .I } p
        | s => e.openOn { x with start := s } p
      | .memWr | .memWrPtl =>
        match st with
        | .H => (e.leaveH x.slice r.line true).openOn { x with start := .I } p
        | s => e.openOn { x with start := s } p
      | .memSpecRd =>
        match st with
        | .I | .S1 _ | .S2 _ _ | .SC _ =>
          if e.ob SPEC_RD_FILL == 1 && !e.isH32 && (e.hdcProbe x.slice r.line).isNone then e.openOn { x with start := st } p
          else e.dropCtx x
        | _ => e.dropCtx x
      | .atomic =>
        match st with
        | .P => (e.pAnswer x.slice r x.tile).retire x
        | .H =>
          let e := (e.predAtomic x.slice r.line).1
          -- a line in H without a copy needs a way, which none gives while allocation has stopped (R195, R196)
          match (if e.hdcHas x.slice r.line then some e else if e.hdcAllocs then e.hdcAlloc x.slice r.line else none) with
          | some e => (e.hdcResv x.slice r.line x.idx true).openOn { x with start := .H, site := .home } p
          | none => ((e.leaveH x.slice r.line false).inc ATOM_HOME_FALLBACK).openOn { x with start := .I, site := .memory } p
        | s => e.openOn { x with start := s } p
      | .prefetch | .preload _ =>
        match st with
        | .X _ | .P | .H => e.dropCtx x
        | s =>
          -- a preload of a line whose tile is not placed is skipped: R191 names no such line (DESIGN CHOICE, log entry 55)
          if (r.op matches .preload _) && (!tv || !tp) then e.dropCtx x
          else if e.hdcHas x.slice r.line ∨ (r.op = .prefetch ∧ (e.hdcProbe x.slice r.line).isSome) then
            let e := (e.retire x).freeSlots r.gid
            if r.op = .preload true then e.updHdc x.slice (r.line / 4) fun w => { w with lock := true } else e
          else if (r.op matches .preload _) && e.preloadFull r.line then e.dropCtx x
          else e.openOn { x with start := s } p
      | .visit c _ =>
        let named := decide (st.ptrs.contains c) || (st.groups.contains (grp c))
        if named && !e.mirrorsLine r.line then e.openOn { x with start := st } p
        else
          let e := e.dropCtx x
          if e.remoor.role = .releasing ∧ e.remoor.committed.contains (r.line / 4) then
            e.event 0x0B (evArgs [(0, e.remoor.unit), (2, e.remoor.step), (3, c)])
          else e
      | .remoor =>
        let e := if st = .H then e.leaveH x.slice r.line false else e
        let e := match e.hdcFind x.slice (r.line / 4) with
          | some w =>
            if nth false w.lv (r.line % 4) && nth false w.ld (r.line % 4) then
              let v : EvLine := { slice := x.slice, line := r.line, data := nth 0 w.d (r.line % 4), inBuf := true, ctx := none }
              Eng.hdcRemove { e with evb := e.evb ++ [v] } x.slice r.line
            else e
          | none => e
        let x := { x with start := if st = .H then .I else st, phase := .opened, tc := .mrF, topen := e.ts }
        let (e, x) := e.markOpen x
        ((e.setCtx x).startWbacks).remoorCheck x
      | _ => e.openOn { x with start := st } p

/-- Open the context once its sector and its tile-map entry are there (R28, R78). -/
def Eng.tryOpen (e : Eng) (x : Ctx) : Eng :=
  if x.needFill || x.needWalk then e.setCtx x else e.openCtx x

/-! ## Lookup (R170, R28, R78, R138, R140) -/

/-- Allocate a context for a request and run its lookup. -/
def Eng.lookup (e : Eng) (slice idx : Nat) (sh : Share) (r : Req) : Eng :=
  let i := match e.poolOf r.line with | some p => e.tileIdx p r.line | none => 0
  let x := mkCtx e slice idx sh r i
  let e := (Eng.pm { e with ctxs := e.ctxs ++ [x] } slice 0x10 1).pm slice 0x1F (if r.cls = 7 then 1 else 0)
  let (e, x) := e.lookTile x
  let (e, x) := e.lookDir x false
  let (e, x) := e.earlyProbe x
  e.tryOpen x

/-- A line's sector is being evicted (R151), or moved by a transfer operation whose context is on another line. -/
def Eng.evicting (e : Eng) (slice sector : Nat) : Bool := e.evicts.any fun v => v.slice == slice && v.sector == sector

/-- A handoff holds the lookups of a bucket: at A in steps 1 to 4, at B until DONE (R229). -/
def Eng.bucketHeld (e : Eng) (line : Nat) : Bool :=
  match e.handoff with
  | some h => h.bucket == bucketOf line
  | none => false

/-- A swap of the line's unit holds its requests at the heads of their queues (R285 steps 1 and 2). -/
def Eng.swapHeld (e : Eng) (line : Nat) : Bool :=
  match e.mswap with
  | some w => (match w.st with | .forward _ => false | _ => true) && e.lineUnit line == some w.unit
  | none => false

/-- A swap forwards the line's requests (R285 step 4). -/
def Eng.swapGone (e : Eng) (line : Nat) : Bool :=
  match e.mswap with
  | some w => (match w.st with | .forward _ => true | _ => false) && e.lineUnit line == some w.unit
  | none => false

/-- A request of the line is forwarded under R225 and runs no lookup here: its sector lies below the cursor, and no transfer operation of
the sector still waits to open, so that N has the sector first (R226); a stranded unit keeps the sectors not moved
(Table 09.5). -/
def Eng.goesToN (e : Eng) (slice line : Nat) : Bool :=
  e.swapGone line ||
  match e.lineUnit line with
  | none => false
  | some u => e.remoor.role == .releasing && e.remoor.unit == u
      && !(e.lineq.any fun q => q.slice == slice && q.req.op == .remoor && q.req.line / 4 == line / 4)
      && (e.remoor.step == 3 || e.remoor.step == 4 || (e.remoor.step == 2 && decide (line / 4 < kget 0 slice e.remoor.cursors))
        || (e.remoor.step == 5 && decide (line / 4 < kget 0 slice e.remoor.cursors) && !(e.remoor.sent.contains (line / 4))))

/-- The entry is at the head of its per-line queue and nothing but a context holds it (R170, R102, R229, R151, R75). -/
def Eng.ready (e : Eng) (q : QEnt) : Bool :=
  let line := q.req.line
  (match e.lineq.find? fun p => p.slice == q.slice && p.req.line == line with | some h => h.req.gid == q.req.gid | none => false)
    && (e.lineCtx line).isNone && !e.evicting q.slice (line / 4) && !e.bucketHeld line
    && !(q.req.cls != 7 && (e.goesToN q.slice line || e.swapHeld line))
    && (match q.req.op with
        | .remoor => (List.range 4).all fun k =>
            (e.lineCtx (line / 4 * 4 + k)).isNone
              && (match e.lineq.find? fun p => p.slice == q.slice && p.req.line == line / 4 * 4 + k with
                  | some h => h.req.op == .remoor | none => true)
        | _ => true)

/-- Waiters of a slice's set-conflict queue with the lookups that may join it (R140). -/
def Eng.waiting (e : Eng) (slice : Nat) : Nat := (e.waiters.filter fun w => w.slice == slice).length

/-- A slice runs lookups: its HDC clear has ended, and it is not stopped (R186, R61). -/
def Eng.looksUp (e : Eng) (slice : Nat) : Bool :=
  e.ob HDC_INIT_DONE == 1 && !e.foghorn && e.sliceList.contains slice && decide (e.waiting slice + e.offN 0xC slice 1 < 64)

/-- Open the transfer operation of a sector that heads all four of its lines' queues: four contexts of the internal share
and one directory lookup (R224). Nothing where they cannot all be had. -/
def Eng.remoorOpen (e : Eng) (slice sector : Nat) : Eng :=
  let mine := e.lineq.filter fun q => q.slice == slice && q.req.line / 4 == sector && q.req.op == .remoor
  if mine.length ≠ 4 ∨ !(mine.all fun q => e.ready q) ∨ !e.looksUp slice then e
  else
    let step (acc : Option (Eng × List Ctx)) (q : QEnt) : Option (Eng × List Ctx) :=
      match acc with
      | none => none
      | some (e, xs) =>
        match e.shareFor slice 7, e.pick ((List.range 8192).filter fun i => e.idxFree slice i) with
        | some sh, some (idx, e) =>
          let x := mkCtx e slice idx sh q.req (match e.poolOf q.req.line with | some p => e.tileIdx p q.req.line | none => 0)
          some ({ e with ctxs := e.ctxs ++ [x] }, xs ++ [x])
        | _, _ => none
    match mine.foldl step (some (e, [])) with
    | none => e
    | some (e, xs) =>
      let e := { e with lineq := e.lineq.filter fun (q : QEnt) => !(q.slice == slice && q.req.line / 4 == sector && q.req.op == .remoor) }
      match xs with
      | [] => e
      | x :: rest =>
        let (e, x') := e.lookDir x false
        let e := rest.foldl (fun e y => e.setCtx { y with needFill := x'.needFill }) e
        if x'.needFill then e.setCtx x'
        else (x :: rest).foldl (fun e y => match e.ctx y.slice y.idx with | some y => e.openCtx { y with needFill := false } | none => e) (e.setCtx x')

/-- Entries of a slice that head their queues and that nothing but a context or a way may hold, in the order of their grants (R170). -/
def Eng.lineHeads (e : Eng) (slice : Nat) : List QEnt := e.lineq.filter fun q => q.slice == slice && e.ready q

/-- A context of its share is free for a head; four of them for a transfer operation, which opens on four lines (R164, R224). -/
def Eng.hasCtx (e : Eng) (slice : Nat) (r : Req) : Bool :=
  if r.op = .remoor then decide (e.shareUsed slice .int + 4 ≤ e.eff slice WATCH_MIN_INT 0) else (e.shareFor slice r.cls).isSome

/-- The oldest head of a slice that may issue, of class 7 or of the others (R170, R164). -/
def Eng.head (e : Eng) (slice : Nat) (int : Bool) : Option QEnt :=
  (e.lineHeads slice).find? fun q => (q.req.cls == 7) == int && e.hasCtx slice q.req

/-- Internal work is pending at a slice: a class 7 head, a DBS install, or an entry of sub-queue 0x13 or 0x14, which a slice's control
port serves (R32, R169). -/
def Eng.internalWork (e : Eng) (slice : Nat) : Bool :=
  (e.head slice true).isSome || (e.fills.any fun f => f.slice == slice && decide (f.res ≠ .reading)) || e.stageN slice 3 != 0

/-- An issue slot of internal work: 3 of every 128 (R32). Which ones is the model's choice: the last three (DESIGN CHOICE, log entry 57). -/
def internalSlot (n : Nat) : Bool := decide (125 ≤ n % 128)

/-- The slot of the cycle is used, and counted while internal work is pending (R32). -/
def Eng.useSlot (e : Eng) (slice : Nat) : Eng :=
  if e.internalWork slice then { e with islots := kput slice ((kget 0 slice e.islots + 1) % 128) e.islots } else e

/-- The head that the cycle's slot issues: in an internal slot the oldest of class 7, in the others the oldest of the hosts, and one of
class 7 where no host's may issue (R32, R170). -/
def Eng.issueHead (e : Eng) (slice : Nat) : Option QEnt :=
  if internalSlot (kget 0 slice e.islots) && e.internalWork slice then e.head slice true
  else match e.head slice false with
    | some q => some q
    | none => e.head slice true

/-- A ready head waited in the cycle because no context of its share was free (R165). -/
def Eng.countStall (e : Eng) (slice : Nat) : Eng :=
  if (e.lineHeads slice).any fun q => !(e.hasCtx slice q.req) then (e.inc WATCH_FULL_STALLS).pm slice 0x19 1 else e

/-- A head issues with a context index; a transfer operation takes its own four (R170, R164, R224). -/
def Eng.issueOne (e : Eng) (slice idx : Nat) (q : QEnt) : Eng :=
  if q.req.op = .remoor then e.remoorOpen slice (q.req.line / 4)
  else match e.shareFor slice q.req.cls with
    | none => e
    | some sh =>
      if e.idxFree slice idx then
        Eng.lookup { e with lineq := e.lineq.filter fun (p : QEnt) => p.req.gid != q.req.gid } slice idx sh q.req
      else e

/-- One SLCLK cycle of the lookup scheduler: the cycle's slot issues its head (R170, R32), and the cycle is counted where a ready head found no
context (R165). -/
def Eng.lookupIssue (e : Eng) (slice idx : Nat) : Eng :=
  if !e.looksUp slice then e
  else
    let q := e.issueHead slice
    let e := (e.countStall slice).useSlot slice
    match q with
    | none => e
    | some q => e.issueOne slice idx q

/-- A slice's oldest class 7 head is a sweep's visit. -/
def Eng.visitNext (e : Eng) (slice : Nat) : Bool :=
  match e.head slice true with
  | some q => (match q.req.op with | .visit _ _ => true | _ => false)
  | none => false

/-- A class 7 visit takes a context and acts on its line (R154), in an issue slot of internal work (R32). -/
def Eng.sweepVisit (e : Eng) (slice idx : Nat) : Eng :=
  if !e.looksUp slice ∨ !e.visitNext slice then e
  else match e.head slice true with
    | some q => e.issueOne slice idx q
    | none => e

/-! ## Grants (R169, R125, R102, R110) -/

/-- Duplicate key of R125. -/
def sameKey (a b : Req) : Bool :=
  a.caid == b.caid && a.tag == b.tag && a.line == b.line && a.op == b.op && (a.op != .atomic || a.row == b.row)

/-- A copy matches a waiting entry, the open context's request, one of its writebacks, or a forwarded request (R125, R225). -/
def Eng.isDup (e : Eng) (slice : Nat) (r : Req) : Bool :=
  (e.lineq.any fun q => q.slice == slice && sameKey q.req r)
    || (match e.lineCtx r.line with | some x => (x.slice == slice && sameKey x.req r) || (x.wbs.any fun w => sameKey w.req r) | none => false)
    || (e.fwds.any fun f => f.slice == slice && sameKey f.req r)

/-- The line's context is snooping a CAID (R109, R102; Table 05.3 column "writer snooped"). -/
def Eng.snooping (e : Eng) (x : Ctx) (c : Nat) : Bool :=
  x.phase == .opened && ((e.bitsSet x).any (fun t => t.caid == c) || (match x.want with | some ts => ts.contains c | none => false))

/-- Line anchors of a slice in use (R169). -/
def Eng.anchors (e : Eng) (slice : Nat) : Nat :=
  (ascend (((e.lineq.filter fun q => q.slice == slice).map fun q => q.req.line)
    ++ ((e.ctxs.filter fun x => x.slice == slice && !x.req.op.isWback).map fun x => x.req.line))).length

/-- A line has an anchor. -/
def Eng.anchored (e : Eng) (slice line : Nat) : Bool :=
  (e.lineq.any fun q => q.slice == slice && q.req.line == line) || (e.lineCtx line).isSome

/-- Forward a request to N under R225: it keeps its slots here. -/
def Eng.forward (e : Eng) (slice : Nat) (r : Req) : Eng :=
  let id := e.fresh
  let (peer, mc) := match e.mswap with
    | some w => if e.lineUnit r.line = some w.unit then (w.peer, r.caid) else (e.remoor.peer, e.obj REMOOR_CAID_MAP r.caid)
    | none => (e.remoor.peer, e.obj REMOOR_CAID_MAP r.caid)
  let e := e.inc REMOOR_FORWARDED
  let e := { e with fresh := id + 1,
                    fwds := e.fwds ++ [({ id := id, slice := slice, req := r, mcaid := mc, ends := e.ts + e.ob REMOOR_FWD_TIMEOUT * 1000 } : Fwd)] }
  e.hsend 0x1B peer 0 (some { r with caid := mc }) none none

/-- Forward every waiting request that R225 forwards. -/
def Eng.forwardReady (e : Eng) : Eng :=
  let mine := e.lineq.filter fun q => q.req.cls != 7 && e.goesToN q.slice q.req.line && (e.lineCtx q.req.line).isNone
  mine.foldl (fun e q => e.forward q.slice q.req) { e with lineq := e.lineq.filter fun (q : QEnt) => !(mine.any fun m => m.req.gid == q.req.gid) }

/-- An AtomicOp copy is answered from the echo table, whose entry keeps the time of the original completion (R127). -/
def Eng.echoAnswer (e : Eng) (slice : Nat) (r : Req) (h : Echo) : Eng :=
  let e := (e.inc ECHO_HITS).freeData r.gid
  let (e, o) := e.answerUio slice r h.status h.result
  { e with outq := e.outq.map fun (p : OEnt) => if o != 0 && p.id == o then { p with src := none } else p }

/-- Lease requests outstanding at a slice (R204). -/
def Eng.leaseOut (e : Eng) (slice : Nat) : Nat := (e.leaseReqs.filter fun l => l.slice == slice).length

/-- A line lies in the lease window (R204). -/
def Eng.inLeases (e : Eng) (line : Nat) : Bool :=
  e.ob LEASE_ENABLE == 1 && decide (e.ob LEASE_BASE / 64 ≤ line) && decide (line < e.ob LEASE_BASE / 64 + 4096)

/-- A granted lease command: duplicates, the echo table, then on its way to stop 44 (R204). -/
def Eng.grantLease (e : Eng) (q : QEnt) : Eng :=
  let r := q.req
  if e.leaseReqs.any fun l => l.slice == q.slice && sameKey l.req r then (e.freeSlots r.gid).inc DUP_ABSORBED
  else match e.echoHit q.slice r with
    | some h => e.echoAnswer q.slice r h
    | none => { e.galSend .lease 6 q.slice 44 with leaseReqs := e.leaseReqs ++ [({ slice := q.slice, req := r, delta := none, status := 8, result := 0 } : LeaseReq)] }

/-- One granted entry: the duplicate comparison, the echo table, the writeback of an open context, a `MemSpecRd`, or the
per-line queue (R125, R126, R102, R87, R169). -/
def Eng.grantEntry (e : Eng) (q : QEnt) : Eng :=
  let r := q.req
  let e := { e with qf := e.qf.filter fun (p : QEnt) => p.req.gid != r.gid }
  if r.cls = 7 then { e with lineq := e.lineq ++ [q] }
  else if r.op = .atomic ∧ e.inLeases r.line then e.grantLease q
  else if e.owner r.line != q.slice then
    -- a bucket that moved on: the entry goes to its owner over the Gallery (R229)
    ((e.freeSlots r.gid).galSend .handoff r.cls q.slice (e.owner r.line)).galArrive (laneOf r.cls) (e.owner r.line) (some r) |>.pump
  else if e.isDup q.slice r then (e.freeSlots r.gid).inc DUP_ABSORBED
  else
    match (if r.op = .atomic then e.echoHit q.slice r else none) with
    | some h => e.echoAnswer q.slice r h
    | none =>
      if e.goesToN q.slice r.line && (e.lineCtx r.line).isNone then e.forward q.slice r
      else
        match e.lineCtx r.line with
        | some x =>
          if r.isWrite && e.snooping x r.caid then
            let x := { x with wbs := x.wbs ++ [({ req := r, done := false } : Wb)] }
            if x.tc.isTForm then (e.setCtx x).adv x else (e.putCtx x).adv x
          else if r.op = .memSpecRd then (e.freeSlots r.gid).inc SPEC_RD_DROPPED
          else Eng.pm { e with lineq := e.lineq ++ [q] } q.slice 0x1D (b2n (x.phase == .opened))
        | none =>
          if r.op = .memSpecRd ∧ ((e.lineq.any fun p => p.req.line == r.line) ∨ (e.shareFor q.slice 0).isNone
              ∨ e.isH32 ∨ e.ob SPEC_RD_FILL = 0) then (e.freeSlots r.gid).inc SPEC_RD_DROPPED
          else { e with lineq := e.lineq ++ [q] }

/-- Class of a queue as the slice arbiter numbers its requesters (Table 07.7). -/
def clsIdx (k : Nat) : Nat := if k = 6 then 2 else if k = 7 then 3 else k

/-- Queue heads of a slice that assert to its arbiter (R169): the oldest entry of each queue, with an anchor to be had; in
Brace only class 7. -/
def Eng.asserting (e : Eng) (slice : Nat) : List QEnt :=
  let full := decide (8192 ≤ e.anchors slice)
  (e.qf.filter fun q => q.slice == slice
    && (match e.qf.find? fun p => p.slice == slice && p.req.cls == q.req.cls && p.req.v == q.req.v with
        | some h => h.req.gid == q.req.gid | none => false)
    && (!(e.brace || e.ob MIR_STATE == 4 || e.ob PWR_BLOCK_STATE != 0) || q.req.cls == 7) && !e.foghorn && !(full && !e.anchored slice q.req.line)
    && !(q.req.op == .atomic && e.inLeases q.req.line && decide (64 ≤ e.leaseOut slice)))

/-- One run of the slice arbiter, at class level and at queue level (R179), without a queue that won before. -/
def Eng.grantOne (e : Eng) (slice : Nat) (skip : Option (Nat × Nat)) : Eng × Option (Nat × Nat) :=
  let as_ := (e.asserting slice).filter fun q => some (q.req.cls, q.req.v) != skip
  match e.arbitrate 0 slice (fun _ => 0) (ascend (as_.map fun q => clsIdx q.req.cls)) with
  | none => (e, none)
  | some (k, e) =>
    let mine := as_.filter fun q => clsIdx q.req.cls == k
    let cls := match mine with | q :: _ => q.req.cls | [] => 0
    match e.arbitrate 1 (slice * 8 + cls) (fun v => e.obj (QF_WEIGHT + cls) v) (ascend (mine.map fun q => q.req.v)) with
    | none => (e, none)
    | some (v, e) =>
      match mine.find? fun q => q.req.v == v with
      | some q => (e.grantEntry q, some (cls, v))
      | none => (e, none)

/-- One SLCLK cycle of the slice arbiter: up to two grants, the second without the first winner's queue (R169). -/
def Eng.sliceGrant (e : Eng) (slice : Nat) : Eng :=
  let e := e.pump
  let (e, w) := e.grantOne slice none
  match w with
  | none => e
  | some w => (e.grantOne slice (some w)).1.pump

/-! ## Resumption of waiting lookups -/

/-- Install a received sector with `dirty` 1 and `dbs` 0, replacing an installed copy; none where its set has no way
(R226). -/
def Eng.installSector (e : Eng) (sector : Nat) (l : List LSt) : Option Eng :=
  let slice := e.owner (sector * 4)
  let cnt (e : Eng) : Eng := l.foldl (fun e s => e.count s) e
  match e.sfaFind slice sector with
  | some w =>
    let e := w.l.foldl (fun e s => e.uncount s) e
    some (cnt { e with sfa := updFirst (fun (v : SfaWay) => v.slice == w.slice && v.set == w.set && v.way == w.way) (fun v => { v with l := l, dirty := true }) e.sfa })
  | none =>
    let psn := e.psn (sector * 4)
    let set := sfaSet e.sfKey psn
    match e.pickWay slice set with
    | none => none
    | some (way, old) =>
      let rank := match old with | some w => w.rank | none => 15
      let e := match old with | some w => e.spillOut w | none => e
      some (cnt (e.install slice sector psn set way rank l false true 0))

/-- A SECTOR may act: its owning slice has a class 7 header slot and data slot for it, and its lines have neither an open context nor an
entry before it (R173, R226). Both slots free again as it installs. -/
def Eng.sectorMay (e : Eng) (sector : Nat) : Bool :=
  let s := e.owner (sector * 4)
  (e.takeSlot s 7 0 e.fresh false).isSome && (e.takeSlot s 7 0 e.fresh true).isSome
    && (List.range 4).all fun k => (e.lineCtx (sector * 4 + k)).isNone && !(e.lineq.any fun q => q.slice == s && q.req.line == sector * 4 + k)

/-- The oldest waiter of a set repeats victim selection (R140). -/
def Eng.setRetry (e : Eng) (slice set : Nat) : Eng :=
  match e.waiters.find? fun w => w.slice == slice && w.set == set with
  | none => e
  | some w =>
    if e.evicting slice w.sector then e else
    let rest := e.waiters.filter fun v => !(v.slice == slice && v.set == set && v.sector == w.sector && v.ctx == w.ctx)
    match w.ctx with
    | some idx =>
      match e.ctx slice idx with
      | none => { e with waiters := rest }
      | some x =>
        let (e1, x1) := e.lookDir x true
        if x1.phase = .waitSet then e else (Eng.tryOpen { e1 with waiters := rest } x1)
    | none =>
      match e.installs.find? fun p => p.1 == w.sector with
      | some p =>
        match (if e.sectorMay p.1 then e.installSector p.1 p.2.1 else none) with
        | some e1 => { (e1.hsend 0x15 p.2.2.1 p.1 none none (some p.2.2.2)) with waiters := rest, installs := e1.installs.filter (fun (q : Nat × List LSt × Nat × Nat) => q.1 != p.1) }
        | none => e
      | none =>
        match e.dirLookup slice w.sector w.psn true with
        | (_, .noWay) => e
        | (e1, _) => Eng.startFills { e1 with waiters := rest }

/-- The entry of an ended walk is installed, and its waiters go on (R78). -/
def Eng.walkTaken (e : Eng) (slice i : Nat) (t : Tent) : Eng :=
  let e := Eng.tcInstall { e with walks := e.walks.filter fun (v : Walk) => !(v.slice == slice && v.i == i) } slice i t
  (e.ctxs.filter fun x => x.slice == slice && x.tileI == i && x.needWalk).foldl (fun e x =>
    match e.ctx x.slice x.idx with
    | some x => (e.heatAdd slice i (e.heatWeight x.req)).tryOpen { x with needWalk := false, tile := some t }
    | none => e) e

/-- A walk has ended (R78). One whose entry has changed since it read it delivers the entry after the change (R79). -/
def Eng.walkComplete (e : Eng) (slice i : Nat) : Eng :=
  match e.walks.find? fun w => w.slice == slice && w.i == i with
  | none => e
  | some w =>
    match w.res with
    | none => e
    | some r => e.walkTaken slice i (if w.stale then e.tent i else r.getD tent0)

/-- The sector of an ended fill is installed, and the requests waiting for it go on (R120, R143). Heads of the mirror's deltas and
of the idle move of R202 wait without a context. -/
def Eng.fillTaken (e : Eng) (f : Fill) : Eng :=
  (e.ctxs.filter fun x => x.slice == f.slice && x.req.line / 4 == f.sector && x.needFill && decide (x.phase = .fetch)).foldl (fun e x =>
    match e.ctx x.slice x.idx with
    | some x => e.tryOpen { x with needFill := false }
    | none => e) (e.fillInstall f)

/-- A fill completes (R143). -/
def Eng.fillComplete (e : Eng) (slice sector : Nat) : Eng :=
  match e.fills.find? fun f => f.slice == slice && f.sector == sector with
  | none => e
  | some f => if f.res = .reading then e else e.fillTaken f

/-- A context held by R103 opens, and a `_T` round that R103 held is sent, once the window has passed (R109, R113). -/
def Eng.holdEnd (e : Eng) (slice idx : Nat) : Eng :=
  match e.ctx slice idx with
  | none => e
  | some x => if x.phase = .held then e.openCtx x else if x.phase = .opened then e.adv x else e

end Sys2Proof.Machine
end

