-- ==== Sys2Proof/Machine/Ingress.lean ====
section
/-! DEFINITION. Sys2Proof/Machine/Ingress.lean: the ingress sorters: taking a beat, its check bits, the checks of R69, the
interpretation of requests, unsupported forms, and the class 2 messages (chapters 02, 03 and 04 of spec/). -/
namespace Sys2Proof.Machine
open Ob

/-! ## Interpretation (Table 04.2) -/

/-- Row of a `MemRd` (`d` false) or `MemRdData`, 0 where none matches. -/
def rowRd (d : Bool) (m : Meta) : Nat :=
  match m.snp, m.mf, m.mv with
  | .data, .meta0, .a => 1
  | .data, .noOp, _ => if d then 1 else 0
  | .data, .meta0, .s => 2
  | .inv, .meta0, .a => if d then 0 else 3
  | .cur, .meta0, .i => 4
  | .cur, .noOp, _ => 4
  | .noOp, .meta0, .i => 4
  | .noOp, .noOp, _ => 4
  | _, _, _ => 0

/-- Row of a `MemInv` or `MemInvNT`. -/
def rowInv (m : Meta) : Nat :=
  match m.snp, m.mf, m.mv with
  | .inv, .meta0, .a => 5
  | .noOp, .meta0, .i => 6
  | _, _, _ => 0

/-- Row of a `MemClnEvct`. -/
def rowCln (m : Meta) : Nat :=
  match m.snp, m.mf, m.mv with
  | .noOp, .meta0, .i => 7
  | .noOp, .noOp, _ => 7
  | _, _, _ => 0

/-- Row of a `MemWr` or `MemWrPtl`. -/
def rowWr (m : Meta) : Nat :=
  if m.snp = .noOp ∨ m.snp = .inv then
    match m.mf, m.mv with
    | .meta0, .i => 9
    | .noOp, _ => 9
    | .meta0, .s => 10
    | .meta0, .a => 11
    | _, _ => 0
  else 0

/-! ## Checks at ingress (R69) -/

/-- Reasons 0x1 to 0x4 (R69); `admitPlanned` where a Sweeping-planned CAID is admitted. -/
def Eng.caidReason (e : Eng) (caid hport : Nat) (admitPlanned : Bool) : Option Nat :=
  if e.c ≤ caid then some 1
  else if e.caidSt caid = 0 then some 2
  else if e.caidSt caid = 3 then some 3
  else if e.obj CAID_PORT caid ≠ hport then some 4
  else if e.caidSt caid = 2 ∧ !admitPlanned then some 3
  else none

/-- Reason that refuses a beat of kind 0x0, 0x1 or 0x6, if any (R69); `leaves` for `MemWr`, `MemWrPtl` and `MemClnEvct`. -/
def Eng.reason (e : Eng) (h : HostBeat) (leaves : Bool) : Option Nat :=
  match e.caidReason h.caid h.hport leaves with
  | some r => some r
  | none =>
    match e.poolOf h.line with
    | none => some 5
    | some p =>
      if !(bit (e.obj CAID_POOLS h.caid) p) then (if bit (e.obj CAID_SWEEP_POOLS h.caid) p && leaves then none else some 6)
      else if !e.moored (e.unitOf p h.line) then some 7
      else none

/-! ## Taking a beat -/

/-- Corrected chunks of a beat at a port are counted (R42). -/
def Eng.chunks (e : Eng) (n port word : Nat) : Eng := (List.range n).foldl (fun e _ => e.corrected 7 port word 0 0 false) e

/-- A beat with an uncorrectable chunk in bits [511:0] is discarded without response and logged as a port error (R42). -/
def Eng.portError (e : Eng) (chk : Chk) (port : Nat) : Eng :=
  Eng.uncorrectable (match chk with | .header n | .data n => e.chunks n port 0 | _ => e) 7 port 0 0

/-- The check bits of a taken beat (R42): corrections are counted; none where the beat is discarded. -/
def Eng.takeChk (e : Eng) (h : HostBeat) : Option Eng :=
  match h.chk with
  | .ok => some e
  | .corr n => some (e.chunks n h.xport (h.line % 2 ^ 40))
  | .header _ => none
  | .data n => some ((e.chunks n h.xport (h.line % 2 ^ 40)).uncorrectable 7 h.xport (h.line % 2 ^ 40) 0)

/-- A taken beat of groups 1 to 3, for a slice: its check bits, and the entry it occupies (R42, R167). -/
def Eng.takeG (e : Eng) (h : HostBeat) (grp slice : Nat) : Option Eng := (e.takeChk h).map fun e => e.rxTake h.xport grp slice

/-- The slice that carries a slice number now (R162, R231). -/
def Eng.numbered (e : Eng) (num : Nat) : Nat := if e.ob SPARE_STATE = 2 ∧ e.ob SPARE_FOR = num then spareStop else num

/-- A request in its queue form. -/
def mkReq (e : Eng) (h : HostBeat) (op : Op) (cls row : Nat) (pl : Payload) (usize uoff : Nat) : Req :=
  { gid := e.fresh, op := op, cls := cls, row := row, v := h.caid, caid := h.caid, port := h.hport, tag := h.tag, line := h.line,
    poison := pl.poison || (cls == 1 && h.chk.isData), be := pl.be, data := pl.data, usize := usize, uoff := uoff, t0 := e.ts,
    remote := none, sweep := 0, passed := false }

/-- No data. -/
def noData : Payload := { data := 0, be := 0, poison := false }

/-- An admitted request joins its port's group 0 stage and moves on where it can (R167, R173). -/
def Eng.intake (e : Eng) (h : HostBeat) (r : Req) : Eng :=
  if e.foghorn then Eng.safeForm { e with fresh := e.fresh + 1 } h.xport r (occBand (e.occ h.xport))
  else Eng.pump { e with fresh := e.fresh + 1, stages := e.stages ++ [(h.xport, e.ts, r)] }

/-- An unsupported beat counted and logged with its cause (R37, R88, Table 04.16). -/
def Eng.badBeat (e : Eng) (h : HostBeat) (cause kind opc : Nat) : Eng :=
  e.protoErr h.xport cause kind opc h.caid (e.lineSt (e.owner h.line) h.line).code h.line

/-- A beat refused for a reason, counted, logged and reported, before its answer (R71). -/
def Eng.refused (e : Eng) (n kind opc : Nat) (h : HostBeat) : Eng :=
  { e.refuse n kind opc h.caid h.hport h.line with fresh := e.fresh + 1 }

/-- A sorter's own answer to an unsupported beat: nothing (0), `MemData-NXM` (1) or `Cmp` (2) (Table 04.3, R89). -/
def Eng.sorterAnswer (e : Eng) (h : HostBeat) (form : Nat) : Eng :=
  let r := mkReq e h .memRd 0 0 noData 0 0
  let dl := occBand (e.occ h.xport)
  if form = 0 then e
  else if form = 1 then Eng.answerNxm { e with fresh := e.fresh + 1 } h.xport r dl
  else Eng.answerCmp { e with fresh := e.fresh + 1 } h.xport r dl

/-- A request of kind 0x0 or 0x1 as a port takes it: check bits, R69, the lease window, Table 04.3, admission. `row` 0 marks
a combination or an opcode Table 04.2 does not list, `form` its answer (0 none, 1 `MemData-NXM`, 2 `Cmp`), `cause` its cause. -/
def Eng.request (e : Eng) (h : HostBeat) (kind opc : Nat) (op : Op) (cls row form cause : Nat) (leaves : Bool) (pl : Payload) : Eng :=
  if !e.rdy0 h.xport then e
  else match e.takeChk h with
  | none => e.portError h.chk h.xport
  | some e =>
    let r := mkReq e h op cls row pl 0 0
    let dl := occBand (e.occ h.xport)
    let why := if e.inLeases h.line then (match e.caidReason h.caid h.hport leaves with | some r => some r | none => some 5)
      else e.reason h leaves
    match why with
    | some n =>
      if row = 0 then (e.refuse n kind opc h.caid h.hport h.line).sorterAnswer h form
      else (e.refused n kind opc h).refusedForm h.xport r dl
    | none =>
      if row ≠ 0 then e.intake h r
      else
        let e := e.badBeat h cause kind opc
        -- under Foghorn a message of Table 02.11 in an unsupported combination gets its safe form like any other
        if e.foghorn ∧ cause = 2 then Eng.safeForm { e with fresh := e.fresh + 1 } h.xport r dl else e.sorterAnswer h form

/-- An operation with a form R198 does not give, or a lease command of none of the forms of R204. -/
def badForm (lease : Bool) (uop usize uoff : Nat) (data : Data) : Bool :=
  decide (usize = 3) || decide (usize = 2 ∧ uop ≠ 3) || decide (uoff % opBytes usize ≠ 0)
    || (lease && !(decide (uop = 2 ∧ usize = 1 ∧ (uoff = 0 ∨ uoff = 8 ∨ uoff = 16))
          || decide (uop = 1 ∧ usize = 1 ∧ uoff = 24 ∧ getInt data 0 8 = 0)))

/-- An AtomicOp beat (R198, R204): the form is checked after R69; lease commands take only the CAID checks. -/
def Eng.atomicBeat (e : Eng) (h : HostBeat) (uop usize uoff : Nat) (data : Data) : Eng :=
  if !e.rdy0 h.xport then e
  else match e.takeChk h with
  | none => e.portError h.chk h.xport
  | some e =>
    let r := mkReq e h .atomic 6 uop { data := data, be := 0, poison := false } usize uoff
    let lease := e.inLeases h.line
    let why := if lease then e.caidReason h.caid h.hport false else e.reason h false
    match why with
    | some n => (e.refused n 6 uop h).refusedForm h.xport r 0
    | none =>
      if e.foghorn then Eng.safeForm { e with fresh := e.fresh + 1 } h.xport r 0
      else if uop = 0 ∨ 3 < uop then Eng.answerFail { e.badBeat h 1 6 uop with fresh := e.fresh + 1 } h.xport r 1
      else if badForm lease uop usize uoff data then Eng.answerFail { e.badBeat h 2 6 uop with fresh := e.fresh + 1 } h.xport r 1
      else if h.chk.isData then (Eng.replyUio { e with fresh := e.fresh + 1 } h.xport r 4 0).1
      else e.intake h r

/-- An opcode of kind 0x0, 0x1 or 0x2 that names no message of Table 04.1 or Table 04.3 (log entry 17). -/
def reservedOpc (kind opc : Nat) : Bool :=
  match kind with
  | 0 => !([0, 1, 2, 3, 4, 8, 9, 10].contains opc)
  | 1 => !([1, 2, 4].contains opc)
  | 2 => !([0, 1, 2, 4, 5, 6].contains opc)
  | _ => false

/-- A kind that does not belong to its group, 0xF among them; kind 0x1 belongs to group 1 when it is a `BIConflict` (R37, Table 02.2). -/
def misplaced (grp kind opc : Nat) : Bool :=
  match grp with
  | 0 => !(kind == 0 || (kind == 1 && opc != 4) || kind == 6)
  | 1 => !(kind == 2 || (kind == 1 && opc == 4))
  | 2 => !(kind == 0xA || kind == 0xB || kind == 0xD)
  | _ => kind != 0xE

/-- A beat of kind 0xF or of the wrong group: it enters its group's stage, and is discarded and logged at the head (R37). `kind` and `opc`
as received. -/
def Eng.invalidKind (e : Eng) (h : HostBeat) (grp kind opc : Nat) : Eng :=
  if !misplaced grp kind opc then e
  else if !e.rdy h.xport grp then e
  else if grp = 0 then
    match e.takeChk h with
    | none => e.portError h.chk h.xport
    | some e =>
      let r := { mkReq e h .memRd badCls kind noData (e.lineSt (e.owner h.line) h.line).code 0 with v := opc }
      Eng.pump { e with fresh := e.fresh + 1, stages := e.stages ++ [(h.xport, e.ts, r)] }
  else match e.takeG h grp h.xport with
  | none => e.portError h.chk h.xport
  | some e => e.badBeat h 6 kind opc

/-! ## Class 2 (R100, R116, R118, Tables 05.3 and 05.4) -/

/-- Change a slot. -/
def Eng.updSlot (e : Eng) (slice slot : Nat) (f : Slot → Slot) : Eng :=
  { e with snps := updFirst (fun (s : Slot) => s.slice == slice && s.slot == slot) f e.snps }

/-- Change one target of a slot. -/
def Slot.updTgt (s : Slot) (c : Nat) (f : Tgt → Tgt) : Slot :=
  { s with tgts := updFirst (fun (t : Tgt) => t.caid == c) f s.tgts }

/-- Slot a BITag names among the open ones, at the slice that owns the line (R98, R231). -/
def Eng.slotOfTag (e : Eng) (biTag line : Nat) : Option Slot :=
  let per := 4096 / e.n
  let o := e.owner line
  e.snps.find? fun s => s.slice == o && e.sliceNum s.slice == biTag / per && s.slot == biTag % per && s.sector == line / 4

/-- Contexts of a slot that count line k. -/
def Slot.ctxOf (s : Slot) (k : Nat) : Option Nat := (s.ctxs.find? fun c => c.1 == k).map fun c => c.2

/-- The snoop and response are a pair of Table 04.9: 0 removed, 1 sharer, 2 owner kept. `rsp` 0 I, 1 S, 2 E. -/
def pairOf (snp : Snp) (rsp : Nat) : Option Nat :=
  match snp, rsp with
  | .cur, 0 => some 0
  | .cur, 1 => some 1
  | .cur, 2 => some 2
  | .data, 0 => some 0
  | .data, 1 => some 1
  | .inv, 0 => some 0
  | _, _ => none

/-- A target's bit for line k clears (R98, R99). -/
def Eng.clearBitOf (e : Eng) (s : Slot) (c k : Nat) : Eng :=
  e.updSlot s.slice s.slot fun s => s.updTgt c fun t =>
    let left := t.left.filter fun j => j != k
    if s.blk && !left.isEmpty then { t with left := left } else { t with left := left, bit := false }

/-- A response of target c with opcode `opc` and meaning `rsp` for line k of a slot is counted: codes N and B (R100, R112, R113). -/
def Eng.countRsp (e : Eng) (s : Slot) (c k opc rsp : Nat) : Eng :=
  match s.ctxOf k with
  | none => e.clearBitOf s c k
  | some idx =>
    match e.ctx s.slice idx with
    | none => e.clearBitOf s c k
    | some x =>
      let e := e.clearBitOf s c k
      match pairOf s.snp rsp with
      | some o =>
        let x := if o = 0 then { x with gone := c :: x.gone } else if o = 1 then { x with shared := c :: x.shared } else x
        let x := { x with stampS := e.ts - x.req.t0 }
        (e.putCtx x).adv x
      | none =>
        let e := e.protoErr s.slice 0x11 2 opc c x.start.code (s.sector * 4 + k)
        if x.tc.isTForm then Eng.adv (e.setCtx { x with gone := c :: x.gone }) { x with gone := c :: x.gone }
        else
          let e := e.enterT x (some c)
          e.advIdx x.slice x.idx

/-- A response with opcode `opc` and meaning `rsp` for one line: counted where the tag names an open slot of the line's sector in which
the target's bit for the line is set, discarded with cause 0x10 otherwise (R100, R113, Table 05.4). -/
def Eng.rspLine (e : Eng) (h : HostBeat) (biTag opc rsp line : Nat) : Eng :=
  match e.slotOfTag biTag line with
  | some s =>
    let k := line % 4
    let set := (s.blk || s.ctxs.any fun c => c.1 == k) && s.tgts.any fun t => t.caid == h.caid && t.bit && (!s.blk || t.left.contains k)
    if set then e.countRsp s h.caid k opc rsp
    else e.protoErr s.slice 0x10 2 opc h.caid (e.lineSt s.slice line).code line
  | none =>
    let o := e.owner line
    e.protoErr o 0x10 2 opc h.caid (e.lineSt o line).code line

/-- A `BIRspI` (0), `BIRspS` (1) or `BIRspE` (2) for one line (R69, R100, Table 05.4). -/
def Eng.biRsp (e : Eng) (h : HostBeat) (biTag rsp : Nat) : Eng :=
  if !e.rdyG h.xport 1 then e
  else match e.takeG h 1 (e.owner h.line) with
  | none => e.portError h.chk h.xport
  | some e =>
    match e.caidReason h.caid h.hport true with
    | some n => e.refuse n 2 rsp h.caid h.hport h.line
    | none => if e.foghorn then e else e.rspLine h biTag rsp rsp h.line

/-- A block response: counted for each of the four lines of its sector (R86, R99). -/
def Eng.biRspBlk (e : Eng) (h : HostBeat) (biTag rsp : Nat) : Eng :=
  if !e.rdyG h.xport 1 then e
  else match e.takeG h 1 (e.owner h.line) with
  | none => e.portError h.chk h.xport
  | some e =>
    match e.caidReason h.caid h.hport true with
    | some n => e.refuse n 2 (4 + rsp) h.caid h.hport h.line
    | none =>
      if e.foghorn then e
      else (List.range 4).foldl (fun e k => e.rspLine h biTag (4 + rsp) rsp (h.line / 4 * 4 + k)) e

/-- A kind 0x2 beat with a reserved opcode is discarded (Table 04.3). -/
def Eng.biRspRsvd (e : Eng) (h : HostBeat) (opc : Nat) : Eng :=
  if !e.rdyG h.xport 1 then e
  else match e.takeG h 1 (e.owner h.line) with
  | none => e.portError h.chk h.xport
  | some e =>
    match e.caidReason h.caid h.hport true with
    | some n => e.refuse n 2 opc h.caid h.hport h.line
    | none => if e.foghorn then e else e.badBeat h 1 2 opc

/-- The open slot of a line in which a CAID's bit is set (R118). -/
def Eng.slotFor (e : Eng) (line c : Nat) : Option Slot :=
  let o := e.owner line
  e.snps.find? fun s => s.slice == o && s.sector == line / 4 && (s.blk || s.ctxs.any fun x => x.1 == line % 4)
    && s.tgts.any fun t => t.caid == c && t.bit

/-- A `BI-ConflictAck` leaves in class 3 of the owning slice. Its beat carries the slot, so that its taking restarts the timer (R116, R118). -/
def Eng.conflictAck (e : Eng) (h : HostBeat) : Eng :=
  let o := e.owner h.line
  let id := e.fresh
  let beat := { beat0 with kind := 3, op := .biConflictAck, tag := h.tag, caid := h.caid, port := h.hport, devLoad := occBand (e.occ o) }
  let ent : OEnt := { id := id, at_ := e.portOf o, grp := 0, cls := 3, v := h.caid, pair := none, presented := false, src := (e.slotFor h.line h.caid).map (fun s => (s.slice, s.slot)), beat := beat, grant := false, gid := id }
  let e := match e.takeSlot o 2 h.caid id false with | some e => e | none => e
  Eng.send { e.relink id with fresh := id + 1 } ent

/-- The conflict is marked on its target, and every context of the slot takes its `_C` form (codes K and KC, R118). -/
def Eng.markConflict (e : Eng) (s : Slot) (caid : Nat) : Eng :=
  s.ctxs.foldl (fun e c => match e.ctx s.slice c.2 with | some x => e.putCtx x | none => e)
    (e.updSlot s.slice s.slot fun s => s.updTgt caid fun t => { t with conflict := true })

/-- A `BIConflict` (R116, R118). -/
def Eng.biConflict (e : Eng) (h : HostBeat) : Eng :=
  if !e.rdyG h.xport 1 then e
  else match e.takeG h 1 (e.owner h.line) with
  | none => e.portError h.chk h.xport
  | some e =>
    match e.caidReason h.caid h.hport true with
    | some n => e.refuse n 1 4 h.caid h.hport h.line
    | none =>
      if e.foghorn then e
      else
        let e := (e.inc BICONFLICT_COUNT).conflictAck h
        match e.slotFor h.line h.caid with
        | none => e.inc BICONFLICT_STRAY
        | some s => e.markConflict s h.caid

end Sys2Proof.Machine
end

