-- ==== Sys2Proof/Machine/Responses.lean ====
section
/-! DEFINITION. Sys2Proof/Machine/Responses.lean: backing responses, beats taken by the carrier, the timers of a flow, and
the ports' levels (R41, R44, R98, R103, R105, R106, R114, R115, R118, R166, R175, R190, R203, R306). -/
namespace Sys2Proof.Machine
open Ob

/-! ## Backing responses (Table 05.4) -/

/-- The context an HTID names (R162), among the allocated ones. -/
def Eng.ctxOfTag (e : Eng) (tag : Nat) : Option Ctx :=
  e.ctxs.find? fun x => e.sliceNum x.slice == tag / 8192 && x.idx == tag % 8192 && decide (x.phase = .opened)

/-- The slice that finds a stale response: the one its HTID names. -/
def Eng.tagSlice (_ : Eng) (tag : Nat) : Nat := tag / 8192

/-- Record the DevLoad a backing beat carries (R95). -/
def Eng.sawLoad (e : Eng) (dev dl : Nat) : Eng := { e with devLoad := kput dev dl e.devLoad }

/-- A backing beat with nothing to close is discarded (code X, R41). -/
def Eng.staleRsp (e : Eng) (tag cause kind opc : Nat) : Eng :=
  match e.ctxOfTag tag with
  | some x => e.protoErr x.slice cause kind opc 0 x.start.code x.req.line
  | none => e.protoErr (e.tagSlice tag) cause kind opc 0 0 0

/-- Read data arrives for a flow (code A): writebacks already held win over it (R104). -/
def Ctx.gotData (x : Ctx) (d : Data) : Ctx := { x with got := merge d x.got x.gotBe, gotBe := Be.full }

/-- An access of a flow has failed (code AP): the context takes its `_T` form, and a `_T` form keeps its form. -/
def Eng.accFailed (e : Eng) (x : Ctx) : Eng :=
  if x.tc.isTForm then Eng.adv (e.setCtx x) x
  else
    let e := e.enterT x none
    e.advIdx x.slice x.idx

/-- A `MemData` or `MemData-NXM` beat (kind 0xB). `form` 0 `MemData`, 1 `MemData-NXM`, else another opcode. -/
def Eng.backingData (e : Eng) (h : HostBeat) (form dl : Nat) (pl : Payload) : Eng :=
  if !e.rdyG h.xport 2 then e
  else match e.takeG h 2 (e.numbered (h.tag / 8192)) with
  | none => e.portError h.chk h.xport
  | some e =>
    if e.foghorn then e
    else
      let e := e.sawLoad h.hport dl
      match e.ctxOfTag h.tag with
      | none => e.staleRsp h.tag 0x12 0xB form
      | some x =>
        match x.acc with
        | none => e.staleRsp h.tag 0x12 0xB form
        | some a =>
          if 1 < form then e.staleRsp h.tag 5 0xB form
          else if a.kind ≠ .rd then e.staleRsp h.tag 0x12 0xB form
          else
            let x := { x with acc := none, stampM := e.ts - x.req.t0 }
            if form = 1 ∨ pl.poison ∨ h.chk.isData then
              let e := if h.chk.isData then e else e.uncorrectable 7 h.xport (x.req.line % 2 ^ 40) 0
              e.accFailed x
            else Eng.adv (e.putCtx (x.gotData pl.data)) { x.gotData pl.data with tc := e.code x }

/-- Second write of an access whose tile is marked for Drift: the same data to the destination (R220). -/
def Eng.needsDst (e : Eng) (x : Ctx) (a : Acc) : Option Acc :=
  match x.tile with
  | some t =>
    if t.drift && a.why != .driftDst then
      match e.driftDst x with
      | some d => if (a.dev, a.dpa) = d then none else some { a with dev := d.1, dpa := d.2, deadline := none }
      | none => none
    else none
  | none => none

/-- While the HDC is disabling, a merged line is marked clean once its whole-line write has completed (R196 step 3). -/
def Eng.cleanAfter (e : Eng) (x : Ctx) (a : Acc) : Eng :=
  if e.ob HDC_STATUS = 2 ∧ a.be = Be.full ∧ a.kind = .wr then
    e.updHdc x.slice (x.req.line / 4) fun w =>
      if nth 0 w.d (x.req.line % 4) = a.data then { w with ld := w.ld.set (x.req.line % 4) false } else w
  else e

/-- A backing write has completed (R105, R111, R190, R220). -/
def Eng.writeDone (e : Eng) (x : Ctx) (a : Acc) : Eng :=
  let x := { x with acc := none, stampM := e.ts - x.req.t0 }
  match e.needsDst x a with
  | some d =>
    if x.req.op.isWback then (e.setCtx { x with dup := some d }).wbackDst { x with dup := some d }
    else Eng.adv (e.putCtx { x with dup := some d }) { x with dup := some d }
  | none =>
    if x.req.op.isWback then e.wbackDone x
    else match a.why with
      | .wb gid =>
        let (e, x) := (e.cleanAfter x a).wbDone x gid
        Eng.adv (e.putCtx x) x
      | .hdc =>
        let e := e.updHdc x.slice (x.req.line / 4) fun w => { w with ld := w.ld.set (x.req.line % 4) false }
        Eng.adv (e.putCtx { x with needWrite := false, hdcDirty := false }) { x with needWrite := false, hdcDirty := false }
      | _ =>
        let e := if a.why = .own ∧ x.req.isWrite then e.freeData x.req.gid else e
        Eng.adv ((e.cleanAfter x a).putCtx x) x

/-- A beat of kind 0xA; its opcode is `Cmp` where `opc` is 0. -/
def Eng.backingCmp (e : Eng) (h : HostBeat) (opc dl : Nat) : Eng :=
  if !e.rdyG h.xport 2 then e
  else match e.takeG h 2 (e.numbered (h.tag / 8192)) with
  | none => e.portError h.chk h.xport
  | some e =>
    if e.foghorn then e
    else
      let e := e.sawLoad h.hport dl
      match e.ctxOfTag h.tag with
      | none => e.staleRsp h.tag 0x13 0xA opc
      | some x =>
        match x.acc with
        | none => e.staleRsp h.tag 0x13 0xA opc
        | some a =>
          if opc ≠ 0 then e.staleRsp h.tag 5 0xA opc
          else if a.kind = .wr ∨ a.kind = .wrPtl then e.writeDone x a else e.staleRsp h.tag 0x13 0xA opc

/-- A kind 0xD completion of an AtomicOp at memory (R203). -/
def Eng.backingUio (e : Eng) (h : HostBeat) (status : Nat) (d : Data) : Eng :=
  if !e.rdyG h.xport 2 then e
  else match e.takeG h 2 (e.numbered (h.tag / 8192)) with
  | none => e.portError h.chk h.xport
  | some e =>
    if e.foghorn then e
    else match e.ctxOfTag h.tag with
      | none => e.staleRsp h.tag 0x13 0xD 0
      | some x =>
        match x.acc with
        | none => e.staleRsp h.tag 0x13 0xD 0
        | some a =>
          if a.kind ≠ .uio then e.staleRsp h.tag 0x13 0xD 0
          else
            let x := { x with acc := none, needUio := false, stampM := e.ts - x.req.t0 }
            if h.chk.isData then e.accFailed x
            else if status = 0 then
              let x := { x with uioRes := some (0, d), gotBe := if x.uioRd then 0 else x.gotBe, got := if x.uioRd then 0 else x.got }
              Eng.adv (e.putCtx x) x
            else if status = 1 then
              let e := (e.inc ATOM_MEM_UR).rasEntry 7 2 h.xport (x.req.line % 2 ^ 40) 0xFF 0
              let x := { x with uioRes := some (4, 0), uioRd := false }
              Eng.adv (e.putCtx x) x
            else
              let x := { x with uioRes := some (4, 0), uioRd := false, toP := true }
              Eng.adv (e.putCtx x) x

/-- A backing beat whose HTID names no open context (R41, R166); nothing where it names one. -/
def Eng.staleBeat (e : Eng) (h : HostBeat) (kind opc dl : Nat) : Eng :=
  if !e.rdyG h.xport 2 then e
  else match e.takeG h 2 (e.numbered (h.tag / 8192)) with
  | none => e.portError h.chk h.xport
  | some e =>
    if e.foghorn then e
    else
      let e := if kind = 0xD then e else e.sawLoad h.hport dl
      match e.ctxOfTag h.tag with
      | some _ => e
      | none => e.staleRsp h.tag (if kind = 0xB then 0x12 else 0x13) kind opc

/-! ## Beats the carrier takes -/

/-- Slices whose beats leave by a port (R25). -/
def Eng.slicesAt (e : Eng) (port : Nat) : List Nat := e.sliceList.filter fun s => e.portOf s == port

/-- A snoop copy has been taken: its target's timer starts (R98). -/
def Eng.copyTaken (e : Eng) (o : OEnt) : Eng :=
  match o.src with
  | some (sl, slot) =>
    e.updSlot sl slot fun s => s.updTgt o.beat.caid fun t =>
      if t.bit then { t with taken := true, run := 0, start := e.ts, value := e.ob BI_TIMEOUT } else t
  | none => e

/-- A `BI-ConflictAck` has been taken: the target's timer restarts, at most once in a round (R118). -/
def Eng.ackTaken (e : Eng) (o : OEnt) : Eng :=
  match o.src with
  | some (sl, slot) =>
    e.updSlot sl slot fun s => s.updTgt o.beat.caid fun t =>
      if t.bit && !t.restarted then { t with run := 0, start := e.ts, restarted := true, value := e.ob BI_TIMEOUT } else t
  | none => e

/-- Effects of a group 0 beat's taking: slots, the hold window, the echo entry's time (R103, R127, R175). -/
def Eng.answerTaken (e : Eng) (o : OEnt) : Eng :=
  let more := e.outq.any fun p => p.gid == o.gid && p.id != o.id
  let e := if more then e.freeData o.gid else e.freeSlots o.gid
  let e := match o.hist with
    | some (c, t0) => if !more ∧ e.ob PM_HIST_ENABLE = 1 then { e with hists := e.hists ++ [(o.at_, o.beat.caid, c, e.ts - t0)] } else e
    | none => e
  match o.beat.op with
  | .biConflictAck => e.ackTaken o
  | .uioCpl _ =>
    if o.src.isNone then e
    else { e with echo := updFirst (fun (x : Echo) => x.valid && x.caid == o.beat.caid && x.tag == o.beat.tag)
                            (fun x => { x with time := bits e.ts 21 6 }) e.echo }
  | _ =>
    if o.grant then
      match o.src with
      | some (line, _) =>
        { e with hold := updFirst (fun (h : Hold) => h.line == line && h.owner == o.beat.caid && h.ends.isNone)
                           (fun h => { h with ends := some (e.ts + e.ob HOLD_WINDOW) }) e.hold }
      | none => e
    else e

/-- A backing request has been taken: its timer starts (R115). -/
def Eng.accTaken (e : Eng) (o : OEnt) : Eng :=
  match o.src with
  | some (sl, idx) =>
    match e.ctx sl idx with
    | some x => e.setCtx { x with acc := x.acc.map fun a => { a with deadline := some (e.ts + e.ob MEM_RD_TIMEOUT) } }
    | none => e
  | none => e

/-- What the taking of an entry does, once it has left its queue (R36, R98, R103, R115, R175). -/
def Eng.took (e : Eng) (o : OEnt) : Eng :=
  if o.grp = 0 then e.answerTaken o
  else if o.grp = 1 then (if e.outq.any fun p => p.gid == o.gid && p.grp == 1 then e.copyTaken o else (e.copyTaken o).freeSlots o.gid)
  else if o.grp = 2 then e.accTaken o
  else e

/-- The engine with an outbound entry replaced. -/
def Eng.setOut (e : Eng) (o : OEnt) : Eng := { e with outq := updFirst (fun (p : OEnt) => p.id == o.id) (fun _ => o) e.outq }

/-- What waits for room at a port goes on: contexts of its slices, write-backs, and what the stages hold. -/
def Eng.roomAt (e : Eng) (port : Nat) : Eng := ((e.slicesAt port).foldl (fun e s => e.advSlice s) e).startWbacks.pump

/-- An entry as it shows its next beat: the copy for the next target of a class 5 round (R101, R171), or the second beat of a hierarchy
message, which no other group 3 beat of the port precedes (R36). -/
def Eng.nextBeat (e : Eng) (o : OEnt) : OEnt :=
  match o.more with
  | [] => o
  | c :: rest => { o with beat := if o.grp = 1 then e.copyFor o.beat c else o.beat, more := rest, presented := false, since := none }

/-- The carrier takes the beat presented in a group at a port, at an edge at which that group's bit of `xb_tx_vld` is the one that is 1
(R36). Nothing is taken at a clamped port (R34). Under Foghorn the data beat of a hierarchy message is a new beat, which is not presented
(Table 02.11). -/
def Eng.beatTaken (e : Eng) (port grp : Nat) : Eng :=
  match if e.portClamped port then none else (e.outAt port grp).find? fun o => o.presented with
  | none => e
  | some o =>
    let e := { e with undo := e.undo.filter fun a => !(a.kind == grp + 2 && a.inst == port) }
    let e := if o.more.isEmpty ∨ (e.foghorn ∧ grp = 3) then Eng.took { e with outq := e.outq.filter fun (p : OEnt) => p.id != o.id } o
      else Eng.setOut (if o.grp = 1 then e.copyTaken o else e) (e.nextBeat o)
    (e.present port grp).roomAt port

/-! ## Timers of a flow -/

/-- A target's timer has expired: after its value of running time, or at the hard cap (R114, R306). -/
def Tgt.expired (t : Tgt) (now : Nat) : Bool := t.bit && t.taken && (decide (t.value ≤ t.run) || decide (4 * t.value ≤ now - t.start))

/-- A BI_TIMEOUT_LOG entry (Table 05.7). -/
def Eng.biLog (e : Eng) (kind caid port : Nat) (x : Ctx) (capped : Bool) : Eng :=
  let st := if x.req.op.isWback then e.lineSt x.slice x.req.line else x.start
  e.logPush BI_TIMEOUT_LOG 64
    (kind + caid * 4 + port * 2 ^ 10 + x.tc.code * 2 ^ 18 + st.code * 2 ^ 23 + b2n capped * 2 ^ 26 + x.req.line * 2 ^ 28 + e.t48 * 2 ^ 74)

/-- The snoop-timeout outcome for one line: TS for a sharer, TX for the owner (R114, R113). -/
def Eng.snoopLate (e : Eng) (x : Ctx) (c k slot : Nat) (capped : Bool) : Eng :=
  let owner := match x.start with | .X o => o == c | _ => false
  let port := e.obj CAID_PORT c
  let e := e.biLog (if owner then 1 else 0) c port x capped
  let e := e.event 0x04 (evArgs [(0, c), (1, b2n owner), (2, x.req.line)])
  let e := match e.snps.find? fun s => s.slice == x.slice && s.slot == slot with | some s => e.clearBitOf s c k | none => e
  if owner then
    let e := e.inc BI_TIMEOUT_POISONED
    let e := e.sendBreak none (some c) 5
    if x.tc.isTForm then Eng.adv (e.setCtx { x with gone := c :: x.gone }) { x with gone := c :: x.gone }
    else (e.enterT x (some c)).advIdx x.slice x.idx
  else
    let e := e.inc BI_TIMEOUT_DROPPED
    let x := { x with gone := c :: x.gone }
    Eng.adv (e.putCtx x) x

/-- A target of a slot is late for every line it has not answered (R114, R306). -/
def Eng.targetLate (e : Eng) (s : Slot) (t : Tgt) : Eng :=
  let capped := !decide (t.value ≤ t.run)
  let e := if capped then e.inc RAS_CAPPED_EXPIRIES else e
  (if s.blk then t.left else s.ctxs.map fun x => x.1).foldl (fun e k =>
    match s.ctxOf k with
    | some idx => match e.ctx s.slice idx with | some x => e.snoopLate x t.caid k s.slot capped | none => e
    | none => e) e

/-- The back-invalidate timer of a target of a slot expires (R114, R306). -/
def Eng.biTimeout (e : Eng) (slice slot c : Nat) : Eng :=
  match e.snps.find? fun s => s.slice == slice && s.slot == slot with
  | none => e
  | some s =>
    match s.tgts.find? fun t => t.caid == c with
    | none => e
    | some t => if t.expired e.ts then e.targetLate s t else e

/-- Withhold a context index whose backing access timed out (R166). -/
def Eng.quarantine (e : Eng) (x : Ctx) : Eng :=
  { e with quar := e.quar ++ [({ slice := x.slice, idx := x.idx, share := x.share, ends := e.ts + e.ob WATCH_QUARANTINE * 1000 } : Quar)] }

/-- The HDC copy that a timed-out write-back was writing is removed (R115). -/
def Eng.dropWback (e : Eng) (x : Ctx) : Eng :=
  let line := x.req.line
  let inBuf := e.evb.any fun v => v.slice == x.slice && v.line == line && v.inBuf && v.ctx == some x.idx
  let e := { e with evb := e.evb.filter fun (v : EvLine) => !(v.slice == x.slice && v.line == line && v.ctx == some x.idx) }
  if inBuf then e
  else e.updHdc x.slice (line / 4) fun w => { w with lv := w.lv.set (line % 4) false, ld := w.ld.set (line % 4) false, lh := w.lh.set (line % 4) false }

/-- A backing access is logged as late and its context index withheld (R115, R166). -/
def Eng.accLate (e : Eng) (x : Ctx) (a : Acc) : Eng :=
  (e.biLog (if a.kind == .wr || a.kind == .wrPtl then 3 else 2) 0 a.dev x false).quarantine x

/-- A line goes to P: by the `_T` form of a context open on it, at once where there is none or it awaits nothing (R115). -/
def Eng.lateLine (e : Eng) (slice line : Nat) : Eng :=
  match e.lineCtx line with
  | some y => if y.phase = .opened ∧ y.req.op ≠ .remoor ∧ y.tc ≠ .open0 then e.accFailed y else e.poisonLine slice line
  | none => e.poisonLine slice line

/-- A late write-back: the copy it was writing is removed, and its line goes to P (R115; code TM). -/
def Eng.wbackLate (e : Eng) (x : Ctx) : Eng :=
  let e := (((e.inc MEM_TIMEOUT_POISONED).dropWback x).delCtx x.slice x.idx).lateLine x.slice x.req.line
  (e.advLine x.req.line).startWbacks

/-- A late access of a host's or an internal flow: the context takes its `_T` form (R115, R122; code TM). -/
def Eng.flowLate (e : Eng) (x : Ctx) (a : Acc) : Eng :=
  let e := e.inc MEM_TIMEOUT_POISONED
  let e := if a.why = .hdc then e.hdcRemove x.slice x.req.line else e
  let e := match a.why with | .wb g => e.freeSlots g | _ => e
  let x := { x with wbs := (match a.why with | .wb g => updFirst (fun (w : Wb) => w.req.gid == g) (fun w => { w with done := true }) x.wbs | _ => x.wbs), dup := none }
  e.accFailed x

/-- A backing access has exceeded MEM_RD_TIMEOUT (R115, R122; codes TM and TD). -/
def Eng.memTimeout (e : Eng) (slice idx : Nat) : Eng :=
  match e.ctx slice idx with
  | none => e
  | some x =>
    match x.acc with
    | none => e
    | some a =>
      match a.deadline with
      | none => e
      | some d =>
        if e.ts < d then e
        else
          let e := e.accLate x a
          let x := { x with acc := none }
          match x.req.op with
          | .wback => e.wbackLate x
          | .drift ch =>
            if a.kind = .wr ∨ a.kind = .wrPtl then (((((e.inc MEM_TIMEOUT_POISONED).haltChan ch).freeSlots x.req.gid).retire x).abortStep ch)
            else (e.inc MEM_TIMEOUT_POISONED).accFailed x
          | _ => e.flowLate x a

/-- A withheld index returns to allocation (R166). -/
def Eng.quarEnd (e : Eng) (slice idx : Nat) : Eng :=
  { e with quar := e.quar.filter fun (q : Quar) => !(q.slice == slice && q.idx == idx && decide (q.ends ≤ e.ts)) }

/-- The slice clears the valid bit of an echo entry that fails the age test (R127). -/
def Eng.echoExpire (e : Eng) (slice i : Nat) : Eng :=
  match (e.echo.filter fun x => x.slice == slice)[i]? with
  | none => e
  | some x =>
    if x.valid && !e.echoFresh x then
      { e with echo := updFirst (fun (y : Echo) => decide (y = x)) (fun y => { y with valid := false }) e.echo }
    else e

/-- A context that waits for a snoop slot takes one (R98). -/
def Eng.snoopAcquire (e : Eng) (slice idx : Nat) : Eng :=
  match e.ctx slice idx with
  | none => e
  | some x => if x.phase = .opened ∧ x.want.isSome then e.adv x else e

/-! ## Port levels (R44, R306) -/

/-- `xb_port_up[p]` as it was last read: a port whose filtered state is 1 and whose bit has not read 0 since it last read 1 (R44). -/
def Eng.portLevel (e : Eng) (p : Nat) : Bool := e.portUp.contains p && kget 0 p e.portLow == 0

/-- `xb_port_retry[p]` changes level; ignored while the port is down (R44). -/
def Eng.portRetry (e : Eng) (p : Nat) (up : Bool) : Eng :=
  { e with retry := if up then insertNat p e.retry else dropNat p e.retry }

/-- The indication pauses the timers of a port's targets (R306, R44). -/
def Eng.paused (e : Eng) (p : Nat) : Bool := e.portLevel p && e.retry.contains p

/-- `xb_port_up[p]` reads 1: port p rises, or a fall of fewer than 4 edges has ended without effect (R44, R72). -/
def Eng.portRise (e : Eng) (p : Nat) : Eng :=
  if e.portUp.contains p then { e with portLow := kdel p e.portLow } else Eng.event { e with portUp := insertNat p e.portUp } 0x02 (evArgs [(0, p)])

end Sys2Proof.Machine
end

