-- ==== Sys2Proof/Machine/Binding.lean ====
section
/-! DEFINITION. Sys2Proof/Machine/Binding.lean: departures, unbinding, sweeps, and the addition and purge of pools
(R62 to R75, R152 to R154, R207). -/
namespace Sys2Proof.Machine
open Ob

/-! ## Breaks towards the Lease Lock Unit (R207, R208) -/

/-- A break message that names a CAID leaves for stop 44. -/
def Eng.breakCaid (e : Eng) (c cause : Nat) : Eng :=
  e.sendBreak none (some c) cause

/-- Break messages for the leases of the pools cleared from a CAID (cause 4). -/
def Eng.breakPools (e : Eng) (c pools : Nat) : Eng :=
  let mine := e.leases.filter fun l => l.2.st == .held && l.2.owner == c && bit pools (e.obj (LEASE_POOL + l.1 / 256) (l.1 % 256))
  mine.foldl (fun e l => e.sendBreak (some l.1) (some c) 4) e

/-! ## Sweeps (R72 to R75, R153, R154) -/

/-- The sweep with an id. -/
def Eng.sweepOf (e : Eng) (id : Nat) : Option Sweep := e.sweeps.find? fun w => w.id == id

/-- A line's pool is among a set of pools. -/
def Eng.inPools (e : Eng) (pools line : Nat) : Bool :=
  match e.poolOf line with | some p => bit pools p | none => false

/-- An entry's line is one a sweep visits (Table 03.6, R153). -/
def sweptLine (c : Nat) (planned : Bool) (st : LSt) : Bool := st.ptrs.contains c || (planned && st.groups.contains (grp c))

/-- Lines of a sector that a sweep visits. -/
def Eng.sweptLines (e : Eng) (w : Sweep) (sector : Nat) (l : List LSt) : List Nat :=
  ((List.range 4).filter fun k => sweptLine w.caid w.planned (nth .I l k) && e.inPools w.pools (sector * 4 + k)).map fun k => sector * 4 + k

/-- Queue the visits of a sweep. -/
def Eng.queueVisits (e : Eng) (w : Sweep) (far : Bool) (lines : List Nat) : Eng :=
  let e := e.updSweep w.id fun v => { v with visits := v.visits + lines.length }
  lines.foldl (fun e line => e.sendVisit w far line) e

/-- The SFA scan of a sweep: every slice's partition and spill buffer (R153 step 1). -/
def Eng.sfaScan (e : Eng) (w : Sweep) : Eng :=
  let a := (e.sfa.filter fun v => !v.resv).flatMap fun v => e.sweptLines w v.sector v.l
  let b := (e.spill.filter fun s => !s.back).flatMap fun s => e.sweptLines w s.sector s.l
  (e.queueVisits w false (ascend (a ++ b))).updSweep w.id fun v => { v with sfaDone := true }

/-- A sweep with an id joins the running ones, with the visits of earlier sweeps that it takes over. -/
def Eng.addSweep (e : Eng) (id c pools : Nat) (planned all : Bool) (visits : Nat) : Eng :=
  { e with sweeps := e.sweeps ++ [({ id := id, caid := c, pools := pools, planned := planned, all := all, sfaDone := false, dbsLeft := none, reading := false, visits := visits, poisoned := 0 } : Sweep)] }

/-- The SFA scan of a sweep runs, after which it may end at once (R153, R154). -/
def Eng.runSweep (e : Eng) (id : Nat) : Eng :=
  match e.sweepOf id with
  | none => e
  | some w => (e.sfaScan w).checkSweeps

/-- Start a planned sweep of some pools of a CAID. -/
def Eng.startSweep (e : Eng) (c pools : Nat) (all : Bool) : Eng :=
  let (id, e) := e.draw
  (e.addSweep id c pools true all 0).runSweep id

/-- Page header says that a sweep must read the page whole (R153 step 2). -/
def DbsPage.sweeps (p : DbsPage) (c : Nat) (planned : Bool) : Bool :=
  (p.pgrp.testBit (grp c) && p.plow.testBit (c % 16)) || (planned && p.scg.testBit (grp c))

/-- The DBS scan of a sweep goes to its next page, or ends (R153). -/
def Eng.sweepNext (e : Eng) (id : Nat) : Eng :=
  match e.sweepOf id with
  | none => e
  | some w =>
    match w.dbsLeft with
    | some (p :: t) => (e.updSweep id fun v => { v with dbsLeft := some t, reading := true }).newSeq (.sweepHdr id p) (pageCh p) 2 none [rds [e.dbsAddr p 0]]
    | _ => (e.updSweep id fun v => { v with reading := false }).checkSweeps

/-- The DBS pages that a sweep's scan reads: every written page, in ascending order (R153). -/
def Eng.scanPages (e : Eng) : List Nat := if e.dbsUp then ascend (e.dbs.map fun p => p.page) else []

/-- SWEEP_DBS_SCAN: after the SFA scan of a sweep of CAID c, the page headers are read (R153 step 2). -/
def Eng.sweepDbs (e : Eng) (c : Nat) : Eng :=
  match e.sweeps.find? fun w => w.caid == c && w.sfaDone && w.dbsLeft.isNone with
  | none => e
  | some w => (e.updSweep w.id fun v => { v with dbsLeft := some e.scanPages }).sweepNext w.id

/-- A header read of a sweep has ended; a header that fails is treated as one that matches. -/
def Eng.sweepHdrStage (e : Eng) (s : DSeq) (id p : Nat) : Eng :=
  match e.sweepOf id with
  | none => e.endSeq s.id
  | some w =>
    let hit := match e.page p with | some q => !s.bad.isEmpty || q.sweeps w.caid w.planned | none => false
    let e := e.endSeq s.id
    if hit then (e.inc SWEEP_SCAN_PAGES).newSeq (.sweepPage id p) (pageCh p) 2 (some p) [rds (e.wholeDbs p)] else e.sweepNext id

/-- A whole-page read of a sweep has ended: visit requests go out, and a page whose summaries are wider than its entries is
rewritten (R148, R153). -/
def Eng.sweepPageStage (e : Eng) (s : DSeq) (id p : Nat) : Eng :=
  match e.sweepOf id with
  | none => e.endSeq s.id
  | some w =>
    if s.ph = 1 then
      let (e, ok) := e.decodePage s (e.dbsAddr p 0) false
      if !ok then ((e.taintPage p).endSeq s.id).sweepNext id
      else match e.page p with
        | none => (e.endSeq s.id).sweepNext id
        | some q =>
          let lines := q.bursts.flatMap fun b => e.sweptLines w b.sector b.l
          let e := e.queueVisits w true (ascend lines)
          let x := q.exact
          if x.pgrp ≠ q.pgrp ∨ x.plow ≠ q.plow ∨ x.scg ≠ q.scg ∨ !s.wrong.isEmpty then e.nextStages s.id [wrs (e.wholeDbs p)]
          else (e.endSeq s.id).sweepNext id
    else
      let e := if s.wbad then e.taintPage p else match e.page p with | some q => e.setPage q.exact | none => e
      (e.endSeq s.id).sweepNext id

/-! ## Scans for units (R284, R285) -/

/-- A line's state once its unit's host copies are no concern of this instance (R285 step 5). -/
def LSt.demote : LSt → LSt
  | .S1 _ => .I | .S2 _ _ => .I | .SC _ => .I | s => s

/-- A sector of unit u that only the DBS holds. -/
def Eng.dbsOnly (e : Eng) (u sector : Nat) : Bool :=
  e.lineUnit (sector * 4) == some u && !(e.sfa.any fun w => w.sector == sector && !w.resv) && !(e.spill.any fun s => s.sector == sector && !s.back)

/-- A page with the lines of unit u demoted (R285 step 5). -/
def Eng.demoted (e : Eng) (u : Nat) (q : DbsPage) : DbsPage :=
  q.bursts.foldl (fun p b =>
    let l := b.l.map LSt.demote
    if !e.dbsOnly u b.sector ∨ l = b.l then p else if l = allI then p.free b.b else p.put b.b b.sector b.psn l) q

/-- The counts of R148 and R74 as the demotion of a page changes them. -/
def Eng.demoteCounts (e : Eng) (u : Nat) (q : DbsPage) : Eng :=
  (q.bursts.filter fun b => e.dbsOnly u b.sector && decide (b.l.map LSt.demote ≠ b.l)).foldl (fun e b =>
    let e := b.l.foldl (fun (e : Eng) st => if st.demote = st then e else e.uncount st) e
    if b.l.map LSt.demote = allI then e.unitDbsAdd b.psn false else e) e

/-- The first scan reads its next page whole, under its lock; a scan with no page left ends, and the next one starts. `k` bounds the scans. -/
def Eng.uscanGo : Nat → Eng → Eng
  | 0, e => e
  | k + 1, e =>
    match e.uscans with
    | [] => e
    | w :: t =>
      if w.reading then e
      else match w.left with
        | [] => Eng.uscanGo k { e with uscans := t }
        | p :: ps => Eng.newSeq { e with uscans := { w with left := ps, reading := true } :: t } (.unitPage w.id p) (pageCh p) 2 (some p) [rds (e.wholeDbs p)]

/-- A scan joins, for unit u or for the resynchronisation. -/
def Eng.uscanAdd (e : Eng) (u : Option Nat) : Eng :=
  Eng.uscanGo (e.uscans.length + 2) { e with fresh := e.fresh + 1, uscans := e.uscans ++ [({ id := e.fresh, unit := u, left := e.scanPages, reading := false } : UScan)] }

/-- A page of a scan has been read or written: the scan goes on. -/
def Eng.uscanNext (e : Eng) (s : DSeq) (id : Nat) : Eng :=
  let e := e.endSeq s.id
  Eng.uscanGo (e.uscans.length + 1) { e with uscans := updFirst (fun (w : UScan) => w.id == id) (fun w => { w with reading := false }) e.uscans }

/-- The resynchronisation is given up. -/
def Eng.uscanDrop (e : Eng) : Eng :=
  Eng.uscanGo (e.uscans.length + 1) { e with uscans := e.uscans.filter (fun (w : UScan) => w.unit.isSome), rfound := [] }

/-- A page of a scan has been read whole, or written with its unit demoted. -/
def Eng.unitPageStage (e : Eng) (s : DSeq) (id p : Nat) : Eng :=
  match e.uscans.find? fun w => w.id == id with
  | none => e.endSeq s.id
  | some w =>
    let (e, ok) := if s.ph = 1 then e.decodePage s (e.dbsAddr p 0) false else (e, true)
    if s.wbad || !ok then (e.taintPage p).uscanNext s id
    else match e.page p with
      | none => e.uscanNext s id
      | some q =>
        match w.unit with
        | none =>
          let here := q.bursts.filter fun b => (match e.lineUnit (b.sector * 4) with | some u => e.mirroredUnit u | none => false) && b.l.any fun st => decide (st.shadow ≠ .I)
          Eng.uscanNext { e with rfound := e.rfound ++ here.map fun b => b.sector } s id
        | some u =>
          if s.ph = 1 then (if e.demoted u q = q ∧ s.wrong.isEmpty then e.uscanNext s id else e.nextStages s.id [wrs (e.wholeDbs p)])
          else ((e.demoteCounts u q).setPage ((e.demoted u q).whole s.h0)).uscanNext s id

/-! ## Sweeping-surprise (R72, R73) -/

/-- Code DT: a departing holder is a target of an open context (R73). A line it owned counts for its surprise sweep. -/
def Eng.departTarget (e : Eng) (x : Ctx) (c id : Nat) : Eng :=
  let k := x.req.line % 4
  let owner := match x.start with | .X o => o == c | _ => false
  let e := match e.slotOf x with | some s => e.clearBitOf s c k | none => e
  let x := { x with want := x.want.map fun (ts : List Nat) => ts.filter fun d => d != c }
  if owner then
    let e := (e.inc SWEEP_POISONED).updSweep id fun w => { w with poisoned := w.poisoned + 1 }
    if x.tc.isTForm then Eng.adv (e.setCtx { x with gone := c :: x.gone }) { x with gone := c :: x.gone }
    else ((e.setCtx x).enterT x (some c)).advIdx x.slice x.idx
  else
    let x := { x with gone := c :: x.gone }
    Eng.adv (e.putCtx x) x

/-- A request as it stands once CAID c has departed: a planned visit of c takes its surprise outcome and belongs to the surprise
sweep (Table 03.5). -/
def Req.surprise (r : Req) (c id : Nat) : Req :=
  match r.op with
  | .visit d _ => if d = c then { r with op := .visit c false, sweep := id } else r
  | _ => r

/-- A CAID enters Sweeping-surprise (R72, R73): visits of its earlier sweeps that wait or run become the surprise sweep's. -/
def Eng.surprise (e : Eng) (c cause : Nat) : Eng :=
  let pools := e.obj CAID_POOLS c ||| e.obj CAID_SWEEP_POOLS c
  let e := ((e.set CAID_SWEEP_POOLS c pools).set CAID_POOLS c 0).set CAID_STATE c 3
  let e := e.breakCaid c cause
  let (id, e) := e.draw
  let mine (r : Req) : Bool := match r.op with | .visit d _ => d == c | _ => false
  let left := ((e.qf ++ e.lineq).filter fun q => mine q.req).length + (e.inbound.filter fun r => mine r).length
    + (e.ctxs.filter fun x => mine x.req).length
  let mp (q : QEnt) : QEnt := { q with req := q.req.surprise c id }
  let e := { e with qf := e.qf.map mp, lineq := e.lineq.map mp,
                    stages := e.stages.map (fun (s : Nat × Nat × Req) => (s.1, s.2.1, s.2.2.surprise c id)),
                    gal := e.gal.map (fun (m : GMsg) => { m with req := m.req.map fun (r : Req) => r.surprise c id }),
                    sweeps := e.sweeps.filter (fun (w : Sweep) => w.caid != c),
                    ctxs := e.ctxs.map (fun (x : Ctx) => if x.req.caid == c && x.req.cls != 7 then { x with reqGone := true }
                      else if mine x.req then { x with req := if x.phase == Phase.opened then { x.req with sweep := id } else x.req.surprise c id } else x) }
  let hit := e.ctxs.filter fun x => x.phase == .opened && ((e.bitsSet x).any (fun t => t.caid == c) || (match x.want with | some ts => ts.contains c | none => false))
  (hit.foldl (fun e x => match e.ctx x.slice x.idx with | some x => e.departTarget x c id | none => e) (e.addSweep id c pools false true left)).runSweep id

/-- `xb_port_up[p]` has read 0 at more consecutive edges. At the fourth, port p departs: every CAID bound to it enters Sweeping-surprise; a
shorter fall has no effect but that the retry line is ignored meanwhile (R44, R72). -/
def Eng.portDepart (e : Eng) (p edges : Nat) : Eng :=
  let k := kget 0 p e.portLow + edges
  if !e.portUp.contains p then e
  else if k < 4 then { e with portLow := kput p k e.portLow }
  else
    let e := { e with portUp := dropNat p e.portUp, portLow := kdel p e.portLow }
    let cs := e.caidList.filter fun c => e.obj CAID_PORT c == p && (e.caidSt c == 1 || e.caidSt c == 2)
    cs.foldl (fun e c => e.surprise c 2) e

/-- A CAID enters Sweeping-planned (Table 03.5). -/
def Eng.planUnbind (e : Eng) (c : Nat) : Eng :=
  let pools := e.obj CAID_POOLS c ||| e.obj CAID_SWEEP_POOLS c
  let e := ((e.set CAID_SWEEP_POOLS c pools).set CAID_POOLS c 0).set CAID_STATE c 2
  e.startSweep c pools true

/-- A new pools value takes effect (Table 03.5, R67). -/
def Eng.setPools (e : Eng) (c new : Nat) : Eng :=
  let old := e.obj CAID_POOLS c
  let gone := maskOff old new 64
  if e.caidSt c = 0 then (if new = 0 then e else (e.set CAID_POOLS c new).set CAID_STATE c 1)
  else if e.caidSt c ≠ 1 then e
  else
    let e := if gone = 0 then e else e.breakPools c gone
    if new = 0 then e.planUnbind c
    else
      let e := e.set CAID_POOLS c new
      if gone = 0 then e
      else (e.set CAID_SWEEP_POOLS c (e.obj CAID_SWEEP_POOLS c ||| gone)).startSweep c gone false

/-! ## Pools (R62 to R64, R79) -/

/-- A window of a pool as given values say. -/
structure Win where
  p : Nat
  base : Nat
  units : Nat
  tm : Nat
  deriving DecidableEq, Repr

/-- Windows overlap. -/
def Win.overlaps (a b : Win) : Bool := decide (a.base < b.base + b.units * 2 ^ 30) && decide (b.base < a.base + a.units * 2 ^ 30)

/-- Tile-map index ranges overlap. -/
def Win.tmOverlaps (a b : Win) : Bool := decide (a.tm < b.tm + b.units * 512) && decide (b.tm < a.tm + a.units * 512)

/-- A window meets the form rules of R62 and R63. -/
def Win.formOk (w : Win) : Bool :=
  w.base % 2 ^ 30 == 0 && w.tm % 512 == 0 && decide (w.base + w.units * 2 ^ 30 ≤ 2 ^ 52) && decide (w.tm + w.units * 512 ≤ 33554432)

/-- Every tile-map page of a window's range is written (R79). -/
def Eng.tmWritten (e : Eng) (w : Win) : Bool := (List.range (2 * w.units)).all fun i => e.written.contains (w.tm / 256 + i)

/-- A mooring unit lies in a pool. -/
def Eng.unitIn (e : Eng) (p u : Nat) : Bool := decide (e.obj POOL_TMBASE p / 512 ≤ u) && decide (u < e.obj POOL_TMBASE p / 512 + e.obj POOL_UNITS p)

/-- The removal of pool p is refused with the busy status (R64). -/
def Eng.poolBusy (e : Eng) (p : Nat) : Bool :=
  (e.caidList.any fun c => bit (e.obj CAID_POOLS c) p || bit (e.obj CAID_SWEEP_POOLS c) p)
    || (e.leases.any fun l => l.2.st != .free && e.obj (LEASE_POOL + l.1 / 256) (l.1 % 256) == p)
    || (e.chans.any fun c => decide (e.obj POOL_TMBASE p ≤ c.tile) && decide (c.tile < e.obj POOL_TMBASE p + 512 * e.obj POOL_UNITS p))
    || (e.remoor.role != .none && e.unitIn p e.remoor.unit)
    || (e.rmgr.any fun m => e.unitIn p m.unit)
    || (match e.mswap with | some w => e.unitIn p w.unit | none => false)
    || e.obj POOL_STATE p == 2

/-- Lines of a sector in P. -/
def poisonLines (sector : Nat) (l : List LSt) : List Nat := ((List.range 4).filter fun k => nth .I l k == .P).map fun k => sector * 4 + k

/-- Queue the poisoned writes of lines in P. -/
def Eng.poisonWrites (e : Eng) (lines : List Nat) : Eng :=
  { e with evb := e.evb ++ lines.map fun line => { slice := e.owner line, line := line, data := Data.ones, inBuf := true, ctx := none, poison := true } }

/-- Pool p becomes absent: it reads purging, and the purge of its state starts (R64). -/
def Eng.purge (e : Eng) (p : Nat) : Eng :=
  let base := e.poolBase p
  let units := e.obj POOL_UNITS p
  let tm := e.obj POOL_TMBASE p
  let here (sector : Nat) : Bool := decide (base ≤ sector * 4) && decide (sector * 4 < base + units * unitLines)
  let e := { ((e.set POOL_UNITS p 0).set POOL_STATE p 2) with purges := e.purges ++ [(p, base, units, tm)] }
  -- step 1 at the slices
  let ways := e.sfa.filter fun w => here w.sector && !w.resv
  let spilt := e.spill.filter fun s => here s.sector && !s.back
  let found := (ways.map fun w => (w.sector, w.l)) ++ spilt.map fun s => (s.sector, s.l)
  let e := found.foldl (fun e w => w.2.foldl (fun e st => e.uncount st) e) e
  let e := e.poisonWrites (found.flatMap fun w => poisonLines w.1 w.2)
  let e := { e with sfa := (e.sfa.map fun (w : SfaWay) => if here w.sector && !w.resv then { w with l := allI, dirty := w.dbs } else w).filter
                              (fun (w : SfaWay) => !(here w.sector && !w.resv && !w.dbs)),
                    spill := e.spill.map (fun (s : Spill) => if here s.sector then { s with l := allI } else s),
                    hIdle := e.hIdle.filter (fun (h : HIdle) => !here (h.line / 4)) }
  -- step 2: the HDC lines of the pool leave, dirty ones by write-back
  let hw := e.hdc.filter fun w => here w.sector
  let e := hw.foldl (fun e w => e.hdcEvict w) e
  -- step 1 at the DBS controllers
  let pages := if e.dbsUp then ascend (e.dbs.map fun q => q.page) else []
  let e := pages.foldl (fun e pg => e.newSeq (.purgePage p pg) (pageCh pg) 0 (some pg) [rds (e.wholeDbs pg)]) e
  e.startWbacks

/-- A page of a purge has been read, or written back without the pool's lines; a page that holds none of them is not written (R64). -/
def Eng.purgePageStage (e : Eng) (s : DSeq) (p page : Nat) : Eng :=
  let (e, ok) := if s.ph = 1 then e.decodePage s (e.dbsAddr page 0) false else (e, true)
  if s.wbad || !ok then (e.taintPage page).endSeq s.id
  else match e.purges.find? fun q => q.1 == p, e.page page with
    | some q, some pg =>
      let here (sector : Nat) : Bool := decide (q.2.1 ≤ sector * 4) && decide (sector * 4 < q.2.1 + q.2.2.1 * unitLines)
      let mine := pg.bursts.filter fun b => here b.sector
      if s.ph = 1 then (if mine.isEmpty then e.endSeq s.id else (e.markH0 s).nextStages s.id [wrs (e.wholeDbs page)]) else
      let loose := mine.filter fun b => (e.sfaFind (e.owner (b.sector * 4)) b.sector).isNone && (e.spillFind (e.owner (b.sector * 4)) b.sector).isNone
      let e := loose.foldl (fun e b => b.l.foldl (fun e st => e.uncount st) e) e
      let e := e.poisonWrites (loose.flatMap fun b => poisonLines b.sector b.l)
      let e := mine.foldl (fun e b => e.unitDbsAdd b.psn false) e
      let e := { e with sfa := e.sfa.filter fun (w : SfaWay) => !(here w.sector && !w.resv) }
      ((e.setPage (pg.without here s.h0)).endSeq s.id).startWbacks
    | _, _ => e.endSeq s.id

/-- Something of a purging pool is left: a page to rewrite, a write-back, a spill entry, or a context (R64). -/
def Eng.purgeBusy (e : Eng) (q : Nat × Nat × Nat × Nat) : Bool :=
  let inWin (line : Nat) : Bool := decide (q.2.1 ≤ line) && decide (line < q.2.1 + q.2.2.1 * unitLines)
  (e.seqs.any fun s => match s.kind with | .purgePage r _ => r == q.1 | _ => false)
    || (e.evb.any fun v => inWin v.line) || (e.spill.any fun s => inWin (s.sector * 4)) || (e.ctxs.any fun x => inWin x.req.line)

/-- POOL_PURGE_COMPLETE: both steps of the purge have ended everywhere (R64 step 3). -/
def Eng.purgeDone (e : Eng) (p : Nat) : Eng :=
  match e.purges.find? fun q => q.1 == p with
  | none => e
  | some q =>
    if e.purgeBusy q then e
    else { (e.set POOL_STATE p 0) with purges := e.purges.filter fun (r : Nat × Nat × Nat × Nat) => r.1 != p }

end Sys2Proof.Machine
end

