-- ==== Sys2Proof/Machine/DramPort.lean ====
section
/-! DEFINITION. Sys2Proof/Machine/DramPort.lean: commands and responses of the DRAM port, the stages of every sequence,
and the overflow messages between the DBS controllers and the slices (R48, R49, R145 to R151, R298, R301). -/
namespace Sys2Proof.Machine
open Ob

/-! ## Scrub and retirement sequences (R298, R301) -/

/-- A page of the DBS scrub has been read, or rewritten whole (R298). -/
def Eng.scrubStage (e : Eng) (s : DSeq) (page : Nat) : Eng :=
  if s.refused then e.endSeq s.id
  else if s.ph = 1 then
    let (e, ok) := e.decodePage s (e.dbsAddr page 0) false
    if !ok then (e.taintPage page).endSeq s.id
    else if s.corr || !s.wrong.isEmpty then (e.markH0 s).nextStages s.id [wrs (e.wholeDbs page)]
    else e.endSeq s.id
  else if s.wbad then (e.taintPage page).endSeq s.id
  else match e.page page with
    | some q => (e.setPage (q.whole s.h0)).endSeq s.id
    | none => e.endSeq s.id

/-- A page under retirement is lost as its own table says (R144, Table 12.4). -/
def Eng.pageLost (e : Eng) (page : Nat) (tile : Bool) : Eng := if tile then e.tilePageLost page else e.taintPage page

/-- A retirement ends, with its log entry (R301). -/
def Eng.retireEnd (e : Eng) (s : DSeq) (page : Nat) (tile : Bool) : Eng :=
  let addr := if tile then e.tileAddr page 0 else e.dbsAddr page 0
  ((e.rasEntry (if tile then 0xB else 9) 5 s.ch (addr * 64) 0 0).set RAS_RETIRE_BUSY 0 0).endSeq s.id

/-- The stages of a page retirement: the page has been read, or the spare written (R301). -/
def Eng.retireStage (e : Eng) (s : DSeq) (el page : Nat) (tile : Bool) : Eng :=
  let base := if tile then e.tileAddr page 0 else e.dbsAddr page 0
  if s.refused then e.retireEnd s page tile
  else if s.ph = 1 then
    let (e, ok) := e.decodePage s base tile
    let e := if ok then e else e.pageLost page tile
    e.nextStages s.id [wrs ((List.range 64).map fun x => e.ob RAS_SPARE_BASE / 64 + el * 64 + x)]
  else if s.wbad then (e.pageLost page tile).retireEnd s page tile
  else
    let e := { e with remap := (page, el, tile) :: e.remap,
                      ras := { e.ras with avoid := if tile then e.ras.avoid else e.ras.avoid.filter fun (a : Nat × Nat × Nat) => a.2.1 != page } }
    (e.set RAS_SPARES_LEFT 0 (e.ob RAS_SPARES_LEFT - 1)).retireEnd s page tile

/-! ## The end of a stage -/

/-- What follows a stage whose last access has ended. -/
def Eng.stageEnd (e : Eng) (s : DSeq) : Eng :=
  match s.kind with
  | .fill sl sec b => e.fillStage s sl sec b
  | .fillDecode sl sec => e.fillDecodeStage s sl sec
  | .walk sl i => e.walkStage s sl i
  | .walkDecode sl i => e.walkDecodeStage s sl i
  | .rewrite sl sec => e.inPlaceStage s sl sec
  | .release sl sec => e.inPlaceStage s sl sec
  | .place sl sec => e.placeStage s sl sec
  | .overflow p => e.overflowStage s p
  | .decode p _ => e.decodeStage s p
  | .tileWrite p => e.tileWriteStage s p
  | .heat p => e.heatStage s p
  | .sweepHdr c p => e.sweepHdrStage s c p
  | .sweepPage c p => e.sweepPageStage s c p
  | .unitPage i p => e.unitPageStage s i p
  | .purgePage q p => e.purgePageStage s q p
  | .scrub _ p => e.scrubStage s p
  | .retire el p t => e.retireStage s el p t
  | .smpRing => e
  | .trcRing => e

/-- Decide what follows for every sequence whose stage has ended, and present what may be presented; `k` bounds the rounds
(a stage whose every access the Guard refuses ends as it is presented). -/
def Eng.settle : Nat → Eng → Eng
  | 0, e => e
  | k + 1, e =>
    match e.seqs.find? fun s => s.pend && s.out == 0 with
    | none => e
    | some s =>
      let s' := { s with pend := false }
      Eng.settle k (((e.updSeq s.id fun _ => s').stageEnd s').presentAll)

/-- Rounds that settle every sequence: at most 8 for each stage still to come. -/
def Eng.settleAll (e : Eng) : Eng := Eng.settle (64 + 16 * e.seqs.length) e

/-! ## Commands and responses (R48, R49) -/

/-- The carrier takes the command the channel presents (R48); the channel presents its next. -/
def Eng.dramTaken (e : Eng) (ch : Nat) : Eng :=
  let e := e.dramPresent ch
  match e.dcmds.find? fun c => c.ch == ch && c.tag.isSome with
  | none => e
  | some c =>
    let e := e.pm (33 + ch) (if c.a.op = .rd then 0x40 else 0x41) 1
    Eng.dramPresent { e with dcmds := e.dcmds.erase c, dopen := e.dopen ++ [({ ch := ch, tag := c.tag.getD 0, seq := c.seq, a := c.a, taken := e.ts } : DOpen)] } ch

/-- The table whose entries an access covers: store 0xA for the tile map, store 8 for the DBS (Table 12.1). -/
def SeqK.store : SeqK → Nat
  | .walk .. | .walkDecode .. | .tileWrite _ | .heat _ => 0xA
  | .retire _ _ t => if t then 0xA else 8
  | _ => 8

/-- A ring writer's sequence (R378). -/
def SeqK.isRing : SeqK → Bool
  | .smpRing => true
  | .trcRing => true
  | _ => false

/-- An open access of a sequence has ended. -/
def Eng.accEnd (e : Eng) (o : DOpen) (f : DSeq → DSeq) : Eng :=
  e.updSeq o.seq fun s => f { s with out := s.out - 1 }

/-- A command is timed out: its tag is withheld until a reset, and it counts as a failed access (R49). -/
def Eng.dramLate (e : Eng) (o : DOpen) : Eng :=
  let e := { e.inc RAS_DRAM_TIMEOUTS o.ch with dopen := e.dopen.erase o, withheld := e.withheld ++ [(o.ch, o.tag)] }
  if e.foghorn then e
  else if o.a.op = .rd then e.accEnd o fun s => { s with bad := s.bad ++ [(o.a.addr, none)] }
  else e.accEnd o fun s => { s with wbad := true }

/-- A response up to 8,000 ns after its command was taken is within the limit (R49). -/
def DOpen.inTime (o : DOpen) (now : Nat) : Bool := decide (now ≤ o.taken + 8000)

/-- Take a response away from the open commands. One after the limit finds its command timed out; it, and any other that carries a
withheld tag, is discarded and counted (R49). -/
def Eng.dramRsp (e : Eng) (ch tag : Nat) (wr : Bool) : Eng × Option DOpen :=
  match e.dopen.find? fun o => o.ch == ch && o.tag == tag && (o.a.op != .rd) == wr with
  | some o => if o.inTime e.ts then ({ e with dopen := e.dopen.erase o }, some o) else ((e.dramLate o).inc RAS_DRAM_LATE ch, none)
  | none => (if e.withheld.contains (ch, tag) then e.inc RAS_DRAM_LATE ch else e, none)

/-- Entries of a burst that carry the entry code: the four of a sector burst or of a tile-map burst, the header of H0, none of another
head burst (Tables 03.7, 06.4). -/
def codedWords (store addr : Nat) : List Nat := if store = 8 ∧ addr % 64 < 4 then (if addr % 64 = 0 then [0] else []) else [0, 1, 2, 3]

/-- Bits [128k+127:128k] of a burst. -/
def quarter (d : Data) (k : Nat) : Nat := bits d.toNat (128 * k + 127) (128 * k)

/-- The part of a burst's difference that no entry code sees. -/
def softPart (store addr : Nat) (d : Data) : Data :=
  BitVec.ofNat 512 (((List.range 4).map fun k =>
    if (codedWords store addr).contains k && symRead 29 (quarter d k) != Ecc.ok then 0 else quarter d k * 2 ^ (128 * k)).sum)

/-- Read the coded entries of a burst (R294, R297): the counts, whether one was corrected, and whether one is beyond correction. -/
def Eng.burstRead (e : Eng) (store ch addr : Nat) (d : Data) : Eng × Bool × Bool :=
  (codedWords store addr).foldl (fun a k =>
    match symRead 29 (quarter d k) with
    | .ok => a
    | .corr pos syn => (a.1.corrected store ch (addr * 64 + 16 * k) pos syn false, true, a.2.2)
    | .bad syn => (a.1.uncorrectable store ch (addr * 64 + 16 * k) syn, a.2.1, true)) (e, false, false)

/-- `dr_rd_vld` with a tag, `dr_rd_err`, and the bits in which `dr_rd_data` differs from what the block wrote there (R48, R49, R294,
R297; log entry 8). Under Foghorn it is discarded. -/
def Eng.dramRead (e : Eng) (ch tag : Nat) (err : Bool) (diff : Data) : Eng :=
  match e.dramRsp ch tag false with
  | (e, none) => e
  | (e, some o) =>
    if e.foghorn then e
    else
      let st := match e.seqs.find? fun s => s.id == o.seq with | some s => s.kind.store | none => 8
      if err then (e.uncorrectable st ch (o.a.addr * 64) 0).accEnd o fun s => { s with bad := s.bad ++ [(o.a.addr, none)] }
      else if diff = 0 then e.accEnd o id
      else
        let (e, corr, bad) := e.burstRead st ch o.a.addr diff
        let soft := softPart st o.a.addr diff
        e.accEnd o fun s => { s with corr := s.corr || corr, bad := if bad then s.bad ++ [(o.a.addr, some diff)] else s.bad,
                                     soft := if bad || soft == 0 then s.soft else s.soft ++ [(o.a.addr, soft)] }

/-- `dr_wc_vld` with a tag (R48): the write succeeded. Under Foghorn it is discarded. -/
def Eng.dramWrite (e : Eng) (ch tag : Nat) : Eng :=
  match e.dramRsp ch tag true with
  | (e, none) => e
  | (e, some o) => if e.foghorn then e else e.accEnd o id

/-- A command without a response by edge A + 8,000 is timed out at the next one (R49). -/
def Eng.dramTimeout (e : Eng) (ch tag : Nat) : Eng :=
  match e.dopen.find? fun o => o.ch == ch && o.tag == tag with
  | none => e
  | some o => if o.inTime e.ts then e else e.dramLate o

/-! ## Spill sequences (R145 to R147) -/

/-- A spill entry may start its sequence: an earlier one of its sector has started (R148). -/
def Eng.spillMay (e : Eng) (s : Spill) : Bool :=
  s.seq.isNone && (match e.spill.find? fun t => t.slice == s.slice && t.sector == s.sector && t.seq.isNone with | some t => decide (t = s) | none => false)

/-- Start the sequence of the slice's oldest spill entry of a kind that may start one (R119, R145 to R147, R149). -/
def Eng.spillStart (e : Eng) (slice : Nat) (k : SpillK) : Eng :=
  match e.spill.find? fun s => s.slice == slice && s.kind == k && e.spillMay s with
  | some s => if e.dbsUp then e.startSpill s else e
  | none => e

/-! ## Overflow (R150, R151) -/

/-- Allocate the contexts of an eviction's live lines from the internal share; none where they do not all fit. -/
def Eng.evictCtxs (e : Eng) (slice page tileI : Nat) (t : Tent) : List Nat → Eng → Option (Eng × List Ctx)
  | [], e1 => some (e1, [])
  | line :: rest, e1 =>
    match e1.shareFor slice 7, e1.pick ((List.range 8192).filter fun i => e1.idxFree slice i) with
    | some sh, some (idx, e2) =>
      let x := { mkCtx e2 slice idx sh (intReq e2 (.evict page) 2 0x10 line) tileI with tile := some t, phase := .opened }
      let e3 := { e2 with ctxs := e2.ctxs ++ [x], fresh := e2.fresh + 1 }
      (Eng.evictCtxs e slice page tileI t rest e3).map fun p => (p.1, x :: p.2)
    | _, _ => none

/-- The single target that all four lines of a sector need `BISnpInv` to, if there is one (R151 step 6). -/
def Eng.oneTarget (e : Eng) (l : List LSt) : Option Nat :=
  match (l.map fun s => match s with | .X c => some c | .S1 c => some c | _ => none).eraseDups with
  | [some c] => if e.caidSt c = 3 then none else some c
  | _ => none

/-- A context of an eviction opens with its round to target c waiting; the block that covers all four lines is sent as the first of them
takes a slot (R99, R151 step 6). -/
def Eng.evictWait (e : Eng) (x : Ctx) (c : Nat) : Eng :=
  let x := { x with phase := .opened, start := e.lineSt x.slice x.req.line, snp := .inv, want := some [c], topen := e.ts, stampL := e.ts - x.req.t0, fl := setBit x.fl 0 }
  let (e, x) := e.markOpen { x with tc := .evB }
  e.setCtx x

/-- The contexts of an eviction open in the same cycle (R151 steps 3 to 6). -/
def Eng.evictOpen (e : Eng) (xs : List Ctx) (l : List LSt) : Eng :=
  match e.oneTarget l, xs with
  | some c, x :: _ =>
    let e := xs.foldl (fun e x => e.evictWait x c) e
    let e := e.advIdx x.slice x.idx
    match e.ctx x.slice x.idx with | some y => e.slotWait y | none => e
  | _, _ => xs.foldl (fun e x => match e.ctx x.slice x.idx with | some x => e.openCtx x | none => e) e

/-- An eviction of a sector starts at its slice: contexts open for its live lines, and its entry is in the SFA or in a
spill-buffer entry marked evicting (R151 steps 2 to 6). Nothing happens yet where a request waits for one of its live lines,
where an ownership grant still holds one (R103), where its tile-map entry has still to be read, or where no class 7 header slot (R173) or
no context is free;
the second part tells. A sector with no live line needs no context and no tile-map entry. -/
def Eng.evictStart (e : Eng) (page slice sector psn burst : Nat) (way : Option SfaWay) (bl : List LSt) : Eng × Bool :=
  let l := match way with | some w => w.l | none => bl
  let ks := (List.range 4).filter fun k => decide (nth .I l k ≠ .I)
  let lines := ks.map fun k => sector * 4 + k
  let busy := e.lineq.any fun r => r.slice == slice && lines.contains r.req.line
  let heldW := lines.any fun line => e.hold.any fun h => h.line == line && (match h.ends with | none => true | some t => decide (e.ts < t))
  let i := (e.tileOfLine (sector * 4)).getD 0
  if busy || heldW then (e, false)
  else if !ks.isEmpty && (e.tcFind slice i).isNone then (if (e.tileOfLine (sector * 4)).isSome then e.startWalk slice i else e, false)
  else
    match (e.takeSlot slice 7 0 e.fresh false).bind fun e1 => Eng.evictCtxs e1 slice page i ((e1.tcFind slice i).elim tent0 fun t => t.ent) lines e1 with
    | none => (e, false)
    | some (e1, xs) =>
      let e1 := if xs.isEmpty then e1.freeSlots e.fresh else e1
      let e1 := { e1 with evicts := e1.evicts ++ [({ page := page, slice := slice, sector := sector, psn := psn, left := ks, inSfa := way.isSome, keptP := false, burst := burst } : Evict)] }
      let e1 := if way.isSome then e1
        else { e1 with spill := e1.spill ++ [({ slice := slice, sector := sector, psn := psn, l := bl, kind := .evicting, dbs := true, slot := burst, seq := none, chosen := none, back := false } : Spill)] }
      let e1 := (e1.addObj DBS_EVICT_LINES 0 lines.length).updOv page .evictSent fun o => { o with st := .serving, lines := lines.length }
      (if xs.isEmpty then e1.evictDone page (sector * 4) false else e1.evictOpen xs l, true)

/-- The slice answers DECLINE for a sector (R151 step 1, R272): a line of it is pinned, a fill's reserved way included, or it is in the
spill buffer, or it is in no way and no spill-buffer entry is free. -/
def Eng.evictDeclines (e : Eng) (slice sector : Nat) : Bool :=
  (match e.sfaFind slice sector with | some w => e.pinned w | none => decide (16 ≤ e.spillUsed slice))
    || (e.spillFind slice sector).isSome || (e.fills.any fun f => f.slice == slice && f.sector == sector) || e.mirrorsLine (sector * 4)

/-- A slice receives EVICT for the sector a running overflow named (R151 steps 1 to 6, R272). -/
def Eng.evict (e : Eng) (page : Nat) : Eng :=
  match e.overflows.find? fun o => o.page == page && decide (o.st = .evictSent) with
  | none => e
  | some o =>
    match e.page page with
    | none => e
    | some q =>
      match q.bursts.find? fun b => b.b == o.asked with
      | none => e
      | some b =>
        let slice := e.owner (b.sector * 4)
        let e := e.galSend .evict 7 (33 + pageCh page) slice
        if e.evictDeclines slice b.sector then
          e.updOv page .evictSent fun o => { o with st := .declineSent, shadow := o.shadow || e.mirrorsLine (b.sector * 4) }
        else (e.evictStart page slice b.sector b.psn b.b (e.sfaFind slice b.sector) b.l).1

/-- A shed record's sector at its home: handled as an EVICT (R272). The eviction has no overflow and no page lock here, so it
takes the name 2^20 + sector in place of a page. The second part tells that the record has been acted on. -/
def Eng.shedEvict (e : Eng) (sector : Nat) : Eng × Bool :=
  let slice := e.owner (sector * 4)
  let psn := e.psn (sector * 4)
  let way := e.sfaFind slice sector
  let bur : Option Burst := match e.page (dbsPage e.sfKey psn) with | some q => q.bursts.find? fun (b : Burst) => b.sector == sector | none => none
  if e.evictDeclines slice sector then (e, true)
  else match way, bur with
    | none, none => (e, true)
    | some w, _ => e.evictStart (2 ^ 20 + sector) slice sector w.psn w.slot way w.l
    | none, some b => e.evictStart (2 ^ 20 + sector) slice sector b.psn b.b none b.l

/-- The controller receives a DECLINE, or a KEPT (R150 step 4, R151 step 7). DBS_EVICT_DECLINES counts each decline, and R151 has the
controller treat a kept burst as declined, so the model counts it as well, though Table 06.10 names DECLINE answers (DESIGN CHOICE, log
entry 55). -/
def Eng.declined (e : Eng) (page : Nat) (st : OvSt) : Eng :=
  match e.overflows.find? fun o => o.page == page && o.st == st with
  | none => e
  | some o => (((e.galSend .evict 7 (e.owner (o.vsector * 4)) (33 + pageCh page)).inc DBS_EVICT_DECLINES).updOv page st fun o => { o with declined := o.asked :: o.declined }).ovNext o.id

/-- A completed overflow is logged and closed (R150 step 5, Table 06.8). Where a burst was kept and every burst had declined once, the
model logs outcome 2: Table 06.8 gives no order of the two (DESIGN CHOICE, log entry 55). -/
def Eng.ovClosed (e : Eng) (o : Overflow) : Eng :=
  let e := e.ovLog o (if o.allDeclined then 2 else if o.kept then 1 else 0)
  { e with overflows := e.overflows.filter fun (x : Overflow) => x.id != o.id }

/-- The sector that waited for a burst is placed in burst f of its page (R146, R150 step 5). -/
def Eng.ovPlace (e : Eng) (s : DSeq) (z : Spill) (q : DbsPage) (f : Nat) : Eng :=
  let e := e.choose z.slice z.sector s.id f
  Eng.presentAll ((e.updSeq s.id fun t => { t with kind := .place z.slice z.sector }).nextStages s.id (e.placeStages q z.psn f))

/-- The controller receives COMPLETE: the waiting sector is placed in the first free burst (R150 step 5). -/
def Eng.complete (e : Eng) (page : Nat) : Eng :=
  match e.overflows.find? fun o => o.page == page && decide (o.st = .completeSent) with
  | none => e
  | some o =>
    let e := e.ovClosed o
    match e.seqs.find? fun s => s.id == o.id with
    | none => e
    | some s =>
      match e.seqSpill o.zslice o.zsector s.id, e.page page with
      | some z, some q =>
        match firstFree q (dbsHome z.psn) (e.avoidOf page) with
        | some f => e.ovPlace s z q f
        | none => Eng.presentAll (e.updSeq s.id fun t => { t with kind := .place z.slice z.sector, stages := [rds (e.heads page)], bad := [], soft := [], ph := 0 })
      | _, _ => e.endSeq s.id

/-- An overflow reads its page again from step 1, once it has its lock (R150 step 4). -/
def Eng.ovAgain (e : Eng) (s : DSeq) (page : Nat) : Eng :=
  let e := e.updOv page .retryWait fun o => { o with st := .reading }
  Eng.presentAll (e.updSeq s.id fun t => { t with whole := 0, locked := false, lock := some page, stages := [rds (e.wholeDbs page)], bad := [], soft := [], ph := 0 })

/-- DBS_EVICT_RETRY has passed after every burst declined: the overflow restarts at step 1 (R150 step 4). -/
def Eng.evictRetry (e : Eng) (page : Nat) : Eng :=
  match e.overflows.find? fun o => o.page == page && decide (o.st = .retryWait) with
  | none => e
  | some o =>
    if e.ts < o.retryAt then e
    else match e.seqs.find? fun s => s.id == o.id with
      | none => e
      | some s => e.ovAgain s page

end Sys2Proof.Machine
end

