-- ==== Sys2Proof/Machine/HdcLease.lean ====
section
/-! DEFINITION. Sys2Proof/Machine/HdcLease.lean: idle moves out of H, disabling, enabling, preloads and locks of the HDC, and
the Lease Lock Unit (R191, R196, R197, R202, R204 to R210). -/
namespace Sys2Proof.Machine
open Ob

/-! ## Moves out of H without a context (R202) -/

/-- Write I to a line in H, its copy kept, once its sector is in the SFA; where it is not, the sector is brought there
first. True where the move was made. -/
def Eng.hMove (e : Eng) (line : Nat) : Eng × Bool :=
  let slice := e.owner line
  let sector := line / 4
  if (e.lineCtx line).isSome || (e.lineq.any fun q => q.slice == slice && q.req.line == line) || e.evicting slice sector then (e, false)
  else if e.waiters.any fun w => w.slice == slice && w.sector == sector then (e, false)
  else
    let set := sfaSet e.sfKey (e.psn line)
    match (e.sfaCheck slice sector).dirLookup slice sector (e.psn line) false with
    | (e, .ready) =>
      if e.lineSt slice line = .H then (((e.setLine slice line .I).1).hLeave slice line, true) else (e.hLeave slice line, false)
    | (e, .filling) => (e.startFills, false)
    | (e, .noWay) =>
      let e := ((e.inc SF_CONFLICT_WAITS).pm slice 0x1A 1).pressureUp slice set
      ({ e with waiters := e.waiters ++ [({ slice := slice, set := set, sector := sector, psn := e.psn line, ctx := none } : Waiter)] }, false)

/-- H_IDLE_EXIT: ATOM_H_IDLE has passed since the line's last AtomicOp (R202). -/
def Eng.hIdleExit (e : Eng) (line : Nat) : Eng :=
  match e.hIdle.find? fun h => h.line == line with
  | none => e
  | some h =>
    if e.ts < h.since + e.ob ATOM_H_IDLE || e.mirrorsLine line then e
    else match e.hMove line with
      | (e, true) => e.inc ATOM_H_IDLE_EXITS
      | (e, false) => e

/-! ## Disabling and enabling (R196, R197) -/

/-- Lines in H of a slice's own units; a shadow entry in H is its home's (R194, R196, R271). -/
def Eng.hLines (e : Eng) (slice : Nat) : List Nat :=
  (e.hIdle.filter fun h => e.owner h.line == slice && !e.mirrorsLine h.line).map fun h => h.line

/-- A line, with its set and its place in the set, goes into a list that the walk visits by ascending set, and in a set by the free order
`key`: R196 orders the sets only. -/
def visitIn (key : Nat → Nat) (a : Nat × Nat × Nat) : List (Nat × Nat × Nat) → List (Nat × Nat × Nat)
  | [] => [a]
  | b :: t => if a.1 < b.1 ∨ (a.1 = b.1 ∧ key a.2.1 < key b.2.1) then a :: b :: t else b :: visitIn key a t

/-- One pass of the walk of a slice: lines in H move to I, and write-backs of dirty lines start, set by set in ascending
order (R196 steps 4 and 5), the lines of a set in an order the spec leaves open (log entry 6). -/
def Eng.hdcWalk (e : Eng) (slice : Nat) : Eng :=
  let hs := e.hLines slice
  let e := hs.foldl (fun e l => (e.hMove l).1) e
  let ways := (e.hdc.filter fun w => w.slice == slice && !(dirtyLines w).isEmpty)
  let lines := ways.flatMap fun w => (dirtyLines w).map fun k => (w.set, w.way * 4 + k, w.sector * 4 + k)
  let dirty := (lines.foldl (fun l a => visitIn (fun k => Config.choice (e.fresh + k)) a l) []).map fun a => a.2.2
  let e := { e with fresh := e.fresh + 64 }
  let new := dirty.filter fun l => !(e.evb.any fun v => v.slice == slice && v.line == l && !v.inBuf)
  let e := { e with evb := e.evb ++ new.map fun (l : Nat) => ({ slice := slice, line := l, data := 0, inBuf := false, ctx := none } : EvLine) }
  e.startWbacks

/-- A commit of HDC_ENABLE = 0 (R196): disabling starts where HDC_STATUS reads enabled. A preload that it stops has no line left to fill:
the model has HDC_PRELOAD_BUSY read 0 from the commit edge, while fills already open end as they would (DESIGN CHOICE, log entry 55). -/
def Eng.hdcDisable (e : Eng) : Eng :=
  let e := e.set HDC_ENABLE 0 0
  if e.ob HDC_STATUS = 1 then
    let e := { (e.set HDC_STATUS 0 2) with hdcLeft := e.sliceList, preload := none }
    e.sliceList.foldl (fun e s => e.hdcWalk s) e
  else e

/-- A slice holds no dirty line, no line in H, no open write-back and no reservation (R196 step 6). -/
def Eng.hdcQuiet (e : Eng) (slice : Nat) : Bool :=
  (e.hdc.all fun w => w.slice != slice || ((dirtyLines w).isEmpty && w.resv.isEmpty))
    && (e.hLines slice).isEmpty && !(e.evb.any fun v => v.slice == slice)

/-- Every way of a quiet slice clears; the last slice makes HDC_STATUS read disabled (R196 steps 6 and 7). -/
def Eng.hdcClear (e : Eng) (slice : Nat) : Eng :=
  let wasted := ((e.hdc.filter fun w => w.slice == slice).map fun w => ((List.range 4).filter fun k => nth false w.lv k && nth false w.lp k).length).sum
  let e := { e.addObj HDC_PF_WASTED 0 wasted with hdc := e.hdc.filter (fun (w : HWay) => w.slice != slice), hdcLeft := dropNat slice e.hdcLeft }
  if e.hdcLeft.isEmpty then e.set HDC_STATUS 0 0 else e

/-- HDC_DISABLE_FINISH of a slice: the walk goes on, and with nothing left every way clears; the last slice makes
HDC_STATUS read disabled (R196 steps 4 to 6). -/
def Eng.hdcFinish (e : Eng) (slice : Nat) : Eng :=
  if e.ob HDC_STATUS ≠ 2 ∨ !e.hdcLeft.contains slice then e
  else
    let e := e.hdcWalk slice
    if e.hdcQuiet slice then e.hdcClear slice else e

/-- A commit of HDC_ENABLE = 1: enabled at once where it reads disabled (R197). -/
def Eng.hdcEnable (e : Eng) : Eng :=
  let e := e.set HDC_ENABLE 0 1
  if e.ob HDC_STATUS = 0 then { (e.set HDC_STATUS 0 1) with hdc := [] } else e

/-! ## Preload and locks (R191) -/

/-- Fills of a preload under way. -/
def Eng.preloadOpen (e : Eng) : Nat :=
  ((e.qf ++ e.lineq).filter fun q => q.req.op matches .preload _).length
    + (e.inbound.filter fun r => r.op matches .preload _).length
    + (e.ctxs.filter fun x => x.req.op matches .preload _).length

/-- Issue the next lines of a preload in ascending order, while fewer than 32 are under way; the preload ends with its last
line (R191; the bound is log entry 21). -/
def Eng.preloadStep : Nat → Eng → Eng
  | 0, e => e
  | k + 1, e =>
    match e.preload with
    | none => e
    | some p =>
      if p.last < p.next then (if e.preloadOpen = 0 then { e with preload := none } else e)
      else if 32 ≤ e.preloadOpen then e
      else
        let e1 := { e with preload := some { p with next := p.next + 1 } }
        Eng.preloadStep k (if e.preloadFull p.next then e1.inc HDC_PRELOAD_SKIPPED else e1.sendOwn (.preload p.lock) p.next)

/-- HDC_PRELOAD (R191): a range starts to preload. While the HDC is not enabled there is no preload, and nothing starts. -/
def Eng.hdcPreload (e : Eng) (v : Nat) : Eng :=
  let first := bits v 51 8 * 4
  let len := bits v 83 52 * 4
  if e.ob HDC_STATUS ≠ 1 ∨ len = 0 then e
  else Eng.preloadStep 64 { e with preload := some { next := first, last := first + len - 1, lock := bit v 84 } }

/-- HDC_UNLOCK_ALL: every `lock` bit clears (R191). -/
def Eng.hdcUnlock (e : Eng) : Eng := { e with hdc := e.hdc.map fun (w : HWay) => { w with lock := false } }

/-! ## The Lease Lock Unit (R204 to R210) -/

/-- A Free lease that has never been held. -/
def lease0 : Lease := { st := .free, owner := 0, cause := 0, gen := 0, term := 0, deadline := 0, since := 0 }

/-- Lease l. -/
def Eng.lease (e : Eng) (l : Nat) : Lease := kget lease0 l e.leases

/-- Code of a lease state (Table 08.5). -/
def LeaseSt.code : LeaseSt → Nat
  | .free => 0 | .held => 1 | .broken => 2

/-- Pool of lease l. -/
def Eng.leasePool (e : Eng) (l : Nat) : Nat := e.obj (LEASE_POOL + l / 256) (l % 256)

/-- Lease deltas are emitted here (R268). -/
def Eng.leaseMirrored (e : Eng) : Bool :=
  e.mirOn && e.ob MIR_LEASE_NODE == e.ob HIER_NODE_ID

/-- Store a lease and emit its delta; the second part is the delta a completion waits for (R268, R270, Table 11.2). -/
def Eng.putLease (e : Eng) (l : Nat) (x : Lease) (brk acq : Bool) : Eng × Option Nat :=
  let e := { e with leases := kput l x e.leases }
  if e.leaseMirrored then
    let w := 2 + x.st.code * 2 ^ 4 + (if x.st = .held then x.owner else 0) * 2 ^ 8 + l * 2 ^ 16 + (if brk then x.cause else 0) * 2 ^ 28
      + b2n acq * 2 ^ 31 + x.term % 2 ^ 26 * 2 ^ 32 + x.gen % 64 * 2 ^ 58
    let e := e.galSend .delta 7 44 40
    ({ e with fresh := e.fresh + 1, mrecs := e.mrecs ++ [({ id := e.fresh, kind := 1, word := w, line := 0, st := .I } : MRec)] }, if e.mirHold then some e.fresh else none)
  else (e, none)

/-- Result word of a command (Table 08.5). -/
def leaseResult (outcome : Nat) (x : Lease) : Nat :=
  outcome + x.st.code * 2 ^ 3 + (if x.st = .held then x.owner else 0) * 2 ^ 5 + x.cause * 2 ^ 13 + x.gen * 2 ^ 32

/-- Term of an operand, in µs (R205). -/
def Eng.leaseTerm (e : Eng) (operand : Nat) : Nat :=
  let t := operand % 2 ^ 32
  if t = 0 then e.ob LEASE_TERM_DEFAULT else min t (e.ob LEASE_TERM_MAX)

/-- Commands of the Lease Lock Unit. -/
inductive LeaseCmd where
  | acquire | renew | release | query
  deriving DecidableEq, Repr

/-- Command of an AtomicOp at the lease window (R205). -/
def Req.leaseCmd (r : Req) : LeaseCmd :=
  if r.row = 1 then .query else if r.uoff = 0 then .acquire else if r.uoff = 8 then .renew else .release

/-- A lease with its deadline set (R206). -/
def Eng.leaseHeld (e : Eng) (x : Lease) (c term : Nat) (new : Bool) : Lease :=
  { x with st := .held, owner := c, term := term, deadline := e.ts + term * 1000,
           gen := if new then (x.gen + 1) % 2 ^ 32 else x.gen, since := if x.st = .held then x.since else e.ts }

/-- Table 08.6 for a command by CAID c: outcome, new entry, whether it changes, whether it is an acquisition. -/
def Eng.leaseStep (e : Eng) (cmd : LeaseCmd) (c operand : Nat) (x : Lease) : Nat × Lease × Bool × Bool :=
  let term := e.leaseTerm operand
  match cmd, x.st with
  | .query, _ => (6, x, false, false)
  | .acquire, .free => (0, e.leaseHeld x c term true, true, true)
  | .acquire, .broken => (1, e.leaseHeld x c term true, true, true)
  | .acquire, .held => if x.owner = c then (4, e.leaseHeld x c term false, true, false) else (2, x, false, false)
  | .renew, .held => if x.owner = c then (4, e.leaseHeld x c term false, true, false) else (3, x, false, false)
  | .release, .held => if x.owner = c then (5, { x with st := .free, owner := 0, since := e.ts }, true, false) else (3, x, false, false)
  | .renew, _ => (3, x, false, false)
  | .release, _ => (3, x, false, false)

/-- A completion returns through its slice, which writes the echo entry and sends it (R204, R127). -/
def Eng.leaseAnswer (e : Eng) (q : LeaseReq) (status result : Nat) : Eng :=
  let r := q.req
  let e := { e with leaseReqs := e.leaseReqs.filter fun (p : LeaseReq) => p.req.gid != r.gid }
  let d := BitVec.ofNat 512 result
  let e := e.galSend .leaseCompletion 4 44 q.slice
  ((e.freeData r.gid).atomAnswer q.slice r status d).1

/-- The leases are held at another node (R209, R271). -/
def Eng.leaseAway (e : Eng) : Bool := e.ob MIR_LEASE_NODE != 0xFF && e.ob MIR_LEASE_NODE != e.ob HIER_NODE_ID

/-- CAID c may use lease l: it is Bound, and the lease's pool is one of its pools (R205). -/
def Eng.mayLease (e : Eng) (c l : Nat) : Bool := e.caidSt c == 1 && decide (e.leasePool l < 64) && bit (e.obj CAID_POOLS c) (e.leasePool l)

/-- A command's outcome is applied to its lease, and answered at once or when its delta is acknowledged (R206, R270). -/
def Eng.leaseApply (e : Eng) (cmd : LeaseCmd) (q : LeaseReq) (l : Nat) : Eng :=
  let (out, x, chg, acq) := e.leaseStep cmd q.req.caid (getInt q.req.data 0 8) (e.lease l)
  let e := if acq then e.inc LEASE_ACQUIRES else e
  let (e, d) := if chg then e.putLease l x false acq else (e, none)
  match d with
  | none => e.leaseAnswer q 0 (leaseResult out x)
  | some d =>
    { e with leaseReqs := updFirst (fun (p : LeaseReq) => p.req.gid == q.req.gid)
                            (fun p => { p with delta := some d, status := 0, result := leaseResult out x }) e.leaseReqs }

/-- A command taken at stop 44 (R205, R206, R209). -/
def Eng.leaseServe (e : Eng) (cmd : LeaseCmd) (q : LeaseReq) : Eng :=
  let l := q.req.line - e.ob LEASE_BASE / 64
  if e.foghorn then e.leaseAnswer q 4 0
  else if e.leaseAway then e.leaseAnswer q 1 0
  else if e.mayLease q.req.caid l then e.leaseApply cmd q l
  else (e.inc LEASE_REFUSED).leaseAnswer q 1 0

/-- A command has been taken: break messages that it came before come nearer (R208). -/
def Eng.breaksNear (e : Eng) : Eng := { e with breaks := e.breaks.map fun (b : BreakMsg) => { b with after := b.after - 1 } }

/-- The oldest lease command that waits, where no break reached stop 44 before it (R208). -/
def Eng.leaseHead (e : Eng) : Option LeaseReq :=
  let first := match e.breaks with | b :: _ => b.after != 0 | [] => true
  if first then e.leaseReqs.find? fun q => q.status == 8 else none

/-- The unit takes the oldest waiting command, if it is of the kind given and no break reached it first (R205, R206, R208). -/
def Eng.leaseCmd (e : Eng) (cmd : LeaseCmd) : Eng :=
  match e.leaseHead with
  | none => e
  | some q => if q.req.leaseCmd = cmd then e.breaksNear.leaseServe cmd q else e

/-- Break lease l with a cause, if it is Held (Table 08.6). -/
def Eng.breakLease (e : Eng) (l cause : Nat) : Eng :=
  let x := e.lease l
  if x.st ≠ .held then e
  else
    let e := (e.inc LEASE_BROKEN)
    let e := if cause = 1 then e.inc LEASE_EXPIRED else e
    (e.putLease l { x with st := .broken, owner := 0, cause := cause, since := e.ts } true false).1

/-- The unit takes the oldest break message (R207, R208). Under Foghorn no state changes (R209). -/
def Eng.breakTrigger (e : Eng) : Eng :=
  match e.breaks with
  | [] => e
  | b :: rest =>
    if b.after ≠ 0 then e
    else
      let e := { e with breaks := rest }
      if e.foghorn then e
      else match b.lease, b.caid with
        | some l, some c => if (e.lease l).owner = c then e.breakLease l b.cause else e
        | some l, none => e.breakLease l b.cause
        | none, some c => (e.leases.filter fun p => p.2.st == .held && p.2.owner == c).foldl (fun e p => e.breakLease p.1 b.cause) e
        | none, none => e

/-- A Held lease has reached its deadline (R206, R209, R271: the mirror never expires a lease itself). -/
def Eng.leaseExpiry (e : Eng) (l : Nat) : Eng :=
  let x := e.lease l
  if x.st = .held ∧ x.deadline ≤ e.ts ∧ !e.brace ∧ !e.foghorn ∧ !e.leaseAway then e.breakLease l 1 else e

/-- A commit of LEASE_FREE sets a Held or Broken lease to Free (Table 08.6). -/
def Eng.leaseFree (e : Eng) (l : Nat) : Eng :=
  let x := e.lease l
  if x.st = .free then e else (e.putLease l { x with st := .free, owner := 0, since := e.ts } false false).1

/-- Every Held deadline moves later by the time spent in Brace (R209). -/
def Eng.leasesLater (e : Eng) (d : Nat) : Eng :=
  { e with leases := e.leases.map fun (p : Nat × Lease) => if p.2.st == .held then (p.1, { p.2 with deadline := p.2.deadline + d }) else p }

/-- LEASE_STATE of lease l, with its check bits (Table 08.8, R292). -/
def leaseEntry (x : Lease) : Nat :=
  let w0 := x.st.code + (if x.st = .held then x.owner else 0) * 2 ^ 2 + x.cause * 2 ^ 10 + x.gen * 2 ^ 14 + x.term * 2 ^ 46
  let w1 := x.deadline % 2 ^ 48 + x.since % 2 ^ 48 * 2 ^ 48
  w0 + secCheck 119 9 w0 * 2 ^ 119 + (w1 + secCheck 119 9 w1 * 2 ^ 119) * 2 ^ 128

/-! ## The ACK of a record (R270) -/

/-- The Draix ACK of a record has arrived: the context or the lease completion that waited for it goes on. -/
def Eng.recAcked (e : Eng) (id : Nat) : Eng :=
  match e.ctxs.filter fun x => decide (x.phase = .ackWait id) with
  | x :: xs => (x :: xs).foldl (fun e x => e.conclude x) e
  | [] =>
    match e.leaseReqs.find? fun q => q.delta == some id with
    | some q => e.leaseAnswer q q.status q.result
    | none => { e with chans := e.chans.map fun (c : Chan) => if c.wait == some id then { c with wait := none } else c }

/-- Ids of every record something waits for. -/
def Eng.ackIds (e : Eng) : List Nat :=
  (e.ctxs.filterMap fun x => match x.phase with | .ackWait d => some d | _ => none) ++ e.leaseReqs.filterMap fun q => q.delta

/-- Ids of the journal records that a Drift's next step waits for. -/
def Eng.chanIds (e : Eng) : List Nat := e.chans.filterMap fun c => c.wait

/-- Nothing waits any more: MIR_STATE has left joining and mirrored (R270). -/
def Eng.releaseAcks (e : Eng) : Eng := (e.ackIds ++ e.chanIds).foldl (fun e d => e.recAcked d) e

/-- Responses held under R270 (MIR_HELD). -/
def Eng.heldAcks (e : Eng) : Nat := e.ackIds.length

end Sys2Proof.Machine
end

