-- ==== Sys2Proof/Machine/Placement.lean ====
section
/-! DEFINITION. Sys2Proof/Machine/Placement.lean: heat passes, Drift, re-mooring, bucket handoff, consolidation and the spare
slice (chapter 09 of spec/; R266, R289 for the map). -/
namespace Sys2Proof.Machine
open Ob

/-! ## The region-home map (R266, R289) -/

/-- Write a region-home map entry. moor_local follows the entry's home, except at an instance that releases the unit, which
keeps it until its drain has ended (R222 step 4, R285 step 4). -/
def Eng.setMapEntry (e : Eng) (u v : Nat) : Eng :=
  let e := e.set (HIER_MAP + u / 256) (u % 256) (v % 2 ^ 17)
  let own := bits v 7 0 == e.ob HIER_NODE_ID && bits v 7 0 != 0xFF
  if own then { e with moor := insertNat u e.moor }
  else if e.remoor.role = .releasing ∧ e.remoor.unit = u ∧ 3 ≤ e.remoor.step then e
  else { e with moor := dropNat u e.moor }

/-- moor_local of every unit from the map (R266): the node ID has changed. -/
def Eng.remap_ (e : Eng) : Eng :=
  let me := e.ob HIER_NODE_ID
  let mine := (e.objs.filter fun p => decide (HIER_MAP * 256 ≤ p.1) && decide (p.1 < (HIER_MAP + 0x100) * 256) && p.2 % 256 == me && me != 0xFF).map fun p => p.1 - HIER_MAP * 256
  { e with moor := ascend mine }

/-- The region-map event, queued under R370 and sent on the mailbox under R371. -/
def Eng.mapEvent (e : Eng) (u : Nat) : Eng :=
  let args := evArgs [(0, u), (2, e.mapEntry u), (6, e.ob HIER_MAP_EPOCH)]
  let n : EvRec := { num := e.evNum, code := 0x09, time := e.ts, args := args, sends := 0, at_ := 0 }
  Eng.event { e with notices := e.notices ++ [n] } 0x09 args

/-- O enters drain once the map says that the unit has gone (R222 step 3); N's part ends. -/
def Eng.mapRemoor (e : Eng) (u : Nat) : Eng :=
  if e.remoor.unit ≠ u then e
  else if e.remoor.role = .releasing ∧ e.remoor.step = 3 ∧ bits (e.mapEntry u) 7 0 ≠ e.ob HIER_NODE_ID then
    { e with remoor := { e.remoor with step := 4, timer := some (e.ts + e.ob REMOOR_DRAIN * 1000) } }
  else if e.remoor.role = .receiving ∧ e.remoor.step = 3 ∧ bits (e.mapEntry u) 7 0 = e.ob HIER_NODE_ID then
    { e with remoor := { e.remoor with role := .none, step := 0, wrote := [] } }
  else e

/-- A journal record of the manager's state (R273, Table 11.3 type 0x07), its layout this model's: [11:8] 0 a map change, 1 a
witness record, 2 a witness record cleared, 3 a re-mooring step; the fields from bit 12 on (log entry 26). -/
def Eng.journalMgr (e : Eng) (tag fields : Nat) : Eng :=
  if e.mirOn then (e.journal (7 + tag * 2 ^ 8 + fields * 2 ^ 12)).1 else e

/-- The manager's re-moorings change by a step of one, which is manager state (R273). -/
def Eng.putMgr (e : Eng) (m : RemoorMgr) (step : Nat) (l : List RemoorMgr) : Eng :=
  Eng.journalMgr { e with rmgr := l } 3 (m.unit + m.o * 2 ^ 16 + m.n * 2 ^ 24 + step * 2 ^ 32)

/-- A re-mooring of the manager takes the next step. -/
def Eng.mgrStep (e : Eng) (m : RemoorMgr) (step : Nat) : Eng := e.putMgr m step (updFirst (fun r => r == m) (fun r => { r with step := step }) e.rmgr)

/-- A re-mooring of the manager ends. -/
def Eng.mgrEnd (e : Eng) (m : RemoorMgr) : Eng := e.putMgr m 0 (e.rmgr.eraseP fun r => r == m)

/-- The manager's re-mooring of a unit in a step. -/
def Eng.mgrAt (e : Eng) (u step : Nat) : Option RemoorMgr := e.rmgr.find? fun m => m.unit == u && m.step == step

/-- The oldest re-mooring in step 1 that still waits for a node's answer. -/
def Eng.asked (e : Eng) (node : Nat) : Option RemoorMgr :=
  e.rmgr.reverse.find? fun m => m.step == 1 && ((m.o == node && !m.preparedO) || (m.n == node && !m.preparedN))

/-- A re-mooring is running here: at the manager, at O or at N; a stranded one has ended (R228, R321). -/
def Eng.remooring (e : Eng) : Bool := !e.rmgr.isEmpty || (e.remoor.role != .none && e.remoor.step != 5)

/-- A role record (Table 11.3 type 0x06) of a unit's entry. -/
def roleRec (u v : Nat) : Nat := 6 + u * 2 ^ 8 + bits v 7 0 * 2 ^ 24 + bits v 15 8 * 2 ^ 32 + bits v 16 16 * 2 ^ 40

/-- An update of one epoch is applied here (R289). -/
def Eng.mapApply (e : Eng) (u v : Nat) : Eng :=
  let e := if e.mirroredUnit u ∧ v % 2 ^ 17 ≠ e.mapEntry u then (e.journal (roleRec u v)).1 else e
  (((e.setMapEntry u v).set HIER_MAP_EPOCH 0 ((e.ob HIER_MAP_EPOCH + 1) % 2 ^ 32)).mapRemoor u).mapEvent u

/-- MAP_UPDATE of an epoch to a node. -/
def Eng.sendMap (e : Eng) (node : Nat) (c : Nat × Nat × Nat) : Eng :=
  { e with hmsgs := e.hmsgs ++ [({ typ := 0x20, dst := node, body := c.2.1 + c.2.2 * 2 ^ 16, req := none, ans := none, re := none, epoch := c.1 } : HMsg)] }

/-- The manager changes one entry: the epoch rises and MAP_UPDATE goes to each node in HIER_NODES (R289). The change of
manager state is journalled (R273). -/
def Eng.mapChange (e : Eng) (u v : Nat) : Eng :=
  let e := e.mapApply u (v % 2 ^ 17)
  let c := (e.ob HIER_MAP_EPOCH, u, e.mapEntry u)
  let e := { e with mapLog := e.mapLog ++ [c] }
  let e := e.journalMgr 0 (u + e.mapEntry u * 2 ^ 16 + e.ob HIER_MAP_EPOCH * 2 ^ 33)
  (bitList (e.ob HIER_NODES) 256).foldl (fun e n => if n = e.ob HIER_NODE_ID then e else e.sendMap n c) e

/-! ## Heat (R214 to R217) -/

/-- HEAT_PASS_START: the next pass is due; it starts now, or as soon as the running one ends (R216). -/
def Eng.heatStart (e : Eng) : Eng :=
  if e.ts < e.heatDue ∨ e.foghorn then e
  else
    let e := { e with heatDue := e.heatDue + e.ob HEAT_SCAN_PERIOD * 1000000 }
    if e.heatLeft.isSome then Eng.inc { e with heatWait := true } HEAT_PASS_OVERRUNS
    else e.heatBegin.heatIssue

/-- HEAT_DELTA: the oldest delta on its way arrives at its channel (R215). -/
def Eng.heatTake (e : Eng) : Eng :=
  match e.heatMsgs with
  | [] => e
  | (i, d) :: t => Eng.heatArrive { e with heatMsgs := t } i d

/-! ## Drift (R218 to R221) -/

/-- A resynchronisation copy of a channel is under way (R284). -/
def Eng.resyncOn (e : Eng) (ch : Nat) : Bool :=
  (e.inbound.any fun r => r.op == .resync ch) || ((e.qf ++ e.lineq).any fun q => q.req.op == .resync ch) || (e.ctxs.any fun x => x.req.op == .resync ch)

/-- A Migration DMA channel is free: it holds no Drift and no hand-over of it is pending (R218, R343). -/
def Eng.chanFree (e : Eng) (ch : Nat) : Bool :=
  !(e.chans.any fun c => c.ch == ch) && (bits (e.obj WORLD_UNIT_STATE ch) 3 1 == 0 || bits (e.obj WORLD_UNIT_STATE ch) 3 1 == 3) && !e.resyncOn ch

/-- DRIFT_START: the lowest free channel claims the tile, and its entry is marked (Table 09.2 steps 1 and 2). -/
def Eng.driftStart (e : Eng) (v : Nat) : Eng :=
  let i := bits v 24 0
  let t := e.tent i
  match (List.range 16).find? e.chanFree with
  | none => e
  | some ch =>
    let c : Chan := { ch := ch, phase := .copy, tile := i, sdev := t.dev, sframe := t.dpa, ddev := bits v 39 32, dframe := bits v 70 40, cursor := 0, next := 0, reports := [], aborted := false, last := none, wait := none }
    Eng.tileWrite { e with chans := e.chans ++ [c] } [{ i := i, what := .mark, ent := tent0 }]

/-- Line k of a tile of a present pool. -/
def Eng.tileLine (e : Eng) (i k : Nat) : Option Nat :=
  let t := e.tent i
  if e.obj POOL_UNITS t.pool = 0 then none
  else some (e.poolBase t.pool + (i - e.obj POOL_TMBASE t.pool) * 32768 + k)

/-- Withheld words of a channel's staging buffer (R300); a line whose buffer has one is not staged. -/
def Eng.stagingOff (e : Eng) (ch : Nat) : Nat := (e.wayOff.filter fun w => w.1 == 0xE && w.2.2.1 == ch).length

/-- A channel issues no new copy (R220). -/
def Eng.driftPaused (e : Eng) (c : Chan) : Bool :=
  e.brace || decide (2 ≤ kget 0 c.sdev e.devLoad) || decide (2 ≤ kget 0 c.ddev e.devLoad)
    || (match e.tileLine c.tile c.next with | some l => decide (e.ob DRIFT_PAUSE_OCC ≤ e.occ (e.owner l)) | none => false)

/-- The unit freeze of R227: from START at O to N's answer to FLIP, at O and at N, no Drift involves the unit. -/
def Eng.frozen (e : Eng) (u : Nat) : Bool :=
  e.remoor.unit == u && ((e.remoor.role == .releasing && (e.remoor.step == 2 || e.remoor.step == 3)) || (e.remoor.role == .receiving && e.remoor.step == 1))

/-- A channel may issue its next copy: it copies, its entry is marked, lines are left, and neither DRIFT_INFLIGHT, DRIFT_BW_MAX, the
occupancy rule nor Foghorn stops it (Table 09.2 step 3, R220). -/
def Eng.driftMay (e : Eng) (c : Chan) : Bool :=
  let slow := match c.last with | some t => decide ((e.ts - t) * e.ob DRIFT_BW_MAX < 64000) | none => false
  c.phase == .copy && (e.tent c.tile).drift && !(e.tileWrs.any fun w => w.i == c.tile) && decide (c.next < 32768)
    && decide (e.driftOpen c.ch < min (e.ob DRIFT_INFLIGHT) (2048 - e.stagingOff c.ch)) && !slow && !e.driftPaused c && !e.foghorn && !e.frozen (c.tile / 512)

/-- DRIFT_COPY_ISSUE of a channel: the next line in ascending order (Table 09.2 step 3). -/
def Eng.driftCopy (e : Eng) (ch : Nat) : Eng :=
  match e.chans.find? fun c => c.ch == ch with
  | none => e
  | some c =>
    if !e.driftMay c then e
    else match e.tileLine c.tile c.next with
      | none => e
      | some l =>
        let e := { e with chans := updFirst (fun (d : Chan) => d.ch == ch) (fun d => { d with next := d.next + 1, last := some e.ts }) e.chans }
        e.sendInt (.drift ch) 3 ch l

/-- DRIFT_FLIP of a channel, after its last copy has retired (Table 09.2 step 4). -/
def Eng.driftFlip (e : Eng) (ch : Nat) : Eng :=
  match e.chans.find? fun c => c.ch == ch with
  | none => e
  | some c =>
    if c.phase ≠ .copy ∨ c.cursor < 32768 ∨ e.driftOpen ch ≠ 0 then e
    else Eng.tileWrite { e with chans := updFirst (fun (d : Chan) => d.ch == ch) (fun d => { d with phase := .flip }) e.chans }
      [{ i := c.tile, what := .flip, ent := { tent0 with dev := c.ddev, dpa := c.dframe } }]

/-- The change of a channel's entry has taken effect and its journal record is acknowledged: step 5 begins (R219, R221,
R270). -/
def Eng.driftDrain (e : Eng) (ch : Nat) : Eng :=
  match e.chans.find? fun c => c.ch == ch with
  | none => e
  | some c =>
    let ended := c.phase = .flip ∨ (c.phase = .abort ∧ c.aborted)
    if ended ∧ !(e.tileWrs.any fun w => w.i == c.tile) ∧ c.wait = none then
      { e with chans := updFirst (fun (d : Chan) => d.ch == ch) (fun d => { d with phase := .drain, reports := e.sliceList }) e.chans }
    else e

/-- A slice has no context left that read the tile's entry before its change (Table 09.2 step 5). -/
def Eng.driftClear (e : Eng) (slice i : Nat) : Bool :=
  let t := e.tent i
  !(e.ctxs.any fun x => x.slice == slice && x.tileI == i
    && (match x.tile with | some u => u.gen != t.gen || u.drift != t.drift || u.valid != t.valid | none => false))

/-- The last report of a Drift frees its channel, counted and reported as done or aborted (Table 09.2 step 5, R221). -/
def Eng.driftEnd (e : Eng) (c : Chan) : Eng :=
  let e := { e with chans := e.chans.filter (fun (d : Chan) => d.ch != c.ch), halted := dropNat c.ch e.halted }
  let e := if c.aborted then e.inc DRIFT_ABORTED else e.inc DRIFT_DONE
  let dev := if c.aborted then c.ddev else c.sdev
  let fr := if c.aborted then c.dframe else c.sframe
  (e.event 0x0A (evArgs [(0, c.ch), (1, b2n c.aborted), (2, c.tile), (6, dev), (7, fr)])).irq 13

/-- A Drift of the lost partner, aborted as its tile is adopted (R221, R282). The survivor knows neither its channel nor its destination:
free values (log entry 55). Step 5 waits for nothing, since no context here has read the entry. -/
def Eng.driftLost (e : Eng) (i : Nat) : Eng :=
  let w := (Config.lostDrift e.fresh).toNat
  let e := Eng.inc { e with fresh := e.fresh + 1 } DRIFT_ABORTED
  (e.event 0x0A (evArgs [(0, bits w 3 0), (1, 1), (2, i), (6, bits w 11 4), (7, bits w 42 12)])).irq 13

/-- DRIFT_DRAIN_REPORT of a slice; the last report frees the channel (Table 09.2 step 5, R221). -/
def Eng.driftReport (e : Eng) (ch slice : Nat) : Eng :=
  let e := e.driftDrain ch
  match e.chans.find? fun c => c.ch == ch with
  | none => e
  | some c =>
    if c.phase ≠ .drain ∨ !c.reports.contains slice ∨ !e.driftClear slice c.tile then e
    else if (dropNat slice c.reports).isEmpty then e.driftEnd c
    else { e with chans := updFirst (fun (d : Chan) => d.ch == ch) (fun d => { d with reports := dropNat slice c.reports }) e.chans }

/-- DRIFT_ABORT of a channel: nothing of a Drift that has flipped (R221). -/
def Eng.driftAbort (e : Eng) (ch : Nat) : Eng :=
  let e := { e with chans := updFirst (fun (c : Chan) => c.ch == ch && decide (c.phase = DPhase.copy)) (fun c => { c with phase := .abort }) e.chans }
  e.abortStep ch

/-- Phase of a channel as DRIFT_STATUS reads it (Table 09.3). -/
def DPhase.code : DPhase → Nat
  | .copy => 0 | .flip => 1 | .drain => 2 | .abort => 3

/-- DRIFT_STATUS of a channel (Table 09.3). -/
def Eng.driftStatus (e : Eng) (ch : Nat) : Nat :=
  match e.chans.find? fun c => c.ch == ch with
  | none => 0
  | some c =>
    1 + c.phase.code * 2 + b2n (e.driftPaused c) * 8 + c.tile * 2 ^ 4 + c.sdev * 2 ^ 29 + c.sframe * 2 ^ 37 + c.ddev * 2 ^ 68
      + c.dframe * 2 ^ 76 + c.cursor * 2 ^ 107

/-! ## Re-mooring (R222 to R228)

Each handler of a message that this instance may also send to itself takes the step at once. -/

/-- Nothing of a re-mooring. -/
def remoor0 : Remoor :=
  { role := .none, unit := 0, peer := 0, step := 0, cursors := [], sent := [], committed := [], wrote := [], timer := none, failed := [] }

/-- Journal a step of a re-mooring (R273, Table 11.3 type 0x02). -/
def Eng.remoorStep (e : Eng) (step : Nat) : Eng :=
  let e := { e with remoor := { e.remoor with step := step } }
  if e.mirroredUnit e.remoor.unit ∨ (e.remoor.role = .receiving ∧ e.mirOn) then
    (e.journal (2 + e.remoor.unit * 2 ^ 8 + (if e.remoor.role = .releasing then 1 else 2) * 2 ^ 24 + step * 2 ^ 26)).1
  else e

/-- Pool that holds a unit's HPA window. -/
def Eng.unitPool (e : Eng) (u : Nat) : Option Nat :=
  (List.range 64).find? fun p => decide (0 < e.obj POOL_UNITS p) && decide (e.obj POOL_TMBASE p / 512 ≤ u) && decide (u < e.obj POOL_TMBASE p / 512 + e.obj POOL_UNITS p)

/-- First sector of a unit. -/
def Eng.unitSector (e : Eng) (u : Nat) : Nat :=
  match e.unitPool u with
  | some p => (e.poolBase p + (u - e.obj POOL_TMBASE p / 512) * unitLines) / 4
  | none => 0

/-- Tile-map indices of a unit. -/
def unitTiles (u : Nat) : List Nat := (List.range 512).map fun k => u * 512 + k

/-- The re-mooring ends at the manager, or here as O or N. -/
def Eng.drainDone (e : Eng) (u : Nat) : Eng :=
  match e.mgrAt u 4 with
  | some m => e.mgrEnd m
  | none => e

/-- FLIPPED at the manager: every region-home map is updated (Table 09.4 step 3). -/
def Eng.flipped (e : Eng) (u : Nat) : Eng :=
  match e.mgrAt u 3 with
  | some m => Eng.mapChange (e.mgrStep m 4) u (e.mapEntry u - bits (e.mapEntry u) 7 0 + m.n)
  | none => e

/-- FLIP at N: moor_local is set and the answer sent (Table 09.4 step 3). -/
def Eng.flip (e : Eng) (u mgr : Nat) (re : Option Nat) : Eng :=
  if e.remoor.role = .receiving ∧ e.remoor.unit = u then
    let e := Eng.remoorStep { e with moor := insertNat u e.moor } 3
    if mgr = e.ob HIER_NODE_ID then e.flipped u else e.hsend 0x18 mgr u none none re
  else e

/-- TRANSFER_DONE at the manager: FLIP goes to N (Table 09.4 step 3). -/
def Eng.transferDone (e : Eng) (u : Nat) : Eng :=
  match e.mgrAt u 2 with
  | some m =>
    let e := e.mgrStep m 3
    if m.n = e.ob HIER_NODE_ID then e.flip u m.n none else e.hsend 0x17 m.n u none none none
  | none => e

/-- Manager node a re-mooring answers to: the lower of HIER_MANAGER_NODES unless it reads 0xFF (R286). -/
def Eng.manager (e : Eng) : Nat :=
  let a := bits (e.ob HIER_MANAGER_NODES) 7 0
  let b := bits (e.ob HIER_MANAGER_NODES) 15 8
  if a = 0xFF then b else if b = 0xFF then a else min a b

/-- This instance is the manager (R286). -/
def Eng.isManager (e : Eng) : Bool :=
  let me := e.ob HIER_NODE_ID
  let a := bits (e.ob HIER_MANAGER_NODES) 7 0
  let b := bits (e.ob HIER_MANAGER_NODES) 15 8
  let other := if a = me then b else a
  e.ob HIER_ROLE == 1 && me != 0xFF && (a == me || b == me)
    && (other == 0xFF || e.manager == me || (e.survivor && e.ob MIR_PARTNER_NODE == other))

/-- Every slice of O has finished: TRANSFER_DONE (Table 09.4 step 3). -/
def Eng.transferCheck (e : Eng) : Eng :=
  let base := e.unitSector e.remoor.unit
  let all := e.sliceList.all fun s => decide (base + unitLines / 4 ≤ kget base s e.remoor.cursors)
  let open_ := (e.ctxs.any fun x => x.req.op == .remoor) || (e.lineq.any fun q => q.req.op == .remoor)
  if e.remoor.role = .releasing ∧ e.remoor.step = 2 ∧ all ∧ !open_ then
    let e := e.remoorStep 3
    if e.isManager then e.transferDone e.remoor.unit else e.hsend 0x16 e.manager e.remoor.unit none none none
  else e

/-- START at O (Table 09.4 step 2). -/
def Eng.start (e : Eng) (u : Nat) : Eng :=
  if e.remoor.role = .releasing ∧ e.remoor.unit = u ∧ e.remoor.step = 1 then
    let base := e.unitSector u
    Eng.remoorStep { e with remoor := { e.remoor with cursors := e.sliceList.map (fun s => (s, base)), timer := some (e.ts + e.ob REMOOR_XFER_MAX * 1000) } } 2
  else e

/-- ABORT at O or N (R228): nothing has moved; N clears the entries it wrote. -/
def Eng.remoorAbort (e : Eng) (u : Nat) : Eng :=
  if e.remoor.unit ≠ u ∨ e.remoor.step ≠ 1 then e
  else match e.remoor.role with
    | .none => e
    | .releasing => { e with remoor := remoor0 }
    | .receiving =>
      let ws := e.remoor.wrote
      Eng.tileWrite { e with remoor := remoor0 } (ws.map fun i => { i := i, what := .raw, ent := tent0 })

/-- The manager aborts a re-mooring: ABORT goes to O and N (R223, R228). -/
def Eng.mgrAbort (e : Eng) (m : RemoorMgr) : Eng :=
  [m.o, m.n].foldl (fun e d => if d = e.ob HIER_NODE_ID then e.remoorAbort m.unit else e.hsend 0x1A d m.unit none none none) (e.mgrEnd m)

/-- PREPARED from O or N at the manager: START once both have answered (R222). An earlier re-mooring of the unit has then ended, stranded. -/
def Eng.prepared (e : Eng) (node : Nat) : Eng :=
  match e.asked node with
  | none => e
  | some m =>
    let m' := { m with preparedO := m.preparedO || node == m.o, preparedN := m.preparedN || node == m.n }
    if m'.preparedO ∧ m'.preparedN then
      let e := e.putMgr m 2 ({ m' with step := 2 } :: e.rmgr.filter fun (r : RemoorMgr) => r.unit != m.unit)
      if m.o = e.ob HIER_NODE_ID then e.start m.unit else e.hsend 0x13 m.o m.unit none none none
    else { e with rmgr := updFirst (fun r => r == m) (fun _ => m') e.rmgr }

/-- A tile of the unit has drift 1, or will have it: a Drift that has claimed it and not ended its copy (R223, R227). -/
def Eng.drifting (e : Eng) (u : Nat) : Bool :=
  ((unitTiles u).any fun i => (e.tent i).drift) || (e.chans.any fun c => c.tile / 512 == u && c.phase != .drain)

/-- The check that PREPARE fails at O (R223, R282), numbered in the order of R223 (log entry 22). Beyond R223's list the model numbers 6 the
check "adopted" that R282 names, and 7 the limit of R222 to one re-mooring at a time (DESIGN CHOICE, log entry 22). -/
def Eng.prepareO (e : Eng) (u : Nat) : Option Nat :=
  let cs := match e.unitPool u with
    | some p => e.caidList.filter fun c => e.caidSt c == 1 && bit (e.obj CAID_POOLS c) p
    | none => []
  let ms := cs.map fun c => e.obj REMOOR_CAID_MAP c
  if !e.moored u then some 1
  else if e.drifting u then some 2
  else if ms.contains 0xFF then some 3
  else if ms.eraseDups.length ≠ ms.length then some 4
  else if (unitTiles u).any fun i => (e.tent i).valid && e.obj REMOOR_DEV_MAP (e.tent i).dev == 0xFF then some 5
  else if bit (e.mapEntry u) 16 then some 6
  else if e.remoor.role ≠ .none ∧ ¬ (e.remoor.role = .releasing ∧ e.remoor.step = 5 ∧ e.remoor.unit = u) then some 7
  else none

/-- The check that PREPARE fails at N (R223); 7 as at O (DESIGN CHOICE, log entry 22). -/
def Eng.prepareN (e : Eng) (u : Nat) : Option Nat :=
  if (e.unitPool u).isNone then some 1
  else if !(e.written.contains (2 * u) && e.written.contains (2 * u + 1)) then some 2
  else if (unitTiles u).any fun i => (e.tent i).valid then some 3
  else if e.moored u then some 4
  else if e.remoor.role ≠ .none then some 7
  else none

/-- The entries that O sends to N: the unit's 512, each with `dev` translated through REMOOR_DEV_MAP (Table 09.4 step 1). -/
def Eng.tilesOut (e : Eng) (u : Nat) : List (Nat × Tent) :=
  (unitTiles u).map fun i => let t := e.tent i; (i, { t with dev := e.obj REMOOR_DEV_MAP t.dev, drift := false, heat := 0 })

/-- The entries of a unit that N receives where no command carries them: free values (log entry 23). -/
def Eng.tilesFree (e : Eng) (u : Nat) : List (Nat × Tent) :=
  (List.range 512).map fun k =>
    let w := (Config.movedTile e.fresh k).toNat
    (u * 512 + k, { tent0 with valid := bit w 0, dev := bits w 8 1, dpa := bits w 39 9, gen := bits w 47 40 })

/-- PREPARE at O or N (R223). `tiles` are the entries O sends to N for the unit, where the command carries them (log entry 23: no message of
Table 11.7 does). The answer is PREPARED, or REFUSE naming the failed check. -/
def Eng.prepare (e : Eng) (u o n mgr : Nat) (tiles : Option (List (Nat × Tent))) (re : Option Nat) : Eng :=
  let me := e.ob HIER_NODE_ID
  let say (e : Eng) (bad : Option Nat) : Eng :=
    match bad with
    | none => if mgr = me then e.prepared me else e.hsend 0x11 mgr 0 none none re
    | some k => if mgr = me then (match e.asked me with | some m => e.mgrAbort m | none => e) else e.hsend 0x12 mgr k none none re
  if me = o then
    match e.prepareO u with
    | some k => say e (some k)
    | none => say (Eng.remoorStep { e with remoor := { remoor0 with role := .releasing, unit := u, peer := n, out := e.tilesOut u } } 1) none
  else if me = n then
    match e.prepareN u with
    | some k => say e (some k)
    | none =>
      let p := (e.unitPool u).getD 0
      let ts := tiles.getD (e.tilesFree u)
      let e := if tiles.isNone then { e with fresh := e.fresh + 1 } else e
      let ws : List TileWr := (ts.filter fun t => decide (u * 512 ≤ t.1) && decide (t.1 < u * 512 + 512)).map fun t => { i := t.1, what := .raw, ent := { t.2 with drift := false, heat := 0, pool := p } }
      let e := Eng.remoorStep { e with remoor := { remoor0 with role := .receiving, unit := u, peer := o, wrote := ws.map fun w => w.i } } 1
      say (e.tileWrite ws) none
  else e

/-- REMOOR_REQUEST at the manager (R222). Its own part of step 1 follows the messages, so that an ABORT it sends follows them too. -/
def Eng.remoorRequest (e : Eng) (v : Nat) : Eng :=
  let u := bits v 15 0
  let n := bits v 23 16
  let o := bits (e.mapEntry u) 7 0
  let me := e.ob HIER_NODE_ID
  let m : RemoorMgr := { unit := u, o := o, n := n, preparedO := false, preparedN := false, step := 1, ends := e.ts + e.ob REMOOR_PREPARE_MAX * 1000 }
  (([o, n].filter fun d => d != me) ++ ([o, n].filter fun d => d == me)).foldl (fun e d => if d = me then e.prepare u o n me none none else e.hsend 0x10 d (u + o * 2 ^ 16 + n * 2 ^ 24) none none none) (e.putMgr m 1 (m :: e.rmgr))

/-- REMOOR_PREPARE_TIMEOUT at the manager (R223). -/
def Eng.prepareTimeout (e : Eng) : Eng :=
  match e.rmgr.reverse.find? fun m => m.step == 1 && decide (m.ends ≤ e.ts) with
  | some m => e.mgrAbort m
  | none => e

/-- The next sector at or above `sec` that slice s must move, below `sec + k` (R224): steered to the slice, and not skipped. -/
def Eng.nextMove (e : Eng) (s dbs : Nat) : Nat → Nat → Nat
  | 0, sec => sec
  | k + 1, sec =>
    let here := e.owner (sec * 4) == s
    let hit := (e.sfaFind s sec).isSome || (e.spillFind s sec).isSome
    let page := decide (dbs ≠ 0) && (e.page (e.pageOf (e.psn (sec * 4)))).isSome
    if here && (hit || page) then sec else Eng.nextMove e s dbs k (sec + 1)

/-- Acknowledged sectors whose release waits for a place in the spill buffer go on as one frees (R147, R224). -/
def Eng.ackWaits (e : Eng) : List Nat := e.remoor.sent.filter fun sec => e.remoor.acked.contains sec && !e.remoor.committed.contains sec

/-- Slice s of O may issue a transfer operation: the transfer runs, neither Brace nor Foghorn stops it, and a share of its internal
contexts and a class 7 header slot are free (R173, R224, R232). The operation is an entry of source 0x11 that the slice's own walk puts in
the per-line queues (R224), so no arbiter grants it. -/
def Eng.transferMay (e : Eng) (s : Nat) : Bool :=
  let busy := ((e.ctxs.filter fun x => x.slice == s && x.req.op == .remoor).length + (e.lineq.filter fun q => q.slice == s && q.req.op == .remoor).length) / 4
  e.remoor.role == .releasing && e.remoor.step == 2 && !e.brace && !e.foghorn && decide (busy < e.eff s WATCH_MIN_INT 0 / 4)
    && (e.takeSlot s 7 0 e.fresh false).isSome

/-- The cursor of slice s passes the skipped sectors and the next live one, which enters the queue of each of its four lines and opens
if it heads them all (R224). -/
def Eng.transferNext (e : Eng) (s : Nat) : Eng :=
  let r := e.remoor
  let base := e.unitSector r.unit
  let last := base + unitLines / 4
  let cur := kget base s r.cursors
  let sec := e.nextMove s (kget 0 r.unit e.unitDbs) (last - cur) cur
  let cur' := if sec < last then sec + 1 else last
  let e := { e with remoor := { r with cursors := kput s cur' r.cursors } }
  let e := if e.mirroredUnit r.unit then (e.journal (3 + r.unit * 2 ^ 8 + s * 2 ^ 24 + cur' * 2 ^ 29)).1 else e
  if last ≤ sec then e.transferCheck
  else
    let add (e : Eng) (k : Nat) : Eng :=
      { e with fresh := e.fresh + 1, lineq := e.lineq ++ [({ slice := s, req := intReq e .remoor 4 0x11 (sec * 4 + k) } : QEnt)] }
    ((List.range 4).foldl add ((e.takeSlot s 7 0 e.fresh false).getD e)).remoorOpen s sec

/-- REMOOR_TRANSFER_OP of a slice of O (R224). -/
def Eng.transferOp (e : Eng) (s : Nat) : Eng := if e.transferMay s then e.transferNext s else e

/-- ACK at O: the operation commits (R224). A sector with `dbs` 1 frees its way through a release, which needs a place in the slice's spill
buffer (R147); while it has none the operation waits, its ACK noted. -/
def Eng.sectorAck (e : Eng) (sec : Nat) : Eng :=
  let r := e.remoor
  if r.role ≠ .releasing ∨ !r.sent.contains sec ∨ r.committed.contains sec then e
  else
    let s := e.owner (sec * 4)
    let way := e.sfaFind s sec
    if (way.any fun w => w.dbs) && decide (16 ≤ e.spillUsed s) then { e with remoor := { r with acked := insertNat sec r.acked } }
    else
    let e : Eng := match way with
      | some w =>
        let e : Eng := w.l.foldl (fun (e : Eng) st => e.uncount st) e
        if !w.dbs then { e with sfa := e.sfa.filter fun (v : SfaWay) => !(v.slice == w.slice && v.set == w.set && v.way == w.way) }
        else e.spillOut { w with l := allI, dirty := true }
      | none => e
    let e := (List.range 4).foldl (fun (e : Eng) k => e.hdcRemove s (sec * 4 + k)) e
    let e : Eng := { e with remoor := { e.remoor with committed := insertNat sec e.remoor.committed } }
    let mine := e.ctxs.filter fun (x : Ctx) => x.slice == s && x.req.line / 4 == sec && x.req.op == Op.remoor
    let e :=
      if e.mirroredUnit r.unit then
        let (e, id) := e.journal (4 + r.unit * 2 ^ 8 + sec * 2 ^ 24)
        mine.foldl (fun e x => e.setCtx { x with phase := .ackWait id }) e
      else mine.foldl (fun e x => e.conclude x) e
    e.forwardReady.transferCheck

/-- The noted ACKs whose spill buffer has a place again take effect. -/
def Eng.ackRetry (e : Eng) : Eng := if e.remoor.acked.isEmpty then e else e.ackWaits.foldl (fun e sec => e.sectorAck sec) e

/-- The forwarding of a swap ends with its own REMOOR_DRAIN (R285 step 5). -/
def Eng.swapForgets (e : Eng) : Eng :=
  match e.mswap with
  | some w => (match w.st with | .forward t => if t ≤ e.ts then { e with mswap := none } else e | _ => e)
  | none => e

/-- O leaves the unit: moor_local clears, the unit's entries are invalidated and DRAIN_DONE is sent (Table 09.4 step 4). -/
def Eng.leaveUnit (e : Eng) (u : Nat) : Eng :=
  let e := { e with moor := dropNat u e.moor }
  let e := e.tileWrite (((unitTiles u).filter fun i => (e.tent i).valid).map fun i => { i := i, what := .write, ent := tent0 })
  let e := (e.event 0x0C (evArgs [(0, 1), (1, u)])).irq 13
  let e := e.remoorStep 0
  let e := { e with remoor := remoor0 }
  if e.isManager then e.drainDone u else e.hsend 0x19 e.manager u none none none

/-- REMOOR_DRAIN_EXPIRY at O (Table 09.4 step 4). -/
def Eng.drainExpiry (e : Eng) : Eng :=
  let r := e.remoor
  let e := e.swapForgets
  match r.timer with
  | none => e
  | some t => if r.role ≠ .releasing ∨ r.step ≠ 4 ∨ e.ts < t then e else e.leaveUnit r.unit

/-- The unit is stranded: operations not committed close with their entries unchanged, and software is told (Table 09.5, R228). -/
def Eng.strand (e : Eng) : Eng :=
  let r := e.remoor
  let e := e.remoorStep 5
  let e : Eng := { e with remoor := { e.remoor with timer := none, acked := [], sent := r.sent.filter (fun (s : Nat) => !r.committed.contains s) }, lineq := e.lineq.filter (fun (q : QEnt) => !(q.req.op == .remoor)) }
  let e : Eng := (e.ctxs.filter fun (x : Ctx) => x.req.op == Op.remoor).foldl (fun (e : Eng) x => e.conclude x) e
  (e.event 0x0B (evArgs [(0, r.unit), (2, 5), (3, 0xFF)])).forwardReady

/-- REMOOR_XFER_TIMEOUT at O: N is unreachable beyond REMOOR_XFER_MAX (R228). -/
def Eng.xferTimeout (e : Eng) : Eng :=
  let r := e.remoor
  match r.timer with
  | none => e
  | some t => if r.role ≠ .releasing ∨ (r.step ≠ 2 ∧ r.step ≠ 3) ∨ e.ts < t then e else e.strand

/-- SECTOR at N (R226): it arrives as a class 7 entry at its owning slice, with a header slot and a data slot, and heads its lines' queues
once none of them has an open context or an older entry; then the sector is installed and ACK sent. It waits where a slot, a line or a way
is not free (R173, R140). -/
def Eng.sectorIn (e : Eng) (sec src seq : Nat) (l : List LSt) : Eng :=
  if e.remoor.role ≠ .receiving then e
  else
    let l := l.map fun s => match s with | .S2 a b => LSt.S2 (min a b) (max a b) | s => s
    match (if e.sectorMay sec then e.installSector sec l else none) with
    | some e => e.hsend 0x15 src sec none none (some seq)
    | none =>
      let slice := e.owner (sec * 4)
      let psn := e.psn (sec * 4)
      let set := sfaSet e.sfKey psn
      let e := ((e.inc SF_CONFLICT_WAITS).pm slice 0x1A 1).pressureUp slice set
      { e with installs := e.installs ++ [(sec, l, src, seq)],
               waiters := e.waiters ++ [({ slice := slice, set := set, sector := sec, psn := psn, ctx := none } : Waiter)] }

/-- A forwarded request as N queues it, under its mapped CAID (R226). -/
def Eng.fwdIn (e : Eng) (r : Req) (src seq : Nat) : Req :=
  { r with gid := e.fresh, v := r.caid, t0 := e.ts, remote := some (src, seq), passed := false }

/-- The check of R69, other than those of the port and of reason 0x7, that a forwarded request fails (R226). -/
def Eng.fwdWhy (e : Eng) (r : Req) : Option Nat :=
  let leaves := r.isWrite || r.op == .memClnEvct
  match e.caidReason r.caid (e.obj CAID_PORT r.caid) leaves with
  | some k => some k
  | none => match e.reason { xport := 0, caid := r.caid, hport := e.obj CAID_PORT r.caid, tag := r.tag, line := r.line, chk := .ok } leaves with
    | some 7 => none
    | k => k

/-- FWD_REQ at N (R226): the request enters N's queue of its class, or is refused and answered in the form of Table 03.2. -/
def Eng.fwdReq (e : Eng) (r : Req) (src seq : Nat) : Eng :=
  let r := e.fwdIn r src seq
  let e := { e with fresh := e.fresh + 1 }
  match e.fwdWhy r with
  | some k =>
    let e := e.refuse k (match r.op with | .atomic => 6 | .memWr | .memWrPtl => 1 | _ => 0) r.row r.caid r.port r.line
    (match r.op with
     | .memRd | .memRdData => (e.answer 0 r none .nxm none false).1
     | .memInv | .memInvNT | .memClnEvct => (e.answer 0 r none .none (some .cmp) false).1
     | .atomic => (e.answerUio 0 r 1 0).1
     | _ => e)
  | none => Eng.pump { e with stages := e.stages ++ [(hierStage, e.ts, r)] }

/-- FWD_RSP at O (R225): the answer leaves O's port with the original `caid`, `port` and `tag`. The forwarded request is the
oldest with the answer's mapped CAID and tag; it stays until its last beat has come. -/
def Eng.fwdRsp (e : Eng) (a : FwdAns) : Eng :=
  match e.fwds.find? fun f => f.mcaid == a.caid && f.req.tag == a.tag with
  | none => e
  | some f =>
    let r := f.req
    let port := e.portOf f.slice
    let dl := occBand (e.occ f.slice)
    let last := a.drs ≠ 1 ∨ a.ndr.isSome
    let e := if last then { e with fwds := e.fwds.filter fun (g : Fwd) => g.id != f.id } else e
    if e.deaf r.caid then (if last then e.freeSlots r.gid else e)
    else match a.uio with
      | some s => ((e.freeData r.gid).replyUio port r s a.data).1
      | none =>
        let drs : Drs := if a.drs = 1 then .data a.data a.poison else if a.drs = 2 then .nxm else .none
        let ndr : Option OutOp := a.ndr.map fun n => if n = 1 then .cmpS else if n = 2 then .cmpE else if n = 3 then .cmpM else .cmp
        ((if r.isWrite then e.freeData r.gid else e).reply port r dl drs ndr false).1

/-- A forwarded write that has had no answer is written to the backing device as a write to a line in P (Table 04.7): a context of its class
runs it, with the tile-map entry that O still holds. The second part is false where no context is free. -/
def Eng.fwdWrite (e : Eng) (f : Fwd) : Eng × Bool :=
  let r := f.req
  match e.tileOfLine r.line, e.poolOf r.line, e.shareFor f.slice r.cls, e.pick ((List.range 8192).filter fun i => e.idxFree f.slice i) with
  | some i, some p, some sh, some (idx, e) =>
    let x := { mkCtx e f.slice idx sh r i with tile := some (e.tent i), start := .P }
    (Eng.openOn { e with ctxs := e.ctxs ++ [x], fresh := e.fresh + 1 } x p, true)
  | _, _, _, _ => (e, false)

/-- REMOOR_FWD_TIMEOUT of a forwarded request: O logs it and answers it as for a line in P (R225, Table 04.7; the log is
log entry 19's). -/
def Eng.fwdTimeout (e : Eng) (id : Nat) : Eng :=
  match e.fwds.find? fun f => f.id == id with
  | none => e
  | some f =>
    if e.ts < f.ends then e
    else
      let e1 := { e with fwds := e.fwds.filter fun (g : Fwd) => g.id != id }
      let e1 := e1.rasEntry 7 2 (e1.portOf f.slice) (f.req.line % 2 ^ 40) 0xFF 0
      if f.req.isWrite then (match e1.fwdWrite f with | (e2, true) => e2 | (_, false) => e)
      else if e1.deaf f.req.caid then e1.freeSlots f.req.gid else e1.pAnswer f.slice f.req none

/-! ## Bucket handoff (R229) -/

/-- BUCKET_MOVE: A holds the lookups of the bucket (Table 09.6 step 1). -/
def Eng.bucketMove (e : Eng) (b dst : Nat) : Eng :=
  { (e.set HANDOFF_BUSY 0 1) with handoff := some { bucket := b, a := e.bucketOwner b, b := dst, passing := false } }

/-- Nothing of the bucket is open at A, and every delta of it has been taken (Table 09.6 step 2, R271). -/
def Eng.bucketQuiet (e : Eng) (h : Handoff) : Bool :=
  let on (line : Nat) : Bool := bucketOf line == h.bucket
  !(e.ctxs.any fun x => x.slice == h.a && on x.req.line) && !(e.spill.any fun s => s.slice == h.a && on (s.sector * 4))
    && !(e.evb.any fun v => v.slice == h.a && on v.line) && !(e.fills.any fun f => f.slice == h.a && on (f.sector * 4))
    && !(e.waiters.any fun w => w.slice == h.a && on (w.sector * 4)) && !(e.evicts.any fun v => v.slice == h.a && on (v.sector * 4))
    && !(e.mrecs.any fun m => m.kind == 0 && on m.line)
    && (e.isH32 || (!(e.hIdle.any fun i => on i.line) && !(e.hdc.any fun w => w.slice == h.a && on (w.sector * 4) && !(dirtyLines w).isEmpty)))

/-- In SDT-H8 and SDT-H16 the bucket's dirty lines are written back and its lines in H move to I (Table 09.6 step 2). -/
def Eng.bucketWalk (e : Eng) (h : Handoff) : Eng :=
  if e.isH32 then e
  else
    let on (line : Nat) : Bool := bucketOf line == h.bucket
    let e := (e.hIdle.filter fun i => on i.line).foldl (fun e i => (e.hMove i.line).1) e
    let dirty := (e.hdc.filter fun w => w.slice == h.a && on (w.sector * 4)).flatMap fun w => (dirtyLines w).map fun k => w.sector * 4 + k
    let new := dirty.filter fun l => !(e.evb.any fun v => v.slice == h.a && v.line == l && !v.inBuf)
    Eng.startWbacks { e with evb := e.evb ++ new.map fun (l : Nat) => ({ slice := h.a, line := l, data := 0, inBuf := false, ctx := none } : EvLine) }

/-- Send the entries of the bucket to the same sets at B, until one finds no way there (Table 09.6 step 3). -/
def Eng.moveWays (b : Nat) : List SfaWay → Eng → Eng
  | [], e => e
  | w :: t, e =>
    match e.pickWay b w.set with
    | none => e
    | some (way, old) =>
      let rank := match old with | some o => o.rank | none => 15
      let e := match old with | some o => e.spillOut o | none => e
      let e := { e with sfa := e.sfa.filter fun (v : SfaWay) => !(v.slice == w.slice && v.set == w.set && v.way == w.way) }
      Eng.moveWays b t (e.install b w.sector w.psn w.set way rank w.l w.dbs w.dirty w.slot)

/-- Publish a bucket's new owner (R46, R231): the spare carries the number of the slice it replaces. -/
def Eng.bucketSet (e : Eng) (b dst : Nat) : Eng :=
  let e := if dst = spareStop then { e.set BUCKET_TABLE b (e.ob SPARE_FOR) with spareBkt := insertNat b e.spareBkt }
    else { e.set BUCKET_TABLE b dst with spareBkt := dropNat b e.spareBkt }
  if e.foghorn then e else { e with bktOut := e.bktOut ++ [(b, e.obj BUCKET_TABLE b)] }

/-- Steps 4 and 5 of Table 09.6: the table switches, and every waiting entry of the bucket goes ahead of those that reach B
directly, then DONE. -/
def Eng.bucketSwitch (e : Eng) (h : Handoff) : Eng :=
  let on (line : Nat) : Bool := bucketOf line == h.bucket
  let old : Eng := e
  let e := { e with hdc := e.hdc.filter (fun (w : HWay) => !(w.slice == h.a && on (w.sector * 4))),
                    pred := e.pred.filter (fun (p : Pred) => !(p.slice == h.a && on p.line)),
                    streams := e.streams.filter (fun (s : Stream) => !(s.slice == h.a && (match s.lastRd, old.tileLine s.tile (s.lastRd.getD 0) with | some _, some l => on l | _, _ => false))),
                    echo := e.echo.map (fun (x : Echo) => if x.slice == h.a && on x.line then { x with slice := h.b } else x) }
  let sets := (e.taint.filter fun t => t.kind == 0 && t.slice == e.sliceNum h.a).map fun t => t.whr
  let e := sets.foldl (fun e s => e.addTaint 0 (e.sliceNum h.b) s) e
  let e := e.bucketSet h.bucket h.b
  let mv (q : QEnt) : QEnt := { slice := h.b, req := { q.req with passed := true } }
  let mine (q : QEnt) : Bool := q.slice == h.a && on q.req.line
  let go := (e.lineq.filter mine).map mv ++ (e.qf.filter mine).map mv
  let gids := go.map fun q => q.req.gid
  { e with lineq := go ++ e.lineq.filter (fun (q : QEnt) => !mine q), qf := e.qf.filter (fun (q : QEnt) => !mine q),
           slots := e.slots.foldl (fun l s => (if gids.contains s.gid then { s with slice := h.b, num := e.newSlot h.b s.data (e.slots ++ l) } else s) :: l) [],
           handoff := some { h with passing := true } }

/-- Entries of the bucket are left at A. -/
def Eng.bucketWays (e : Eng) (h : Handoff) : List SfaWay := e.sfa.filter fun w => w.slice == h.a && bucketOf (w.sector * 4) == h.bucket && !w.resv

/-- HANDOFF_QUIESCED: once A has nothing open for the bucket, its entries move, the table switches and the waiting entries are
passed (Table 09.6 steps 2 to 5). -/
def Eng.handoffQuiesced (e : Eng) : Eng :=
  match e.handoff with
  | none => e
  | some h =>
    if h.passing ∨ e.brace ∨ e.foghorn then e
    else
      let e := e.bucketWalk h
      if !e.bucketQuiet h then e
      else
        let e := Eng.moveWays h.b (e.bucketWays h) e
        if (e.bucketWays h).isEmpty then e.bucketSwitch h else e

/-- A swap goes on with the next bucket of the slice once the spare is in service, or ends (R231). -/
def Eng.swapNext (e : Eng) : Eng :=
  match e.swap with
  | none => e
  | some w =>
    if e.obj PWR_DOMAIN_STATE 0x40 ≠ 0 ∨ e.handoff.isSome then e
    else match w.left with
    | b :: t => Eng.bucketMove { e with swap := some { w with left := t } } b spareStop
    | [] => (Eng.event { (e.set SPARE_STATE 0 2) with swap := none } 0x0C (evArgs [(0, 3), (1, w.k)])).irq 13

/-- HANDOFF_DONE: B starts lookups for the bucket (Table 09.6 step 5). -/
def Eng.handoffDone (e : Eng) : Eng :=
  match e.handoff with
  | none => e
  | some h =>
    if h.passing then ((Eng.event { (e.set HANDOFF_BUSY 0 0) with handoff := none } 0x0C (evArgs [(0, 2), (1, h.bucket)])).irq 13).swapNext else e

/-! ## Consolidation and the spare slice (R230, R231) -/

/-- Slices that own some bucket. -/
def Eng.owns (e : Eng) (s : Nat) : Bool := (List.range 256).any fun b => e.bucketOwner b == s

/-- A slice holds nothing (R230). -/
def Eng.sliceEmpty (e : Eng) (s : Nat) : Bool :=
  !(e.ctxs.any fun x => x.slice == s) && !(e.spill.any fun x => x.slice == s) && !(e.snps.any fun x => x.slice == s)
    && !(e.qf.any fun q => q.slice == s) && !(e.lineq.any fun q => q.slice == s)

/-- SLICE_DARK: a parked slice that owns and holds nothing leaves service, and its vote is withdrawn (R230). -/
def Eng.sliceDark (e : Eng) (s : Nat) : Eng :=
  if s < e.n ∧ bit (e.ob SLICE_PARK) s ∧ bit (e.ob SLICE_LIT) s ∧ !e.owns s ∧ e.sliceEmpty s then
    let e := { e with svc := dropNat s e.svc }
    (e.set SLICE_LIT 0 (clearBit (e.ob SLICE_LIT) s)).set PWR_VOTE_HW (0x20 + s) 0
  else e

/-- SLICE_PARK takes a value: a slice whose bit clears is voted awake (R230). -/
def Eng.slicePark (e : Eng) (v : Nat) : Eng :=
  let woken := (List.range e.n).filter fun s => bit (e.ob SLICE_PARK) s && !(bit v s)
  woken.foldl (fun e s => e.set PWR_VOTE_HW (0x20 + s) 1) (e.set SLICE_PARK 0 v)

/-- SPARE_SWAP of slice k: the spare takes its number, and its buckets move one at a time (R231). -/
def Eng.spareSwap (e : Eng) (k : Nat) : Eng :=
  let left := (List.range 256).filter fun b => e.bucketOwner b == k
  let e := (((e.set SPARE_STATE 0 1).set SPARE_FOR 0 k).set PWR_VOTE_HW 0x40 1)
  Eng.swapNext { e with swap := some { k := k, left := left } }

/-- The timers of a re-mooring pause for the time spent in Brace (R232). -/
def Eng.remoorLater (e : Eng) (d : Nat) : Eng :=
  { e with remoor := { e.remoor with timer := e.remoor.timer.map fun (t : Nat) => t + d },
           rmgr := e.rmgr.map fun (m : RemoorMgr) => { m with ends := m.ends + d },
           fwds := e.fwds.map fun (f : Fwd) => { f with ends := f.ends + d } }

end Sys2Proof.Machine
end

