-- ==== Sys2Proof/Machine/Words.lean ====
section
/-! DEFINITION. Sys2Proof/Machine/Words.lean: where the entries of the block's stores lie among their stored words, and which entry a word
holds (R291, Table 12.1). -/
namespace Sys2Proof.Machine
open Ob

/-! ## Where a word lies (log entry 14) -/

/-- The SFA way, HDC tag or HDC data chunk at a word. -/
def Eng.sfaAt (e : Eng) (unit word : Nat) : Option SfaWay := e.sfa.find? fun w => e.sliceNum w.slice == unit && sfaWord w.set w.way == word && !w.resv

/-- The HDC way whose tag entry a word holds. -/
def Eng.tagAt (e : Eng) (unit word : Nat) : Option HWay := e.hdc.find? fun w => e.sliceNum w.slice == unit && hdcTagWord w.set w.way == word

/-- The HDC way and line whose data a word holds. -/
def Eng.dataAt (e : Eng) (unit word : Nat) : Option (HWay × Nat) :=
  match e.hdc.find? fun w => e.sliceNum w.slice == unit && ((List.range 16).any fun j => hdcDataWord w.set w.way (j / 4) (j % 4) == word) with
  | some w => ((List.range 16).find? fun j => hdcDataWord w.set w.way (j / 4) (j % 4) == word).map fun j => (w, j / 4)
  | none => none

/-- Word k of a Watch context. -/
def ctxWord (idx k : Nat) : Nat := Config.place 1 (idx * 2 + k)

/-- Words of the small tables, by kind: 0 lease (two words each), 1 echo entry, 2 stream, 3 mooring-unit counter, 4 predictor entry. -/
def tblWord (kind n : Nat) : Nat := Config.place 0xD (kind * 2 ^ 60 + n)

/-- Word k of a lease (Table 08.8). -/
def leaseWord (l k : Nat) : Nat := tblWord 0 (2 * l + k)

/-- Words of a queue slot: four of a header slot of 32 B, eight of a data slot of 64 B (R173, Table 12.1). -/
def slotWords (data : Bool) (num : Nat) : List Nat := (List.range (if data then 8 else 4)).map fun k => Config.place 2 ((num * 2 + b2n data) * 8 + k)

/-- A word lies in the slot. -/
def QSlot.at_ (q : QSlot) (word : Nat) : Bool := (slotWords q.data q.num).contains word

/-- The slot that a word lies in. -/
def slotOfWord (word : Nat) : Option (Bool × Nat) :=
  match (List.range 8192).find? fun n => (slotWords false n).contains word with
  | some n => some (false, n)
  | none => ((List.range 4096).find? fun n => (slotWords true n).contains word).map fun n => (true, n)

/-- Words of the FIFOs (R181): 0 a spilled sector, 1 a waiter of a set-conflict queue, 2 a beat of a backing egress FIFO, 3 a command of a DRAM
command queue, 4 an entry of a port stage or of a landing buffer. -/
def fifoWord (kind n : Nat) : Nat := Config.place 0xC (kind * 2 ^ 60 + n)

/-- A word lies in a Migration DMA channel's staging buffer of 128 KiB (Table 01.3). -/
def stgHolds (ch word : Nat) : Bool := (List.range 16384).any fun k => Config.place 0xE (ch * 16384 + k) == word

/-- Unit of a port stage or landing buffer, by its key: the port or slice stop. -/
def fifoUnit (key : Nat) : Nat := match landOf key with | some (_, s) => s | none => key

/-- What a word of a queue slot, a FIFO, a small table or a staging buffer is, for its withholding: the slot's kind and number, the FIFO, the
table (and the set of a predictor entry), or the channel (R300). -/
def Eng.offKind (e : Eng) (store unit word : Nat) : Option Nat :=
  if store = 2 then (slotOfWord word).map fun p => b2n p.1 + 2 * p.2
  else if store = 0xC then
    if e.spill.any fun s => e.sliceNum s.slice == unit && fifoWord 0 s.sector == word then some 0
    else if e.waiters.any fun w => e.sliceNum w.slice == unit && fifoWord 1 w.sector == word then some 1
    else if e.outq.any fun o => o.at_ == unit && o.grp == 2 && fifoWord 2 o.id == word then some 2
    else if e.dcmds.any fun c => fifoWord 3 (c.seq * 2 ^ 40 + c.a.addr) == word then some 3
    else if e.stages.any fun s => fifoUnit s.1 == unit && fifoWord 4 s.2.2.gid == word then some 4
    else none
  else if store = 0xD then
    if e.echo.any fun x => e.sliceNum x.slice == unit && tblWord 1 x.line == word then some 1
    else if e.streams.any fun s => e.sliceNum s.slice == unit && tblWord 2 (s.caid * 2 ^ 12 + s.tile % 2 ^ 12) == word then some 2
    else (e.pred.find? fun p => e.sliceNum p.slice == unit && tblWord 4 p.line == word).map fun p => 4 + 8 * p.set
  else if store = 0xE then (List.range 16).find? fun ch => stgHolds ch word
  else none

/-! ## Stamps and kinds of a context (R163) -/

/-- A phase stamp of 10 bits (R163, R377). -/
def stamp (t : Nat) : Nat :=
  match (List.range 8).find? fun e => decide (t / 2 ^ e ≤ 127) with
  | some e => e * 128 + t / 2 ^ e
  | none => 0x3FF

/-- Beat kind of a request (Table 02.2); 0xF for class 7. -/
def kindOf (r : Req) : Nat := if r.cls = 7 then 0xF else if r.cls = 6 then 6 else if r.op.hasData then 1 else 0

end Sys2Proof.Machine
end

