-- ==== Sys2Proof/Machine/Pack.lean ====
section
/-! DEFINITION. Sys2Proof/Machine/Pack.lean: the bits in which the block's entries and beats are laid out: words of the stores, DBS pages and
tile-map pages as DRAM holds them with their codes, the data of the DRAM commands presented, and outbound beats (Tables 02.3, 03.7, 05.11,
06.1, 06.4 to 06.6, 07.1, 08.1, 08.4, 08.8, 09.1). -/
namespace Sys2Proof.Machine
open Ob

/-! ## Page parity (R295) -/

/-- Multiplication by α in GF(256), field polynomial x^8 + x^4 + x^3 + x^2 + 1. -/
def byteX (a : Nat) : Nat := if a < 128 then 2 * a else (2 * a) ^^^ 0x11D

/-- Product in GF(256). -/
def byteMul (a b : Nat) : Nat :=
  ((List.range 8).foldl (fun (s : Nat × Nat) i => (if b.testBit i then s.1 ^^^ s.2 else s.1, byteX s.2)) (0, a)).1

/-- The generator polynomial (x − α)(x − α^2) … (x − α^15), highest coefficient first. -/
def rsGen : List Nat :=
  ((List.range 15).foldl (fun (s : List Nat × Nat) _ =>
    (List.zipWith (· ^^^ ·) (s.1 ++ [0]) (0 :: s.1.map (byteMul s.2)), byteX s.2)) ([1], 2)).1

/-- Parity bytes of RS(255,240) over 240 data bytes, the coefficient of x^14 first: the remainder of the data, shifted up by x^15, by the
generator. -/
def rsParity (data : List Nat) : List Nat :=
  data.foldl (fun reg d => let f := d ^^^ reg.headD 0
    List.zipWith (fun a g => a ^^^ byteMul f g) (reg.drop 1 ++ [0]) (rsGen.drop 1)) (List.replicate 15 0)

/-! ## Words and bytes -/

/-- A word of 116 bits with its entry code (R293). -/
def coded (w : Nat) : Nat := w + symCheck 29 w * 2 ^ 116

/-- A word of 119 bits with its SEC-DED check in [127:119] (R292). -/
def secWord (w : Nat) : Nat := w + secCheck 119 9 w * 2 ^ 119

/-- Words of w bits laid one above another. -/
def stack (w : Nat) (l : List Nat) : Nat := (l.zipIdx.map fun p => p.1 * 2 ^ (w * p.2)).sum

/-! ## DBS pages (R141) -/

/-- Line entry k of burst b (Table 06.5). A free burst holds `cont` alone. -/
def DbsPage.entry (q : DbsPage) (b k : Nat) : Nat :=
  let cont := if k = 0 ∧ q.cont.contains b then 2 ^ 89 else 0
  match q.bursts.find? fun x => x.b == b with
  | some x => let s := nth .I x.l k
    coded (x.sector * 4 + k + s.code * 2 ^ 46 + s.field * 2 ^ 49 + nth 0 x.gens k * 2 ^ 81 + cont)
  | none => coded cont

/-- The page header (Table 06.6). -/
def DbsPage.header (q : DbsPage) : Nat :=
  coded (q.bursts.foldl (fun a x => setBit a x.b) 0 + q.pgrp * 2 ^ 60 + q.plow * 2 ^ 76 + q.scg * 2 ^ 92 + q.wgen * 2 ^ 108)

/-- The parity bytes of interleave j over its 240 entry bytes, in ascending page byte address (Table 06.4, R295). -/
def DbsPage.parity (q : DbsPage) (j : Nat) : List Nat :=
  rsParity ((List.range 240).map fun m => bits (q.entry (m / 4) (m % 4)) (8 * j + 7) (8 * j))

/-- Bytes 64x to 64x + 63 of the page (Table 06.4). -/
def DbsPage.burst (q : DbsPage) (x : Nat) : Data :=
  BitVec.ofNat 512 (if x < 4
    then stack 8 ((List.range 64).map fun y => let n := 64 * x + y
      if n < 16 then bits q.header (8 * n + 7) (8 * n) else nth 0 (q.parity ((n - 16) / 15)) ((n - 16) % 15))
    else stack 128 ((List.range 4).map fun k => q.entry (x - 4) k))

/-! ## Tile-map pages (R76, R296) -/

/-- Bits [79:0] of a tile-map entry (Table 03.7). -/
def Tent.body (t : Tent) : Nat := t.word + t.heat * 2 ^ 56

/-- Burst x of a tile-map page whose entries are given. The page code of R296 covers the check bits of the entries, whose own code covers
the parity bytes: the parity bytes are a free value of the entries (log entry 58). -/
def tileBurst (f : Nat → Tent) (page x : Nat) : Data :=
  let ws := (List.range 256).map fun k => (f (256 * page + k)).body
  BitVec.ofNat 512 (stack 128 ((List.range 4).map fun k => coded (nth 0 ws (4 * x + k) + (Config.tileParity ws (4 * x + k)).toNat * 2 ^ 80)))

/-! ## What the presented DRAM writes carry (R47) -/

/-- The page that holds a DRAM burst, and the burst's number in it. -/
def Eng.burstOf (e : Eng) (page a : Nat) (tile : Bool) : Nat :=
  ((List.range 64).find? fun x => (if tile then e.tileAddr page x else e.dbsAddr page x) == a).getD 0

/-- A tile-map entry as the writes of a sequence leave it. -/
def Eng.tentAfter (e : Eng) (id i : Nat) : Tent :=
  (e.tileWrs.filter fun w => w.seq == id && w.i == i).foldl (fun t w => w.result t) (e.tent i)

/-- The DBS page a sequence writes, with its change made. -/
def Eng.pageWritten (e : Eng) (s : DSeq) (page : Nat) : DbsPage :=
  let q := (e.page page).getD (emptyPage page)
  match s.kind with
  | .rewrite .. | .release .. | .place .. =>
    (match e.spill.find? fun sp => sp.seq == some s.id with | some sp => sp.change q none | none => q)
  | .decode .. =>
    (match e.spill.find? fun sp => sp.seq == some s.id with
     | some sp => if sp.kind = .placement ∧ sp.chosen.isNone then q.whole s.h0 else sp.change q (some s.h0)
     | none => q)
  | .overflow _ => if s.whole = 0 ∧ !(e.overflows.any fun o => o.id == s.id && o.st == .correcting) then q else q.whole s.h0
  | .purgePage p _ =>
    (match e.purges.find? fun u => u.1 == p with
     | some u => q.without (fun sector => decide (u.2.1 ≤ sector * 4) && decide (sector * 4 < u.2.1 + u.2.2.1 * unitLines)) s.h0
     | none => q)
  | .retire .. => q
  | .unitPage i _ => (match e.uscans.find? fun w => w.id == i with | some { unit := some u, .. } => (e.demoted u q).whole s.h0 | _ => q.whole s.h0)
  | _ => q.whole s.h0

/-- Data of a full write of a sequence at a DRAM burst address (R47); the records of the rings are the Performance Monitor's. -/
def Eng.writeData (e : Eng) (s : DSeq) (a : Nat) : Data :=
  let dbs (p : Nat) : Data := (e.pageWritten s p).burst (e.burstOf p a false)
  match s.kind with
  | .rewrite sl sec | .release sl sec | .place sl sec => (match e.seqSpill sl sec s.id with | some sp => dbs (e.pageOf sp.psn) | none => 0)
  | .decode p _ | .overflow p | .purgePage _ p | .scrub _ p | .sweepPage _ p | .sweepHdr _ p | .unitPage _ p => dbs p
  | .fill sl sec _ | .fillDecode sl sec => (match e.fills.find? fun f => f.slice == sl && f.sector == sec with | some f => dbs (e.pageOf f.psn) | none => 0)
  | .walk _ i | .walkDecode _ i => tileBurst e.tent (i / 256) (e.burstOf (i / 256) a true)
  | .tileWrite p => tileBurst (e.tentAfter s.id) p (e.burstOf p a true)
  | .heat p => tileBurst e.tent p (e.burstOf p a true)
  | .retire el p tile =>
    let x := a - (e.ob RAS_SPARE_BASE / 64 + el * 64)
    if tile then tileBurst e.tent p x else (e.pageWritten s p).burst x
  | .smpRing | .trcRing => 0

/-! ## Words of the other stores -/

/-- An SFA entry (Table 06.1). -/
def SfaWay.word (w : SfaWay) : Nat :=
  secWord (bits w.psn 37 13 + 2 ^ 25 + stack 3 (w.l.map LSt.code) * 2 ^ 26 + stack 16 (w.l.map LSt.field) * 2 ^ 38 + w.rank * 2 ^ 102
    + b2n w.dbs * 2 ^ 106 + b2n w.dirty * 2 ^ 107 + w.slot * 2 ^ 108)

/-- An HDC tag entry (Table 08.1). -/
def HWay.word (w : HWay) : Nat :=
  let four (l : List Bool) : Nat := stack 1 (l.map b2n)
  secWord (bits w.psn 37 8 + 2 ^ 30 + four w.lv * 2 ^ 31 + four w.ld * 2 ^ 35 + four w.lh * 2 ^ 39 + four w.lp * 2 ^ 43 + b2n w.lock * 2 ^ 47 + w.rank * 2 ^ 48)

/-- Number of the header slot or data slot that an entry holds, 0 where it holds none. -/
def Eng.slotNo (e : Eng) (gid : Nat) (data : Bool) : Nat :=
  match e.slots.find? fun q => q.gid == gid && q.data == data with | some q => q.num | none => 0

/-- Word 0 or 1 of a Watch context (Table 07.1). -/
def Eng.ctxBits (e : Eng) (x : Ctx) (k : Nat) : Nat :=
  let r := x.req
  let dv := e.slots.any fun q => q.gid == r.gid && q.data
  let cls := if r.cls = 6 then 2 else if r.cls = 7 then 3 else r.cls
  let t := x.tile.getD tent0
  let way := match e.sfaFind x.slice (r.line / 4) with | some w => w.way | none => 0
  if k = 0 then
    secWord (1 + b2n (x.phase == .opened) * 2 + x.tc.code * 2 ^ 2 + cls * 2 ^ 7 + b2n x.sslot.isSome * 2 ^ 9 + kindOf r * 2 ^ 10 + r.row % 16 * 2 ^ 14
      + b2n r.poison * 2 ^ 18 + (if r.cls = 7 then 0 else r.caid) * 2 ^ 19 + r.tag % 2 ^ 18 * 2 ^ 27 + r.line * 2 ^ 45
      + (if dv then e.slotNo r.gid true else 0) * 2 ^ 91 + e.slotNo r.gid false * 2 ^ 103 + b2n x.acc.isSome * 2 ^ 116 + b2n x.wbOpen * 2 ^ 117 + b2n dv * 2 ^ 118)
  else
    secWord (t.dev + t.dpa * 2 ^ 8 + t.gen * 2 ^ 39 + x.sslot.getD 0 * 2 ^ 47 + (if r.cls = 6 then r.usize * 2 ^ 56 + r.uoff * 2 ^ 58 else 0) + way * 2 ^ 64
      + bits (((x.acc.bind Acc.deadline)).getD 0) 16 6 * 2 ^ 68
      + stack 10 [stamp x.stampQ, stamp x.stampL, stamp x.stampS, stamp x.stampM] * 2 ^ 79)

/-- A contention-predictor entry (Table 08.4): its rank is its place in its set. -/
def Eng.predBits (e : Eng) (p : Pred) : Nat :=
  let rank := (e.pred.filter fun q => q.slice == p.slice && q.set == p.set).findIdx fun q => q.ln == p.ln
  let w := 1 + p.ctr * 2 + rank * 2 ^ 3 + p.time * 2 ^ 6 + p.ln * 2 ^ 22
  w + secCheck 56 8 w * 2 ^ 56

/-- A mooring-unit counter (Table 09.1). -/
def Eng.unitBits (e : Eng) (u : Nat) : Nat :=
  let w := kget 0 u e.unitHeat % 2 ^ 33 + kget 0 u e.unitDbs % 2 ^ 23 * 2 ^ 33
  w + secCheck 56 8 w * 2 ^ 56

/-- A word of k data bits as RAS_RAW_DATA shows it, its check bits from bit 128. -/
def rawForm (k w : Nat) : Nat := w % 2 ^ k + w / 2 ^ k * 2 ^ 128

/-- The coded word at a byte address of DRAM: an entry or the header of a written DBS page, or an entry of a written tile-map page. -/
def Eng.dramWord (e : Eng) (tile : Bool) (addr : Nat) : Option Nat :=
  let a := addr / 64
  let k := addr % 64 / 16
  if tile then
    (e.written.find? fun p => (List.range 64).any fun x => e.tileAddr p x == a).map fun p =>
      quarter (tileBurst e.tent p (e.burstOf p a true)) k
  else
    match e.dbs.find? fun q => (List.range 64).any fun x => e.dbsAddr q.page x == a with
    | some q => let x := e.burstOf q.page a false
      if (codedWords 8 x).contains k then some (quarter (q.burst x) k) else none
    | none => none

/-- The stored word at an address, without errors, as RAS_RAW_DATA shows it; where the tables give no layout, or no entry is held there, the
word is a free value (log entry 14). -/
def Eng.storedWord (e : Eng) (st unit word : Nat) : Nat :=
  let free := Config.rawWord st unit word
  if st = 0 then (match e.sfaAt unit word with | some w => rawForm 119 w.word | none => free)
  else if st = 1 then
    (match e.ctxs.find? fun x => e.sliceNum x.slice == unit && (ctxWord x.idx 0 == word || ctxWord x.idx 1 == word) with
     | some x => rawForm 119 (e.ctxBits x (if ctxWord x.idx 0 = word then 0 else 1))
     | none => free)
  else if st = 4 then
    (match e.dataAt unit word with
     | some (w, k) =>
       let c := ((List.range 4).find? fun c => hdcDataWord w.set w.way k c == word).getD 0
       let d := quarter (nth 0 w.d k) c
       d + symCheck 32 d * 2 ^ 128
     | none => free)
  else if st = 5 then (match e.tagAt unit word with | some w => rawForm 119 w.word | none => free)
  else if st = 8 ∨ st = 0xA then (match e.dramWord (st == 0xA) word with | some w => rawForm 116 w | none => free)
  else if st = 0xD then
    match (List.range 4096).find? fun l => leaseWord l 0 == word || leaseWord l 1 == word with
    | some l =>
      let w := leaseEntry (kget lease0 l e.leases)
      rawForm 119 (if leaseWord l 0 = word then w % 2 ^ 128 else w / 2 ^ 128)
    | none =>
      match e.pred.find? fun p => e.sliceNum p.slice == unit && tblWord 4 p.line == word with
      | some p => rawForm 56 (e.predBits p)
      | none =>
        match (e.unitHeat ++ e.unitDbs).find? fun u => tblWord 3 u.1 == word with
        | some u => rawForm 56 (e.unitBits u.1)
        | none => free
  else free

/-! ## Outbound beats (R40, R42, R105) -/

/-- Opcode of an outbound message, as CXL Specification 3.1 encodes it on its channel (log entry 17). -/
def OutOp.code : OutOp → Nat
  | .cmp => 0 | .cmpS => 1 | .cmpE => 2 | .cmpM => 3 | .biConflictAck => 4
  | .memData => 0 | .memDataNxm => 1
  | .snp t blk => (match t with | .cur => 0 | .data => 1 | .inv => 2) + (if blk then 4 else 0)
  | .bkRd => 1 | .bkWr => 1 | .bkWrPtl => 2
  | .bkUio => 0 | .uioCpl _ => 0 | .hier .. => 0

/-- A beat as `xb_tx_data` carries it (Table 02.3). Fields that do not apply to a kind are 0. Kinds 0x8 and 0x9 carry SnpType NoOp and
MetaField No-Op (R105), whose MetaValue is then without meaning; Table 02.3 gives kinds 0x3 and 0x4 a meta_value and no rule says which: both
are free values (log entry 17). -/
def OBeat.word (b : OBeat) : Nat :=
  let on (l : List Nat) (v : Nat) : Nat := if l.contains b.kind then v else 0
  b.kind + on [3, 4, 5, 8, 9] b.op.code * 2 ^ 4 + on [8, 9] 3 * 2 ^ 11 + on [3, 4, 8, 9] (Config.metaValue b.kind).toNat * 2 ^ 13
    + on [4, 9] (b2n b.poison) * 2 ^ 15 + on [5, 8, 9, 0xC] b.addr * 2 ^ 16 + on [3, 4, 7, 8, 9, 0xC] b.tag * 2 ^ 64
    + on [3, 4, 5, 7] b.caid * 2 ^ 84 + on [3, 4, 5, 7, 8, 9, 0xC, 0xE] b.port * 2 ^ 92 + on [5] (b.biId * 2 ^ 100 + b.biTag * 2 ^ 112)
    + on [3, 4] b.devLoad * 2 ^ 124 + on [0xC] (b.uop * 2 ^ 128 + b.usize * 2 ^ 132 + b.uoff * 2 ^ 134)
    + on [7] (match b.op with | .uioCpl st => st | _ => 0) * 2 ^ 140
    + on [9] (if b.op = .bkWr then 2 ^ 64 - 1 else b.be.toNat) * 2 ^ 192 + on [4, 7, 9, 0xC, 0xE] b.data.toNat * 2 ^ 512

/-- The check bits of a beat: 12 for each chunk of 128 bits (Table 02.1, R42). -/
def beatCheck (beat : Nat) : Nat := stack 12 ((List.range 8).map fun i => symCheck 32 (bits beat (128 * i + 127) (128 * i)))

/-- `xb_tx_data` of an outbound entry: of a hierarchy message, the header and body first (Table 11.6), then the data beat that follows
(R287). -/
def OEnt.word (o : OEnt) : Nat :=
  match o.beat.op with
  | .hier typ more src dst seq epoch body =>
    if more && o.more.isEmpty then o.beat.word
    else OBeat.word { o.beat with data := BitVec.ofNat 512 (typ + b2n more * 2 ^ 8 + src * 2 ^ 16 + dst * 2 ^ 24 + seq * 2 ^ 32 + epoch * 2 ^ 64 + body * 2 ^ 96) }
  | _ => o.beat.word

end Sys2Proof.Machine
end

