-- ==== Sys2Proof/Machine/Commit.lean ====
section
/-! DEFINITION. Sys2Proof/Machine/Commit.lean: the commit checks and effects of the objects 0x2xxx to 0x6xxx, 0x9xxx and 0xCxxx
(R358, R359, R393 and the rules of each chapter), the drain of R360, and the close of every flow under Foghorn (R61). -/
namespace Sys2Proof.Machine
open Ob

/-! ## Foghorn (R61) -/

/-- Safe form of an untaken outbound beat's request: a write receives nothing; where the DRS beat of an answer was taken and
its NDR was not, the NDR is sent as `Cmp` (R61). -/
def Eng.withdrawBeat (e : Eng) (o : OEnt) : Eng :=
  let again (e : Eng) (cls : Nat) (b : OBeat) (pair : Option Nat) : Eng :=
    Eng.send { e with fresh := e.fresh + 1 } { o with id := e.fresh, cls := cls, beat := b, pair := pair, presented := false, grant := false, src := none, ans := none, hist := none }
  let b0 : OBeat := { beat0 with tag := o.beat.tag, caid := o.beat.caid, port := o.beat.port, devLoad := o.beat.devLoad }
  let e := if o.presented then e.unround o.at_ o.grp else e
  match o.ans with
  | none => e.freeSlots o.gid
  | some op =>
    match op with
    | .memRd | .memRdData =>
      if o.cls = 4 then again e 4 { b0 with kind := 4, op := .memData, data := Data.ones, poison := true } none
      else again e 3 { b0 with kind := 3, op := .cmp } none
    | .memInv | .memInvNT | .memClnEvct => again e 3 { b0 with kind := 3, op := .cmp } none
    | .atomic => again e 4 { b0 with kind := 7, op := .uioCpl 4 } none
    | _ => e.freeSlots o.gid

/-- Ends one open context with the safe form of its request. -/
def Eng.closeCtx (e : Eng) (x : Ctx) : Eng :=
  if x.answered || x.reqGone || x.req.cls == 7 then e.freeSlots x.req.gid
  else match x.req.remote with
    | some _ => e.freeSlots x.req.gid
    | none => e.safeForm (e.portOf x.slice) x.req (occBand (e.occ x.slice))

/-- `ev_foghorn` asserts: untaken beats of groups 0 to 2 are withdrawn and those of group 0 replaced, a beat of group 3 that is presented
stays and no other is, every context and every queued request is closed in its
safe form, and the flows' state goes (R61, Table 02.11). -/
def Eng.foghornClose (e : Eng) : Eng :=
  let out := e.outq
  let e := { e with outq := out.filter (fun o => o.grp == 3 && o.presented), bktOut := [] }
  let e := (out.filter fun o => o.grp == 0).foldl (fun e o => e.withdrawBeat o) e
  let cs := e.ctxs
  let bad := e.stages.filter fun s => s.2.2.cls == badCls
  let e := bad.foldl (fun e s => e.dropBad s.1 s.2.2) e
  let qs := ((e.stages.filter fun s => s.2.2.cls != 7 && s.2.2.cls != badCls).map fun s => (e.stagePort s.1, s.2.2))
    ++ e.gal.filterMap fun m => match m.req with | some r => if r.cls = 7 then none else some (e.portOf m.dst, r) | none => none
  let qq := ((e.qf ++ e.lineq).filter fun q => q.req.cls != 7).map fun q => (e.portOf q.slice, q.req)
  let dup := (cs.flatMap fun x => (x.wbs.filter fun w => !w.done).map fun w => w.req.gid)
  let e := { e with ctxs := [], snps := [], hold := [], stages := [], gal := [], qf := [], lineq := [], waiters := [], fills := [], walks := [], evicts := [],
                    fwds := [], mrecs := [] }
  let e := cs.foldl (fun e x => e.closeCtx x) e
  let e := (qq ++ qs).foldl (fun e q => if q.2.remote.isSome then e.freeSlots q.2.gid else e.safeForm q.1 q.2 0) e
  dup.foldl (fun e g => e.freeSlots g) e

/-- An engine operation with what follows at the same edge: the close of every flow as `ev_foghorn` asserts. -/
def Eng.after (old new : Eng) : Eng := if new.foghorn && !old.foghorn then new.foghornClose else new

/-! ## Commit checks -/

/-- Writable bits of an object's element. -/
def objMask (idx el : Nat) : Nat := match objRow idx el with | some r => r.mask | none => 0

/-- A staged write's value as it takes effect: reserved bits are ignored and read 0. -/
def OWr.v (o : OWr) : Nat := o.val &&& objMask o.idx o.el

/-- The value an object would have after a commit (R358). -/
def Eng.pv (e : Eng) (ws : List OWr) (idx el : Nat) : Nat :=
  match ws.find? fun o => o.idx == idx && o.el == el with
  | some o => o.v
  | none => e.obj idx el

/-- A pool's window after the commit. -/
def Eng.pWin (e : Eng) (ws : List OWr) (p : Nat) : Win :=
  { p := p, base := e.pv ws POOL_BASE p, units := e.pv ws POOL_UNITS p, tm := e.pv ws POOL_TMBASE p }

/-- The lease window after the commit overlaps a pool's window (R63, R211). -/
def Eng.leaseHits (e : Eng) (ws : List OWr) (w : Win) : Bool :=
  e.pv ws LEASE_ENABLE 0 == 1 && decide (0 < w.units) && decide (e.pv ws LEASE_BASE 0 < w.base + w.units * 2 ^ 30)
    && decide (w.base < e.pv ws LEASE_BASE 0 + 2 ^ 18)

/-- The checks of R63 and R79 fail for pool p after the commit. -/
def Eng.poolBad (e : Eng) (ws : List OWr) (p : Nat) : Bool :=
  let w := e.pWin ws p
  decide (0 < w.units)
    && (!w.formOk || e.leaseHits ws w || (e.obj POOL_UNITS p == 0 && !e.tmWritten w)
      || (List.range 64).any fun q => q != p && decide (0 < (e.pWin ws q).units) && (w.overlaps (e.pWin ws q) || w.tmOverlaps (e.pWin ws q)))

/-- Status of a write of POOL_BASE, POOL_UNITS or POOL_TMBASE of pool p (R62 to R64, R79, R393). -/
def Eng.poolStatus (e : Eng) (ws : List OWr) (o : OWr) : Nat :=
  let p := o.el
  let cur := e.obj POOL_UNITS p
  if o.v = e.obj o.idx p then 0
  else if 0 < cur ∧ !(o.idx = POOL_UNITS ∧ o.v = 0) then 2
  else if 0 < cur ∧ e.poolBusy p then 2
  else if cur = 0 ∧ 0 < (e.pWin ws p).units ∧ e.obj POOL_STATE p = 2 then 2
  else if e.poolBad ws p then 1 else 0

/-- Status of a write of a binding-record field of CAID c (R68, R64). -/
def Eng.bindStatus (e : Eng) (ws : List OWr) (o : OWr) : Nat :=
  let c := o.el
  let st := e.caidSt c
  let pools := e.pv ws CAID_POOLS c
  if o.idx = CAID_PORT ∧ 64 ≤ o.v ∧ o.v ≠ 0xFF then 1
  else if st = 2 ∨ st = 3 then 2
  else if o.idx ≠ CAID_POOLS ∧ st ≠ 0 then 2
  else if o.idx = CAID_POOLS ∧ (e.obj CAID_SWEEP_POOLS c &&& maskOff o.v (e.obj CAID_POOLS c) 64) ≠ 0 then 2
  else if o.idx = CAID_POOLS ∧ ((bitList o.v 64).any fun p => e.obj POOL_STATE p == 2) then 2
  else if o.idx ≠ CAID_BIID ∧ st = 0 ∧ pools ≠ 0 ∧ e.pv ws CAID_PORT c = 0xFF then 1
  else 0

/-- Status of a CAID_UNBIND (Table 03.5). -/
def Eng.unbindStatus (e : Eng) (o : OWr) : Nat :=
  let st := e.caidSt o.el
  if o.val = 1 then (if st = 0 then 1 else if st = 1 then 0 else 2)
  else (if st = 0 then 1 else if st = 3 then 2 else 0)

/-- A write or fill of tile-map entries runs: TILE_MAP_BUSY (R79). -/
def Eng.tileBusy (e : Eng) : Bool := e.tileWrs.any fun w => w.what == .write

/-- An entry is valid and its pool is present or purging (R79). -/
def Eng.placed (e : Eng) (i : Nat) : Bool := (e.tent i).valid && (e.obj POOL_UNITS (e.tent i).pool != 0 || e.obj POOL_STATE (e.tent i).pool == 2)

/-- Status of a TILE_MAP_WRITE (R79); the entry's fields lie at [159:32] of the value, as Table 03.7 lays them out. -/
def Eng.tmWriteStatus (e : Eng) (o : OWr) : Nat :=
  let i := bits o.val 31 0
  let n := Tent.ofWord (bits o.val 159 32)
  let t := e.tent i
  if 33554431 < i then 1
  else if e.tileBusy then 2
  else if e.placed i ∧ (n.dev ≠ t.dev ∨ n.dpa ≠ t.dpa ∨ n.pool ≠ t.pool) then 2
  else 0

/-- Status of a TILE_MAP_FILL (R79). -/
def Eng.tmFillStatus (e : Eng) (o : OWr) : Nat :=
  let i := bits o.val 31 0
  let n := bits o.val 63 32
  let dev := bits o.val 71 64
  let dpa := bits o.val 102 72
  let pool := bits o.val 108 103
  if n = 0 then (if e.tileBusy then 2 else 0)
  else if 33554431 < i + n - 1 ∨ 2 ^ 31 - 1 < dpa + n - 1 then 1
  else if e.tileBusy then 2
  else if e.tmap.any fun t => decide (i ≤ t.1) && decide (t.1 < i + n) && e.placed t.1 && (t.2.dev != dev || t.2.dpa != dpa + (t.1 - i) || t.2.pool != pool) then 2
  else 0

/-- Status of a DRIFT_START (R218). -/
def Eng.driftStatusOf (e : Eng) (o : OWr) : Nat :=
  let i := bits o.val 24 0
  let t := e.tent i
  if !t.valid then 1
  else if e.obj POOL_UNITS t.pool = 0 then 1
  else if t.dev = bits o.val 39 32 ∧ t.dpa = bits o.val 70 40 then 1
  else if e.ob PLACE_ENABLE = 0 then 2
  else if !((List.range 16).any e.chanFree) then 2
  else if t.drift then 2
  else if e.remoor.role ≠ .none ∧ e.remoor.unit = i / 512 then 2
  else 0

/-- Status of a BUCKET_MOVE (R229). -/
def Eng.moveStatus (e : Eng) (o : OWr) : Nat :=
  let b := bits o.val 7 0
  let s := bits o.val 12 8
  if e.ob HANDOFF_BUSY = 1 ∨ e.handoff.isSome ∨ e.ob PLACE_ENABLE = 0 ∨ e.bucketOwner b = s ∨ !(bit (e.ob SLICE_LIT) s) ∨ !(e.svc.contains s) then 2 else 0

/-- The checks of R174 after a commit, each with the objects it reads; true where the check fails. -/
def Eng.qfChecks (e : Eng) (ws : List OWr) : List (List Nat × Bool) :=
  let hm (k : Nat) : Nat := e.pv ws QF_HDR_MIN k
  let dm (k : Nat) : Nat := e.pv ws QF_DATA_MIN k
  let al (k : Nat) : Nat := e.pv ws QF_ALLOW k
  let host := e.pv ws WATCH_MIN_HOST 0
  [([QF_HDR_MIN], decide (8192 < ((List.range 8).map hm).sum)),
   ([QF_DATA_MIN], decide (4096 < ((List.range 8).map dm).sum)),
   ([QF_ALLOW, QF_HDR_MIN], [0, 1, 6].any fun k => decide (hm k < al k * e.c)),
   ([QF_ALLOW, QF_DATA_MIN], [1, 6].any fun k => decide (dm k < al k * e.c)),
   ([WATCH_MIN_HOST, QF_HDR_MIN], decide (host < hm 0 + hm 1 + hm 6)),
   ([WATCH_MIN_HOST, WATCH_MIN_INT], decide (8192 < host + e.pv ws WATCH_MIN_INT 0))]

/-- A bank's state bits (RAS_BANK_STATE). -/
def Eng.bankSt (e : Eng) (b : Nat) : Nat := e.obj (RAS_BANK_STATE + b / 256) (b % 256)

/-- The lowest spare bank that is free (R302). -/
def Eng.spareBank (e : Eng) : Option Nat := (List.range 768).find? fun b => e.bankSt b == 1

/-- The next free spare page on a page's channel (R301, R388). -/
def Eng.sparePage (e : Eng) (page : Nat) : Option Nat :=
  (List.range 256).find? fun n => !(e.remap.any fun m => m.2.1 == n) && n % 4 == pageCh page

/-- Status of a RAS_PAGE_RETIRE (R301). -/
def Eng.retireStatus (e : Eng) (o : OWr) : Nat :=
  if bit o.val 0 ∧ 131072 ≤ bits o.val 20 1 then 1
  else if e.ob RAS_RETIRE_BUSY = 1 ∨ e.ob RAS_SPARE_BASE = 0 ∨ (e.sparePage (bits o.val 20 1)).isNone then 2 else 0

/-- Range and alignment of a DRAM region base (R50 and the base's own row). -/
def baseStatus (v align size : Nat) : Nat := if v % align ≠ 0 ∨ 2 ^ 40 < v + size then 1 else 0

/-- The object's effect is drain (R360). -/
def isDrain (idx el : Nat) : Bool := match objRow idx el with | some r => r.eff == .drain | none => false

/-- Status of one staged write at its commit edge, for the objects of this file: 0 where it passes (R358). R211's alignment, overlap and
busy checks are those of LEASE_BASE and LEASE_ENABLE. Three refusals are the model's, where the spec names none (DESIGN CHOICE, log entry
55): a LEASE_TERM_MAX below LEASE_TERM_DEFAULT and a LEASE_BREAK_CAID of no CAID answer invalid-value, and a REMOOR_REQUEST while the manager
runs another re-mooring answers busy. -/
def Eng.wrStatus (e : Eng) (ws : List OWr) (o : OWr) : Nat :=
  let i := o.idx
  let out := match objRow i o.el with
    | some r => (match r.range with | some (a, b) => decide (o.v < a) || decide (b < o.v) | none => false)
    | none => true
  if out then 1
  else if isDrain i o.el ∧ e.ob DICT_DRAIN_PENDING ≠ 0 then 2
  else if i = POOL_BASE ∨ i = POOL_UNITS ∨ i = POOL_TMBASE then e.poolStatus ws o
  else if i = CAID_PORT ∨ i = CAID_BIID ∨ i = CAID_POOLS then e.bindStatus ws o
  else if i = CAID_UNBIND then e.unbindStatus o
  else if i = TILEMAP_BASE then baseStatus o.v (2 ^ 29) (2 ^ 29)
  else if i = DBS_BASE then baseStatus o.v (2 ^ 32) (2 ^ 32)
  else if i = RAS_SPARE_BASE then baseStatus o.v (2 ^ 20) (2 ^ 20)
  else if i = TILE_MAP_WRITE then e.tmWriteStatus o
  else if i = TILE_MAP_FILL then e.tmFillStatus o
  else if i = GUARD_BKG ∨ i = GUARD_DIR ∨ i = GUARD_KPR then (if e.ob GUARD_LOCK = 1 then 4 else 0)
  else if i = GUARD_ARM ∨ i = GUARD_LOCK then (if o.v = 0 ∧ e.ob i = 1 then 1 else 0)
  else if i = SPEC_RD_FILL then (if o.v = 1 ∧ e.isH32 then 1 else 0)
  else if i = SF_INDEX_KEY_NEXT then (if 0x1FFF < o.v ∧ o.v ≠ 0xFFFF then 1 else 0)
  else if i = TAINT_CLEAR then (if 0x3F < o.v then 1 else 0)
  else if i = QF_HDR_MIN ∨ i = QF_DATA_MIN ∨ i = QF_ALLOW ∨ i = WATCH_MIN_HOST ∨ i = WATCH_MIN_INT then
    (if o.v ≠ e.obj i o.el ∧ (e.qfChecks ws).any (fun c => c.1.contains i && c.2) then 1 else 0)
  else if i = HDC_ENABLE then (if o.v = 1 ∧ e.ob HDC_STATUS = 2 then 2 else 0)
  else if i = HDC_PRELOAD then (if e.preload.isSome then 2 else if o.val % 256 ≠ 0 then 1 else 0)
  else if i = DRIFT_START then e.driftStatusOf o
  else if i = DRIFT_ABORT then (if 15 < o.v then 1 else 0)
  else if i = REMOOR_REQUEST then (if !e.isManager then 1 else if e.ob PLACE_ENABLE = 0 then 2 else 0)
  else if i = BUCKET_MOVE then e.moveStatus o
  else if i = SPARE_SWAP then
    (if e.n ≤ o.v then 1 else if e.ob PLACE_ENABLE = 0 ∨ e.ob SPARE_STATE ≠ 0 ∨ e.handoff.isSome then 2 else 0)
  else if i = RAS_PAGE_RETIRE then e.retireStatus o
  else if i = RAS_BANK_RETIRE then
    (if 768 ≤ o.v ∨ e.bankSt o.v ≠ 2 then 1 else if e.ob RAS_RETIRE_BUSY = 1 ∨ e.spareBank.isNone then 2 else 0)
  else if i = RAS_INJECT ∨ i = RAS_RAW_READ then (if e.ob RAS_TEST_ENABLE = 0 then 2 else if 0x11 < bits o.val 4 0 then 1 else 0)
  else if i = RAS_FOGHORN_TEST then (if o.v = 1 ∧ e.ob RAS_TEST_ENABLE = 0 then 2 else 0)
  else if i = LEASE_BASE then
    (if o.v = e.ob i then 0 else if e.ob LEASE_ENABLE = 1 then 2
     else if o.v % 2 ^ 18 ≠ 0 ∨ (List.range 64).any (fun p => e.leaseHits ws (e.pWin ws p)) then 1 else 0)
  else if i = LEASE_ENABLE then
    (if o.v = 0 ∧ e.leases.any (fun l => l.2.st != .free) then 2
     else if o.v ≠ e.ob i ∧ (List.range 64).any (fun p => e.leaseHits ws (e.pWin ws p)) then 1 else 0)
  else if i = LEASE_TERM_DEFAULT then (if o.v < 1 ∨ e.pv ws LEASE_TERM_MAX 0 < o.v then 1 else 0)
  else if i = LEASE_TERM_MAX then (if o.v < 1 ∨ 60000000 < o.v ∨ (o.v ≠ e.ob i ∧ o.v < e.pv ws LEASE_TERM_DEFAULT 0) then 1 else 0)
  else if i = LEASE_BREAK ∨ i = LEASE_FREE then (if 4095 < o.v then 1 else 0)
  else if i = LEASE_BREAK_CAID then (if e.c ≤ o.v then 1 else 0)
  else 0

/-! ## Commit effects -/

/-- A drain-effect object takes a new value: each slice keeps the value it has until it drains (R360). -/
def Eng.setDrain (e : Eng) (idx el v : Nat) : Eng :=
  let old := e.obj idx el
  let keep := e.sliceList.foldl (fun m s => if (m.any fun p => p.1 == drainKey s idx el) then m else kput (drainKey s idx el) old m) e.drainEff
  let e := { (e.set idx el v) with drainEff := keep }
  e.set DICT_DRAIN_PENDING 0 (2 ^ e.n - 1)

/-- A value of an object takes effect at its commit edge (R358 step 3). -/
def Eng.applyValue (e : Eng) (o : OWr) : Eng :=
  let i := o.idx
  let v := o.v
  if i = POOL_UNITS then
    if v = e.obj i o.el then e
    else if v = 0 then e.purge o.el
    else (e.set i o.el v).set POOL_STATE o.el 1
  else if i = CAID_POOLS then e.setPools o.el v
  else if i = HDC_ENABLE then (if v = 0 then e.hdcDisable else e.hdcEnable)
  else if isDrain i o.el then e.setDrain i o.el v
  else if i = GUARD_ARM then Eng.presentAll (e.set i 0 v)
  else if i = SLICE_PARK then e.slicePark v
  else if i = HIER_NODE_ID then Eng.remap_ (e.set i 0 v)
  else if i = RAS_FOGHORN_TEST then (let e := e.set i 0 v; if v = 1 then e.foghornMark 6 0 else e)
  else if i = LEASE_FREE then (e.set i 0 v).leaseFree v
  else if LEASE_POOL ≤ i ∧ i ≤ LEASE_POOL + 15 then
    let l := (i - LEASE_POOL) * 256 + o.el
    let e1 := e.set i o.el v
    if v ≠ e.obj i o.el ∧ (e.lease l).st = .held then e1.sendBreak (some l) none 4 else e1
  else if i = TILEMAP_BASE ∨ i = DBS_BASE ∨ i = RAS_SPARE_BASE then
    { (e.set i o.el v) with rwlDone := insertNat i e.rwlDone }
  else e.set i o.el v

/-- TILE_MAP_WRITE starts (R79). -/
def Eng.tmWrite (e : Eng) (v : Nat) : Eng := e.tileWrite [{ i := bits v 31 0, what := .write, ent := Tent.ofWord (bits v 159 32) }]

/-- TILE_MAP_FILL starts (R79). -/
def Eng.tmFill (e : Eng) (v : Nat) : Eng :=
  let i := bits v 31 0
  let n := bits v 63 32
  if n = 0 then e
  else e.tileWrite ((List.range n).map fun k => { i := i + k, what := .write, ent := { tent0 with valid := true, dev := bits v 71 64, dpa := bits v 102 72 + k, pool := bits v 108 103 } })

/-- TAINT_CLEAR of an element (R160): for a DBS page, the page reads as unwritten from now on. -/
def Eng.taintClear (e : Eng) (el : Nat) : Eng :=
  match e.taint.find? fun t => t.el == el with
  | none => e
  | some t =>
    let e := { e with taint := e.taint.filter fun (u : Taint) => u.el != el }
    if t.kind = 1 then { e with dbs := e.dbs.filter fun (p : DbsPage) => p.page != t.whr } else e

/-- RAS_PAGE_RETIRE starts (R301). -/
def Eng.pageRetire (e : Eng) (v : Nat) : Eng :=
  let tile := bit v 0
  let page := bits v 20 1
  match e.sparePage page with
  | none => e
  | some el =>
    let reads := if tile then e.wholeTile page else e.wholeDbs page
    Eng.newSeq (e.set RAS_RETIRE_BUSY 0 1) (.retire el page tile) (pageCh page) 3 (some (if tile then tileLock page else page)) [rds reads]

/-- RAS_BANK_RETIRE starts: the lowest spare bank takes copies of the bank's writes (R302). -/
def Eng.bankRetire (e : Eng) (b : Nat) : Eng :=
  match e.spareBank with
  | none => e
  | some s => { (e.set RAS_RETIRE_BUSY 0 1) with ras := { e.ras with bank := some { bank := b, spare := s } } }

/-- RAS_INJECT arms an injection (R305): the masks on data and check bits, check bits from bit 128. -/
def Eng.inject (e : Eng) (v : Nat) : Eng :=
  { e with ras := { e.ras with armed := e.ras.armed ++ [({ store := bits v 4 0, unit := bits v 9 5, word := bits v 49 10, mask := bits v 177 50 + bits v 189 178 * 2 ^ 128 } : BitErr)] } }

/-- RAS_RAW_READ: the stored word without correction (R305). -/
def Eng.rawRead (e : Eng) (v : Nat) : Eng :=
  let st := bits v 4 0
  let u := bits v 9 5
  let w := bits v 49 10
  let raw := e.storedWord st u w
  let m := e.errMask st u w
  e.set RAS_RAW_DATA 0 ((raw % 2 ^ 128 ^^^ m % 2 ^ 128) + (raw / 2 ^ 128 % 2 ^ 12 ^^^ m / 2 ^ 128 % 2 ^ 12) * 2 ^ 128)

/-- A WO command starts at the commit edge (R358 step 3). -/
def Eng.applyCommand (e : Eng) (o : OWr) : Eng :=
  let i := o.idx
  let v := o.val
  if i = CAID_UNBIND then
    (if e.caidSt o.el = 0 then e else if v = 1 then (e.breakCaid o.el 3).planUnbind o.el else e.surprise o.el 3)
  else if i = TILE_MAP_WRITE then e.tmWrite v
  else if i = TILE_MAP_FILL then e.tmFill v
  else if i = TAINT_CLEAR then e.taintClear v
  else if i = HDC_PRELOAD then e.hdcPreload v
  else if i = HDC_UNLOCK_ALL then (if v = 1 then e.hdcUnlock else e)
  else if i = DRIFT_START then e.driftStart v
  else if i = DRIFT_ABORT then e.driftAbort v
  else if i = REMOOR_REQUEST then e.remoorRequest v
  else if i = BUCKET_MOVE then e.bucketMove (bits v 7 0) (bits v 12 8)
  else if i = SPARE_SWAP then e.spareSwap v
  else if i = RAS_PAGE_RETIRE then e.pageRetire v
  else if i = RAS_BANK_RETIRE then e.bankRetire v
  else if i = RAS_INJECT then e.inject v
  else if i = RAS_RAW_READ then e.rawRead v
  else if i = LEASE_BREAK then e.sendBreak (some v) none 6
  else if i = LEASE_BREAK_CAID then e.breakCaid v 6
  else e

/-! ## Drain (R360) -/

/-- SLICE_DRAIN of the slice number that drains now: with no context and no entry of classes 0, 1, 6 and 7, the new values
take effect there, its counts of R174 start again, and admission resumes. -/
def Eng.sliceDrain (e : Eng) (k : Nat) : Eng :=
  let mine (s : Nat) : Bool := e.sliceNum s == k
  let dark := !(bit (e.ob SLICE_LIT) k)
  let open_ := (e.ctxs.any fun x => mine x.slice)
    || ((e.qf ++ e.lineq).any fun q => mine q.slice && (q.req.cls == 0 || q.req.cls == 1 || q.req.cls == 6 || q.req.cls == 7))
  if e.draining ≠ some k ∨ (open_ ∧ !dark) then e
  else
    let ss := e.sliceList.filter mine
    let keys := e.drainEff.filter fun p => !(ss.any fun s => decide (drainKey s 0 0 ≤ p.1) && decide (p.1 < drainKey (s + 1) 0 0))
    let e := { e with drainEff := keys, slots := e.slots.map fun (q : QSlot) => if ss.contains q.slice then { q with relinked := true } else q }
    (e.set DICT_DRAIN_PENDING 0 (clearBit (e.ob DICT_DRAIN_PENDING) k)).pump

end Sys2Proof.Machine
end

