-- ==== Sys2Proof/Machine/Keeper.lean ====
section
/-! DEFINITION. Sys2Proof/Machine/Keeper.lean: Keeper's world switches, boot, hand-over of units, the secure watchdog, debug and
the live update of normal-world firmware (chapter 14 of spec/). Keeper's programs are firmware: what one has put into a register
by the time of an event is an operand of the event (log entry 31). -/
namespace Sys2Proof.Machine
open Ob

/-- Change the engine alone. -/
def Chip.e (c : Chip) (g : Eng → Eng) : Chip := { c with eng := g c.eng }

/-- Change Keeper alone. -/
def Chip.k (c : Chip) (g : Kpr → Kpr) : Chip := { c with kpr := g c.kpr }

/-- Value of element 0x00 of an object. -/
def Chip.ob (c : Chip) (idx : Nat) : Nat := c.eng.ob idx

/-- Keeper runs firmware that answers: it is out of reset and not halted (R22, Table 01.3). -/
def Chip.keeperUp (c : Chip) : Bool := c.kpr.on && c.kpr.halted.isNone

/-- A live update has the normal world stopped, from quiescing to the new firmware's FW_READY (R351). -/
def Chip.updating (c : Chip) : Bool := c.ob FW_STATUS == 2 || c.ob FW_STATUS == 3 || c.ob FW_STATUS == 4

/-- A world's firmware carries out dictionary operations now (R366, R351, Table 01.3). -/
def Chip.serves (c : Chip) (w : World) : Bool := c.keeperUp && (w == .secure || !c.updating)

/-! ## Worlds (R335 to R339, R349) -/

/-- An enable of Table 14.8 as the fuses leave it. -/
def Chip.dbgOn (c : Chip) (k : Nat) : Bool := bit (c.ob DBG_ENABLE) k && !bit (c.ob DBG_FUSE) k

/-- Invasive and non-invasive enable of a world (Table 14.8). -/
def invasive (w : World) : Nat := match w with | .secure => 0 | .normal => 2

/-- Non-invasive enable of a world. -/
def nonInvasive (w : World) : Nat := match w with | .secure => 1 | .normal => 3

/-- A held halt request takes effect in a world whose invasive enable is 1; a halt in a world whose enable has been cleared ends
(R349). -/
def Chip.haltCheck (c : Chip) : Chip :=
  match c.kpr.halted with
  | some w => if c.dbgOn (invasive w) then c else (c.k fun k => { k with halted := none }).e fun e => e.set DBG_STATE 0 0
  | none =>
    if c.kpr.haltReq ∧ c.kpr.on ∧ c.dbgOn (invasive c.kpr.world) then
      (c.k fun k => { k with halted := some k.world, haltReq := false }).e fun e => e.set DBG_STATE 0 (match c.kpr.world with | .secure => 1 | .normal => 2)
    else c

/-- DEBUG_HALT: a halt request through the debug module (R349). -/
def Chip.debugHalt (c : Chip) : Chip :=
  if !c.pm.attached ∨ c.kpr.halted.isSome then c else (c.k fun k => { k with haltReq := true }).haltCheck

/-- Keeper runs its programs in a world. -/
def Chip.inWorld (c : Chip) (w : World) : Bool := c.keeperUp && c.kpr.booted && c.kpr.world == w

/-- Entry to the secure world (R337): the normal `pc` is saved, the secure cause and value are written, and the hart goes to
`kwentry` in S-M with the register file unchanged. -/
def Chip.enterSecure (c : Chip) (pc cause tval : BitVec 32) : Chip :=
  (c.k fun k => { k with kwnepc := pc, world := .secure, mmode := true, pc := k.kwentry, sb := { k.sb with mcause := cause, mtval := tval } }).haltCheck

/-- ECALL_SECURE: an `ecall` in N-M at `pc` (R337); cause 11 is the Privileged Architecture's. -/
def Chip.ecall (c : Chip) (pc : BitVec 32) : Chip :=
  if c.inWorld .normal ∧ c.kpr.mmode then c.enterSecure pc 11 0 else c

/-- Interrupt sources pending on a line (R340). -/
def Chip.linePending (c : Chip) (n : Nat) : Bool :=
  (List.range 16).any fun s => bit (c.ob WORLD_IRQ_PENDING) s && c.eng.obj WORLD_IRQ_ROUTE s == n

/-- `ev_irq` (R60, R340). -/
def Chip.irqLines (c : Chip) : Nat := (List.range 16).foldl (fun m n => if c.linePending n then setBit m n else m) 0

/-- A line belongs to the normal world. -/
def Chip.normalLine (c : Chip) (n : Nat) : Bool := bit (c.ob WORLD_LINE_OWNER) n

/-- SECURE_INTERRUPT: a pending line of the secure world, enabled in the secure `mie` (R337, R340). -/
def Chip.secureIrq (c : Chip) (pc : BitVec 32) : Chip :=
  if c.inWorld .normal ∧ c.kpr.sb.mie.getLsbD 11 ∧ ((List.range 16).any fun n => !c.normalLine n && c.linePending n) then
    c.enterSecure pc 0x8000000B 0
  else c

/-- A fetch at an address is closed to the normal world (Table 14.1): the boot ROM, or an SRAM page that the Keeper path of the
Guard does not let it read. -/
def Chip.fetchClosed (c : Chip) (a : Nat) : Bool :=
  decide (a < 0x10000)
    || (decide (0x10000000 ≤ a) && decide (a < 0x10100000) && !c.eng.guardOk .keeper 3 false false ((a - 0x10000000) / 4096) ((a - 0x10000000) / 4096) 0 0)

/-- UNTAKEABLE_NORMAL_TRAP: a trap whose handler, at the normal `mtvec`, would fault at fetch (R337). -/
def Chip.untakeable (c : Chip) (pc mtvec cause tval : BitVec 32) : Chip :=
  if c.inWorld .normal ∧ c.fetchClosed (mtvec.toNat / 4 * 4) then
    Chip.enterSecure (c.k fun k => { k with nb := { k.nb with mtvec := mtvec } }) pc cause tval
  else c

/-- The register file with x10 to x13 as given and every other register 0 (R338). -/
def scrubbed (a : List (BitVec 32)) : Vector (BitVec 32) 31 :=
  Vector.ofFn fun i => if 9 ≤ i.val ∧ i.val ≤ 12 then a.getD (i.val - 9) 0 else 0

/-- What secure firmware has set by the time of an `mret` to the normal world (log entry 31). -/
structure MretRegs where
  npp : Bool
  nepc : BitVec 32
  entry : BitVec 32
  mie : BitVec 32
  a : List (BitVec 32)
  deriving DecidableEq, Repr

/-- Return to the normal world (R338). -/
def Kpr.toNormal (k : Kpr) (r : MretRegs) : Kpr :=
  { k with world := .normal, mmode := r.npp, npp := r.npp, ret := false, pc := r.nepc, kwnepc := r.nepc,
           kwentry := r.entry &&& 0xFFFFFFFC#32, sb := { k.sb with mie := r.mie }, regs := scrubbed r.a }

/-- MRET_TO_NORMAL: an `mret` in S-M with `kwstat`[1] at 1 (R338). -/
def Chip.mret (c : Chip) (r : MretRegs) : Chip :=
  if c.inWorld .secure ∧ c.kpr.mmode then (c.k fun k => k.toNormal r).haltCheck else c

/-! ## Keeper's accesses through the Guard (R81, R82) -/

/-- Initiator bit of Keeper in a world (Table 03.9). -/
def kprInit (w : World) : Nat := match w with | .secure => 4 | .normal => 3

/-- A trap of the hart within its world, to the world's own `mtvec` (R82, R335). -/
def Chip.trap (c : Chip) (cause tval : BitVec 32) : Chip :=
  c.k fun k =>
    let b := match k.world with | .secure => k.sb | .normal => k.nb
    let b := { b with mepc := k.pc, mcause := cause, mtval := tval }
    let k := { k with mmode := true, pc := b.mtvec &&& 0xFFFFFFFC#32 }
    match k.world with | .secure => { k with sb := b } | .normal => { k with nb := b }

/-- Pages that n bytes from a cover. -/
def pagesOf (a n : Nat) : List Nat := ((List.range (n / 4096 + 2)).map fun i => a / 4096 + i).filter fun p => decide (p * 4096 < a + n)

/-- Secure firmware reads or writes n bytes: of the SRAM on the Keeper path, of the DRAM on the directory path. An access the Guard refuses
is logged with its interrupt and ends in a load or store access fault, and the second part is false (R82; cause 5 or 7). A read of the
SRAM that meets a word beyond correction ends in a load access fault (R304), and a write clears the errors of the words it covers. -/
def Chip.fwAccess (c : Chip) (path : GPath) (wr : Bool) (a n : Nat) : Chip × Bool :=
  if n = 0 then (c, true)
  else match (pagesOf a n).find? fun p => !c.eng.guardOk path 4 true wr p p 0 0 with
    | none =>
      if path == .keeper then
        (match c.eng.sramUse wr a n with
         | (e, none) => (c.e fun _ => e, true)
         | (e, some w) => ((c.e fun _ => e).trap 5 (BitVec.ofNat 32 w), false))
      else (c, true)
    | some p =>
      let at_ := if path == .keeper then 0x10000000 + p * 4096 else 0x80000000 + p * 4096 % 2 ^ 28
      ((c.e fun e => e.guardFault path 4 wr p).trap (if wr then 7 else 5) (BitVec.ofNat 32 at_), false)

/-! ## Boot and image checks (R336, R350) -/

/-- Bytes of a store of cells. -/
def readCells (m : List Host.Cell) (a n : Nat) : List (BitVec 8) :=
  (List.range n).map fun i => match m.find? fun x => x.1 == a + i with | some x => x.2 | none => 0

/-- One byte written to a store of cells: addresses rise, and a cell of 0 is not listed (log entry 7). -/
def putCell (a : Nat) (b : BitVec 8) : List Host.Cell → List Host.Cell
  | [] => if b = 0 then [] else [(a, b)]
  | x :: t =>
    if a < x.1 then (if b = 0 then x :: t else (a, b) :: x :: t)
    else if a = x.1 then (if b = 0 then t else (a, b) :: t)
    else x :: putCell a b t

/-- Bytes written to a store of cells from an address on. -/
def putBytes (a : Nat) : List (BitVec 8) → List Host.Cell → List Host.Cell
  | [], m => m
  | b :: t, m => putBytes (a + 1) t (putCell a b m)

/-- Little-endian number of bytes (R10). -/
def leNat (l : List (BitVec 8)) : Nat := l.reverse.foldl (fun a b => a * 256 + b.toNat) 0

/-- A field of an image header (Table 14.7). -/
def hdrField (h : List (BitVec 8)) (a n : Nat) : Nat := leNat ((h.drop a).take n)

/-- Checks an image for a world by the steps of R336; 0 where it passes, else FW_BOOT_STATUS. -/
def Eng.imageStatus (e : Eng) (img : List (BitVec 8)) (world : Nat) : Nat :=
  let h := img.take 512
  let len := hdrField h 16 4
  let load := hdrField h 24 4
  let body := (img.drop 512).take len
  let pub := (h.drop 176).take 96
  if hdrField h 0 4 ≠ 0x5045454B then 1
  else if hdrField h 4 2 ≠ 1 ∨ len % 4 ≠ 0 ∨ 2 ^ 20 < load + len ∨ body.length < len ∨ len ≤ hdrField h 20 4 then 6
  else if 3 < hdrField h 7 1 ∨ Config.sha384 pub ≠ e.fz.keyHash.getD (hdrField h 7 1) 0 then 2
  else if hdrField h 6 1 ≠ world then 6
  else if hdrField h 8 2 < e.ob FW_MIN_SVN then 5
  else if Config.sha384 body ≠ hdrField h 32 48 then 4
  else if !Config.ecdsaVerify pub (Config.sha384 (h.take 80)) ((h.drop 80).take 96) then 3
  else 0

/-- The image a header describes. -/
def imgOf (img : List (BitVec 8)) : Img :=
  { load := hdrField img 24 4, len := hdrField img 16 4, entry := hdrField img 20 4, version := hdrField img 12 4 }

/-- The boot ROM checks an image and enters it where it passes (R336 steps 2 and 3). A copy the Guard refuses ends as status 6 (log entry
55). -/
def Chip.bootImage (c : Chip) (img : List (BitVec 8)) : Chip :=
  let st := c.eng.imageStatus img 0
  let c := c.e fun e => e.set FW_BOOT_STATUS 0 st
  if st ≠ 0 then c
  else
    let i := imgOf img
    let (c, ok) := c.fwAccess .keeper true i.load i.len
    if !ok then c.e fun e => e.set FW_BOOT_STATUS 0 6
    else (c.e fun e => e.set FW_VERSION 0 i.version).k fun k =>
      { k with booted := true, sram := putBytes i.load ((img.drop 512).take i.len) k.sram, world := .secure, mmode := true, pc := BitVec.ofNat 32 (0x10000000 + i.load + i.entry) }

/-- Keeper leaves reset at step 4 of Table 13.7 and runs the boot ROM (R336): with source 1 the region for the fused window is
written, GUARD_ARM is committed and the image is read; with source 0 it waits for firmware-update messages. -/
def Chip.bootKeeper (c : Chip) : Chip :=
  let c := c.k fun k => { k with on := true, booted := false, world := .secure, mmode := true, pc := 0 }
  if c.ob FW_BOOT_SRC = 0 then c
  else
    let base := c.eng.fz.bootWin
    let region := 3 + 2 ^ 20 + base / 4096 * 2 ^ 32 + (base / 4096 + 255) * 2 ^ 72
    let c := c.e fun e => (e.set GUARD_DIR 0xFF region).set GUARD_ARM 0 1
    let n := min (2 ^ 20) (512 + hdrField (readCells c.kpr.dram base 512) 16 4)
    let (c, ok) := c.fwAccess .directory false base n
    if ok then c.bootImage (readCells c.kpr.dram base n) else c.e fun e => e.set FW_BOOT_STATUS 0 1

/-! ## Hand-over of units (R341 to R343) -/

/-- A unit number of Table 14.4. -/
def isUnit (u : Nat) : Bool := decide (u ≤ 0x11) || (decide (0x20 ≤ u) && decide (u ≤ 0x2F))

/-- Owner of a unit. -/
def Eng.unitOwner (e : Eng) (u : Nat) : World := if bit (e.obj WORLD_UNIT_STATE u) 0 then .normal else .secure

/-- Step of a unit (WORLD_UNIT_STATE [3:1]); refused counts as owned. -/
def Eng.unitStep (e : Eng) (u : Nat) : Nat := bits (e.obj WORLD_UNIT_STATE u) 3 1

/-- The engine with a unit's owner and step. -/
def Eng.setUnit (e : Eng) (u : Nat) (w : World) (step : Nat) : Eng :=
  e.set WORLD_UNIT_STATE u ((match w with | .normal => 1 | .secure => 0) + step * 2)

/-- Interrupt source that tells a world of a hand-over (Table 14.3). -/
def hoIrq (w : World) : Nat := match w with | .secure => 6 | .normal => 7

/-- The world that asked for a unit. -/
def Chip.hoWorld (c : Chip) (u : Nat) : World := kget .normal u c.kpr.hoBy

/-- A unit in hand-over may be reset: a channel's copy has ended, and no record of a ring writer is being written (R343). -/
def Chip.unitQuiet (c : Chip) (u : Nat) : Bool :=
  if u < 0x10 then !(c.eng.chans.any fun x => x.ch == u) && !(c.eng.ctxs.any fun x => x.req.op == .drift u || x.req.op == .resync u)
  else if u = 0x10 then !(c.eng.seqs.any fun s => s.kind == .smpRing)
  else if u = 0x11 then !(c.eng.seqs.any fun s => s.kind == .trcRing)
  else true

/-- Objects set back to their defaults. -/
def Eng.defaults (e : Eng) (l : List (Nat × Nat)) : Eng := l.foldl (fun e p => e.set p.1 p.2 (objDefault e.fz p.1 p.2)) e

/-- The reset of a unit as Table 14.4 states. -/
def Chip.unitReset (c : Chip) (u : Nat) : Chip :=
  if u < 0x10 then c.e fun e => { e with halted := dropNat u e.halted }
  else if u = 0x10 then
    { c.e (fun e => Eng.defaults { e with smpGap := [] } ((List.range 8).map fun k => (PM_SMP_ENABLE + k, 0))) with pm := { c.pm with smpBuf := [], smpWay := [], flush := none } }
  else if u = 0x11 then
    { c.e (fun e => Eng.defaults { e with marks := [] } ([(TRC_ENABLE, 0), (TRC_SOURCES, 0)] ++ (List.range 8).map (fun k => (TRC_EVENTS, k))
        ++ (List.range 4).map (fun k => (TRC_RING_BASE + k, 0)))) with pm := { c.pm with trc := [], trcLost := 0 } }
  else c.e fun e => (List.range 16).foldl (fun e s => if e.obj WORLD_IRQ_ROUTE s = u - 0x20 then e.set WORLD_IRQ_ROUTE s 0xFF else e) e

/-- Reset time of a unit in ns, at 1 GHz, 500 MHz and 4 MHz (Table 14.4). -/
def resetNs (u : Nat) : Nat := if u < 0x10 then 8192 else if u = 0x10 then 16384 else if u = 0x11 then 1024 else 250

/-- A released unit is reset once it may be (Table 14.5 step 3, R343). -/
def Chip.unitStart (c : Chip) (u : Nat) : Chip :=
  if !c.unitQuiet u then c
  else
    let c := c.k fun k => { k with hoRel := dropNat u k.hoRel, hoAt := kput u (c.eng.ts + resetNs u) k.hoAt }
    (c.unitReset u).e fun e => e.setUnit u (e.unitOwner u) 2

/-- Released units go on. -/
def Chip.hoStep (c : Chip) : Chip := c.kpr.hoRel.foldl (fun c u => c.unitStart u) c

/-- Status of a WORLD_HO_REQ by a world (R342). -/
def Eng.hoReqStatus (e : Eng) (w : World) (u : Nat) : Nat :=
  if !isUnit u then 1 else if (e.unitStep u ≠ 0 ∧ e.unitStep u ≠ 3) ∨ e.unitOwner u = w then 2 else 0

/-- Status of a WORLD_HO_RELEASE by a world: the owner releases a requested unit (R342). -/
def Chip.hoReleaseStatus (c : Chip) (w : World) (u : Nat) : Nat :=
  if !isUnit u then 1 else if c.eng.unitStep u ≠ 1 ∨ c.eng.unitOwner u ≠ w ∨ c.kpr.hoRel.contains u then 2 else 0

/-- Status of a WORLD_HO_REFUSE: the secure world refuses a unit it owns (R342). -/
def Chip.hoRefuseStatus (c : Chip) (u : Nat) : Nat :=
  if !isUnit u then 1 else if c.eng.unitStep u ≠ 1 ∨ c.eng.unitOwner u ≠ .secure ∨ c.kpr.hoRel.contains u then 2 else 0

/-- WORLD_HO_REQ (Table 14.5 step 1). -/
def Chip.hoReq (c : Chip) (w : World) (u : Nat) : Chip :=
  (c.e fun e => (e.setUnit u (e.unitOwner u) 1).irq (hoIrq (e.unitOwner u))).k fun k =>
    { k with hoBy := kput u w k.hoBy, hoAt := kput u c.eng.ts k.hoAt }

/-- WORLD_HO_RELEASE (Table 14.5 step 2). -/
def Chip.hoRelease (c : Chip) (u : Nat) : Chip := (c.k fun k => { k with hoRel := insertNat u k.hoRel }).hoStep

/-- WORLD_HO_REFUSE (Table 14.5 step 2). -/
def Chip.hoRefuse (c : Chip) (u : Nat) : Chip := c.e fun e => (e.setUnit u .secure 3).irq (hoIrq (c.hoWorld u))

/-- WORLD_HO_WAIT_EXPIRY: a normal-owned unit that the secure world asked for (Table 14.5 step 2). -/
def Chip.hoExpiry (c : Chip) (u : Nat) : Chip :=
  if isUnit u ∧ c.eng.unitStep u = 1 ∧ c.eng.unitOwner u = .normal ∧ c.hoWorld u = .secure ∧ !c.kpr.hoRel.contains u
      ∧ kget 0 u c.kpr.hoAt + c.ob WORLD_HO_WAIT * 1000 ≤ c.eng.ts then c.hoRelease u
  else c

/-- HANDOVER_RESET_DONE: the requester owns the unit (Table 14.5 step 4). -/
def Chip.hoDone (c : Chip) (u : Nat) : Chip :=
  if c.eng.unitStep u ≠ 2 ∨ c.eng.ts < kget 0 u c.kpr.hoAt then c
  else
    let w := c.hoWorld u
    c.e fun e =>
      let e := (e.setUnit u w 0).irq (hoIrq w)
      if 0x20 ≤ u then e.set WORLD_LINE_OWNER 0 (match w with | .normal => setBit (e.ob WORLD_LINE_OWNER) (u - 0x20) | .secure => clearBit (e.ob WORLD_LINE_OWNER) (u - 0x20)) else e

/-- A write names a unit that is being reset: busy (Table 14.5 step 3). -/
def Eng.unitResetting (e : Eng) (o : OWr) : Bool :=
  let u : Option Nat := if o.idx = DRIFT_ABORT then some o.v
    else if PM_SMP_ENABLE ≤ o.idx ∧ o.idx ≤ PM_SMP_FLUSH then some 0x10
    else if TRC_ENABLE ≤ o.idx ∧ o.idx ≤ TRC_RING_TAIL then some 0x11
    else if o.idx = WORLD_IRQ_ROUTE ∧ o.v < 16 then some (0x20 + o.v) else none
  match u with | some u => e.unitStep u == 2 | none => false

/-! ## The secure watchdog (R347, R348) -/

/-- The watchdog counts now: it has been enabled, block Extinguished does not hold it, and no debug halt pauses it. -/
def Chip.wdtCounts (c : Chip) : Bool :=
  c.pwr.wdtOn && c.ob PWR_BLOCK_STATE != 3 && !(c.kpr.halted == some .secure && c.ob WDT_PAUSE_DEBUG == 1)

/-- The count starts again at 0. -/
def Chip.wdtZero (c : Chip) : Chip := { c with pwr := { c.pwr with wdtCnt := 0, wdtWarned := false } }

/-- WATCHDOG_PET: a write of 1 to `kwstat`[3] from S-M. -/
def Chip.pet (c : Chip) : Chip := if c.keeperUp ∧ c.kpr.world = .secure ∧ c.kpr.mmode then c.wdtZero else c

/-- AONCLK cycles of the period, at 4 MHz. -/
def Chip.wdtPeriod (c : Chip) : Nat := c.ob WDT_PERIOD * 4000

/-- WATCHDOG_WARNING: the count reaches WDT_WARN percent of the period. -/
def Chip.wdtWarn (c : Chip) : Chip :=
  if !c.wdtCounts ∨ c.ob WDT_WARN = 0 ∨ c.pwr.wdtWarned ∨ c.pwr.wdtCnt < c.wdtPeriod * c.ob WDT_WARN / 100 then c
  else Chip.e { c with pwr := { c.pwr with wdtWarned := true } } fun e => e.irq 8

/-- WDT_ENABLE takes a value. -/
def Chip.wdtEnable (c : Chip) (v : Nat) : Chip :=
  let c := c.e fun e => e.set WDT_ENABLE 0 v
  if v = 1 ∧ !c.pwr.wdtOn then { c.wdtZero with pwr := { c.wdtZero.pwr with wdtOn := true } } else c

/-! ## Live update (R351) -/

/-- The firmware event (Table 15.8). -/
def Eng.fwEvent (e : Eng) (st version : Nat) : Eng := (e.set FW_STATUS 0 st).event 0x12 (evArgs [(0, st), (1, version)])

/-- FW_ACTIVATE: verification, then quiescing (Table 14.9 steps 1 and 2). An image the Guard does not let the firmware read is rejected
(log entry 55). -/
def Chip.fwActivate (c : Chip) : Chip :=
  let img := readCells c.kpr.dram (c.ob FW_STAGE_BASE) (c.ob FW_STAGE_LEN)
  let i := imgOf img
  let (c, ok) := c.fwAccess .directory false (c.ob FW_STAGE_BASE) (c.ob FW_STAGE_LEN)
  if !ok then c.e fun e => e.fwEvent 6 0
  else if c.eng.imageStatus img 1 ≠ 0 then c.e fun e => e.fwEvent 6 i.version
  else
    let u : FwUpd := { old := c.kpr.nimg, new := i, ends := c.eng.ts + c.ob FW_QUIESCE_MAX * 1000 }
    (c.e fun e => (e.fwEvent 2 i.version).irq 9).k fun k => { k with upd := some u }

/-- A step that copies firmware meets no refusal of the Guard; the first refusal ends it with nothing copied (R82; log entry 55). -/
def Chip.fwAccesses (c : Chip) : List (GPath × Bool × Nat × Nat) → Chip × Bool
  | [] => (c, true)
  | (p, wr, a, n) :: t => match c.fwAccess p wr a n with | (c, true) => c.fwAccesses t | (c, false) => (c, false)

/-- SRAM cells that normal-world regions of the Guard cover. -/
def Eng.normalCell (e : Eng) (a : Nat) : Bool := e.guardOk .keeper 3 false true (a / 4096) (a / 4096) 0 0

/-- An image's body goes to its load offset, the rest of the normal regions is 0, and the normal bank is reset (Table 14.9 step
3). -/
def Chip.swapIn (c : Chip) (i : Img) (body : List (BitVec 8)) (ver st ends : Nat) : Chip :=
  let c := c.e fun e => e.sramPut ((e.sramWords 0 (2 ^ 20)).filter fun w => e.normalCell (w - 0x10000000))
  let kept := c.kpr.sram.filter fun (x : Host.Cell) => !c.eng.normalCell x.1
  let r : MretRegs := { npp := true, nepc := BitVec.ofNat 32 (0x10000000 + i.load + i.entry), entry := c.kpr.kwentry, mie := c.kpr.sb.mie, a := [1, BitVec.ofNat 32 ver] }
  let c := c.k fun k =>
    Kpr.toNormal { k with sram := putBytes i.load body kept, nb := bank0, nimg := some i, upd := k.upd.map fun (u : FwUpd) => { u with ends := ends } } r
  Chip.e { c with dic := { c.dic with stN := [] } } fun e => e.fwEvent st i.version

/-- FW_QUIESCE_DONE: the normal world's `ecall` with a0 = 0x51, or FW_QUIESCE_MAX (Table 14.9 steps 2 to 4). -/
def Chip.fwQuiesced (c : Chip) (byEcall : Bool) : Chip :=
  match c.kpr.upd with
  | none => c
  | some u =>
    if c.ob FW_STATUS ≠ 2 ∨ !c.keeperUp ∨ (byEcall ∧ c.kpr.world ≠ .normal) ∨ (!byEcall ∧ c.eng.ts < u.ends) then c
    else
      let base := c.ob FW_STAGE_BASE
      let img := readCells c.kpr.dram base (512 + u.new.len)
      let old := match u.old with | some o => readCells c.kpr.sram o.load o.len | none => []
      let save := match u.old with | some o => [(.keeper, false, o.load, o.len), (.directory, true, base + 2 ^ 20, o.len)] | none => []
      match c.fwAccesses (save ++ [(.directory, false, base, 512 + u.new.len), (.keeper, true, u.new.load, u.new.len)]) with
      | (c, false) => c
      | (c, true) =>
      let c := c.k fun k => { k with dram := putBytes (base + 2 ^ 20) old k.dram }
      c.swapIn u.new (img.drop 512) (match u.old with | some o => o.version | none => 0) 4 (c.eng.ts + c.ob FW_READY_MAX * 1000000)

/-- FW_READY: the new firmware runs (Table 14.9 step 5). -/
def Chip.fwReady (c : Chip) : Chip :=
  match c.kpr.upd with
  | none => c
  | some u => (c.k fun k => { k with upd := none }).e fun e => (e.set FW_VERSION 1 u.new.version).fwEvent 5 u.new.version

/-- FW_READY_TIMEOUT: FW_READY_MAX has passed, or the normal world took an instruction access fault: the previous image is
brought back (R351). -/
def Chip.fwTimeout (c : Chip) (fault : Bool) : Chip :=
  match c.kpr.upd with
  | none => c
  | some u =>
    if c.ob FW_STATUS ≠ 4 ∨ (!fault ∧ c.eng.ts < u.ends) then c
    else
      let o := u.old.getD { load := 0, len := 0, entry := 0, version := 0 }
      let body := readCells c.kpr.dram (c.ob FW_STAGE_BASE + 2 ^ 20) o.len
      match c.fwAccesses [(.directory, false, c.ob FW_STAGE_BASE + 2 ^ 20, o.len), (.keeper, true, o.load, o.len)] with
      | (c, false) => c
      | (c, true) =>
      let c := c.swapIn o body u.new.version 7 0
      c.k fun k => { k with upd := none, nimg := u.old }

/-! ## Denials (R344, R345) -/

/-- A domain is in secure use (R344). -/
def Eng.secureUse (e : Eng) (dom : Nat) : Option Nat :=
  if e.obj PWR_VOTE_S dom = 1 then some 0
  else if dom = 5 ∧ (e.unitOwner 0x10 = .secure ∨ e.unitOwner 0x11 = .secure) then some 1
  else if 0x20 ≤ dom ∧ dom < 0x40 ∧ (e.ctxs.any fun x => x.slice == dom - 0x20 && (match x.req.op with
      | .drift ch => e.unitOwner ch == .secure | .resync ch => e.unitOwner ch == .secure | _ => false)) then some 2
  else none

/-- Some counter, the sampler or the histograms are enabled under a valuation of the objects. -/
def pmCounts (val : Nat → Nat → Nat) : Bool :=
  ((List.range 48).any fun b => (List.range 16).any fun i => val (PM_CTR_SEL + b) i != 0)
    || val PM_SMP_ENABLE 0 == 1 || val PM_HIST_ENABLE 0 == 1

/-- The domain that a normal-world write would take away in a way R345 forbids, where it is in secure use, with why. -/
def Eng.denied (e : Eng) (val : Nat → Nat → Nat) (o : OWr) : Option (Nat × Nat) :=
  let hit (d : Nat) : Option (Nat × Nat) := (e.secureUse d).map fun y => (d, y)
  let cur := e.obj o.idx o.el
  if o.idx = PWR_SLEEP_TARGET then (if o.v ≠ cur then hit o.el else none)
  else if o.idx = SLICE_PARK then
    ((bitList o.v 32).filter fun k => !bit cur k).findSome? fun k => hit (0x20 + k)
  else if o.idx = DRX_ENABLE then (if o.v = 0 then hit 4 else none)
  else if o.idx = DRX_LOOPBACK then (if o.v ≠ 0 then hit 4 else none)
  else if (PM_CTR_SEL ≤ o.idx ∧ o.idx ≤ PM_CTR_SEL + 0x2F) ∨ o.idx = PM_SMP_ENABLE ∨ o.idx = PM_HIST_ENABLE then
    (if o.v = 0 ∧ cur ≠ 0 ∧ !pmCounts val then hit 5 else none)
  else none

/-- A denial counted, logged and reported (R345, Table 14.6). -/
def Eng.logDenial (e : Eng) (o : OWr) (dom why : Nat) : Eng :=
  ((e.inc WORLD_DENY_COUNT).logPush WORLD_DENY_LOG 64 (o.idx + o.el * 2 ^ 16 + dom * 2 ^ 24 + why * 2 ^ 31 + e.t48 * 2 ^ 33)).irq 5

end Sys2Proof.Machine
end

