-- ==== Sys2Proof/Machine/D66.lean ====
section
/-! DEFINITION. Sys2Proof/Machine/D66.lean: what the Draix link puts on its lanes: flits as bits with their CRC and correction parity, D66
blocks, scrambling, comma blocks and the striping of blocks on lanes (R234, R236 to R239, R241 to R245, R253). -/
namespace Sys2Proof.Machine

/-! ## The flit's codes (R242, R243) -/

/-- Multiplication by α in GF(2^10), field polynomial x^10 + x^3 + 1. -/
def symX (a : Nat) : Nat := if a < 512 then 2 * a else (2 * a) ^^^ 0x409

/-- Product in GF(2^10). -/
def symMul (a b : Nat) : Nat :=
  ((List.range 10).foldl (fun (s : Nat × Nat) i => (if b.testBit i then s.1 ^^^ s.2 else s.1, symX s.2)) (0, a)).1

/-- The generator (x − α^0)(x − α^1) … (x − α^5), highest coefficient first. -/
def symGen : List Nat :=
  ((List.range 6).foldl (fun (s : List Nat × Nat) _ =>
    (List.zipWith (· ^^^ ·) (s.1 ++ [0]) (0 :: s.1.map (symMul s.2)), symX s.2)) ([1], 1)).1

/-- The parity symbols p_5 to p_0 of a message m of 206 symbols: the remainder of m(x) x^6 by the generator. -/
def symParity (m : Nat) : List Nat :=
  (List.range 206).foldl (fun reg i => let f := (m / 2 ^ (10 * (205 - i)) % 1024) ^^^ reg.headD 0
    List.zipWith (fun a g => a ^^^ symMul f g) (reg.drop 1 ++ [0]) (symGen.drop 1)) (List.replicate 6 0)

/-- CRC-32C, reflected, over the lowest n bits of v in ascending order (R243). -/
def crc32c (v n : Nat) : Nat :=
  (List.range n).foldl (fun c i =>
    let low := (c % 2 == 1) != v.testBit i
    if low then (c / 2) ^^^ 0x82F63B78 else c / 2) (2 ^ 32 - 1) ^^^ (2 ^ 32 - 1)

/-- A flit of a kind and a body of 2,016 bits with its CRC: 2,048 content bits (R241, R243). -/
def withCrc (kind : Nat) (body : BitVec 2016) : BitVec 2048 :=
  BitVec.ofNat 2048 (body.toNat + crc32c (kind + body.toNat * 2 ^ 4) 2020 * 2 ^ 2016)

/-- The side vector of a flit: its kind and the parity of R242. -/
def sideOf (kind : Nat) (content : BitVec 2048) : BitVec 64 :=
  BitVec.ofNat 64 (((symParity (content.toNat + kind * 2 ^ 2048)).reverse.zipIdx.map fun p => p.1 * 2 ^ (10 * p.2 + 4)).sum + kind)

/-- Block j of a flit: side bits 0 and 1, then 64 content bits (R237, R241). -/
def dataBlock (side : BitVec 64) (content : BitVec 2048) (j : Nat) : BitVec 66 :=
  BitVec.ofNat 66 (side.toNat / 2 ^ (2 * j) % 4 + content.toNat / 2 ^ (64 * j) % 2 ^ 64 * 4)

/-- The 32 blocks of a flit. `spoil` is an armed injection (R263): one content bit flips ahead of the correction code, and symbols of one
logical lane are corrupted; which bit and which symbols, the spec does not say: they are free values of the flit's bits. -/
def flitBlocks (kind : Nat) (body : BitVec 2016) (w : Nat) (spoil : Option DrxInj) : List (BitVec 66) :=
  let content := withCrc kind body
  let content := match spoil with
    | some i => if i.crc then content ^^^ BitVec.ofNat 2048 (2 ^ (Config.injBit content % 2048)) else content
    | none => content
  let side := sideOf kind content
  (List.range 32).map fun j =>
    let b := dataBlock side content j
    match spoil with
    | some i => if i.syms ≠ 0 ∧ j % w = i.lane then b ^^^ Config.injSymbols i.syms j content else b
    | none => b

/-! ## What a flit holds (Tables 10.5, 10.7, 10.8, 10.12) -/

/-- A Boolean as a bit at a place. -/
def bitAt (b : Bool) (k : Nat) : Nat := if b then 2 ^ k else 0

/-- Content [2015:0] of a flit of kinds 0x0 to 0x3. -/
def SentFlit.bits (f : SentFlit) : BitVec 2016 :=
  let head := f.ackseq % 4096 * 2 ^ 16 + f.acktype % 4 * 2 ^ 28
  let g (k : Nat) : Nat := f.body.getD k 0
  BitVec.ofNat 2016 (head + match f.kind with
    | 1 => (match f.data with | some h => h.seq % 4096 + h.f.cls % 4 * 2 ^ 12 + bitAt h.shared 14 + h.f.payload.toNat * 2 ^ 32 | none => 0)
    | 2 => ((List.range 5).map fun k => g k % 2 ^ 16 * 2 ^ (32 + 16 * k)).sum
    | 3 => g 0 % 2 ^ 8 * 2 ^ 32 + g 1 % 2 ^ 16 * 2 ^ 40 + g 2 % 8 * 2 ^ 56 + g 3 % 2 * 2 ^ 59
    | _ => 0)

/-- Body of a TS flit; a TS1 has no second part. -/
def tsBits (p : TsBody) (q : Option Ts2Body) : BitVec 2016 :=
  let one := p.node % 2 ^ 8 + p.locked % 2 ^ 16 * 2 ^ 8 + p.txmask % 2 ^ 16 * 2 ^ 24 + p.rate % 2 * 2 ^ 40 + p.cap % 4 * 2 ^ 41 + bitAt p.resume 43
    + p.epoch % 2 ^ 8 * 2 ^ 44 + p.loop % 4 * 2 ^ 52
  let two := match q with
    | some q => q.width % 4 * 2 ^ 54 + ((q.map.take 16).zipIdx.map fun m => m.1 % 16 * 2 ^ (56 + 4 * m.2)).sum + q.e % 4096 * 2 ^ 120 + q.n % 4096 * 2 ^ 132
        + q.o % 4096 * 2 ^ 144 + bitAt q.resok 156 + bitAt q.req 157 + q.excl % 2 ^ 16 * 2 ^ 158 + bitAt q.final 174
    | none => 0
  BitVec.ofNat 2016 (one + two)

/-! ## Scrambling and commas (R238, R239) -/

/-- One content bit through the scrambler: the new state and the bit z. -/
def scramStep (s : BitVec 58) : BitVec 58 × Bool :=
  let z := s.getLsbD 57 != s.getLsbD 38
  (BitVec.ofNat 58 (s.toNat * 2 + z.toNat), z)

/-- The next n bits z of the scrambler, the first at bit 0, and the state they leave. -/
def scramRun : Nat → BitVec 58 → Nat × BitVec 58
  | 0, s => (0, s)
  | n + 1, s => let r := scramRun n (scramStep s).1; ((scramStep s).2.toNat + 2 * r.1, r.2)

/-- A data block scrambled: its content bits in transmission order, its side field as it is. -/
def scramble (s : BitVec 58) (b : BitVec 66) : BitVec 58 × BitVec 66 :=
  let r := scramRun 64 s
  (r.2, b ^^^ BitVec.ofNat 66 (r.1 * 4))

/-- The scrambler directly after a comma that names a plane: ones in [57:4], the plane in [3:0]. -/
def scramLoad (plane : Nat) : BitVec 58 := BitVec.ofNat 58 ((2 ^ 54 - 1) * 16 + plane % 16)

/-- A comma block (Table 10.2). -/
def commaBlock (plane llane width : Nat) (far : Bool) : BitVec 66 :=
  let id := plane % 16 + llane % 16 * 16
  BitVec.ofNat 66 (2 + (0x5CA35CA35C + id * 2 ^ 40 + width % 4 * 2 ^ 48 + bitAt far 50 + (255 - id) * 2 ^ 56) * 4)

/-- Levels of the 33 PAM4 symbols of a block, in the order sent (R237, Table 10.1). -/
def pam4 (b : BitVec 66) : List Nat :=
  (List.range 33).map fun i => match b.getLsbD (2 * i), b.getLsbD (2 * i + 1) with
    | false, false => 0 | false, true => 1 | true, true => 2 | true, false => 3

/-! ## The lanes (R236, R241) -/

/-- Width field of a comma: Table 10.2. -/
def commaWidth (f : LineFlit) : Nat := if f.whole then 3 else if f.lanes.length = 16 then 0 else if f.lanes.length = 8 then 1 else 2

/-- A comma is due ahead of a flit: 64 data blocks have followed the last one, or 16,384 where that one said so and the flit is striped; and
at once where a lane leaves electrical idle, which gives its scrambler a state (log entry 54). -/
def Drx.commaDue (d : Drx) (f : LineFlit) : Bool :=
  decide ((if f.whole then 64 else if d.spacing then 16384 else 64) ≤ d.since) || f.lanes.any fun p => !(d.scr.any fun s => s.1 == p)

/-- Every lane in use sends its comma in the same block position (R239). -/
def Drx.comma (d : Drx) (f : LineFlit) : Drx :=
  { d with since := 0, spacing := !f.whole, scr := f.lanes.map fun p => (p, scramLoad p),
           wire := d.wire ++ f.lanes.zipIdx.map fun p => (p.1, commaBlock p.1 (if f.whole then 0xF else p.2) (commaWidth f) (!f.whole)) }

/-- A block on a physical lane, scrambled by the lane's scrambler. -/
def Drx.laneBlock (d : Drx) (lane : Nat) (b : BitVec 66) : Drx :=
  let s := match d.scr.find? fun s => s.1 == lane with | some s => s.2 | none => scramLoad lane
  let r := scramble s b
  { d with scr := (d.scr.filter fun (t : Nat × BitVec 58) => t.1 != lane) ++ [(lane, r.1)], wire := d.wire ++ [(lane, r.2)] }

/-- One block position of every lane in use: a comma, or the next blocks of the flit in hand. A TS flit runs whole on each lane; otherwise
block j goes on logical lane j mod w (R241). -/
def Drx.position (d : Drx) (f : LineFlit) : Drx :=
  if d.linePos = 0 ∧ d.commaDue f then d.comma f
  else
    let w := f.lanes.length
    let d := { d with scr := d.scr.filter fun (s : Nat × BitVec 58) => f.lanes.contains s.1 }
    let d := f.lanes.zipIdx.foldl (fun (d : Drx) p => d.laneBlock p.1 (f.blocks.getD (if f.whole then d.linePos else d.linePos * w + p.2) 0)) d
    let d := { d with since := d.since + 1, linePos := d.linePos + 1 }
    if (if f.whole then 32 else 32 / w) ≤ d.linePos then { d with line := d.line.drop 1, linePos := 0 } else d

/-- A flit joins those that wait for the lanes: a data flit behind all, any other behind the flit in hand and ahead of data (R247, R249). -/
def Drx.wait (d : Drx) (f : LineFlit) : Drx :=
  if f.kind = 1 then { d with line := d.line ++ [f] }
  else
    let hand := d.line.take (if d.linePos = 0 then 0 else 1)
    let rest := d.line.drop hand.length
    { d with line := hand ++ (rest.filter fun (g : LineFlit) => g.kind != 1) ++ [f] ++ rest.filter fun (g : LineFlit) => g.kind == 1 }

/-- Data flits that still wait for the lanes are taken back: a replay sends them again from the replay buffer (R248). -/
def Drx.recall (d : Drx) : Drx :=
  let hand := d.line.take (if d.linePos = 0 then 0 else 1)
  { d with line := hand ++ (d.line.drop hand.length).filter fun (g : LineFlit) => g.kind != 1 }

/-- Only the flit in hand and flits of a kind still wait for the lanes. -/
def Drx.onlyKind (d : Drx) (kind : Nat) : Drx :=
  let hand := d.line.take (if d.linePos = 0 then 0 else 1)
  { d with line := hand ++ (d.line.drop hand.length).filter fun (g : LineFlit) => g.kind == kind }

/-- Electrical idle on every lane: nothing waits, and no scrambler has a state. -/
def Drx.quiet (d : Drx) : Drx := { d with line := [], linePos := 0, since := 0, spacing := false, scr := [], wire := [] }

/-- Block positions that have ended at time t in ns: 212.5 Gb/s on a lane at full rate, half of it at half rate (Table 10.1, R237). -/
def blocksBy (half : Bool) (t : Nat) : Nat := t * 2125 / (if half then 1320 else 660)

end Sys2Proof.Machine
end

