-- ==== Sys2Proof/Machine/Draix.lean ====
section
/-! DEFINITION. Sys2Proof/Machine/Draix.lean: the Draix mirror link: lanes, flits, sequence and replay, credits, training,
loopback, eye scan (R236 to R264). A flit received is one whole event, whose command says what the codes below it found; a flit sent
leaves as scrambled D66 blocks (Machine/D66.lean). -/
namespace Sys2Proof.Machine
open Ob

/-- Link state (Table 10.11). -/
def Lnk.st (l : Lnk) : Nat := l.eng.ob DRX_STATE

/-- Set an object. -/
def Lnk.set (l : Lnk) (idx el v : Nat) : Lnk := { l with eng := l.eng.set idx el v }

/-- Count in an object. -/
def Lnk.inc (l : Lnk) (idx : Nat) (el : Nat := 0) : Lnk := { l with eng := l.eng.inc idx el }

/-- Count an event of the Draix counter block (R374). -/
def Lnk.pm (l : Lnk) (code : Nat) : Lnk := { l with eng := l.eng.pm 41 code 1 }

/-- Change the link's own state. -/
def Lnk.upd (l : Lnk) (f : Drx → Drx) : Lnk := { l with d := f l.d }

/-- Raise an indication. -/
def Lnk.say (l : Lnk) (i : Ind) : Lnk := { l with ind := l.ind ++ [i] }

/-- Enter a link state; the width reads 0 outside Ready and Active, and Off, Wait, Down and loopback begin with electrical idle (R236). -/
def Lnk.goto (l : Lnk) (s : Nat) : Lnk :=
  let l := (l.set DRX_STATE 0 s).upd fun d => if s = 0 ∨ 5 ≤ s then d.quiet else d
  if s = 3 ∨ s = 4 then l else l.set DRX_WIDTH 0 0

/-- The list with position k changed. -/
def atK (l : List Nat) (k : Nat) (f : Nat → Nat) : List Nat := l.set k (f (l.getD k 0))

/-! ## Sending (R246 to R249) -/

/-- Width code of Table 10.12. -/
def widthOf (code : Nat) : Nat := if code = 0 then 16 else if code = 1 then 8 else if code = 2 then 4 else 0

/-- Code of a width. -/
def codeOf (w : Nat) : Nat := if w = 16 then 0 else if w = 8 then 1 else if w = 4 then 2 else 3

/-- Physical lanes of the logical lanes 0 up: the agreed map in Ready and Active; in Loopback the lowest usable lanes, as many as the width
limit and the lane mask allow (R255; log entry 54). -/
def Lnk.stripe (l : Lnk) : List Nat :=
  if l.st = 7 then
    let m := bitList (l.eng.ob DRX_LANE_MASK) 16
    let n := min m.length (l.eng.ob DRX_WIDTH_MAX)
    m.take (if 16 ≤ n then 16 else if 8 ≤ n then 8 else 4)
  else l.d.map.take (l.eng.ob DRX_WIDTH)

/-- A flit of kinds 0x0 to 0x3 as it goes on the lanes; an armed injection spoils a data flit (R263). -/
def Lnk.lineFlit (l : Lnk) (f : SentFlit) : LineFlit :=
  let lanes := l.stripe
  { kind := f.kind, blocks := flitBlocks f.kind f.bits lanes.length (if f.kind = 1 then l.d.inj else none), lanes := lanes, whole := false }

/-- Put a flit on the lanes, its header carrying the pending NAK or ACK (R246, R247); an armed injection counts it (R263). -/
def Lnk.emit (l : Lnk) (kind acktype : Nat) (data : Option HFlit) (body : List Nat) : Lnk :=
  let f : SentFlit := { kind := kind, ackseq := l.d.e, acktype := acktype, data := data, body := body }
  let lf := l.lineFlit f
  Lnk.upd (if kind = 0 then l.pm 0x63 else l) fun d =>
    { (d.wait lf) with
      sent := d.sent ++ [f]
      inj := if kind = 1 then (match d.inj with | some i => if i.left ≤ 1 then none else some { i with left := i.left - 1 } | none => none) else d.inj
      unacked := if acktype = 0 then d.unacked else 0
      unackedAt := if acktype = 0 then d.unackedAt else none
      ackDue := if acktype = 0 then d.ackDue else false }

/-- Send an ACK in the next flit's header, which an idle flit makes at once (R247). -/
def Lnk.sendAck (l : Lnk) : Lnk := l.emit 0 1 none []

/-- `send_nak(e)` (R246, R247). -/
def Lnk.sendNak (l : Lnk) : Lnk :=
  let l := l.upd fun d => { d with nakOpen := true, nakAt := l.eng.ts, indRx := some d.e }
  (l.inc DRX_NAKS_SENT).emit 0 2 none []

/-- A control flit with the cumulative counters (R249). -/
def Lnk.sendControl (l : Lnk) : Lnk :=
  let l := l.emit 2 0 none ((l.d.freed.map fun x => x % 65536) ++ [l.d.freedSh % 65536])
  l.upd fun d => { d with unrep := 0, unrepAt := none }

/-- Release a delivered flit: its slot is free, and the freed counts rise; 16 unreported ones bring a control flit (R249). -/
def Lnk.release (l : Lnk) (id : Nat) : Lnk :=
  match l.d.pool.find? fun f => f.id == id with
  | none => l
  | some f =>
    let l := l.upd fun d =>
      let d := { d with pool := d.pool.filter fun (g : RxFlit) => g.id != id, unrep := d.unrep + 1, unrepAt := some (d.unrepAt.getD l.eng.ts) }
      if f.shared then { d with usedSh := d.usedSh - 1, freedSh := d.freedSh + 1 }
      else { d with used := atK d.used f.cls (· - 1), freed := atK d.freed f.cls (· + 1) }
    if 16 ≤ l.d.unrep ∧ (l.st = 3 ∨ l.st = 4) then l.sendControl else l

/-- The loopback states in which R246 to R250 operate (R263 pattern 0). -/
def Lnk.loops (l : Lnk) : Bool := l.st == 7 && l.eng.ob DRX_TEST_PATTERN == 0

/-- Word address of word k of replay-buffer slot i: 32 words of 64 bits a flit (store 0x0F; log entry 14). -/
def replayWord (i k : Nat) : Nat := Config.place 0xF (i * 32 + k)

/-- The word is one of the slot that holds the flit of a sequence number. -/
def inReplaySlot (seq word : Nat) : Bool := (List.range 32).any fun k => replayWord (seq % 2048) k == word

/-- A flit is written to the replay buffer: errors of its slot's words go, and armed ones take effect (R246, R305). -/
def Lnk.hold (l : Lnk) (seq : Nat) : Lnk :=
  let ws := (l.eng.errs ++ l.eng.ras.armed).filter fun b => b.store == 0xF && inReplaySlot seq b.word
  { l with eng := ws.foldl (fun e b => e.eccWrite 0xF b.unit b.word) l.eng }

/-- A held flit is read for replay: whether some word of it fails its check beyond correction (R248). -/
def Lnk.readHeld (l : Lnk) (seq : Nat) : Lnk × Bool :=
  let ws := l.eng.errs.filter fun b => b.store == 0xF && inReplaySlot seq b.word
  let r := ws.foldl (fun (s : Eng × Bool) b => let t := s.1.eccRead 0xF b.unit b.word false; (t.1, s.2 || t.2)) (l.eng, false)
  ({ l with eng := r.1 }, r.2)

/-- Send the new data flits that credits and the replay buffer allow, the classes in turn (R179, R249). -/
def Lnk.pumpTx : Nat → Lnk → Lnk
  | 0, l => l
  | k + 1, l =>
    if !(l.st == 4 || l.loops) ∨ 2048 ≤ l.d.held.length then l
    else
      let can (c : Nat) : Bool := decide (0 < l.d.res.getD c 0) || decide (0 < l.d.shr)
      match l.d.arb.round (fun _ => 0) (ascend ((l.d.txq.filter fun f => can f.cls).map fun f => f.cls)) with
      | none => l
      | some (c, a) =>
        match l.d.txq.find? fun f => f.cls == c with
        | none => l
        | some f =>
          let sh := decide (l.d.res.getD c 0 = 0)
          let h : HFlit := { seq := l.d.n, shared := sh, f := f }
          let first := l.d.held.isEmpty
          let l := l.upd fun d =>
            { d with arb := a, txq := d.txq.erase f, n := (d.n + 1) % 4096, held := d.held ++ [h], res := if sh then d.res else atK d.res c (· - 1),
                     shr := if sh then d.shr - 1 else d.shr, replayAt := if first then l.eng.ts else d.replayAt }
          Lnk.pumpTx k ((((l.hold h.seq).inc DRX_FLITS_TX).pm 0x60).emit 1 0 (some h) [])

/-- Send what can be sent. -/
def Lnk.tx (l : Lnk) : Lnk := Lnk.pumpTx (l.d.txq.length + 1) l

/-- Hand a flit to the link (R269). -/
def Lnk.submit (l : Lnk) (f : TxFlit) : Lnk := (l.upd fun d => { d with txq := d.txq ++ [f] }).tx

/-! ## Training (R252 to R259) -/

/-- Node ID of this end (DRX_NODE_ID reads HIER_NODE_ID). -/
def Lnk.node (l : Lnk) : Nat := l.eng.ob HIER_NODE_ID

/-- `locked` as this end sends it: the partner's lanes it has lock on, less its own exclusions (R257). -/
def Lnk.locked (l : Lnk) : Nat := maskOff (l.d.locks.foldl (fun m k => setBit m k.plane) 0) l.d.excl 16

/-- The link layer's state is discarded (R254, R259). -/
def Drx.discard (d : Drx) : Drx :=
  { d with n := 0, e := 0, held := [], res := [64, 64, 64, 64], shr := 768, lr := [0, 0, 0, 0], ls := 0, used := [0, 0, 0, 0], usedSh := 0,
           freed := [0, 0, 0, 0], freedSh := 0, unrep := 0, unrepAt := none, pool := [], nakOpen := false, unacked := 0, unackedAt := none,
           ackDue := false, replays := 0, replayFrom := 0, indRx := none, indTx := none }

/-- Enter Seek (R254, R255). -/
def Lnk.seek (l : Lnk) (resume : Bool) : Lnk :=
  (l.goto 1).upd fun d => { (d.onlyKind 3) with resume := resume, partner := none, partner2 := none, settle := none, attempt := some (l.eng.ts + 50000000), backoff := none, prop := 3, map := [], agree := 0, final := false, good := 0 }

/-- The settings of the rate in use are loaded into the PHY (R260). -/
def Lnk.loadEq (l : Lnk) : Lnk :=
  let at_ (p : Nat) : Nat := l.eng.ob DRX_RATE * 16 + p
  l.upd fun d => { d with phy := (List.range 16).map fun p => (l.eng.obj DRX_EQ_TX (at_ p), l.eng.obj DRX_EQ_RX (at_ p)) }

/-- A fresh entry to Seek: DRX_ATTEMPTS := 0 and equalisation loaded (R254, R260). -/
def Lnk.freshSeek (l : Lnk) : Lnk :=
  Lnk.seek ((l.set DRX_ATTEMPTS 0 0).loadEq.upd fun d => { d with excl := 0, req := false, locks := [] }) false

/-- The Draix region is on: PWR_DOMAIN_STATE of DRX reads in service (R313). -/
def Lnk.regionOn (l : Lnk) : Bool := l.eng.obj PWR_DOMAIN_STATE 4 == 0

/-- The link leaves for Off: link-layer state is discarded (Table 10.13). -/
def Lnk.off (l : Lnk) : Lnk :=
  let was := l.st
  let l := (l.goto 0).upd fun d => { d.discard with locks := [], act := 0, partner := none, partner2 := none, settle := none, attempt := none, backoff := none, excl := 0, req := false, fault := false, wasActive := false, told := false }
  if was = 0 then l else l.say .down

/-- From Off, training starts once the region is on, DRX_ENABLE reads 1 and no loopback is chosen (Table 10.13), at an instance with a node ID
(R265). -/
def Lnk.tryStart (l : Lnk) : Lnk :=
  if l.st = 0 ∧ l.regionOn ∧ l.eng.ob DRX_ENABLE = 1 ∧ l.eng.ob DRX_LOOPBACK = 0 ∧ l.node ≠ 0xFF then l.freshSeek else l

/-- A DRX_TRAIN_LOG entry (Table 10.14). -/
def Lnk.trainLog (l : Lnk) (cause : Nat) : Lnk :=
  let p := match l.d.partner with | some p => p.locked | none => 0
  let k := min (l.eng.ob DRX_ATTEMPTS + 1) 8
  let v := cause + l.st * 2 ^ 4 + l.locked * 2 ^ 8 + p * 2 ^ 24 + k * 2 ^ 40 + b2n l.d.resume * 2 ^ 44 + l.eng.t48 * 2 ^ 45
  { l with eng := l.eng.logPush DRX_TRAIN_LOG 64 v }

/-- Entry to Down: link-layer state goes, the Mirror Engine and fabric-manager software are told (R259). -/
def Lnk.down (l : Lnk) (cause : Nat) : Lnk :=
  let l := (l.goto 6).upd fun d => { d.discard with attempt := none, settle := none, backoff := none, told := false, req := false, fault := false, wasActive := false }
  Lnk.say { l with eng := (l.eng.event 0x05 (evArgs [(0, cause)])).irq 12 } .down

/-- Cause of a failed attempt by where it stands (Table 10.14). -/
def Lnk.failCause (l : Lnk) : Nat :=
  let refused : Bool := match l.d.partner with | some p => p.loop == 0 | none => false
  if l.st = 2 then 3 else if l.st = 3 then 4
  else if l.d.act = 0 ∧ l.d.locks.isEmpty then 1
  else if l.eng.ob DRX_LOOPBACK = 3 ∧ refused then 6
  else 2

/-- ATTEMPT_TIMEOUT (R254): Wait, or Down at the eighth failure. -/
def Lnk.attemptTimeout (l : Lnk) : Lnk :=
  match l.d.attempt with
  | none => l
  | some t =>
    if l.eng.ts < t ∨ !(l.st = 1 ∨ l.st = 2 ∨ l.st = 3) then l
    else
      let cause := l.failCause
      let l := l.trainLog cause
      let k := l.eng.ob DRX_ATTEMPTS
      if 7 ≤ k then (l.set DRX_ATTEMPTS 0 8).down cause
      else ((l.set DRX_ATTEMPTS 0 (k + 1)).goto 5).upd fun d => { d with attempt := none, settle := none, backoff := some (l.eng.ts + 2 ^ k * 1000000) }

/-- Lanes locked in both directions are all of both `txmask`s (R255 condition 3). -/
def Lnk.allLocked (l : Lnk) (p : TsBody) : Bool := decide (p.txmask &&& l.locked = p.txmask) && decide (l.eng.ob DRX_LANE_MASK &&& p.locked = l.eng.ob DRX_LANE_MASK)

/-- Exclusions of the partner's that apply in this Configure (R255, R258). -/
def Lnk.pExcl (l : Lnk) : Nat := match l.d.partner2 with | some q => if q.req then q.excl else 0 | none => 0

/-- The width this end proposes, coded as cap, and its lane map (R255). -/
def Lnk.propose (l : Lnk) (p : TsBody) : Nat × List Nat :=
  let mine := (bitList (l.eng.ob DRX_LANE_MASK &&& p.locked) 16).filter fun i => !(l.pExcl.testBit i)
  let theirs := (bitList (l.locked &&& p.txmask) 16).length
  let last := match l.d.partner2 with | some q => if q.width = 3 then 16 else widthOf q.width | none => 16
  let lim := min (min (l.eng.ob DRX_WIDTH_MAX) (widthOf p.cap)) (min (min mine.length theirs) last)
  let w := if 16 ≤ lim then 16 else if 8 ≤ lim then 8 else if 4 ≤ lim then 4 else 0
  (codeOf w, mine.take w)

/-- Seek may end for Configure (R255). -/
def Lnk.seekEnd (l : Lnk) (settled : Bool) : Lnk :=
  match l.d.partner with
  | none => l
  | some p =>
    if l.st ≠ 1 ∨ (bitList l.locked 16).length < 4 ∨ (bitList p.locked 16).length < 4 then l
    else if l.allLocked p ∨ settled then
      let l := l.goto 2
      let (w, m) := l.propose p
      l.upd fun d => { d with prop := w, map := m, agree := 0, final := false, partner2 := none, settle := none }
    else if l.d.settle.isSome then l
    else l.upd fun d => { d with settle := some (l.eng.ts + (if d.resume then 4000 else 1000000)) }

/-- SEEK_SETTLE_EXPIRY (R255). -/
def Lnk.settleExpiry (l : Lnk) : Lnk :=
  match l.d.settle with
  | some t => if l.st = 1 ∧ t ≤ l.eng.ts then l.seekEnd true else l
  | none => l

/-- This end starts a retrain: 8 request flits, then Seek (R254, R257). -/
def Lnk.retrain (l : Lnk) (cause : Nat) (excl : Nat) (fresh : Bool) : Lnk :=
  if l.st ≠ 4 then l
  else
    let l := l.inc DRX_RETRAINS
    let l := l.upd fun d => { d with excl := excl, req := true, fault := d.fault || cause == 5 || cause == 6 }
    let one (l : Lnk) (_ : Nat) : Lnk := l.emit 3 0 none [l.node, excl, cause, b2n fresh]
    Lnk.seek ((List.range 8).foldl one l) (!fresh)

/-- LANE_LOCK: four consecutive commas at exact spacing lock a receive lane; `late` is a comma more than 32 blocks behind the
earliest lane's, which counts as not locked (R240). -/
def Lnk.laneLock (l : Lnk) (lane plane : Nat) (inverted late : Bool) : Lnk :=
  if !l.regionOn ∨ l.st = 0 ∨ l.st = 5 ∨ l.st = 6 ∨ late ∨ 16 ≤ lane ∨ 16 ≤ plane then l
  else
    let l := l.upd fun d => { d with act := setBit d.act lane, locks := ({ lane := lane, plane := plane, inverted := inverted } : LaneLock) :: d.locks.filter (fun (k : LaneLock) => k.lane != lane) }
    l.seekEnd false

/-- LANE_LOCK_LOSS (R240, R257 cause 2). -/
def Lnk.laneLoss (l : Lnk) (lane : Nat) : Lnk :=
  match l.d.locks.find? fun k => k.lane == lane with
  | none => l
  | some k =>
    let l := (l.inc DRX_LANE_LOCK_LOSS lane).upd fun d =>
      { d with locks := d.locks.filter fun (j : LaneLock) => j.lane != lane, eye := d.eye.map fun (s : EyeScan) => if s.lane = lane then { s with ok := false } else s }
    let inWidth : Bool := match l.d.partner2 with | some q => (q.map.take (l.eng.ob DRX_WIDTH)).contains k.plane | none => true
    if l.st = 4 ∧ inWidth then l.retrain 2 (2 ^ k.plane) false else l

/-- A fresh start of the link layer (R256). -/
def Lnk.freshStart (l : Lnk) (pepoch : Nat) : Lnk :=
  let was := l.d.wasActive
  let l := (l.set DRX_EPOCH 0 ((max (l.eng.ob DRX_EPOCH) pepoch + 1) % 256)).inc DRX_LL_RESETS
  let l := l.upd fun d => { d.discard with fault := false, wasActive := false }
  if was then l.say .llReset else l

/-- Release every held flit before x (R248). -/
def Lnk.releaseTo (l : Lnk) (x : Nat) : Lnk :=
  match l.d.held with
  | [] => l
  | h :: _ =>
    let k := (x + 4096 - h.seq) % 4096
    if k = 0 ∨ l.d.held.length < k then l
    else
      let gone := l.d.held.take k
      let l := l.upd fun d => { d with held := d.held.drop k, replayAt := l.eng.ts, replays := 0, indTx := match d.indTx with | some s => if (gone.any fun g => g.seq == s) then none else some s | none => none }
      l.say (.acked (gone.flatMap fun g => g.f.recs))

/-- Replay from x: every held flit is sent again unchanged, ahead of new ones (R248). -/
def Lnk.replay (l : Lnk) (x : Nat) : Lnk :=
  match l.d.held with
  | [] => l
  | h :: _ =>
    let k := (x + 4096 - h.seq) % 4096
    let fl := l.d.held.drop k
    if fl.isEmpty then l
    else
      let same := decide (l.d.replayFrom = x) && decide (0 < l.d.replays)
      let l := ((l.inc DRX_REPLAYS).upd fun d => { d with replayAt := l.eng.ts, replayFrom := x, replays := if same then d.replays + 1 else 1, indTx := some x })
      let l := l.upd Drx.recall
      let (l, bad) := fl.foldl (fun (s : Lnk × Bool) h =>
        if s.2 then s
        else match s.1.readHeld h.seq with
          | (l, true) => (l, true)
          | (l, false) => (((l.inc DRX_FLITS_REPLAYED).pm 0x62).emit 1 0 (some h) [], false)) (l, false)
      if bad then l.retrain 6 0 true
      else if l.eng.ob DRX_REPLAY_LIMIT ≤ l.d.replays then l.retrain 3 0 false else l

/-- `apply_ack` (R246, R248). -/
def Lnk.applyAck (l : Lnk) (ackseq acktype : Nat) : Lnk :=
  if acktype = 1 then (l.releaseTo ackseq).tx
  else if acktype = 2 then (((l.inc DRX_NAKS_RCVD).releaseTo ackseq).replay ackseq).tx
  else l

/-- Ready resumes the link layer or starts it fresh (R256); on entering Ready an ACK and a control flit are sent. -/
def Lnk.enterReady (l : Lnk) (p : TsBody) (q : Ts2Body) (resok : Bool) : Lnk :=
  let l := l.goto 3
  let l := l.set DRX_WIDTH 0 (widthOf l.d.prop)
  let l := if resok && q.resok then (l.releaseTo q.e) else l.freshStart p.epoch
  let l := l.upd fun d => { d with good := 0, req := false, excl := 0, nakOpen := false }
  l.sendAck.sendControl

/-- The oldest held sequence number, or n (Table 10.12). -/
def Drx.o (d : Drx) : Nat := match d.held with | h :: _ => h.seq | [] => d.n

/-- `resok` of this end (R256). -/
def Lnk.resok (l : Lnk) (p : TsBody) (q : Ts2Body) : Bool :=
  l.d.resume && p.resume && l.eng.ob DRX_EPOCH == p.epoch && !l.d.fault && decide ((l.d.n + 4096 - q.e) % 4096 ≤ (l.d.n + 4096 - l.d.o) % 4096)

/-- A TS flit that names this end's own node ID (Table 10.13). -/
def Lnk.clash (l : Lnk) : Lnk := (l.trainLog 5).down 5

/-- The TS1 body this end sends (Table 10.12). -/
def Lnk.tsOut (l : Lnk) : TsBody :=
  { node := l.node, locked := l.locked, txmask := l.eng.ob DRX_LANE_MASK, rate := l.eng.ob DRX_RATE, cap := codeOf (l.eng.ob DRX_WIDTH_MAX), resume := l.d.resume,
    epoch := l.eng.ob DRX_EPOCH, loop := if l.eng.ob DRX_LOOPBACK = 3 then 1 else 0 }

/-- What the TS2 body of this end adds. -/
def Lnk.ts2Out (l : Lnk) : Ts2Body :=
  { width := l.d.prop, map := l.d.map, e := l.d.e, n := l.d.n, o := l.d.o,
    resok := (match l.d.partner, l.d.partner2 with | some p, some q => l.resok p q | _, _ => false), req := l.d.req, excl := if l.d.req then l.d.excl else 0, final := l.d.final }

/-- A TS flit, whole on every usable lane (R241). -/
def Lnk.tsFlit (l : Lnk) (kind : Nat) (body : BitVec 2016) : LineFlit :=
  { kind := kind, blocks := flitBlocks kind body 16 none, lanes := bitList (l.eng.ob DRX_LANE_MASK) 16, whole := true }

/-- TS1 (R253 to R255, R262). -/
def Lnk.ts1 (l : Lnk) (p : TsBody) : Lnk :=
  let s := l.st
  if s = 4 then Lnk.seekEnd ((l.seek true).upd fun d => { d with partner := some p }) false
  else if s ≠ 1 ∧ s ≠ 2 ∧ s ≠ 3 then l
  else if p.node = l.node ∧ s ≠ 3 then l.clash
  else if s = 1 ∧ p.loop = 1 ∧ l.eng.ob DRX_FE_LOOP_ALLOW = 1 then
    let yes := l.tsFlit 8 (tsBits { l.tsOut with loop := 2 } none)
    (l.goto 8).upd fun d => { d.discard with attempt := none, settle := none, line := [yes] }
  else if s = 1 ∧ l.eng.ob DRX_LOOPBACK = 3 ∧ p.loop = 2 then (l.loadEq.goto 7).upd fun d => { d with attempt := none, settle := none, partner := some p }
  else if s = 1 then (l.upd fun d => { d with partner := some p }).seekEnd false
  else (l.goto 1).upd fun d => { d with partner := some p, partner2 := none, settle := none, agree := 0, final := false, prop := 3, good := 0 }

/-- Both ends have a request in play: the lower node ID abandons its own (R258). -/
def Lnk.abandon (l : Lnk) (node : Nat) : Lnk :=
  if l.d.req ∧ l.node < node then (l.inc DRX_REQ_ABANDONED).upd fun d => { d with req := false, excl := 0 } else l

/-- TS2 (R255, R256, R258). -/
def Lnk.ts2 (l : Lnk) (p : TsBody) (q : Ts2Body) : Lnk :=
  if l.st = 1 then (if p.node = l.node then l.clash else (l.upd fun d => { d with partner := some p }).seekEnd false)
  else if l.st ≠ 2 then l
  else if p.node = l.node then l.clash
  else
    let l := if q.req then l.abandon p.node else l
    let l := l.upd fun d => { d with partner := some p, partner2 := some q }
    let (w, m) := l.propose p
    let ok := l.resok p q
    let agree := w == q.width && w != 3 && ok == q.resok
    let l := l.upd fun d => { d with prop := w, map := m, agree := if agree then d.agree + 1 else 0 }
    let l := l.upd fun d => { d with final := d.final || decide (16 ≤ d.agree) }
    if l.d.final ∧ agree ∧ q.final then l.enterReady p q ok else l

/-- LINK_ACTIVE: sixteen consecutive good flits in Ready (R254). -/
def Lnk.linkActive (l : Lnk) : Lnk :=
  if l.st = 3 ∧ 16 ≤ l.d.good then
    let l := ((l.goto 4).set DRX_ATTEMPTS 0 0).inc DRX_TRAININGS
    let l := l.upd fun d => { d with attempt := none, wasActive := true, replayAt := l.eng.ts }
    let l := if l.d.held.isEmpty then l else l.replay l.d.o
    (l.say .active).tx
  else l

/-- BACKOFF_ELAPSED (R254). -/
def Lnk.backoffElapsed (l : Lnk) : Lnk :=
  match l.d.backoff with
  | some t => if l.st = 5 ∧ t ≤ l.eng.ts then l.loadEq.seek l.d.resume else l
  | none => l

/-- LANE_ACTIVITY on a set of lanes (R236, R254, R259). -/
def Lnk.laneActivity (l : Lnk) (lanes : Nat) : Lnk :=
  if !l.regionOn ∨ l.st = 0 then l
  else
    let l := l.upd fun d => { d with act := d.act ||| lanes % 65536 }
    let many := decide (4 ≤ (bitList lanes 16).length)
    if l.st = 5 ∧ many then l.loadEq.seek l.d.resume
    else if l.st = 6 ∧ many ∧ !l.d.told then
      { (l.upd fun d => { d with told := true }) with eng := (l.eng.event 0x06 0).irq 12 }
    else l

/-- CORRECTION_THRESHOLD_CHECK at the end of a ms (R257 cause 4). -/
def Lnk.corrCheck (l : Lnk) : Lnk :=
  let t := l.eng.ob DRX_CORR_THRESHOLD
  let bad := l.d.corr.filter fun c => decide (t < c.2)
  let l := l.upd fun d => { d with corr := [] }
  if t = 0 ∨ l.st ≠ 4 ∨ bad.isEmpty then l
  else
    let ex := bad.foldl (fun m c => match l.d.locks.find? fun k => k.lane == c.1 with | some k => setBit m k.plane | none => m) 0
    l.retrain 4 ex false

/-! ## Receiving flits (R242 to R250) -/

/-- The corrected symbols of a good flit, by physical lane (R242), and the run of good flits in Ready (R254). -/
def Lnk.good (l : Lnk) (corr : List Nat) : Lnk :=
  let l := corr.foldl (fun l k => (l.inc DRX_LANE_CORRECTED (k % 16)).upd fun d => { d with corr := kput (k % 16) (kget 0 (k % 16) d.corr + 1) d.corr }) l
  if l.st = 3 then l.upd fun d => { d with good := d.good + 1 } else l

/-- Flits of kinds 0x0 to 0x3 are received in Ready and Active. -/
def Lnk.hears (l : Lnk) : Bool := l.st == 3 || l.st == 4

/-- Deliver a flit in order (R246, R249): a class 3 flit of the test pattern is compared and its slot freed at once (R263). -/
def Lnk.deliver (l : Lnk) (f : RxFlit) : Lnk :=
  let l := { l with eng := { l.eng with fresh := l.eng.fresh + 1 } }
  let l := l.upd fun d =>
    { d with pool := d.pool ++ [f], e := (d.e + 1) % 4096, nakOpen := false, unacked := d.unacked + 1, unackedAt := some (d.unackedAt.getD l.eng.ts),
             indRx := if d.indRx = some d.e then none else d.indRx, used := if f.shared then d.used else atK d.used f.cls (· + 1), usedSh := if f.shared then d.usedSh + 1 else d.usedSh }
  let l := (l.inc DRX_FLITS_RX).pm 0x61
  let l := if l.eng.ob DRX_ACK_COALESCE ≤ l.d.unacked then l.sendAck else l
  if l.st = 7 then
    let words := (List.range 62).map fun i => f.payload.toNat / 2 ^ (32 * i) % 2 ^ 32
    let bad := (words.zipIdx.filter fun w => w.1 != (l.d.patRx + w.2) % 2 ^ 32).length
    let l := (l.upd fun d => { d with patRx := (d.patRx + 62) % 2 ^ 32 }).release f.id
    { l with eng := l.eng.addObj DRX_PATTERN_ERRORS 0 bad }
  else l.say (.flit f)

/-- DATA_FLIT: a good data flit (R246, R250). -/
def Lnk.dataFlit (l : Lnk) (corr : List Nat) (seq cls : Nat) (shared : Bool) (ackseq acktype : Nat) (payload : BitVec 1984) : Lnk :=
  if !(l.hears || l.loops) then l
  else
    let l := (l.good corr).applyAck ackseq acktype
    if l.st ≠ 4 ∧ !l.loops then l
    else
      let c := cls % 4
      let d := (seq % 4096 + 4096 - l.d.e) % 4096
      if d = 0 then
        let free := if shared then decide (l.d.usedSh < 768) else decide (l.d.used.getD c 0 < 64)
        if free then l.deliver { id := l.eng.fresh, cls := c, shared := shared, payload := payload }
        else ((l.inc DRX_CREDIT_OVERRUN).upd fun d => { d with fault := true }).retrain 5 0 true
      else if d < 2048 then
        let l := l.inc DRX_SEQ_DISCARDED
        if l.d.nakOpen then l else l.sendNak
      else ((l.inc DRX_DUP_DROPPED).upd fun d => { d with ackDue := true }).sendAck

/-- IDLE_FLIT (R246). -/
def Lnk.idleFlit (l : Lnk) (corr : List Nat) (ackseq acktype : Nat) : Lnk :=
  if l.hears || l.loops then (l.good corr).applyAck ackseq acktype else l

/-- CONTROL_FLIT: the cumulative counters return credits (R249). -/
def Lnk.controlFlit (l : Lnk) (corr : List Nat) (ackseq acktype : Nat) (cr : List Nat) (cs : Nat) : Lnk :=
  if !(l.hears || l.loops) then l
  else
    let l := (l.good corr).applyAck ackseq acktype
    let add (k : Nat) : Nat := (cr.getD k 0 % 65536 + 65536 - l.d.lr.getD k 0) % 65536
    let l := l.upd fun d =>
      { d with res := (List.range 4).map (fun k => d.res.getD k 0 + add k), lr := (List.range 4).map (fun k => cr.getD k 0 % 65536),
               shr := d.shr + (cs % 65536 + 65536 - d.ls) % 65536, ls := cs % 65536 }
    l.tx

/-- RETRAIN_REQUEST_FLIT (R254, R257, R258). -/
def Lnk.requestFlit (l : Lnk) (corr : List Nat) (ackseq acktype node excl : Nat) (fresh : Bool) : Lnk :=
  if !l.hears then l
  else
    let l := (l.good corr).applyAck ackseq acktype
    if l.st ≠ 4 then l.abandon node
    else
      let l := l.seek (!fresh)
      l.upd fun d => { d with partner2 := some { width := 3, map := [], e := 0, n := 0, o := 0, resok := false, req := true, excl := excl, final := false } }

/-- BAD_FLIT: never acted on, and brings a NAK (R243, R246). -/
def Lnk.badFlit (l : Lnk) (rs : Bool) : Lnk :=
  if !(l.hears || l.loops) then l
  else
    let l := (if rs then l.inc DRX_RS_FAIL else l.inc DRX_CRC_FAIL).upd fun d => { d with good := 0 }
    let l := { l with eng := (l.eng.inc RAS_UE_COUNT 0x11).rasEntry 0x11 2 0 0 0xFF 0 }
    if l.d.nakOpen then l else l.sendNak

/-- UNKNOWN_KIND_FLIT (R245): discarded without NAK, counted, and recorded under R17. -/
def Lnk.unknownFlit (l : Lnk) (corr : List Nat) : Lnk :=
  if l.hears || l.loops then
    let l := ((l.good corr).upd fun d => { d with good := 0 }).inc DRX_KIND_ERR
    { l with eng := l.eng.unitErr 41 0 }
  else l

/-! ## Timers (R247 to R249) -/

/-- REPLAY_TIMER_EXPIRY. -/
def Lnk.replayTimer (l : Lnk) : Lnk :=
  if l.st = 4 ∧ !l.d.held.isEmpty ∧ l.d.replayAt + l.eng.ob DRX_REPLAY_TIMER ≤ l.eng.ts then l.replay l.d.o else l

/-- NAK_TIMER_EXPIRY. -/
def Lnk.nakTimer (l : Lnk) : Lnk :=
  if l.hears ∧ l.d.nakOpen ∧ l.d.nakAt + l.eng.ob DRX_NAK_TIMER ≤ l.eng.ts then l.sendNak else l

/-- ACK_TIMER_EXPIRY. -/
def Lnk.ackTimer (l : Lnk) : Lnk :=
  match l.d.unackedAt with
  | some t => if l.hears ∧ t + l.eng.ob DRX_ACK_TIMER ≤ l.eng.ts then l.sendAck else l
  | none => l

/-- CREDIT_REPORT_TIMER: 200 ns after the oldest unreported freed slot. -/
def Lnk.creditTimer (l : Lnk) : Lnk :=
  match l.d.unrepAt with
  | some t => if l.hears ∧ t + 200 ≤ l.eng.ts then l.sendControl else l
  | none => l

/-! ## The lanes as time passes (R236, R241, R249, R263) -/

/-- The next flit of the test pattern: class 3, with a payload of 62 words of the rising counter (R263). -/
def Lnk.patternFlit (l : Lnk) : TxFlit :=
  { cls := 3, payload := BitVec.ofNat 1984 ((List.range 62).map fun i => (l.d.patTx + i) % 2 ^ 32 * 2 ^ (32 * i)).sum, recs := [] }

/-- What fills a slot in which nothing waits: TS1 in Seek, TS2 in Configure, in Loopback the test pattern where credit allows, else an idle
flit (R249, R254, R263). -/
def Lnk.fill (l : Lnk) : Lnk :=
  if l.st = 1 then l.upd fun d => d.wait (l.tsFlit 8 (tsBits l.tsOut none))
  else if l.st = 2 then l.upd fun d => d.wait (l.tsFlit 9 (tsBits l.tsOut (some l.ts2Out)))
  else if l.st = 8 then l
  else
    let l := if l.loops ∧ l.d.txq.isEmpty then Lnk.submit (l.upd fun d => { d with patTx := (d.patTx + 62) % 2 ^ 32 }) l.patternFlit else l
    if l.d.line.isEmpty then (l.pm 0x63).upd fun d => d.wait (l.lineFlit { kind := 0, ackseq := l.d.e, acktype := 0, data := none, body := [] }) else l

/-- One block position of the lanes. -/
def Lnk.lineStep (l : Lnk) : Lnk :=
  if l.st = 7 ∧ l.eng.ob DRX_TEST_PATTERN ≠ 0 then
    l.upd fun d => { d with since := d.since + 1, wire := d.wire ++ l.stripe.map fun p => (p, Config.prbs (l.eng.ob DRX_TEST_PATTERN) p d.since) }
  else
    let l := if l.d.line.isEmpty then l.fill else l
    match l.d.line with
    | [] => l
    | f :: _ => l.upd fun d => d.position f

/-- The lanes of one nanosecond: nothing is sent in Off, Wait and Down, nor while the idle that follows a loopback lasts (R236, R262). -/
def Lnk.lineTick (l : Lnk) : Lnk :=
  if l.st = 0 ∨ l.st = 5 ∨ l.st = 6 ∨ !l.regionOn ∨ l.eng.ts < l.d.hushEnd then l
  else
    let half := l.eng.ob DRX_RATE == 1
    (List.range (blocksBy half l.eng.ts - blocksBy half (l.eng.ts - 1))).foldl (fun l _ => l.lineStep) (l.upd fun d => { d with wire := [], sent := [] })

/-! ## Commits (R254, R257, R260 to R263) -/

/-- DRX_ENABLE takes a value: training starts, or the link returns to Off; the hardware vote follows (R254, R315). -/
def Lnk.enable (l : Lnk) (v : Nat) : Lnk :=
  let l := l.set DRX_ENABLE 0 v
  let l := l.set PWR_VOTE_HW 4 (if v = 1 ∨ l.eng.ob DRX_LOOPBACK ≠ 0 then 1 else 0)
  if v = 0 then l.off else l.tryStart

/-- DRX_LOOPBACK takes a value (R262). -/
def Lnk.loopback (l : Lnk) (v : Nat) : Lnk :=
  let old := l.eng.ob DRX_LOOPBACK
  let l := l.set DRX_LOOPBACK 0 v
  let l := l.set PWR_VOTE_HW 4 (if l.eng.ob DRX_ENABLE = 1 ∨ v ≠ 0 then 1 else 0)
  if v = 0 then
    if old = 0 then l
    else
      let l := (l.goto l.d.loopFrom).upd fun d => { d.discard with attempt := none, settle := none, hushEnd := l.eng.ts + 10000 }
      l.tryStart
  else if (l.st = 0 ∨ l.st = 6) ∧ l.eng.ob DRX_ENABLE = 1 ∧ l.regionOn ∧ l.node ≠ 0xFF then
    let l := l.upd fun d => { d.discard with loopFrom := l.st, patTx := 0, patRx := 0 }
    if v = 3 then l.freshSeek else l.loadEq.goto 7
  else l

/-- LOOPED_IDLE_EXIT: electrical idle on every lane for 10 µs (R262). -/
def Lnk.loopedExit (l : Lnk) : Lnk := if l.st = 8 then (l.upd fun d => { d with act := 0 }).freshSeek else l

/-- DRX_EYE_CTRL starts a scan (R261). -/
def Lnk.eyeStart (l : Lnk) (v : Nat) : Lnk :=
  let lane := bits v 3 0
  (l.set DRX_EYE_BUSY 0 1).upd fun d => { d with eye := some { lane := lane, dwell := bits v 25 20, ok := d.locks.any fun k => k.lane == lane } }

/-- EYE_SCAN_COMPLETE with its count (R261). -/
def Lnk.eyeDone (l : Lnk) (count : Nat) : Lnk :=
  match l.d.eye with
  | none => l
  | some s =>
    let l := (l.set DRX_EYE_BUSY 0 0).upd fun d => { d with eye := none }
    l.set DRX_EYE_RESULT 0 (count % 2 ^ 48 + s.dwell * 2 ^ 48 + b2n s.ok * 2 ^ 56)

/-- DRX_ERR_INJECT (R263). -/
def Lnk.inject (l : Lnk) (v : Nat) : Lnk :=
  l.upd fun d => { d with inj := if bits v 23 8 = 0 then none else some { lane := bits v 3 0, syms := bits v 6 4, crc := bit v 7, left := bits v 23 8 } }

/-- Status of a write of a Draix object at its commit edge (R257, R260 to R262, Table 10.15). -/
def Lnk.status (l : Lnk) (o : OWr) : Nat :=
  let i := o.idx
  let idle := decide (l.st = 0) || decide (l.st = 6)
  let abs (v w : Nat) : Nat := if v < 2 ^ (w - 1) then v else 2 ^ w - v
  if i = DRX_TRAIN then (if o.val = 1 ∧ l.st ≠ 6 then 2 else 0)
  else if i = DRX_RETRAIN then (if l.st ≠ 4 then 2 else 0)
  else if i = DRX_WIDTH_MAX then (if o.v = 4 ∨ o.v = 8 ∨ o.v = 16 then 0 else 1)
  else if i = DRX_LANE_MASK then (if (bitList o.v 16).length < 4 then 1 else 0)
  else if i = DRX_RATE then (if idle then 0 else 2)
  else if i = DRX_EQ_TX then
    (if 128 < abs (bits o.v 4 0) 5 + abs (bits o.v 10 5) 6 + bits o.v 17 11 + abs (bits o.v 23 18) 6 then 1
     else if o.v ≠ l.eng.obj i o.el ∧ !idle then 2 else 0)
  else if i = DRX_EQ_RX then (if o.v ≠ l.eng.obj i o.el ∧ !idle then 2 else 0)
  else if i = DRX_EYE_CTRL then
    (if bits o.val 5 4 = 3 ∨ bits o.val 25 20 < 16 ∨ 40 < bits o.val 25 20 then 1 else if l.eng.ob DRX_EYE_BUSY = 1 then 2 else 0)
  else if i = DRX_LOOPBACK then (if o.v ≠ 0 ∧ !idle then 2 else 0)
  else 0

/-- A value of a Draix object takes effect. -/
def Lnk.apply (l : Lnk) (o : OWr) : Lnk :=
  let i := o.idx
  let old := l.eng.obj i o.el
  if i = DRX_ENABLE then l.enable o.v
  else if i = DRX_LOOPBACK then l.loopback o.v
  else if i = DRX_WIDTH_MAX ∨ i = DRX_LANE_MASK then
    let l := l.set i 0 o.v
    if o.v ≠ old ∧ l.st = 4 then l.retrain 7 0 false else l
  else l.set i o.el o.v

/-- A Draix command starts. -/
def Lnk.command (l : Lnk) (o : OWr) : Lnk :=
  let i := o.idx
  if i = DRX_TRAIN then (if o.val = 1 ∧ l.st = 6 then l.freshSeek else l)
  else if i = DRX_RETRAIN then (if o.val = 1 then l.retrain 1 0 false else l.retrain 1 0 true)
  else if i = DRX_EYE_CTRL then l.eyeStart o.val
  else if i = DRX_ERR_INJECT then l.inject o.val
  else l

end Sys2Proof.Machine
end

