-- ==== Sys2Proof/Machine/Mirror.lean ====
section
/-! DEFINITION. Sys2Proof/Machine/Mirror.lean: the Mirror Engine: records, Beacons, the serving lease, fencing, failover, rejoin
and swap; and the Hierarchy Agent: its messages, resends and the region-home map (R265 to R290). -/
namespace Sys2Proof.Machine
open Ob

/-- Run an engine operation. -/
def Fab.e (f : Fab) (g : Eng → Eng) : Fab := { f with eng := g f.eng }

/-- Change the Mirror Engine's state. -/
def Fab.m (f : Fab) (g : Mir → Mir) : Fab := { f with mir := g f.mir }

/-- Run a link operation that raises no indication. -/
def Fab.l (f : Fab) (g : Lnk → Lnk) : Fab :=
  let l := g { eng := f.eng, d := f.d, ind := [] }
  { f with eng := l.eng, d := l.d }

/-- MIR_STATE. -/
def Fab.st (f : Fab) : Nat := f.eng.ob MIR_STATE

/-- Own node ID and the partner's. -/
def Fab.me (f : Fab) : Nat := f.eng.ob HIER_NODE_ID

/-- The partner's node ID. -/
def Fab.peer (f : Fab) : Nat := f.eng.ob MIR_PARTNER_NODE

/-- The list with position k set. -/
def setK {α : Type} (l : List α) (k : Nat) (v : α) : List α := l.set k v

/-! ## Hierarchy messages (R287, R288) -/

/-- SnpType, MetaField and MetaValue of a forwarded request, as CXL encodes them in a beat: a combination of its row of Table 04.2
(log entry 17). -/
def rowMeta (row : Nat) : Nat :=
  let (s, v) := if row = 1 then (1, 2) else if row = 2 then (1, 3) else if row = 3 ∨ row = 5 then (3, 2) else if row = 10 then (0, 3) else if row = 11 then (0, 2) else (0, 0)
  s + v * 2 ^ 5

/-- The fields of a beat that Table 04.2 reads. -/
def metaOf (b : Nat) : Meta :=
  { snp := nth .other [.noOp, .data, .cur, .inv] (bits b 10 8), mf := nth .other [.meta0, .other, .other, .noOp] (bits b 12 11), mv := nth .other [.i, .other, .a, .s] (bits b 14 13) }

/-- Operation and row of Table 04.2 of a forwarded beat, or its `uio_op`. -/
def fwdOpOf (b : Nat) : FwdOp × Nat :=
  let o := bits b 7 4
  let m := metaOf b
  if b % 16 = 6 then (.atomic, bits b 131 128)
  else if b % 16 = 1 then (if o = 2 then .memWrPtl else .memWr, rowWr m)
  else if o = 0 then (.memInv, rowInv m)
  else if o = 1 then (.memRd, rowRd false m)
  else if o = 2 then (.memRdData, rowRd true m)
  else if o = 9 then (.memInvNT, rowInv m)
  else (.memClnEvct, rowCln m)

/-- The beat of a forwarded request (Table 02.3), its byte enables beside it (log entry 27). -/
def fwdReqBits (r : Req) : Nat :=
  let k := r.op.kind
  k + (if k = 6 then r.row % 16 * 2 ^ 128 + r.usize * 2 ^ 132 + r.uoff * 2 ^ 134 else r.opc * 2 ^ 4 + rowMeta r.row * 2 ^ 8) + b2n r.poison * 2 ^ 15
    + r.line * 2 ^ 16 + r.tag * 2 ^ 64 + r.caid * 2 ^ 84 + r.port * 2 ^ 92 + r.be.toNat * 2 ^ 192

/-- The answer beat of a forwarded request. -/
def fwdAnsBits (a : FwdAns) : Nat :=
  let (kind, opc) := match a.ndr, a.uio with
    | some n, _ => (3, n)
    | none, some _ => (7, 0)
    | none, none => (4, a.drs - 1)
  kind + opc * 2 ^ 4 + b2n a.poison * 2 ^ 15 + a.tag * 2 ^ 64 + a.caid * 2 ^ 84 + (a.uio.getD 0) * 2 ^ 140

/-- The message's numeric body. -/
def HMsg.bodyN (m : HMsg) : Nat :=
  match m.req, m.ans with
  | some r, _ => fwdReqBits r
  | none, some a => fwdAnsBits a
  | none, none => m.body

/-- The data beat that follows, if any. -/
def HMsg.dataB (m : HMsg) : Option Data :=
  match m.req, m.ans with
  | some r, _ => if r.isWrite || r.op == .atomic then some r.data else none
  | none, some a => if a.drs = 1 ∨ a.uio.isSome then some a.data else none
  | none, none => none

/-- Types with an answer in Table 11.7. -/
def hasAnswer (typ : Nat) : Bool := [0x02, 0x06, 0x10, 0x13, 0x14, 0x17, 0x1B, 0x20, 0x22].contains typ

/-- Put a message on its way: a class 2 flit to the partner while the link is Active, but in solo-link, else a group 3 beat towards the peer
switch of HIER_PEER_MAP, unless it names none (R279, R287, Table 02.11). `xbar` forces the crossbar (R275). -/
def Fab.put (f : Fab) (seq : Nat) (m : HMsg) (xbar : Bool) : Fab :=
  let e := f.eng
  if m.dst = f.me ∨ m.dst = 0xFF ∨ f.me = 0xFF then f
  else if m.dst = f.peer ∧ e.ob DRX_STATE = 4 ∧ f.st ≠ 3 ∧ !xbar then
    let hd := m.typ + b2n m.dataB.isSome * 2 ^ 8 + f.me * 2 ^ 16 + m.dst * 2 ^ 24 + seq * 2 ^ 32 + m.epoch * 2 ^ 64 + m.bodyN % 2 ^ 416 * 2 ^ 96
    let dt := match m.dataB with | some d => d.toNat | none => 0
    f.l fun l => l.submit { cls := 2, payload := BitVec.ofNat 1984 (hd + dt * 2 ^ 512), recs := [] }
  else
    let port := e.obj HIER_PEER_MAP m.dst
    if port = 0xFF ∨ e.foghorn then f
    else
      let beat : OBeat := { beat0 with kind := 0xE, op := .hier m.typ m.dataB.isSome f.me m.dst seq m.epoch m.bodyN, port := port, data := m.dataB.getD 0 }
      let at_ := match e.svc with | s :: _ => s % 32 | [] => 0
      let o : OEnt := { id := e.fresh, at_ := at_, grp := 3, cls := 7, v := 0x13, beat := beat, pair := none, presented := false, src := none, grant := false, gid := 0, more := if m.dataB.isSome then [0] else [] }
      f.e fun e => Eng.send { e.galSend .hierarchy 7 42 at_ with fresh := e.fresh + 1 } o

/-- An answer has come: the outstanding messages it answers are no longer resent (R288). -/
def Fab.answered (f : Fab) (p : HMsg → Bool) : Fab := f.m fun r => { r with hout := r.hout.filter fun (o : HOut) => !p o.msg }

/-- A PREPARE of a unit, to one node or to any. -/
def HMsg.prepares (m : HMsg) (u : Nat) (dst : Option Nat) : Bool := m.typ == 0x10 && m.body % 2 ^ 16 == u && (match dst with | some d => m.dst == d | none => true)

/-- Send one message with a number of its own, and keep it while its answer is awaited, or as an answer given (R288). An ABORT ends the wait
for the PREPARE that it takes back. -/
def Fab.sendMsg (f : Fab) (m : HMsg) : Fab :=
  let seq := f.mir.hseq
  let f := f.m fun r => { r with hseq := (seq + 1) % 2 ^ 32 }
  let f := f.put seq m false
  let f := if m.typ = 0x1A then f.answered fun o => o.prepares m.body (some m.dst) else f
  let f := if hasAnswer m.typ && m.re.isNone then f.m fun r => { r with hout := r.hout ++ [({ seq := seq, msg := m, sends := 1, at_ := f.eng.ts } : HOut)] } else f
  match m.re with
  | none => f
  | some q =>
    f.m fun r =>
      if r.hans.any fun a => a.src == m.dst && a.seq == q then
        { r with hans := updFirst (fun (a : HAns) => a.src == m.dst && a.seq == q) (fun a => { a with ans := a.ans ++ [(seq, m)] }) r.hans }
      else { r with hans := (({ src := m.dst, seq := q, ans := [(seq, m)] } : HAns) :: r.hans).take 256 }

/-- Send every message that waits at the Hierarchy Agent. -/
def Fab.hflush (f : Fab) : Fab :=
  let ms := f.eng.hmsgs
  ms.foldl (fun f m => f.sendMsg m) (f.e fun e => { e with hmsgs := [] })

/-- A message that R17 discards, counted at the slice whose port took it. -/
def Fab.discard (f : Fab) (h : Hdr) (cause typ : Nat) : Fab := f.e fun e => e.protoErr (h.xport % 32) cause 0xE (typ % 16) 0 0 0

/-- The place of a message that came over the link, which no crossbar port took. -/
def linkPort : Nat := 64

/-- The message's beats could be read. R42 has an uncorrectable data chunk set the poison bit, and a beat of kind 0xE has none: where it is
the beat that holds the message's header and body, the message is discarded as a port error (DESIGN CHOICE, log entry 58); where it is the
data beat, the data are poisoned. -/
def msgWhole (h : Hdr) : Bool :=
  (match h.chk with | .header _ | .data _ => false | _ => true) && (match h.chk2 with | .header _ => false | _ => true)

/-- The beats of a message are taken at a port: the stage they occupy, and what their checks found (R42, R167). -/
def Eng.msgBeats (e : Eng) (h : Hdr) : Eng :=
  let e := e.rxTake h.xport 3 42
  let one (e : Eng) (c : Chk) : Eng :=
    match c with
    | .ok => e
    | .corr n => e.chunks n h.xport 0
    | c => e.portError c h.xport
  one (one e h.chk) h.chk2

/-- The fabric side once the beats of a hierarchy message have been taken at its port; one that came over the link has none (R42, R287). -/
def Fab.arrived (f : Fab) (h : Hdr) : Fab := if h.xport = linkPort then f else f.e fun e => e.msgBeats h

/-- An inbound message (R287, R288): nothing where the port does not take its beats; then R287's checks, the answers again for a repeated
pair, and what the message does. Under Foghorn the beats taken are discarded (Table 02.11). -/
def Fab.hin (f : Fab) (h : Hdr) (typ : Nat) (act : Fab → Fab) : Fab :=
  if h.xport ≠ linkPort ∧ !f.eng.rdy h.xport 3 then f
  else
    let f := f.arrived h
    if f.eng.foghorn ∨ !msgWhole h then f
    else if h.src = 0xFF ∨ h.dst ≠ f.me then f.discard h 2 typ
    else match f.mir.hans.find? fun a => a.src == h.src && a.seq == h.seq with
      | some a => a.ans.foldl (fun f p => f.put p.1 p.2 false) (f.e fun e => e.inc HIER_DUP_DROPPED)
      | none => act f

/-- Types of Table 11.7. -/
def hierTypes : List Nat := [0x01, 0x02, 0x03, 0x04, 0x05, 0x06] ++ (List.range 13).map (· + 0x10) ++ [0x20, 0x21, 0x22]

/-- UNKNOWN_HIERARCHY_MESSAGE (R287): nothing of its own where the type is in Table 11.7 and both nodes are good, for then the message
is another row's. -/
def Fab.unknownMsg (f : Fab) (h : Hdr) (typ : Nat) : Fab :=
  f.hin h typ fun f => if hierTypes.contains typ then f else f.discard h 1 typ

/-- HIER_RETRY_EXPIRY of an outstanding message: resent with the same seq; the sixteenth send is the last but for CLAIM, and
the peer event names the node (R288, R277). -/
def Fab.retry (f : Fab) (seq : Nat) : Fab :=
  match f.mir.hout.find? fun o => o.seq == seq with
  | none => f
  | some o =>
    if f.eng.ts < o.at_ + f.eng.ob HIER_RETRY * 1000 then f
    else
      let ev (f : Fab) : Fab := f.e fun e => e.event 0x10 (evArgs [(0, o.msg.dst), (1, o.msg.typ)])
      if o.sends = 16 ∧ o.msg.typ ≠ 0x02 then (ev f).m fun r => { r with hout := r.hout.filter fun (p : HOut) => p.seq != seq }
      else
        let f := if o.sends = 16 then ev f else f
        let f := f.put seq o.msg false
        f.m fun r => { r with hout := updFirst (fun (p : HOut) => p.seq == seq) (fun p => { p with sends := p.sends + 1, at_ := f.eng.ts }) r.hout }

/-! ## Records out (R268 to R270, R274) -/

/-- Bytes a record takes in the mirror journal buffer, of 2 MiB (Table 01.3). -/
def recBytes (r : MRec) : Nat := if r.kind = 2 then 32 else 8

/-- Records of a class not yet in a flit. -/
def Fab.unsent (f : Fab) (c : Nat) : List JRec := f.mir.buf.filter fun j => j.cls == c && !j.flitted

/-- Records may be sent: not in Brace (R280), nor in fencing, where they accumulate (R276). -/
def Fab.mayPack (f : Fab) : Bool := !f.eng.brace && (f.st == 1 || f.st == 2)

/-- Send up to a flit's worth of the oldest unsent records of a class (R269). -/
def Fab.sendPack (f : Fab) (c : Nat) : Fab :=
  let js := (f.unsent c).take (if c = 0 then 30 else 7)
  match js with
  | [] => f.m fun r => { r with packAt := setK r.packAt c none }
  | j :: _ =>
    let w := if c = 0 then 64 else 256
    let body := (js.zipIdx.map fun p => p.1.mrec.word * 2 ^ (64 + w * p.2)).sum
    let new := (js.filter fun i => !i.counted && i.mrec.kind != 2).length
    let f := f.e fun e => (e.addObj MIR_DELTAS_SENT 0 new).pm 40 0x70 new
    let sent := js.map fun i => i.mseq
    let f := f.m fun r =>
      { r with buf := updAll (fun (i : JRec) => i.cls == c && sent.contains i.mseq) (fun i => { i with flitted := true, counted := true }) r.buf, packAt := setK r.packAt c (if (f.unsent c).length = js.length then none else some f.eng.ts) }
    f.l fun l => l.submit { cls := c, payload := BitVec.ofNat 1984 (j.mseq % 2 ^ 48 + js.length * 2 ^ 48 + body), recs := js.map fun i => i.mrec.id }

/-- Send every full flit of a class. -/
def Fab.packFull (c : Nat) : Nat → Fab → Fab
  | 0, f => f
  | k + 1, f => if f.mayPack ∧ (if c = 0 then 30 else 7) ≤ (f.unsent c).length then Fab.packFull c k (f.sendPack c) else f

/-- Take one record into the buffer under its class's next mseq (R269, R274). -/
def Fab.takeRec (f : Fab) (r : MRec) : Fab :=
  let c := if r.kind = 2 then 1 else 0
  let n := (f.mir.mseq.getD c 0 + 1) % 2 ^ 48
  f.m fun m =>
    { m with mseq := setK m.mseq c n, buf := m.buf ++ [({ cls := c, mseq := n, mrec := r, at_ := f.eng.ts, t0 := f.eng.ts, flitted := false, counted := false, acked := false } : JRec)],
             packAt := setK m.packAt c (some ((m.packAt.getD c none).getD f.eng.ts)) }

/-- Take the records that fit the buffer, oldest first. -/
def Fab.takeRecs : List MRec → Fab → Fab
  | [], f => f
  | r :: t, f =>
    if (f.mir.buf.map fun j => recBytes j.mrec).sum + recBytes r ≤ 2097152 then Fab.takeRecs t ((f.e fun e => { e with mrecs := t }).takeRec r) else f

/-- The Mirror Engine takes the records that have come to stop 40; outside joining, mirrored and fencing they are discarded. -/
def Fab.rflush (f : Fab) : Fab :=
  if f.eng.mrecs.isEmpty then f
  else if !f.eng.mirOn then f.e fun e => { e with mrecs := [] }
  else
    let f := Fab.takeRecs f.eng.mrecs f
    Fab.packFull 1 (f.mir.buf.length + 1) (Fab.packFull 0 (f.mir.buf.length + 1) f)

/-- MIR_PACK_WAIT_EXPIRY of a class (R269). -/
def Fab.packExpiry (f : Fab) (c : Nat) : Fab :=
  match f.mir.packAt.getD (c % 2) none with
  | some t => if f.mayPack ∧ t + f.eng.ob MIR_PACK_WAIT ≤ f.eng.ts then f.sendPack (c % 2) else f
  | none => f

/-- The link has acknowledged records: what waited for them goes on, but in fencing (R270, R276). -/
def Fab.acked (f : Fab) (ids : List Nat) : Fab :=
  let f := f.m fun r => { r with buf := updAll (fun (j : JRec) => ids.contains j.mrec.id) (fun j => { j with acked := true }) r.buf }
  if f.st = 4 ∨ f.st = 5 then f else f.e fun e => ids.foldl (fun e i => e.recAcked i) e

/-- The link layer was reset: every record not reported applied is sent again, and the shadow is building until what the
partner reports as sent is applied (R274). -/
def Fab.llReset (f : Fab) : Fab :=
  if !(f.st = 1 ∨ f.st = 2) then f
  else
    let last (c : Nat) : Nat := ((f.mir.buf.filter fun j => j.cls == c && j.flitted).map fun j => j.mseq).foldl max (f.mir.sent.getD c 0)
    let f := f.m fun r =>
      { r with sent := [last 0, last 1], buf := r.buf.map (fun (j : JRec) => { j with flitted := false }), need := some none, packAt := [some f.eng.ts, some f.eng.ts] }
    let f := f.l fun l => l.upd fun d => { d with txq := d.txq.filter fun (t : TxFlit) => decide (2 ≤ t.cls) }
    let f := f.e fun e => e.set MIR_SHADOW 0 1
    Fab.packFull 1 (f.mir.buf.length + 1) (Fab.packFull 0 (f.mir.buf.length + 1) f)

/-! ## Solo-link, fencing and the serving lease (R276 to R280) -/

/-- Length of the serving lease, in ns. -/
def Fab.window (f : Fab) : Nat := f.eng.ob MIR_BEACON_MISS * f.eng.ob MIR_BEACON_PERIOD

/-- The serving lease holds (R276). -/
def Fab.leaseHolds (f : Fab) : Bool := (f.st == 1 || f.st == 2) && decide (f.eng.ts < f.mir.bgood + f.window)

/-- The records and their buffers go. -/
def Fab.dropRecs (f : Fab) : Fab :=
  let fids := (f.mir.inRecs.map fun i => i.fid).eraseDups
  let f := fids.foldl (fun f i => f.l fun l => l.release i) f
  let f := f.m fun r => { r with buf := [], packAt := [none, none], inRecs := [], need := none, edge := none, scan := none }
  let f := f.l fun l => l.upd fun d => { d with txq := d.txq.filter fun (t : TxFlit) => decide (2 ≤ t.cls) }
  f.e fun e => Eng.uscanDrop { e with mrecs := [], deltas := [], mirHold := false }

/-- Entry to solo-link (R279): held responses are released, records discarded, the shadow stale, software told. -/
def Fab.solo (f : Fab) (cause : Nat) : Fab :=
  if !f.leaseHolds then f
  else
    let f := f.e fun e => (e.set MIR_STATE 0 3).set MIR_SHADOW 0 3
    let f := f.dropRecs
    let f := f.e fun e => Eng.releaseAcks { e with mswap := match e.mswap with | some w => (match w.st with | .forward _ => some w | _ => none) | none => none }
    f.e fun e => (e.event 0x07 (evArgs [(0, cause)])).irq 12

/-- JOURNAL_TIMEOUT (R274, R279): a record's running time has reached the timeout, or its age the hard cap of four times it (R306). -/
def Fab.journalTimeout (f : Fab) : Fab :=
  let t := f.eng.ob MIR_JOURNAL_TIMEOUT * 1000
  if f.mir.buf.any fun j => decide (j.at_ + t ≤ f.eng.ts) then f.solo 2
  else if f.leaseHolds ∧ f.mir.buf.any fun j => decide (j.t0 + 4 * t ≤ f.eng.ts) then (f.e fun e => e.inc RAS_CAPPED_EXPIRIES).solo 2
  else f

/-- BEACON_PATH_LOSS (R279). -/
def Fab.pathLoss (f : Fab) : Fab := if f.mir.bdrx + f.window ≤ f.eng.ts then f.solo 3 else f

/-- The link is down (R259, R279). -/
def Fab.linkDown (f : Fab) : Fab := f.solo 1

/-- SERVING_LEASE_LAPSE: the instance fences and claims (R276, R277). -/
def Fab.lapse (f : Fab) : Fab :=
  if (f.st = 1 ∨ f.st = 2) ∧ !f.leaseHolds then
    let f := (f.e fun e => e.set MIR_STATE 0 4).m fun r => { r with granted := false, guard := none, drain := false, scan := none }
    f.e fun e => e.hsend 0x02 (e.ob HIER_WITNESS_NODE) (e.ob MIR_PARTNER_NODE) none none none
  else f

/-- A grant, from the witness or by MIR_FORCE_SOLO (R277, R281 step 3). -/
def Fab.grantNow (f : Fab) (byWitness : Bool) : Fab :=
  if f.st ≠ 4 ∨ f.mir.granted then f
  else (f.answered fun m => m.typ == 0x02).m fun r => { r with granted := true, held := r.held || byWitness, guard := some (f.eng.ts + f.eng.ob MIR_FENCE_GUARD) }

/-- GRANT. -/
def Fab.grant (f : Fab) (h : Hdr) : Fab := f.hin h 0x03 fun f => if h.src = f.eng.ob HIER_WITNESS_NODE then f.grantNow true else f

/-- DENY: fenced until reset, the boundary as under Foghorn (R277). -/
def Fab.deny (f : Fab) (h : Hdr) : Fab :=
  f.hin h 0x04 fun f =>
    if f.st ≠ 4 ∨ f.mir.granted ∨ h.src ≠ f.eng.ob HIER_WITNESS_NODE then f
    else (f.answered fun m => m.typ == 0x02).e fun e => { (e.set MIR_STATE 0 5) with foghorn := true, fenced := true }

/-- CLAIM at the witness (R278). -/
def Fab.claim (f : Fab) (h : Hdr) (partner : Nat) : Fab :=
  f.hin h 0x02 fun f =>
    let k := min h.src partner
    let say (f : Fab) (typ : Nat) : Fab := f.e fun e => e.hsend typ h.src 0 none none (some h.seq)
    match f.mir.claims.find? fun c => c.1 == k with
    | none => say ((f.m fun r => { r with claims := kput k (h.src, h.epoch) r.claims }).e fun e => e.journalMgr 1 (k + h.src * 2 ^ 8 + h.epoch % 256 * 2 ^ 16)) 0x03
    | some c => say f (if c.2.1 = h.src then 0x03 else 0x04)

/-- A claim record is cleared. -/
def Fab.unclaim (f : Fab) (k : Nat) : Fab := (f.m fun r => { r with claims := kdel k r.claims }).e fun e => e.journalMgr 2 k

/-- RELEASE at the witness, from the claimant (R278). -/
def Fab.releaseMsg (f : Fab) (h : Hdr) (partner : Nat) : Fab :=
  f.hin h 0x05 fun f =>
    let k := min h.src partner
    match f.mir.claims.find? fun c => c.1 == k with
    | some c => if c.2.1 = h.src then f.unclaim k else f
    | none => f

/-- FENCE_GUARD_EXPIRY: the drain begins; records after a gap in mseq are discarded (R281 steps 3 and 4). -/
def Fab.guardExpiry (f : Fab) : Fab :=
  match f.mir.guard with
  | none => f
  | some t =>
    if f.eng.ts < t ∨ f.st ≠ 4 then f
    else
      let ok (i : InRec) : Bool := decide (i.mseq ≤ f.mir.rcv.getD i.cls 0)
      f.m fun r => { r with guard := none, drain := true, inRecs := r.inRecs.filter ok }

/-! ## Records in (R271 to R274) -/

/-- Last mseq applied of a class. -/
def Fab.applied (f : Fab) (c : Nat) : Nat :=
  let p := ((f.mir.inRecs.filter fun i => i.cls == c).map fun i => i.mseq) ++ (if c = 0 then f.eng.deltas.map fun d => d.mseq else [])
  match p with
  | [] => f.mir.rcv.getD c 0
  | a :: t => t.foldl min a - 1

/-- A slot frees once the last record of its flit has left the pool. -/
def Fab.freeFlit (f : Fab) (fid : Nat) : Fab := if f.mir.inRecs.any fun i => i.fid == fid then f else f.l fun l => l.release fid

/-- A record leaves the pool. -/
def Fab.takeIn (f : Fab) (i : InRec) : Fab := (f.m fun r => { r with inRecs := r.inRecs.erase i }).freeFlit i.fid

/-- Deliver line deltas to their slices in order of receipt, each buffering 256 (R271). -/
def Fab.deliver : List InRec → Fab → Fab
  | [], f => f
  | i :: t, f =>
    if f.mir.rcv.getD 0 0 < i.mseq then f
    else if i.word % 16 = 2 then Fab.deliver t f
    else if i.word % 16 ≠ 1 then Fab.deliver t (f.takeIn i)
    else
      let line := bits i.word 61 16
      let s := f.eng.owner line
      if 256 ≤ (f.eng.deltas.filter fun d => d.slice == s).length then f
      else
        let st : LSt := if bits i.word 6 4 = 4 then .X (bits i.word 15 8) else if bits i.word 6 4 = 5 then .H else if bits i.word 6 4 = 6 then .P else .I
        Fab.deliver t ((f.e fun e => { e with deltas := e.deltas ++ [({ mseq := i.mseq, slice := s, line := line, st := st } : DeltaQ)] }).takeIn i)

/-- Deliver what can be delivered. -/
def Fab.deliverAll (f : Fab) : Fab := Fab.deliver (f.mir.inRecs.filter fun i => i.cls == 0) f

/-- A class 0 or class 1 flit of records (R269, R274): records at or below the numbers received are discarded. -/
def Fab.records (f : Fab) (x : RxFlit) : Fab :=
  let c := x.cls
  let p := x.payload.toNat
  let first := bits p 47 0
  let n := min (bits p 53 48) (if c = 0 then 30 else 7)
  let w := if c = 0 then 64 else 256
  let all := (List.range n).map fun k => ({ cls := c, mseq := (first + k) % 2 ^ 48, word := p / 2 ^ (64 + w * k) % 2 ^ w, fid := x.id } : InRec)
  let top := f.mir.rcv.getD c 0
  let new := all.filter fun i => decide (top < i.mseq)
  let top' := new.foldl (fun t i => if i.mseq = t + 1 then i.mseq else t) top
  let f := f.m fun r => { r with inRecs := r.inRecs ++ new, rcv := setK r.rcv c top' }
  (if new.isEmpty then f.l fun l => l.release x.id else f).deliverAll

/-- The oldest delta of a slice whose sector does not wait (R271, R272). -/
def Eng.nextDelta (e : Eng) (s : Nat) : Option DeltaQ :=
  e.deltas.find? fun d => d.slice == s
    && !((e.fills.any fun g => g.slice == s && g.sector == d.line / 4) || (e.waiters.any fun w => w.slice == s && w.sector == d.line / 4))

/-- A delta is written into the slice's directory and counted; a way left all I goes to the spill buffer if its sector has a DBS
burst (R271, R272). -/
def Eng.deltaWrite (e : Eng) (d : DeltaQ) : Eng :=
  let s := d.slice
  let e := (e.setLine s d.line d.st).1
  let e := ((Eng.inc { e with deltas := e.deltas.erase d } MIR_DELTAS_APPLIED)).pm s 0x1F 1
  match e.sfaFind s (d.line / 4) with
  | some w => if w.l = allI ∧ w.dbs ∧ e.spillUsed s < 16 ∧ !e.pinned w then e.spillOut { w with dirty := true } else e
  | none => e

/-- DELTA_APPLY: a slice applies its oldest delta whose sector does not wait (R271, R272). -/
def Eng.deltaApply (e : Eng) (s : Nat) : Eng :=
  match e.nextDelta s with
  | none => e
  | some d =>
    if e.foghorn ∨ e.ob HDC_INIT_DONE ≠ 1 then e
    else
      let sec := d.line / 4
      let psn := e.psn d.line
      match e.dirLookup s sec psn false with
      | (e, .ready) => e.deltaWrite d
      | (e, .filling) => e.startFills
      | (e, .noWay) =>
        let set := sfaSet e.sfKey psn
        let e := ((e.inc SF_CONFLICT_WAITS).pm s 0x1A 1).pressureUp s set
        { e with waiters := e.waiters ++ [({ slice := s, set := set, sector := sec, psn := psn, ctx := none } : Waiter)] }

/-- A lease delta at stop 44 (R271). -/
def Eng.leaseDelta (e : Eng) (w : Nat) : Eng :=
  let l := bits w 27 16
  let x := e.lease l
  let st : LeaseSt := if bits w 5 4 = 1 then .held else if bits w 5 4 = 2 then .broken else .free
  let acq := bit w 31
  let term := bits w 57 32
  let g := bits w 63 58
  let gen := if acq then (x.gen + 1) % 2 ^ 32 else x.gen
  let e := if gen % 64 = g then e else e.inc MIR_DELTA_MISMATCH
  let gen := gen / 64 * 64 + g
  let dl := if st = .held then e.ts + term * 1000 else x.deadline
  Eng.inc { e with leases := kput l { st := st, owner := bits w 15 8, cause := bits w 30 28, gen := gen, term := term, deadline := dl, since := if st = x.st then x.since else e.ts } e.leases } MIR_DELTAS_APPLIED

/-- LEASE_DELTA_APPLY: the oldest lease delta in the pool. -/
def Fab.leaseApply (f : Fab) : Fab :=
  match f.mir.inRecs.find? fun i => i.cls == 0 && i.word % 16 == 2 && decide (i.mseq ≤ f.mir.rcv.getD 0 0) with
  | none => f
  | some i => (f.e fun e => e.leaseDelta i.word).takeIn i

/-- A sector that has left with its unit is emptied in the shadow (R273 type 0x04). -/
def Eng.shadowClear (e : Eng) (sec : Nat) : Eng :=
  let s := e.owner (sec * 4)
  let e := (List.range 4).foldl (fun e k => if (e.sfaFind s sec).isSome || (e.spillFind s sec).isSome then (e.setLine s (sec * 4 + k) .I).1 else e) e
  match e.sfaFind s sec with
  | some w => if w.dbs ∧ e.spillUsed s < 16 then e.spillOut { w with l := allI, dirty := true } else e
  | none => e

/-- Manager state from a record of type 0x07 (R286; log entry 26). -/
def Fab.mgrRec (f : Fab) (w : Nat) : Fab :=
  let tag := bits w 11 8
  let v := w / 2 ^ 12
  if tag = 0 then f.e fun e => { e with mapLog := e.mapLog ++ [(bits v 64 33, bits v 15 0, bits v 32 16)] }
  else if tag = 1 then f.m fun r => { r with claims := kput (bits v 7 0) (bits v 15 8, bits v 23 16) r.claims }
  else if tag = 2 then f.m fun r => { r with claims := kdel (bits v 7 0) r.claims }
  else f.e fun e =>
    let st := bits v 34 32
    let m : RemoorMgr := { unit := bits v 15 0, o := bits v 23 16, n := bits v 31 24, preparedO := decide (st ≠ 1), preparedN := decide (st ≠ 1), step := st, ends := e.ts + e.ob REMOOR_PREPARE_MAX * 1000 }
    let same (r : RemoorMgr) : Bool := r.unit == m.unit && r.o == m.o && r.n == m.n
    if st = 0 then { e with rmgr := e.rmgr.eraseP same }
    else if st = 1 then { e with rmgr := m :: e.rmgr }
    else { e with rmgr := m :: (e.rmgr.eraseP same).filter fun (r : RemoorMgr) => st != 2 || r.unit != m.unit }

/-- What the map entry of a role record does here; the manager publishes it (R285 step 4). -/
def Eng.roleApply (e : Eng) (u v : Nat) : Eng := if e.isManager then e.mapChange u v else e.setMapEntry u v

/-- JOURNAL_RECORD_APPLY: the oldest journal record in the pool (R273, R274). -/
def Fab.journalApply (f : Fab) : Fab :=
  match f.mir.inRecs.find? fun i => i.cls == 1 && decide (i.mseq ≤ f.mir.rcv.getD 1 0) with
  | none => f
  | some i =>
    let w := i.word
    let t := w % 256
    let u := bits w 23 8
    if t = 5 then
      let (e, done) := f.eng.shedEvict (bits w 51 8)
      let f := { f with eng := e }
      if done then f.takeIn i else f
    else
      let f : Fab :=
        if t = 1 then f.e fun e => e.tileWrite [{ i := bits w 32 8, what := .raw, ent := { Tent.ofWord (bits w 87 33) with heat := (e.tent (bits w 32 8)).heat } }]
        else if t = 2 then f.m fun r =>
          let cur := match r.rej with | some j => if j.unit = u then j.cursors else [] | none => []
          { r with rej := if bits w 28 26 = 0 then none else some { unit := u, role := bits w 25 24, step := bits w 28 26, cursors := cur } }
        else if t = 3 then f.m fun r => { r with rej := r.rej.map fun (j : ReJ) => if j.unit = u then { j with cursors := kput (bits w 28 24) (bits w 72 29) j.cursors } else j }
        else if t = 4 then f.e fun e => e.shadowClear (bits w 67 24)
        else if t = 6 then f.e fun e => e.roleApply u (bits w 31 24 + bits w 39 32 * 2 ^ 8 + bits w 40 40 * 2 ^ 16)
        else if t = 7 then f.mgrRec w
        else f
      f.takeIn i

/-! ## Beacons (R275, R276) -/

/-- Number of a Beacon's body (Table 11.4). -/
def beaconBits (b : BeaconB) : Nat :=
  b.seq + b.echo * 2 ^ 32 + b.dapp * 2 ^ 64 + b.japp * 2 ^ 112 + b.dsent * 2 ^ 160 + b.jsent * 2 ^ 208 + b.state * 2 ^ 256 + b.shadow * 2 ^ 260 + b.epoch * 2 ^ 262

/-- A Beacon's body from its bits. -/
def beaconOf (v : Nat) : BeaconB :=
  { seq := bits v 31 0, echo := bits v 63 32, dapp := bits v 111 64, japp := bits v 159 112, dsent := bits v 207 160, jsent := bits v 255 208, state := bits v 259 256,
    shadow := bits v 261 260, epoch := bits v 269 262, edge := none }

/-- A Beacon is due, and this instance sends Beacons (R275). -/
def Fab.mayBeacon (f : Fab) : Bool :=
  f.eng.isH32 && f.st != 5 && !f.eng.foghorn && f.peer != 0xFF && f.me != 0xFF && decide (f.mir.bnext ≤ f.eng.ts)

/-- BEACON_SEND: both copies carry one seq (R275). -/
def Fab.beaconSend (f : Fab) : Fab :=
  let e := f.eng
  if !f.mayBeacon then f
  else
    let n := (f.mir.bseq + 1) % 2 ^ 32
    let b : BeaconB := { seq := n, echo := f.mir.blast, dapp := f.applied 0, japp := f.applied 1, dsent := f.mir.sent.getD 0 0, jsent := f.mir.sent.getD 1 0, state := f.st, shadow := e.ob MIR_SHADOW, epoch := e.ob MIR_EPOCH, edge := none }
    let win := f.window
    let f := f.m fun r => { r with bseq := n, bnext := e.ts + e.ob MIR_BEACON_PERIOD, bsent := (n, e.ts) :: r.bsent.filter fun (p : Nat × Nat) => decide (e.ts < p.2 + win) }
    let f := if e.ob DRX_STATE = 4 then f.l fun l => l.submit { cls := 3, payload := BitVec.ofNat 1984 (beaconBits b), recs := [] } else f
    let m : HMsg := { typ := 0x01, dst := f.peer, body := beaconBits b, req := none, ans := none, re := none, epoch := e.ob MIR_EPOCH }
    let seq := f.mir.hseq
    (f.m fun r => { r with hseq := (seq + 1) % 2 ^ 32 }).put seq m true

/-- A Beacon from the partner, on either path (R274, R276, R279, R284). A partner that had begun to join, and now tells of
solo-link, takes this member there too (log entry 25). -/
def Fab.beaconIn (f : Fab) (b : BeaconB) (drx : Bool) : Fab :=
  let seen := f.mir.pshadow
  let ts := f.eng.ts
  let counts := f.mir.bsent.any fun p => p.1 == b.echo && decide (ts < p.2 + f.window)
  let f := f.m fun r =>
    { r with blast := b.seq, bgood := if counts then ts else r.bgood, bdrx := if drx then ts else r.bdrx, pshadow := b.shadow, edge := match b.edge with | some k => some k | none => r.edge,
             need := match r.need with | some none => some (some (b.dsent, b.jsent)) | n => n,
             buf := r.buf.filter fun (j : JRec) => !decide (j.mseq ≤ (if j.cls = 0 then b.dapp else b.japp)) }
  let f := f.rflush
  if b.state = 3 ∧ (seen = 1 ∨ seen = 2) then f.solo (if f.eng.ob DRX_STATE = 6 then 1 else 2) else f

/-- BEACON through the crossbar. -/
def Fab.beacon (f : Fab) (h : Hdr) (b : BeaconB) : Fab := f.hin h 0x01 fun f => if h.src = f.peer then f.beaconIn b false else f

/-! ## Failover (R281, R282) -/

/-- Units in the region-home map that an entry test picks. -/
def Eng.unitsWith (e : Eng) (p : Nat → Bool) : List Nat :=
  (e.objs.filter fun o => decide (HIER_MAP * 256 ≤ o.1) && decide (o.1 < (HIER_MAP + 0x100) * 256) && p o.2).map fun o => o.1 - HIER_MAP * 256

/-- Take up the re-mooring of an adopted unit where the journal leaves it (Table 09.5): uncommitted sectors below the cursors
are sent again. -/
def Eng.takeRemoor (e : Eng) (j : ReJ) : Eng :=
  let peer := match e.rmgr.find? fun m => m.unit == j.unit with | some m => if j.role = 1 then m.n else m.o | none => 0xFF
  let r : Remoor := { role := if j.role = 1 then .releasing else .receiving, unit := j.unit, peer := peer, step := j.step, cursors := j.cursors, sent := [], committed := [], wrote := [], timer := some (e.ts + (if j.step = 4 then e.ob REMOOR_DRAIN else e.ob REMOOR_XFER_MAX) * 1000), failed := [] }
  let e := { e with remoor := r }
  if j.role = 1 ∧ j.step = 2 then
    let base := e.unitSector j.unit
    let here := ((e.sfa.filter fun w => !w.resv).map fun w => w.sector) ++ (e.spill.map fun s => s.sector) ++ e.dbs.flatMap fun q => q.bursts.map fun b => b.sector
    let late := (ascend here).filter fun s => decide (base ≤ s) && decide (s < kget base (e.owner (s * 4)) j.cursors) && decide (s < base + unitLines / 4)
    late.foldl (fun e sec =>
      (List.range 4).foldl (fun (e : Eng) k => { e with fresh := e.fresh + 1, lineq := e.lineq ++ [({ slice := e.owner (sec * 4), req := intReq e .remoor 4 (e.owner (sec * 4) % 32) (sec * 4 + k) } : QEnt)] }) e) e
  else e

/-- ADOPT at the manager (R289). -/
def Eng.adopt (e : Eng) (lost survivor : Nat) : Eng :=
  if !e.isManager then e
  else (e.unitsWith fun v => bits v 7 0 == lost && bits v 15 8 == survivor).foldl (fun e u => e.mapChange u (survivor + 0xFF * 2 ^ 8 + 2 ^ 16)) e

/-- Units of the lost partner that this instance adopts: those it mirrors, where its shadow is current (R282). -/
def Fab.toAdopt (f : Fab) : List Nat :=
  if f.eng.ob MIR_SHADOW = 2 then f.eng.unitsWith fun v => bits v 7 0 == f.peer && bits v 15 8 == f.me else []

/-- Step 5 of R281: the map's entries, the drift bits, a re-mooring under way and the lease engine are taken over (R282). -/
def Fab.adoptUnits (f : Fab) : Fab :=
  let us := f.toAdopt
  let me := f.me
  let lost := f.peer
  let f := f.e fun e => us.foldl (fun e u => e.setMapEntry u (me + 0xFF * 2 ^ 8 + 2 ^ 16)) e
  let f := f.e fun e =>
    let is := (e.tmap.filter fun t => t.2.drift && us.contains (t.1 / 512)).map fun t => t.1
    is.foldl (fun e i => e.driftLost i) (e.tileWrite (is.map fun i => { i := i, what := .unmark, ent := tent0 }))
  let f := match f.mir.rej with | some j => if us.contains j.unit then f.e fun e => e.takeRemoor j else f | none => f
  let f := f.e fun e => if e.ob MIR_LEASE_NODE = lost then e.set MIR_LEASE_NODE 0 me else e
  f.e fun e => { e with survivor := true }

/-- Step 6 of R281: this instance serves as the survivor, its epoch rises, and software and the manager are told. -/
def Fab.announce (f : Fab) (lost n : Nat) : Fab :=
  let f := f.e fun e => (e.set MIR_STATE 0 6).set MIR_EPOCH 0 ((e.ob MIR_EPOCH + 1) % 256)
  let f := (f.dropRecs).m fun r => { r with granted := false, guard := none, drain := false, rej := none }
  let f := f.e fun e => ((e.releaseAcks.inc MIR_FAILOVERS).event 0x08 (evArgs [(0, lost), (1, n)])).irq 12
  f.e fun e => if e.isManager then e.adopt lost (e.ob HIER_NODE_ID) else e.hsend 0x22 e.manager lost none none none

/-- FAILOVER_ADOPT: adoption and announcement, once everything received is applied (R281 steps 5 and 6, R282). -/
def Fab.adoptNow (f : Fab) : Fab :=
  if f.st ≠ 4 ∨ !f.mir.drain ∨ !f.mir.inRecs.isEmpty ∨ !f.eng.deltas.isEmpty then f
  else f.adoptUnits.announce f.peer f.toAdopt.length

/-! ## Rejoin (R284) -/

/-- Sectors that the SFA scan finds with a line in X, H or P of a unit homed here that the partner mirrors (R284 step 2). -/
def Fab.toResync (f : Fab) : List Nat :=
  let e := f.eng
  let us := e.unitsWith fun v => bits v 7 0 == f.me && bits v 15 8 == f.peer
  let here := ((e.sfa.filter fun w => !w.resv).map fun w => w.sector) ++ e.spill.map fun s => s.sector
  (ascend here).filter fun s =>
    (match e.lineUnit (s * 4) with | some u => us.contains u | none => false)
      && (e.sectorLines (e.owner (s * 4)) s).any fun st => decide (st.shadow ≠ .I)

/-- This member starts joining (R284 steps 1 and 2). -/
def Fab.joinStart (f : Fab) : Fab :=
  let f := f.dropRecs
  let f := f.e fun e => (e.set MIR_STATE 0 1).set MIR_SHADOW 0 1
  let ss := f.toResync
  Fab.e (g := fun e => e.uscanAdd none) <| f.m fun r => { r with mseq := [0, 0], sent := [0, 0], rcv := [0, 0], bgood := f.eng.ts, bdrx := f.eng.ts, pshadow := 0, scan := some ss, rej := none }

/-- A member may start joining: serving, or in solo-link. -/
def Fab.mayJoin (f : Fab) : Bool := f.eng.isH32 && (f.st == 0 || f.st == 3 || f.st == 6)

/-- MIR_REJOIN (R284). -/
def Fab.rejoin (f : Fab) : Fab := if f.mayJoin then f.joinStart.e fun e => e.hsend 0x06 (e.ob MIR_PARTNER_NODE) 0 none none none else f

/-- JOIN from the partner (R284). -/
def Fab.join (f : Fab) (h : Hdr) : Fab :=
  f.hin h 0x06 fun f =>
    if h.src ≠ f.peer then f
    else if f.mayJoin then f.joinStart.e fun e => e.hsend 0x06 h.src 0 none none (some h.seq)
    else f.answered fun m => m.typ == 0x06

/-- A Migration DMA channel may copy for the resynchronisation (R284 step 2). -/
def Fab.mayResync (f : Fab) (ch : Nat) : Bool :=
  f.st == 1 && decide (ch < f.eng.ob MIR_RESYNC_CHANNELS) && decide (ch < 16) && f.eng.chanFree ch && !f.eng.brace && !f.eng.foghorn

/-- RESYNC_COPY on a Migration DMA channel: the next sector becomes copy operations of row 0x5 (R284 steps 2 and 3). -/
def Fab.resync (f : Fab) (ch : Nat) : Fab :=
  match f.mir.scan with
  | some (sec :: t) =>
    let e := f.eng
    if !f.mayResync ch then f
    else
      let ls := (e.sectorLines (e.owner (sec * 4)) sec).zipIdx.filter fun p => decide (p.1.shadow ≠ .I)
      (f.m fun r => { r with scan := some t }).e fun e => ls.foldl (fun e p => e.sendInt (.resync ch) 5 ch (sec * 4 + p.2)) e
  | _ => f

/-- The scans have ended: updates hold from this edge on (R284 step 5). Sectors found in the DBS join those to copy. -/
def Fab.scanEnd (f : Fab) : Fab :=
  let f := if f.eng.rfound.isEmpty then f
    else (f.m fun r => { r with scan := r.scan.map fun (l : List Nat) => l ++ f.eng.rfound }).e fun e => { e with rfound := [] }
  match f.mir.scan with
  | some [] =>
    if ((List.range 16).any f.eng.resyncOn) || f.eng.uscans.any fun w => w.unit.isNone then f
    else (f.m fun r => { r with scan := none }).e fun e => { e with mirHold := true }
  | _ => f

/-- This shadow has become current (R274, R284 step 6). -/
def Fab.shadowCheck (f : Fab) : Fab :=
  let okReset : Bool := match f.mir.need with | none => true | some none => false | some (some (d, j)) => decide (d ≤ f.applied 0) && decide (j ≤ f.applied 1)
  let okEdge : Bool := f.st == 2 || (match f.mir.edge with | some k => decide (k ≤ f.applied 0) | none => false)
  if f.eng.ob MIR_SHADOW = 1 ∧ !(f.eng.uscans.any fun w => w.unit.isSome) ∧ (f.st = 1 ∨ f.st = 2) ∧ okReset ∧ okEdge then (f.m fun r => { r with need := none }).e fun e => e.set MIR_SHADOW 0 2 else f

/-- Both shadows are current: mirrored (R284 step 7). -/
def Fab.pairCheck (f : Fab) : Fab :=
  if f.st = 1 ∧ f.mir.scan = none ∧ f.eng.ob MIR_SHADOW = 2 ∧ f.mir.pshadow = 2 then
    let f := f.e fun e => (e.set MIR_STATE 0 2).set MIR_EPOCH 0 ((e.ob MIR_EPOCH + 1) % 256)
    if f.mir.held then (f.m fun r => { r with held := false }).e fun e => e.hsend 0x05 (e.ob HIER_WITNESS_NODE) (e.ob MIR_PARTNER_NODE) none none none else f
  else f

/-! ## Swap and settle (R283, R285) -/

/-- A map change made elsewhere than at the manager goes to it (log entry 28). -/
def Eng.tellManager (e : Eng) (u : Nat) : Eng :=
  if e.isManager then e.mapChange u (e.mapEntry u) else e.sendMap e.manager ((e.ob HIER_MAP_EPOCH + 1) % 2 ^ 32, u, e.mapEntry u)

/-- MIR_UNIT_SETTLE of unit u (R283). -/
def Eng.settleUnit (e : Eng) (u : Nat) : Eng :=
  let v := e.mapEntry u % 2 ^ 16
  let e := e.setMapEntry u v
  let e := if e.mirroredUnit u then (e.journal (roleRec u v)).1 else e
  e.tellManager u

/-- MIR_SWAP of unit u begins (R285 step 1). -/
def Eng.swapBegin (e : Eng) (u : Nat) : Eng := { e with mswap := some { unit := u, peer := bits (e.mapEntry u) 15 8, st := .quiet } }

/-- Demote the old home's entries of unit u: at once in the SFA and the spill buffers, whose scan R153 gives 8,192 SRCLK cycles, then page
by page in the DBS; the shadow reads building meanwhile (R285 step 5). -/
def Eng.demote (e : Eng) (u : Nat) : Eng :=
  let mine (sec : Nat) : Bool := e.lineUnit (sec * 4) == some u
  let e0 := e
  let es := e.sfa.filter fun w => mine w.sector && !w.resv
  let e := es.foldl (fun e w => w.l.foldl (fun e st => if st.demote = st then e else e.uncount st) e) e
  let e := (e.spill.filter fun s => mine s.sector && !s.back).foldl (fun e s => s.l.foldl (fun e st => if st.demote = st then e else e.uncount st) e) e
  let e : Eng := { e with sfa := (e.sfa.map fun (w : SfaWay) => if mine w.sector && !w.resv && decide (w.l.map LSt.demote ≠ w.l) then { w with l := w.l.map LSt.demote, dirty := true } else w).filter (fun (w : SfaWay) => !(mine w.sector && !w.resv && !w.dbs && decide (w.l = allI) && !e0.pinned w)),
                          spill := e.spill.map fun (s : Spill) => if mine s.sector then { s with l := s.l.map LSt.demote } else s }
  let e : Eng := if e.ob MIR_SHADOW = 2 then e.set MIR_SHADOW 0 1 else e
  e.uscanAdd (some u)

/-- A swap goes on: the unit is quiet and its deltas acknowledged, or the role record is (R285 steps 2 to 5). -/
def Fab.swapStep (f : Fab) : Fab :=
  match f.eng.mswap with
  | none => f
  | some w =>
    let u := w.unit
    let onU (line : Nat) : Bool := f.eng.lineUnit line == some u
    match w.st with
    | .forward _ => f
    | .quiet =>
      if (f.eng.ctxs.any fun x => onU x.req.line) || (f.eng.mrecs.any fun r => r.kind == 0 && onU r.line) || (f.mir.buf.any fun j => j.mrec.kind == 0 && onU j.mrec.line && !j.acked) || f.st != 2 then f
      else f.e fun e =>
        let (e, id) := e.journal (roleRec u (w.peer + e.ob HIER_NODE_ID * 2 ^ 8 + 2 ^ 16))
        { e with mswap := some { w with st := .record id } }
    | .record id =>
      if (f.eng.mrecs.any fun r => r.id == id) || (f.mir.buf.any fun j => j.mrec.id == id && !j.acked) then f
      else f.e fun e =>
        let e := { e with mswap := some { w with st := .forward (e.ts + e.ob REMOOR_DRAIN * 1000) } }
        let e := e.setMapEntry u (w.peer + e.ob HIER_NODE_ID * 2 ^ 8 + 2 ^ 16)
        let e := (e.forwardReady).demote u
        if e.manager = w.peer then e else e.tellManager u

/-! ## The region-home map (R289) -/

/-- MAP_UPDATE (R289); at the manager it asks for a change (log entry 28). -/
def Fab.mapUpdate (f : Fab) (h : Hdr) (u v : Nat) : Fab :=
  f.hin h 0x20 fun f =>
    let f := f.answered fun m => m.typ == 0x22 && m.dst == h.src
    let f := f.e fun e =>
      if e.isManager then (if h.epoch = (e.ob HIER_MAP_EPOCH + 1) % 2 ^ 32 then e.mapChange u v else e)
      else if h.epoch = (e.ob HIER_MAP_EPOCH + 1) % 2 ^ 32 then e.mapApply u v
      else e
    f.e fun e => e.hsend 0x21 h.src (e.ob HIER_MAP_EPOCH) none none (some h.seq)

/-- MAP_ACK with the node's epoch: updates from the epoch after it are sent again (R289). -/
def Fab.mapAck (f : Fab) (h : Hdr) (k : Nat) : Fab :=
  f.hin h 0x21 fun f =>
    let f := f.answered fun m => m.typ == 0x20 && m.dst == h.src
    if !f.eng.isManager then f
    else f.e fun e => (e.mapLog.filter fun c => decide (k < c.1)).foldl (fun e c => e.sendMap h.src c) e

/-- ADOPT (R289). -/
def Fab.adoptMsg (f : Fab) (h : Hdr) (lost : Nat) : Fab := f.hin h 0x22 fun f => f.e fun e => e.adopt lost h.src

/-! ## Re-mooring messages (R222 to R228, Table 11.7) -/

/-- PREPARE that a flit carries: the entries that O sends come by no command. -/
def Fab.prepareFlit (f : Fab) (h : Hdr) (u o n : Nat) : Fab := f.hin h 0x10 fun f => f.e fun e => e.prepare u o n h.src none (some h.seq)

/-- PREPARE. -/
def Fab.prepare (f : Fab) (h : Hdr) (u o n : Nat) (tiles : List TileB) : Fab :=
  f.hin h 0x10 fun f => f.e fun e => e.prepare u o n h.src (some (tiles.map fun t => (t.i, { tent0 with valid := t.valid, dev := t.dev, dpa := t.dpa, gen := t.gen }))) (some h.seq)

/-- PREPARED. -/
def Fab.prepared (f : Fab) (h : Hdr) : Fab :=
  f.hin h 0x11 fun f => match f.eng.asked h.src with
    | none => f
    | some m => (f.answered fun o => o.prepares m.unit (some h.src)).e fun e => e.prepared h.src

/-- REFUSE: the manager aborts (Table 09.5). -/
def Fab.refuse (f : Fab) (h : Hdr) : Fab :=
  f.hin h 0x12 fun f => match f.eng.asked h.src with
    | none => f
    | some m => (f.answered fun o => o.prepares m.unit none).e fun e => e.mgrAbort m

/-- START. -/
def Fab.start (f : Fab) (h : Hdr) (u : Nat) : Fab := f.hin h 0x13 fun f => f.e fun e => e.start u

/-- A state of Table 04.5 from its code and field. -/
def lstOf (code field : Nat) : LSt :=
  if code = 1 then .S1 (field % 256) else if code = 2 then .S2 (field % 256) (field / 256 % 256) else if code = 3 then .SC (field % 65536)
  else if code = 4 then .X (field % 256) else if code = 5 then .H else if code = 6 then .P else if code = 7 then .spare else .I

/-- SECTOR, its four lines as state code and sharer field. -/
def Fab.sector (f : Fab) (h : Hdr) (sec : Nat) (ls : List (Nat × Nat)) : Fab :=
  f.hin h 0x14 fun f => f.e fun e => e.sectorIn sec h.src h.seq ((List.range 4).map fun k => let p := ls.getD k (0, 0); lstOf p.1 p.2)

/-- ACK. -/
def Fab.ack (f : Fab) (h : Hdr) (sec : Nat) : Fab :=
  f.hin h 0x15 fun f => (f.answered fun m => m.typ == 0x14 && m.body % 2 ^ 44 == sec).e fun e => e.sectorAck sec

/-- TRANSFER_DONE. -/
def Fab.transferDone (f : Fab) (h : Hdr) (u : Nat) : Fab :=
  f.hin h 0x16 fun f => (f.answered fun m => m.typ == 0x13 && m.body == u).e fun e => e.transferDone u

/-- FLIP. -/
def Fab.flip (f : Fab) (h : Hdr) (u : Nat) : Fab := f.hin h 0x17 fun f => f.e fun e => e.flip u h.src (some h.seq)

/-- FLIPPED. -/
def Fab.flipped (f : Fab) (h : Hdr) (u : Nat) : Fab :=
  f.hin h 0x18 fun f => (f.answered fun m => m.typ == 0x17 && m.body == u).e fun e => e.flipped u

/-- DRAIN_DONE. -/
def Fab.drainDone (f : Fab) (h : Hdr) (u : Nat) : Fab := f.hin h 0x19 fun f => f.e fun e => e.drainDone u

/-- ABORT. -/
def Fab.abort (f : Fab) (h : Hdr) (u : Nat) : Fab := f.hin h 0x1A fun f => f.e fun e => e.remoorAbort u

/-- The request of a FWD_REQ. -/
def reqOfFwd (b : FwdBeat) : Req :=
  let op : Op := match b.op with
    | .memRd => .memRd | .memRdData => .memRdData | .memInv => .memInv | .memInvNT => .memInvNT | .memClnEvct => .memClnEvct
    | .memWr => .memWr | .memWrPtl => .memWrPtl | .atomic => .atomic
  let cls := match b.op with | .memWr | .memWrPtl => 1 | .atomic => 6 | _ => 0
  { gid := 0, op := op, cls := cls, row := b.row, v := b.caid, caid := b.caid, port := b.port, tag := b.tag, line := b.line, poison := b.pl.poison, be := b.pl.be,
    data := b.pl.data, usize := b.usize, uoff := b.uoff, t0 := 0, remote := none, sweep := 0, passed := false }

/-- FWD_REQ. -/
def Fab.fwdReq (f : Fab) (h : Hdr) (b : FwdBeat) : Fab := 
  f.hin h 0x1B fun f => f.e fun e => let r := reqOfFwd b; e.fwdReq { r with poison := r.poison || h.chk2.isData } h.src h.seq

/-- FWD_RSP. -/
def Fab.fwdRsp (f : Fab) (h : Hdr) (b : FwdAnsB) : Fab :=
  f.hin h 0x1C fun f =>
    let mine (m : HMsg) : Bool := m.typ == 0x1B && m.dst == h.src && (match m.req with | some r => r.caid == b.caid && r.tag == b.tag | none => false)
    (f.answered mine).e fun e => e.fwdRsp { caid := b.caid, tag := b.tag, ndr := b.ndr, drs := b.drs, uio := b.uio, data := b.data, poison := b.poison || h.chk2.isData }

/-! ## Flits for the Mirror Engine and the Hierarchy Agent -/

/-- A class 2 flit: one hierarchy message (R287). -/
def Fab.hflit (f : Fab) (x : RxFlit) : Fab :=
  let v := x.payload.toNat
  let b := bits v 511 96
  let data : Data := BitVec.ofNat 512 (bits v 1023 512)
  let h : Hdr := { xport := linkPort, src := bits v 23 16, dst := bits v 31 24, seq := bits v 63 32, epoch := bits v 95 64 }
  let t := v % 256
  let u := bits b 15 0
  if t = 0x01 then f.beacon h (beaconOf b)
  else if t = 0x02 then f.claim h (b % 256)
  else if t = 0x03 then f.grant h
  else if t = 0x04 then f.deny h
  else if t = 0x05 then f.releaseMsg h (b % 256)
  else if t = 0x06 then f.join h
  else if t = 0x10 then f.prepareFlit h u (bits b 23 16) (bits b 31 24)
  else if t = 0x11 then f.prepared h
  else if t = 0x12 then f.refuse h
  else if t = 0x13 then f.start h u
  else if t = 0x14 then f.sector h (bits b 43 0) ((List.range 4).map fun k => (bits b (46 + 19 * k) (44 + 19 * k), bits b (62 + 19 * k) (47 + 19 * k)))
  else if t = 0x15 then f.ack h (bits b 43 0)
  else if t = 0x16 then f.transferDone h u
  else if t = 0x17 then f.flip h u
  else if t = 0x18 then f.flipped h u
  else if t = 0x19 then f.drainDone h u
  else if t = 0x1A then f.abort h u
  else if t = 0x1B then
    let (op, row) := fwdOpOf b
    f.fwdReq h { op := op, row := row, caid := bits b 91 84, port := bits b 99 92, tag := bits b 81 64, line := bits b 61 16, usize := bits b 133 132, uoff := bits b 139 134,
                 pl := { data := data, be := BitVec.ofNat 64 (bits b 255 192), poison := bit b 15 } }
  else if t = 0x1C then
    let k := b % 16
    let o := bits b 7 4
    f.fwdRsp h { caid := bits b 91 84, tag := bits b 81 64, ndr := if k = 3 then some o else none, drs := if k = 4 then o + 1 else 0, uio := if k = 7 then some (bits b 142 140) else none,
                 data := data, poison := bit b 15 }
  else if t = 0x20 then f.mapUpdate h u (bits b 47 16)
  else if t = 0x21 then f.mapAck h (bits b 31 0)
  else if t = 0x22 then f.adoptMsg h (b % 256)
  else f.unknownMsg h t

/-- One indication of the link. -/
def Fab.indicate (f : Fab) (i : Ind) : Fab :=
  match i with
  | .acked ids => f.acked ids
  | .llReset => f.llReset
  | .down => f.linkDown
  | .active => f
  | .flit x =>
    if x.cls = 0 ∨ x.cls = 1 then f.records x
    else
      let f := f.l fun l => l.release x.id
      if x.cls = 2 then f.hflit x else f.beaconIn (beaconOf (bits x.payload.toNat 415 0)) true

/-- Run a link operation and act on what it indicates; the flits it puts on the lanes are those of this command. -/
def Fab.link (f : Fab) (g : Lnk → Lnk) : Fab :=
  let l := g { eng := f.eng, d := { f.d with sent := [] }, ind := [] }
  l.ind.foldl (fun f i => f.indicate i) { f with eng := l.eng, d := l.d }

/-- What follows any command on the fabric side: records and messages leave, deltas are delivered, and rejoin and swap move on. -/
def Fab.settle (f : Fab) : Fab :=
  let f := f.rflush.deliverAll.swapStep
  let f := f.rflush.scanEnd.shadowCheck.pairCheck
  f.hflush

/-- MIR_HELD: responses held under R270. -/
def Eng.mirHeld (e : Eng) : Nat := e.heldAcks

/-- MIR_ADOPTED_UNITS. -/
def Eng.adoptedUnits (e : Eng) : Nat := (e.unitsWith fun v => bit v 16 && bits v 7 0 == e.ob HIER_NODE_ID).length

/-- The journal timers pause for a tick while a Draix indication is asserted (R274, R307). -/
def Fab.pauseJournal (f : Fab) : Fab := f.m fun r => { r with buf := r.buf.map fun (j : JRec) => { j with at_ := j.at_ + 1 } }

end Sys2Proof.Machine
end

