-- ==== Sys2Proof/Machine/Power.lean ====
section
/-! DEFINITION. Sys2Proof/Machine/Power.lean: rails, start-up, resets, domain sleep, performance levels, the always-on regulator,
block sleep and Brace (chapter 13 of spec/, R56 to R59). -/
namespace Sys2Proof.Machine
open Ob

/-- Change the Power and Clock Controller alone. -/
def Chip.p (c : Chip) (g : Pwr → Pwr) : Chip := { c with pwr := g c.pwr }

/-- Set an object. -/
def Chip.set (c : Chip) (idx el v : Nat) : Chip := c.e fun e => e.set idx el v

/-! ## Rails (R57, R58, Table 02.8) -/

/-- Rail k: 0 `vco`, 1 `vsa`, 2 `vsl`, 3 `vml`. -/
def Chip.rail (c : Chip) (k : Nat) : Rail := c.pwr.rails.getD k (railAt 0)

/-- The block with a rail replaced. -/
def Chip.setRail (c : Chip) (k : Nat) (r : Rail) : Chip := c.p fun p => { p with rails := p.rails.set k r }

/-- No handshake runs on the rail, and none is to start. -/
def Rail.idle (r : Rail) : Bool := !r.req && !r.ack && r.want.isNone

/-- The rail holds a setting, its handshake ended. -/
def Rail.holds (r : Rail) (v : Nat) : Bool := r.idle && r.field == v

/-- Ask for a rail's setting; a setting it already holds needs no handshake (R330). -/
def Chip.ask (c : Chip) (k v : Nat) : Chip := c.setRail k { c.rail k with want := if (c.rail k).holds v then none else some v }

/-- `req` falls once `ack` has risen, and a waiting request starts once the rail is free, outside Brace (R57, R326). -/
def Chip.startRail (c : Chip) (k : Nat) : Chip :=
  let r := c.rail k
  if r.req ∧ r.ack then c.setRail k { r with req := false }
  else match r.want with
  | none => c
  | some v =>
    if r.req ∨ r.ack then c
    else if r.field = v then c.setRail k { r with want := none }
    else if c.eng.brace then c
    else c.setRail k { field := v, req := true, ack := false, old := r.field, want := none, since := c.pwr.aon }

/-! ## Records -/

/-- PWR_LAST_WAKE (R325). -/
def Chip.lastWake (c : Chip) (src el : Nat) (level : Bool) : Chip :=
  c.set PWR_LAST_WAKE 0 (src + b2n level * 2 ^ 4 + el * 2 ^ 5 + (c.eng.ts + 1) % 2 ^ 48 * 2 ^ 12)

/-- PWR_RESET_CAUSE: the cause, and one more reset (R331). -/
def Chip.resetCause (c : Chip) (cause : Nat) : Chip :=
  c.set PWR_RESET_CAUSE 0 (cause + (bits (c.ob PWR_RESET_CAUSE) 18 3 + 1) % 65536 * 8)

/-! ## Votes and domains (R315, R316, Table 13.2) -/

/-- Domains reachable by vote. -/
def Eng.votable (e : Eng) : List Nat :=
  (if e.isH32 then [4] else []) ++ [5] ++ (List.range e.n).map (0x20 + ·) ++ (if e.isH32 then [0x40] else [])

/-- Sleep states a vote may reach, by domain (Table 13.2). -/
def sleepStates (el : Nat) : List Nat := if el = 4 then [1, 2, 3] else if el = 5 then [1, 2] else if el = 0x40 then [3] else [2]

/-- State of a domain. -/
def Chip.dom (c : Chip) (el : Nat) : Nat := c.eng.obj PWR_DOMAIN_STATE el

/-- Some vote of the domain is set. -/
def Chip.voted (c : Chip) (el : Nat) : Bool :=
  c.eng.obj PWR_VOTE_S el == 1 || c.eng.obj PWR_VOTE_NS el == 1 || c.eng.obj PWR_VOTE_HW el == 1

/-- The regulator begins to switch to high power where it neither is in it nor switches already (R319). -/
def Chip.startHp (c : Chip) : Chip :=
  if c.ob PWR_AONREG_HP = 1 ∨ c.pwr.hpWait = true then c else c.p fun p => { p with hpWait := true, hpAt := p.aon }

/-- Entry and exit times of a domain's sleep state, in ns; the spare's exit includes its clearing (Table 13.3). -/
def entryNs (el st : Nat) : Nat :=
  if el = 4 ∧ st = 1 then 39 else if el = 5 ∧ st = 1 then 32 else if (el = 4 ∧ st = 3) ∨ el = 0x40 then 1000 else 2000

def exitNs (el st : Nat) : Nat :=
  if el = 4 then (if st = 1 then 39 else 100000) else if el = 5 then (if st = 1 then 16 else 4000)
  else if el = 0x40 then 6000 + 65536 else 6000

/-- A domain's entry (state 4) or exit (state 5) runs for a time. -/
def Chip.domRun (c : Chip) (el st ns : Nat) : Chip := (c.set PWR_DOMAIN_STATE el st).p fun p => { p with domEnds := kput el (p.aon + ns) p.domEnds }

/-- The time of a domain's running entry or exit has passed. -/
def Chip.domDue (c : Chip) (el : Nat) : Bool := decide (kget 0 el c.pwr.domEnds ≤ c.pwr.aon)

/-- The counters of block 46 are lost as PM leaves Eclipse (R313, R374). -/
def Chip.losePm (c : Chip) : Chip := c.e fun e => (List.range 16).foldl (fun e i => e.set (PM_CTR + 46) i 0) e

/-- A sleeping domain begins its exit. -/
def Chip.beginExit (c : Chip) (el : Nat) : Chip :=
  let st := c.dom el
  let c := c.domRun el 5 (exitNs el st)
  if el = 4 ∧ st = 3 then c.ask 3 1 else if el = 5 ∧ st = 2 then c.losePm else c

/-- What a domain's votes ask of it: entry when none is set, an abandoned entry, or an exit (R315, R316). -/
def Chip.voteOne (c : Chip) (el : Nat) : Chip :=
  let st := c.dom el
  if c.voted el then
    let c := c.p fun p => { p with forced := dropNat el p.forced }
    if st = 4 then c.set PWR_DOMAIN_STATE el 0
    else if st = 1 then c.beginExit el
    else if st = 2 ∨ st = 3 then (c.beginExit el).startHp
    else c
  else if st = 0 ∧ !c.pwr.forced.contains el then c.domRun el 4 (entryNs el (c.eng.obj PWR_SLEEP_TARGET el))
  else c

/-- The hardware vote of PM (R381). -/
def Chip.pmVote (c : Chip) : Chip := c.set PWR_VOTE_HW 5 (b2n (pmCounts c.eng.obj || c.ob TRC_ENABLE == 1))

/-- The votes of every domain take effect, outside block sleep. -/
def Chip.voteCheck (c : Chip) : Chip :=
  let c := c.pmVote
  if c.pwr.run ≠ .up ∨ c.ob PWR_BLOCK_STATE ≠ 0 then c else c.eng.votable.foldl (fun c el => c.voteOne el) c

/-- The Draix region leaves: the link is Off (R313). -/
def Chip.drxOff (c : Chip) : Chip := c.setFab (c.fab.link Lnk.off)

/-- DOMAIN_SLEEP_ENTRY: the clamp step, and the state PWR_SLEEP_TARGET names (R315, R316, Table 13.3). -/
def Chip.domainEntry (c : Chip) (el : Nat) : Chip :=
  if c.dom el ≠ 4 ∨ !c.domDue el then c
  else
    let t := c.eng.obj PWR_SLEEP_TARGET el
    let c := c.set PWR_DOMAIN_STATE el t
    if el = 4 then (let c := c.drxOff; if t = 3 then c.ask 3 0 else c) else c

/-- DOMAIN_SLEEP_EXIT: the domain is in service, once the regulator and its rail allow (R313, R319, R230, R231). -/
def Chip.domainExit (c : Chip) (el : Nat) : Chip :=
  if c.dom el ≠ 5 ∨ !c.domDue el ∨ c.ob PWR_AONREG_HP ≠ 1 ∨ (el = 4 ∧ !(c.rail 3).holds 1) then c
  else
    let c := (c.set PWR_DOMAIN_STATE el 0).lastWake (if c.pwr.forced.contains el then 6 else 7) el false
    let c :=
      if el = 4 then c.setFab (c.fab.link Lnk.tryStart)
      else if 0x20 ≤ el ∧ el < 0x20 + c.eng.n then
        c.e fun e => Eng.set { e with svc := insertNat (el - 0x20) e.svc } SLICE_LIT 0 (setBit (e.ob SLICE_LIT) (el - 0x20))
      else if el = 0x40 then c.e Eng.swapNext
      else c
    c.voteCheck

/-! ## Performance levels (R317, R318) -/

/-- A change to a level starts where it is not in force. -/
def Chip.levelStart (c : Chip) (v : Nat) : Chip :=
  let now := c.ob PWR_LEVEL_NOW
  if v = now then c
  else if v < now then Chip.ask (c.p fun p => { p with level := some { target := v, raise := true, half := false } }) 2 v
  else c.p fun p => { p with level := some { target := v, raise := false, half := false } }

/-- A change of level ends, and the last commit made while it ran takes effect. -/
def Chip.levelEnd (c : Chip) : Chip :=
  let n := c.pwr.levelNext
  let c := c.p fun p => { p with level := none, levelNext := none }
  match n with | some v => c.levelStart v | none => c

/-- PWR_LEVEL takes a value. -/
def Chip.setLevel (c : Chip) (v : Nat) : Chip :=
  let c := c.set PWR_LEVEL 0 v
  if c.pwr.level.isSome then c.p fun p => { p with levelNext := some v } else c.levelStart v

/-- LEVEL_SWITCH: the clocks switch once the PLLs have locked and, in a raise, the rail handshake has ended. -/
def Chip.levelSwitch (c : Chip) : Chip :=
  match c.pwr.level with
  | none => c
  | some l =>
    if l.raise then (if l.half then (c.set PWR_LEVEL_NOW 0 l.target).levelEnd else c)
    else if l.half then c
    else Chip.ask ((c.set PWR_LEVEL_NOW 0 l.target).p fun p => { p with level := some { l with half := true } }) 2 l.target

/-- What the slice rail's handshake means to a change of level. -/
def Chip.levelRail (c : Chip) : Chip :=
  match c.pwr.level with
  | none => c
  | some l =>
    if !(c.rail 2).idle then c
    else if l.raise then
      (if l.half then c else if (c.rail 2).field = l.target then c.p fun p => { p with level := some { l with half := true } } else c.levelEnd)
    else if l.half then c.levelEnd else c

/-! ## Coming into service (R329, R330) -/

/-- Steps 7 to 9 of Table 13.7: the PLLs lock, the domains switch on, the clears have run, every slice is served. -/
def Chip.service (c : Chip) : Chip :=
  let woke := c.ob PWR_BLOCK_STATE = 4
  let c := c.p fun p => { p with run := .up, levels := p.levels.filter (· == 2) }
  let c := c.e fun e =>
    let e := ((e.set SF_INIT_DONE 0 1).set HDC_INIT_DONE 0 1).set HDC_STATUS 0 (e.ob HDC_ENABLE)
    let e := ((e.set PWR_LEVEL_NOW 0 0).set PWR_DOMAIN_STATE 5 0).set PWR_BLOCK_STATE 0 0
    { e with svc := List.range e.n, heatDue := e.ts + e.ob HEAT_SCAN_PERIOD * 1000000 }
  (if woke then c else c.lastWake 8 0 false).voteCheck

/-- CORE is on: Keeper leaves reset (step 4), and the array rail is asked for. -/
def Chip.coreIsOn (c : Chip) : Chip := Chip.ask ((c.p fun p => { p with run := .vsa }).bootKeeper) 1 2

/-! ## Block sleep (R321 to R325) -/

/-- `sf_key` is loaded (R135), at every reset of R330 (log entry 19). -/
def Eng.loadKey (e : Eng) : Eng :=
  if e.ob SF_INDEX_KEY_NEXT = 0xFFFF then Eng.set { e with fresh := e.fresh + 1 } SF_INDEX_KEY 0 (Config.entropy e.fresh % 2 ^ 13)
  else e.set SF_INDEX_KEY 0 (e.ob SF_INDEX_KEY_NEXT)

/-- CORE has lost its power: every object is at its default but those of AON and the retained ones (R324, R356). -/
def Chip.coreLost (c : Chip) : Chip :=
  let keep := c.eng.objs.filter fun (p : Nat × Nat) =>
    let i := p.1 / 256
    (decide (PWR_BLOCK_SLEEP ≤ i) && decide (i ≤ PWR_RAIL_LOG)) || (decide (WDT_ENABLE ≤ i) && decide (i ≤ WDT_PAUSE_DEBUG)) || i == SF_INDEX_KEY_NEXT || i == HDC_ENABLE
  let e := (eng0 c.eng.fz c.eng.fresh keep).loadKey
  let e := { e with logs := c.eng.logs.filter (fun (p : Nat × List Nat) => p.1 == PWR_RAIL_LOG), foghorn := c.eng.foghorn && !c.eng.fenced, withheld := c.eng.withheld }
  { c with eng := e, d := drx0, mir := mir0, kpr := kpr0 c.kpr.dram, dic := { dic0 with i3c := c.dic.i3c }, pm := pm0 }

/-- Block sleep has been reached (Table 13.5 step 7). -/
def Chip.reached (c : Chip) : Chip :=
  let c := (c.p fun p => { p with slp := .asleep, sleptAt := p.aon }).set PWR_BLOCK_STATE 0 (if c.pwr.slpTo = 2 then 3 else 2)
  if c.ob PWR_AONREG_MODE = 1 then c else c.set PWR_AONREG_HP 0 0

/-- A wake enabled at the sampler: bit n of PWR_WAKE_ENABLE, effective in the sleep the block is in (Table 13.6). -/
def Chip.wakeOn (c : Chip) (n : Nat) : Bool :=
  bit (c.ob PWR_WAKE_ENABLE) n && !(n == 3 && !c.eng.isH32) && !(n == 4 && c.pwr.slpTo == 2)

/-- The exit from block sleep starts (R324 steps 1 and 2), once a dip has ended (R328). -/
def Chip.exitStart (c : Chip) (src : Nat) (level : Bool) : Chip :=
  if c.pwr.low then c.p fun p => { p with wake := some (src, level) }
  else
    let c := c.lastWake src 0 level
    ((c.set PWR_BLOCK_STATE 0 4).p fun p => { p with slp := .hp, wake := none }).startHp

/-- Asleep, a level source that is asserted, or a wake seen while the entry completed, starts the exit. -/
def Chip.sampler (c : Chip) : Chip :=
  if c.pwr.slp ≠ .asleep then c
  else match c.pwr.wake with
    | some (s, l) => if c.pwr.low then c else c.exitStart s l
    | none =>
      match c.pwr.levels.find? fun n => c.wakeOn n with
      | some n => c.exitStart (n + 1) true
      | none => c

/-- The clamp step of block sleep (Table 13.5 step 5). -/
def Chip.clampAll (c : Chip) : Chip :=
  let c := c.drxOff
  let ds := [2, 3, 4, 5, 0x40] ++ (List.range c.eng.n).map (0x20 + ·)
  let c := ds.foldl (fun c el => if c.dom el = 3 then c else c.set PWR_DOMAIN_STATE el 2) c
  Chip.ask ((c.set PWR_LEVEL_NOW 0 7).p fun p => { p with slp := .offVsl }) 2 7

/-- The entry is abandoned before step 4: steps 3 to 1 are undone (R316, R323). -/
def Chip.abandon (c : Chip) (src : Nat) (level : Bool) : Chip :=
  ((c.set PWR_BLOCK_STATE 0 0).p fun p => { p with slp := .awake, wake := none }).lastWake src 0 level

/-- The domains that votes keep are in service again (R324 steps 4 and 5). -/
def Chip.eclipseEnd (c : Chip) : Chip :=
  let c := c.p fun p => { p with slp := .awake, levels := p.levels.filter (· == 2) }
  let c := [2, 3].foldl (fun c el => c.set PWR_DOMAIN_STATE el 0) c
  let c := c.eng.votable.foldl (fun c el => if c.dom el = 2 ∧ c.voted el then (if el = 5 then c.losePm else c).set PWR_DOMAIN_STATE el 0 else c) c
  let c := (c.set PWR_LEVEL_NOW 0 (c.ob PWR_LEVEL)).set PWR_BLOCK_STATE 0 0
  let c := c.e fun e => { e with svc := (List.range e.n).filter fun k => e.obj PWR_VOTE_HW (0x20 + k) == 1 }
  Chip.voteCheck (c.setFab (c.fab.link Lnk.tryStart))

/-- BLOCK_SLEEP_QUIESCED: steps 2 and 3 are done, and wake detection passes to the sampler for 6 AONCLK cycles. -/
def Chip.quiesced (c : Chip) : Chip :=
  let e := c.eng
  if c.pwr.slp ≠ .quiescing ∨ !e.ctxs.isEmpty ∨ !e.seqs.isEmpty ∨ !e.spill.isEmpty ∨ !e.dcmds.isEmpty ∨ !e.dopen.isEmpty ∨ e.brace then c
  else (c.e fun e => { e with svc := [] }).p fun p => { p with slp := .arming, armEnd := c.eng.ts + 1500 }

/-- One step of the power sequences that can be taken now. -/
def Chip.powStep (c : Chip) : Chip :=
  if c.pwr.run = .dead ∨ c.pwr.run = .held then c
  else
    let c := (List.range 4).foldl (fun c k => c.startRail k) c
    match c.pwr.run, c.pwr.slp with
    | .vco, _ => if (c.rail 0).holds 1 then c.coreIsOn else c
    | .vsa, _ => if (c.rail 1).holds 2 then Chip.ask (c.p fun p => { p with run := .vsl }) 2 0 else c
    | .vsl, _ => if (c.rail 2).holds 0 then c.service else c
    | _, .awake => c.levelRail
    | _, .offVsl => if (c.rail 2).idle then Chip.ask (c.p fun p => { p with slp := .offVsa }) 1 1 else c
    | _, .offVsa =>
      if !(c.rail 1).idle then c
      else if c.pwr.slpTo = 1 then c.reached
      else Chip.ask (Chip.ask (c.p fun p => { p with slp := .offVsa2 }) 1 0) 3 0
    | _, .offVsa2 => if (c.rail 1).idle ∧ (c.rail 3).idle then Chip.ask (Chip.p c.coreLost fun p => { p with slp := .offVco }) 0 0 else c
    | _, .offVco => if (c.rail 0).idle then c.reached else c
    | _, .asleep => c.sampler
    | _, .hp =>
      if c.ob PWR_AONREG_HP ≠ 1 then c
      else if c.pwr.slpTo = 1 then Chip.ask (c.p fun p => { p with slp := .onVsa }) 1 2
      else Chip.ask (c.p fun p => { p with slp := .onVco }) 0 1
    | _, .onVco => if (c.rail 0).holds 1 then Chip.coreIsOn (c.p fun p => { p with slp := .awake }) else c
    | _, .onVsa => if (c.rail 1).holds 2 then Chip.ask (c.p fun p => { p with slp := .onVsl }) 2 (c.ob PWR_LEVEL) else c
    | _, .onVsl => if (c.rail 2).holds (c.ob PWR_LEVEL) then c.eclipseEnd else c
    | _, _ => c

/-- Every step that can be taken now, a bound for them being the sequences' length. -/
def Chip.advance (c : Chip) : Chip := (List.range 24).foldl (fun c _ => c.powStep) c

/-- A setting is a raise of the rail's voltage. -/
def isRaise (k old new : Nat) : Bool := if k = 2 then decide (new < old) else decide (old < new)

/-- A reset holds the block: the outputs of the rails stand as they are (R33). -/
def Chip.isHeld (c : Chip) : Bool := c.pwr.por || c.pwr.warm || c.pwr.brown || c.pwr.supply

/-- A request of the rail has had no `ack` for 800 AONCLK cycles of 250 ns (R58). -/
def Chip.railLate (c : Chip) (k : Nat) : Bool :=
  let r := c.rail k
  r.req && !r.ack && decide (r.since + 200000 < c.pwr.aon) && !c.isHeld

/-- RAIL_ACK_TIMEOUT: `req` is withdrawn, the failure is logged, and the earlier setting stands (R58). -/
def Chip.railTimeout (c : Chip) (k : Nat) : Chip :=
  let r := c.rail k
  if 4 ≤ k ∨ !c.railLate k then c
  else
    let c := c.setRail k { r with req := false, field := r.old }
    Chip.advance (c.e fun e => ((e.inc PWR_RAIL_FAULTS).logPush PWR_RAIL_LOG 16 (k + r.field * 4 + b2n (isRaise k r.old r.field) * 2 ^ 5 + e.t48 * 2 ^ 6)).irq 0)

/-- RAIL_ACK: `ack` of a rail changes level (R57). One that rises after the limit finds its request withdrawn (R58). While a reset holds the
block the level is seen and the outputs stand (R33). -/
def Chip.railAck (c : Chip) (k : Nat) (up : Bool) : Chip :=
  if 4 ≤ k then c
  else
    let c := c.railTimeout k
    let c := c.setRail k { c.rail k with ack := up }
    let c := if k = 3 ∧ c.dom 4 = 5 ∧ (c.rail 3).holds 1 then c.p fun p => { p with domEnds := kput 4 (p.aon + 100000) p.domEnds } else c
    if c.isHeld then c else c.advance

/-! ## Resets (R33, R56, R320, R328, R330, R331, R356) -/

/-- Objects that every reset keeps (Table 15.3). -/
def retained (idx : Nat) : Bool :=
  (decide (0x1022 ≤ idx) && decide (idx ≤ 0x1026)) || idx == PWR_AONREG_MODE || idx == SF_INDEX_KEY_NEXT || idx == HDC_ENABLE

/-- Everything returns to its reset state but the retained objects, the carrier's DRAM, and the time of AONCLK. The rails keep
their settings, as under `rs_warm_n`, or return to off. `ev_foghorn`, once asserted, falls by a reset input (R60), and by a brown-out or a
supply reset, at which every output, the rails' apart, takes its reset value (R320, R328). Withheld DRAM tags stay withheld until a reset input
is asserted (R49), as a brown-out acts (R320). -/
def Chip.clear (c : Chip) (keepRails keepFog keepTags : Bool) : Chip :=
  let rs := if keepRails then c.pwr.rails.map fun (r : Rail) => { r with want := none }
    else (rails0.zip c.pwr.rails).map fun (r : Rail × Rail) => { r.1 with ack := r.2.ack }
  let e := (eng0 c.eng.fz c.eng.fresh (c.eng.objs.filter fun (p : Nat × Nat) => retained (p.1 / 256))).loadKey
  { eng := { e with foghorn := keepFog && c.eng.foghorn && !c.eng.fenced, withheld := if keepTags then c.eng.withheld else [] }, d := drx0, mir := mir0,
    pwr := { pwr0 with aon := c.pwr.aon, por := c.pwr.por, warm := c.pwr.warm, brown := c.pwr.brown, supply := c.pwr.supply, run := if c.pwr.run = .dead then .dead else .held, rails := rs },
    kpr := kpr0 c.kpr.dram, dic := dic0, pm := pm0 }

/-- The start-up begins, with its cause recorded, once nothing holds the block in reset (Table 13.7). -/
def Chip.startUp (c : Chip) (cause : Nat) : Chip :=
  if c.isHeld ∨ c.pwr.run ≠ .held then c
  else Chip.advance (Chip.ask ((c.resetCause cause).p fun p => { p with run := .vco }) 0 1)

/-- POWER_ON_RESET. -/
def Chip.porAssert (c : Chip) : Chip := (Chip.clear c false false false).p fun p => { p with por := true }

/-- POWER_ON_RESET_RELEASE. -/
def Chip.porRelease (c : Chip) : Chip := if c.pwr.por then (c.p fun p => { p with por := false }).startUp 1 else c

/-- WARM_RESET; `rs_por_n` governs while it is asserted (R56). -/
def Chip.warmAssert (c : Chip) : Chip := Chip.p (if c.pwr.por then c else Chip.clear c true false false) fun p => { p with warm := true }

/-- WARM_RESET_RELEASE. -/
def Chip.warmRelease (c : Chip) : Chip := if c.pwr.warm then (c.p fun p => { p with warm := false }).startUp 2 else c

/-- BROWN_OUT: as on an assertion of `rs_por_n` (R320). -/
def Chip.brownOut (c : Chip) : Chip := if c.pwr.run = .dead then c else (Chip.clear c false false false).p fun p => { p with brown := true }

/-- BROWN_OUT_RECOVERY. -/
def Chip.brownRecovery (c : Chip) : Chip := if c.pwr.brown then (c.p fun p => { p with brown := false }).startUp 3 else c

/-- SUPPLY_RESET (R328). -/
def Chip.supplyReset (c : Chip) : Chip := if c.pwr.run = .dead then c else (Chip.clear c true false true).p fun p => { p with supply := true }

/-- SUPPLY_RESET_RECOVERY. -/
def Chip.supplyRecovery (c : Chip) : Chip := if c.pwr.supply then (c.p fun p => { p with supply := false }).startUp 4 else c

/-- SECURE_WATCHDOG_EXPIRY: the reset of R330, with `rs_chip_req` asserted (R348). -/
def Chip.wdtExpiry (c : Chip) : Chip := if c.wdtCounts ∧ c.wdtPeriod ≤ c.pwr.wdtCnt then ((Chip.clear c true true true).p fun p => { p with chipReq := true }).startUp 5 else c

/-- ALWAYS_ON_SUPPLY_LOSS: the retained cells go too (R331, R356). -/
def Chip.supplyLoss (c : Chip) : Chip :=
  let c := Chip.clear c false false false
  Chip.p { c with eng := (eng0 c.eng.fz c.eng.fresh []) } fun p => { p with run := .dead, aon := 0 }

/-- ALWAYS_ON_SUPPLY_APPLIED: the retained objects are at their defaults, and the block waits in reset for a release (R356, R329). -/
def Chip.supplyOn (c : Chip) : Chip := if c.pwr.run = .dead then (c.e Eng.loadKey).p fun p => { p with run := .held } else c

/-! ## Brace (R326, R327) -/

/-- BRACE_ENTRY; in block Eclipse, and in block Extinguished, where no admission is open either, the dip is only seen (R328). -/
def Chip.braceIn (c : Chip) : Chip :=
  if c.pwr.run = .dead ∨ c.pwr.run = .held ∨ c.eng.brace ∨ c.pwr.low then c
  else if c.ob PWR_BLOCK_STATE = 2 ∨ c.ob PWR_BLOCK_STATE = 3 then c.p fun p => { p with low := true }
  else (c.e fun e => Eng.irq (Eng.set { e with brace := true } PWR_BRACE 0 1) 0).p fun p => { p with braceAt := c.eng.ts }

/-- A dip that ended without a supply reset is counted. -/
def Eng.dip (e : Eng) : Eng := e.set PWR_DIP_COUNT 0 ((e.ob PWR_DIP_COUNT + 1) % 2 ^ 32)

/-- BRACE_EXIT: service resumes where it was held, and deadlines that do not fall due in Brace move later (R209, R232, R327). -/
def Chip.braceOut (c : Chip) : Chip :=
  if c.pwr.low then Chip.advance ((c.e Eng.dip).p fun p => { p with low := false })
  else if !c.eng.brace then c
  else
    let d := c.eng.ts - c.pwr.braceAt
    Chip.advance (c.e fun e =>
      let e := (Eng.addObj ((Eng.set { e with brace := false } PWR_BRACE 0 0).dip) PWR_BRACE_TIME 0 d).event 0x0F (evArgs [(0, d % 2 ^ 64)])
      Eng.pump ((e.leasesLater d).remoorLater d).presentAll)

/-! ## Wakes and the regulator (R319, R322, R323) -/

/-- A wake of source bit n reaches the Power and Clock Controller (Table 13.6). -/
def Chip.wakeSrc (c : Chip) (n : Nat) : Chip :=
  let level := n == 0 || n == 4 || (n == 2 && c.ob PWR_WAKE_TIMER_MODE == 0)
  if c.pwr.slp = .awake ∨ c.pwr.run ≠ .up then c
  else
    let c := if level then c.p fun p => { p with levels := insertNat n p.levels } else c
    if !c.wakeOn n then c
    else match c.pwr.slp with
      | .quiescing => c.abandon (n + 1) level
      | .asleep => Chip.advance (if level then c else c.exitStart (n + 1) level)
      | .offVsl | .offVsa | .offVsa2 | .offVco => if level ∨ c.pwr.wake.isSome then c else c.p fun p => { p with wake := some (n + 1, level) }
      | _ => c

/-- WAKE_SOURCE: I3C private write, I3C START, Draix activity or mailbox word. -/
def Chip.wakeSource (c : Chip) (n : Nat) : Chip := if n = 0 ∨ n = 1 ∨ n = 3 ∨ n = 4 then c.wakeSrc n else c

/-- WAKE_TIMER_EXPIRY: PWR_WAKE_TIMER µs after block sleep was reached. -/
def Chip.wakeTimer (c : Chip) : Chip := if c.pwr.slp = .asleep ∧ c.ob PWR_WAKE_TIMER ≠ 0 ∧ c.pwr.sleptAt + c.ob PWR_WAKE_TIMER * 1000 ≤ c.pwr.aon then c.wakeSrc 2 else c

/-- A commit that wakes the block: from block Eclipse, not from block Extinguished (Table 13.6, last row). From step 4 of Table 13.5 on, the
entry completes and the exit follows (R316). -/
def Chip.softWake (c : Chip) : Chip :=
  match c.pwr.slp with
  | .quiescing => c.abandon 6 false
  | .asleep => Chip.advance (c.exitStart 6 false)
  | .arming | .offVsl | .offVsa => if c.pwr.slpTo = 2 ∨ c.pwr.wake.isSome then c else c.p fun p => { p with wake := some (6, false) }
  | _ => c

/-- PWR_FORCE_WAKE of a domain, without a regulator switch: switching a domain on in low-power mode ends in a brown-out (R319). -/
def Chip.forceWake (c : Chip) (el : Nat) : Chip :=
  let st := c.dom el
  if c.ob PWR_BLOCK_STATE ≠ 0 then
    (if c.pwr.slp = .asleep ∧ c.ob PWR_AONREG_HP = 0 then c.brownOut else c.softWake)
  else if !c.eng.votable.contains el then c
  else if st = 4 then c.p (fun p => { p with forced := insertNat el p.forced }) |>.set PWR_DOMAIN_STATE el 0
  else if st = 0 ∨ st = 5 then c
  else if st ≠ 1 ∧ c.ob PWR_AONREG_HP = 0 then c.brownOut
  else Chip.advance ((c.p fun p => { p with forced := insertNat el p.forced }).beginExit el)

/-- PWR_AONREG_MODE takes a value. -/
def Chip.aonMode (c : Chip) (v : Nat) : Chip :=
  let c := c.set PWR_AONREG_MODE 0 v
  let low := c.set PWR_AONREG_HP 0 0 |>.p fun p => { p with hpWait := false }
  if v = 1 then c.startHp
  else if v = 2 then low
  else if c.pwr.slp = .asleep then low else c.startHp

/-- AONREG_HP_SETTLED: 20 µs after the switch began (R319). -/
def Chip.hpSettled (c : Chip) : Chip :=
  if c.pwr.hpWait = true ∧ c.pwr.hpAt + 20000 ≤ c.pwr.aon then Chip.advance ((c.p fun p => { p with hpWait := false }).set PWR_AONREG_HP 0 1) else c

/-! ## Commits (R321, R332) -/

/-- PWR_BLOCK_SLEEP = 1 or 2 is refused busy (R321, R332). -/
def Chip.sleepBusy (c : Chip) (v : Nat) : Bool :=
  let e := c.eng
  let m := e.ob MIR_STATE
  c.ob PWR_BLOCK_STATE != 0 || e.brace || c.pwr.level.isSome || e.handoff.isSome || !e.chans.isEmpty || e.remooring
    || e.swap.isSome || e.ob RAS_RETIRE_BUSY == 1 || m == 1 || m == 2 || m == 4
    || (v == 2 && (((List.range 64).any fun p => e.obj POOL_UNITS p != 0) || (e.ob DRX_STATE != 0 && e.ob DRX_STATE != 6)))

/-- KCLK is locked, from step 7 of Table 13.7 until the core is off (PWR_CLK_LOCK). -/
def Chip.kclk (c : Chip) : Bool := c.pwr.run == .up

/-- Status of a write of a power object at its commit edge (R332). -/
def Chip.pwrStatus (c : Chip) (o : OWr) : Nat :=
  let i := o.idx
  if i = PWR_LEVEL then (if c.ob PWR_BLOCK_STATE ≠ 0 then 2 else 0)
  else if i = PWR_KEEPER_CLK then (if o.v = 1 ∧ !c.kclk then 2 else 0)
  else if i = PWR_SLEEP_TARGET then (if c.eng.votable.contains o.el ∧ (sleepStates o.el).contains o.v then 0 else 1)
  else if i = PWR_VOTE_NS ∨ i = PWR_VOTE_S then (if c.eng.votable.contains o.el then 0 else 1)
  else if i = PWR_FORCE_WAKE then (if o.v ≤ 3 ∨ c.eng.votable.contains o.v then 0 else 1)
  else if i = PWR_BLOCK_SLEEP then (if o.v ≠ 0 ∧ c.sleepBusy o.v then 2 else 0)
  else 0

/-- Entry to block sleep starts, unless a level source that may wake the block is asserted (R321, R323). -/
def Chip.sleepStart (c : Chip) (v : Nat) : Chip :=
  let c := (c.set PWR_BLOCK_STATE 0 1).p fun p => { p with slp := .quiescing, slpTo := v, wake := none, levels := p.levels.filter (· == 2) }
  match c.pwr.levels.find? fun n => c.wakeOn n with
  | some n => c.abandon (n + 1) true
  | none => c

/-- A value of a power object takes effect. -/
def Chip.pwrApply (c : Chip) (o : OWr) : Chip :=
  let i := o.idx
  if i = PWR_LEVEL then (c.setLevel o.v).advance
  else if i = PWR_BLOCK_SLEEP then
    if o.v = 0 then (c.set i 0 o.v).softWake else (c.set i 0 o.v).sleepStart o.v
  else if i = PWR_AONREG_MODE then (c.aonMode o.v).advance
  else if i = PWR_WAKE_TIMER then (c.set i 0 o.v).p fun p => { p with levels := dropNat 2 p.levels }
  else c.set i o.el o.v

end Sys2Proof.Machine
end

