-- ==== Sys2Proof/Machine/PerfMon.lean ====
section
/-! DEFINITION. Sys2Proof/Machine/PerfMon.lean: snapshots, the transaction sampler, latency histograms, the trace unit and the ring
writers (R374 to R381, R384). -/
namespace Sys2Proof.Machine
open Ob

/-- Change the monitor alone. -/
def Chip.q (c : Chip) (g : Pm → Pm) : Chip := { c with pm := g c.pm }

/-- The Performance Monitor's domain is in service (R381). -/
def Chip.pmOn (c : Chip) : Bool := c.dom 5 == 0

/-! ## Snapshots (R375) -/

/-- Counter blocks present. -/
def Chip.blocks (c : Chip) : List Nat := bitList (c.ob PM_BLOCKS) 48

/-- PM_SNAP: S is set and broadcast. -/
def Chip.snap (c : Chip) : Chip :=
  let c := (c.set PM_SNAP_TIME 0 (c.eng.ts + c.ob PM_SNAP_LEAD)).set PM_SNAP_LATE 0 0
  let c := c.e fun e => (c.blocks.filter fun b => e.onRing b).foldl (fun e b => e.galSend .snapshot 7 46 b) e
  c.q fun p => { p with snapLeft := c.blocks, snapArmed := [] }

/-- A block copies its 16 counters. -/
def Chip.snapCopy (c : Chip) (b : Nat) : Chip :=
  let c := c.e fun e => (List.range 16).foldl (fun e i => e.set (PM_SNAP_CTR + b) i (e.obj (PM_CTR + b) i)) e
  c.q fun p => { p with snapLeft := dropNat b p.snapLeft, snapArmed := dropNat b p.snapArmed }

/-- The blocks that have been told S copy at S. -/
def Chip.snapDue (c : Chip) : Chip := if c.ob PM_SNAP_TIME ≤ c.eng.ts then c.pm.snapArmed.foldl (fun c b => c.snapCopy b) c else c

/-- Power domain of a block of counters: a slice's, the spare's, Draix, PM; the others lie in CORE and GAL (Tables 01.4, 13.2). -/
def blockDom (b : Nat) : Option Nat := if b < 32 then some (0x20 + b) else if b = 32 then some 0x40 else if b = 41 then some 4 else if b = 46 then some 5 else none

/-- A block's domain sleeps: its shadow is copied, on time. -/
def Chip.blockSleeps (c : Chip) (b : Nat) : Bool := match blockDom b with | some d => c.dom d == 2 || c.dom d == 3 | none => false

/-- SNAP_BROADCAST: the broadcast reaches a block, in time or after S. -/
def Chip.snapBroadcast (c : Chip) (b : Nat) : Chip :=
  if !c.pm.snapLeft.contains b ∨ c.pm.snapArmed.contains b then c
  else
    let s := c.ob PM_SNAP_TIME
    if s < c.eng.ts ∧ !c.blockSleeps b then (c.snapCopy b).set PM_SNAP_LATE 0 (setBit (c.ob PM_SNAP_LATE) b)
    else (c.q fun p => { p with snapArmed := insertNat b p.snapArmed }).snapDue

/-- PM_CTR_CLEAR of the blocks of a mask (R374). -/
def Chip.ctrClear (c : Chip) (m : Nat) : Chip :=
  c.e fun e => (bitList m 48).foldl (fun e b => (List.range 16).foldl (fun e i => e.set (PM_CTR + b) i 0) e) e

/-- Codes listed for a block in Table 16.1. -/
def pmListed (b code : Nat) : Bool :=
  decide (code ≤ 5) || (decide (b ≤ 32) && decide (0x10 ≤ code) && decide (code ≤ 0x1F))
    || (decide (33 ≤ b) && decide (b ≤ 36) && decide (0x40 ≤ code) && decide (code ≤ 0x43))
    || (b == 41 && decide (0x60 ≤ code) && decide (code ≤ 0x63)) || (b == 40 && (code == 0x70 || code == 0x71))

/-! ## The sampler (R376 to R378) -/

/-- A record of Table 16.2. -/
def Smp.word (s : Smp) : Nat :=
  let x := s.x
  let r := x.req
  let l := x.stampL
  let sn := if 0 < x.ntg then (max l x.stampS) else l
  let m := if x.stampM = 0 then l else x.stampM
  let ty := if x.ntg = 0 then 0 else match x.snp with | .cur => 1 | .data => 2 | .inv => 3
  let ca := x.toP || (match x.uioRes with | some (4, _) => true | _ => false)
  let dr := match x.tile with | some t => t.drift | none => false
  let dev := match x.tile with | some t => t.dev | none => 0
  1 + r.cls % 8 * 2 + kindOf r * 2 ^ 4 + r.row % 16 * 2 ^ 8 + (if r.cls = 7 then 0 else r.caid) * 2 ^ 12 + s.htid * 2 ^ 20 + r.line * 2 ^ 38
    + x.start.code * 2 ^ 84 + s.after * 2 ^ 87 + x.tc0.code * 2 ^ 90 + x.ntg * 2 ^ 95 + ty * 2 ^ 104 + bits x.fl 5 0 * 2 ^ 106 + b2n x.tc.isTForm * 2 ^ 112
    + b2n ca * 2 ^ 113 + b2n dr * 2 ^ 114 + bits x.fl 7 6 * 2 ^ 115 + r.t0 % 2 ^ 48 * 2 ^ 128 + stamp x.stampQ * 2 ^ 176 + stamp l * 2 ^ 186
    + stamp sn * 2 ^ 196 + stamp m * 2 ^ 206 + stamp s.ret * 2 ^ 216 + dev * 2 ^ 226 + min 255 (x.occ0 / 32) * 2 ^ 234 + x.smp.getD 0 * 2 ^ 242

/-- A ring writer: its objects, its record size and its kind of sequence (R378, R384). -/
structure Ring where
  enable : Nat
  base : Nat
  size : Nat
  head : Nat
  tail : Nat
  dropped : Nat
  bytes : Nat
  kind : SeqK
  deriving DecidableEq, Repr

/-- The sampler's ring. -/
def smpR : Ring := { enable := PM_SMP_ENABLE, base := PM_SMP_RING_BASE, size := PM_SMP_RING_SIZE, head := PM_SMP_RING_HEAD, tail := PM_SMP_RING_TAIL, dropped := PM_SMP_DROPPED, bytes := 64, kind := .smpRing }

/-- The trace unit's ring. -/
def trcR : Ring := { enable := TRC_ENABLE, base := TRC_RING_BASE, size := TRC_RING_SIZE, head := TRC_RING_HEAD, tail := TRC_RING_TAIL, dropped := TRC_DROPPED, bytes := 32, kind := .trcRing }

/-- Byte address of the slot at HEAD. -/
def Chip.slotAddr (c : Chip) (r : Ring) : Nat := c.ob r.base + r.bytes * (c.ob r.head % c.ob r.size)

/-- Records in the ring. -/
def Chip.ringUsed (c : Chip) (r : Ring) : Nat := (c.ob r.head + 2 ^ 32 - c.ob r.tail) % 2 ^ 32

/-- The writer moves the oldest record where the ring has room and no write of it runs (R378, R381). -/
def Chip.ringStart (c : Chip) (r : Ring) (some_ : Bool) : Chip :=
  if !some_ ∨ c.ob r.size = 0 ∨ c.ringUsed r = c.ob r.size ∨ c.eng.foghorn ∨ (c.eng.seqs.any fun s => s.kind == r.kind) then c
  else
    let a := c.slotAddr r / 64
    c.e fun e => e.newSeq r.kind (a / 64 % 4) 4 none [[{ op := if r.bytes = 64 then .wr else .mwr, addr := a }]]

/-- Both ring writers go on. -/
def Chip.rings (c : Chip) : Chip := (c.ringStart smpR (!c.pm.smpBuf.isEmpty)).ringStart trcR (!c.pm.trc.isEmpty)

/-- The bytes of a number, least significant first. -/
def natBytes (n k : Nat) : List (BitVec 8) := (List.range k).map fun i => BitVec.ofNat 8 (n / 2 ^ (8 * i))

/-- A write of a ring has ended: HEAD rises, and a refused or failed write has lost its record (R82, R378). -/
def Chip.ringEnd (c : Chip) (r : Ring) (s : DSeq) : Chip :=
  let lost := s.refused || s.wbad
  let c := c.e fun e => (if lost then e.inc r.dropped else e).endSeq s.id
  c.set r.head 0 ((c.ob r.head + 1) % 2 ^ 32)

/-- The bytes of a record land in their slot, unless the write was refused or failed (R82). -/
def Chip.ringPut (c : Chip) (r : Ring) (s : DSeq) (bytes : List (BitVec 8)) : Chip :=
  if s.refused || s.wbad then c
  else (c.k fun k => { k with dram := putBytes (c.slotAddr r) bytes k.dram }).e fun e => { e with fresh := e.fresh + 1 }

/-- RING_WRITE_COMPLETE of the sampler's ring (`trc` false) or of the trace unit's. -/
def Chip.ringDone (c : Chip) (trc : Bool) : Chip :=
  let r := if trc then trcR else smpR
  match c.eng.seqs.find? fun s => s.kind == r.kind && s.locked && s.out == 0 && !s.pend && s.stages.isEmpty && decide (0 < s.ph) with
  | none => c
  | some s =>
    let bytes := if trc then natBytes (Config.traceRecord s.id).toNat 32 else natBytes (c.pm.smpBuf.headD 0).toNat 64
    let c := c.ringPut r s bytes
    Chip.rings ((c.ringEnd r s).q fun p =>
      if trc then { p with trc := p.trc.drop 1 } else { p with smpBuf := p.smpBuf.drop 1, flush := p.flush.map fun n => n - 1 })

/-- SAMPLER_RECORD: the oldest record on its way reaches stop 46 (R378). -/
def Chip.smpArrive (c : Chip) : Chip :=
  match c.pm.smpWay with
  | [] => c
  | w :: ws =>
    let full := decide (16384 ≤ c.pm.smpBuf.length)
    let c := if full then c.e fun e => e.inc PM_SMP_DROPPED else c
    Chip.rings (c.q fun p =>
      { p with smpWay := ws, smpBuf := if full then p.smpBuf else p.smpBuf ++ [w], flush := if p.flush = some 0 then none else p.flush })

/-- PM_SMP_FLUSH (R378). -/
def Chip.smpFlush (c : Chip) : Chip := c.q fun p => { p with flush := some p.smpBuf.length }

/-- PM_SMP_BUFFERED. -/
def Chip.smpBuffered (c : Chip) : Nat := match c.pm.flush with | some n => n | none => c.pm.smpBuf.length

/-! ## Histograms (R379, R380) -/

/-- Bin of a latency in ns (R379). -/
def histBin (l : Nat) : Nat := if l < 16 then l / 2 else min 63 (4 * (Nat.log2 l - 4) + l / 2 ^ (Nat.log2 l - 2) % 4 + 8)

/-- Position of a key among the bins. -/
def HKey.pos (k : HKey) : Nat := (k.caid * 8 + k.cls) * 64 + k.bin

/-- One request is added to its slice's merge buffer; an entry at 255, or the oldest where a new key needs one, is sent. -/
def Pm.hist (p : Pm) (slice : Nat) (k : HKey) : Pm :=
  let mine := p.merges.filter fun m => m.slice == slice
  match mine.find? fun m => m.key == k with
  | some m =>
    if 254 ≤ m.count then { p with merges := p.merges.erase m, histWay := p.histWay ++ [(k, m.count + 1)] }
    else { p with merges := updFirst (fun n => n == m) (fun n => { n with count := n.count + 1 }) p.merges }
  | none =>
    let p := if 64 ≤ mine.length then
        (match mine with
          | m :: _ => { p with merges := p.merges.erase m, histWay := p.histWay ++ [(m.key, m.count)] }
          | [] => p)
      else p
    { p with merges := p.merges ++ [({ slice := slice, key := k, count := 1 } : HMerge)] }

/-- A slice sends its merged increments (R380). -/
def Pm.histFlush (p : Pm) (slice : Nat) : Pm :=
  { p with histWay := p.histWay ++ ((p.merges.filter fun m => m.slice == slice).map fun m => (m.key, m.count)), merges := p.merges.filter fun m => m.slice != slice }

/-- HIST_MERGE_FLUSH at a slice, 10 µs after the last one; the histograms stop under Foghorn (R380, R381). -/
def Chip.histSend (c : Chip) (slice : Nat) : Chip :=
  if c.eng.foghorn ∨ c.eng.ts < kget 0 slice c.pm.mergeAt + 10000 then c
  else c.q fun p => { p.histFlush slice with mergeAt := kput slice c.eng.ts p.mergeAt }

/-- HIST_INCREMENT: the oldest increment on its way is added to its bin, saturating at 56 bits, or dropped. -/
def Chip.histArrive (c : Chip) (accept : Bool) : Chip :=
  match c.pm.histWay with
  | [] => c
  | (k, n) :: t =>
    let c := c.q fun p => { p with histWay := t }
    if accept ∧ c.pmOn ∧ !c.eng.foghorn then c.q fun p => { p with bins := kput k.pos (min (2 ^ 56 - 1) (kget 0 k.pos p.bins + n)) p.bins }
    else c.e fun e => e.addObj PM_HIST_DROPPED 0 n

/-- PM_HIST_CLEAR (R380). -/
def Chip.histClear (c : Chip) : Chip := c.q fun p => { p with bins := [], merges := [], histWay := [] }

/-! ## The trace unit (R384) -/

/-- A record enters the trace FIFO, or is lost. -/
def Chip.trcPush (c : Chip) (k : TrcK) : Chip :=
  if Config.traceDepth < c.pm.trc.length then (c.e fun e => e.inc TRC_DROPPED).q fun p => { p with trcLost := p.trcLost + 1 }
  else c.q fun p => { p with trc := p.trc ++ [({ kind := k, time := c.eng.t48 } : TrcRec)] }

/-- TRC_SOURCES bit of a world's flow records. -/
def flowSrc (w : World) : Nat := match w with | .secure => 0 | .normal => 1

/-- TRACE_RECORD: a Keeper flow record, the oldest event marker waiting, or a loss marker once the FIFO has room. -/
def Chip.trace (c : Chip) (src : TrcSrc) : Chip :=
  if c.ob TRC_ENABLE ≠ 1 then c
  else match src with
    | .flow kind w =>
      if kind ≤ 3 ∧ bit (c.ob TRC_SOURCES) (flowSrc w) ∧ c.dbgOn (nonInvasive w) ∧ c.keeperUp then (c.trcPush (.flow kind w)).rings else c
    | .event =>
      match c.eng.marks with
      | [] => c
      | (b, k) :: t => ((c.e fun e => { e with marks := t }).trcPush (.event b k)).rings
    | .loss =>
      if c.pm.trcLost = 0 ∨ Config.traceDepth < c.pm.trc.length then c
      else ((c.trcPush (.loss c.pm.trcLost)).q fun p => { p with trcLost := 0 }).rings

/-! ## What the units hand to the monitor -/

/-- Records of retired contexts and answered requests leave the slices for stop 46 (R376, R379, R381). -/
def Chip.pmTake (c : Chip) : Chip :=
  let e := c.eng
  if e.smps.isEmpty ∧ e.hists.isEmpty then c
  else
    let c := { c with eng := { e with smps := [], hists := [] } }
    if !c.pmOn ∨ e.foghorn then c
    else c.q fun p =>
      let p := { p with smpWay := p.smpWay ++ e.smps.map fun s => BitVec.ofNat 512 s.word }
      e.hists.foldl (fun p (h : Nat × Nat × Nat × Nat) => p.hist h.1 { caid := h.2.1, cls := h.2.2.1, bin := histBin h.2.2.2 }) p

end Sys2Proof.Machine
end

