-- ==== Sys2Proof/Machine/Ras.lean ====
section
/-! DEFINITION. Sys2Proof/Machine/Ras.lean: scrubbing, words that keep failing, relocation, bank repair, uncorrectable words and
arbiter starvation (R297 to R304, R180), and the writes that arm and meet injected errors (R305). -/
namespace Sys2Proof.Machine
open Ob

/-! ## Queue slots, FIFO words and staging buffers beyond correction (R304, Table 12.4) -/

/-- A header slot's word is lost: the entry is discarded, and a response whose header it was is not sent; the flow that owned it
ends by its timeouts. -/
def Eng.headerLost (e : Eng) (gid : Nat) : Eng :=
  let e := { e with qf := e.qf.filter (fun (q : QEnt) => q.req.gid != gid), lineq := e.lineq.filter (fun (q : QEnt) => q.req.gid != gid),
                    outq := e.outq.filter (fun (o : OEnt) => o.gid != gid || o.grp != 0),
                    ctxs := e.ctxs.map fun (x : Ctx) => if x.req.gid = gid then { x with answered := true } else x }
  e.freeSlots gid

/-- A data slot's word is lost: the data are poisoned. -/
def Eng.slotDataLost (e : Eng) (gid : Nat) : Eng :=
  let pois (r : Req) : Req := if r.gid = gid then { r with poison := true } else r
  { e with qf := e.qf.map (fun (q : QEnt) => { q with req := pois q.req }), lineq := e.lineq.map (fun (q : QEnt) => { q with req := pois q.req }),
           outq := e.outq.map (fun (o : OEnt) => if o.gid = gid ∧ o.cls = 4 then { o with beat := { o.beat with poison := true } } else o),
           ctxs := e.ctxs.map fun (x : Ctx) => { x with req := pois x.req, wbs := x.wbs.map fun (w : Wb) => { w with req := pois w.req } } }

/-- A queue slot's word is lost. -/
def Eng.slotLost (e : Eng) (unit word : Nat) : Eng :=
  match e.slots.find? fun q => e.sliceNum q.slice == unit && q.at_ word with
  | some q => if q.data then e.slotDataLost q.gid else e.headerLost q.gid
  | none => e

/-- A spill-buffer word is lost: the sector's set is tainted (R159). -/
def Eng.spillLost (e : Eng) (s : Spill) : Eng :=
  let e := { e with spill := e.spill.filter fun (t : Spill) => decide (t ≠ s) }
  (e.addObj TAINT_POISONED 0 (live s.l)).addTaint 0 (e.sliceNum s.slice) (sfaSet e.sfKey s.psn)

/-- A DRAM command is lost: it keeps a tag and ends by its timeout (R49). -/
def Eng.dcmdLost (e : Eng) (c : DCmd) : Eng :=
  let lost (t : Nat) (e : Eng) : Eng :=
    Eng.dramPresent { e with dcmds := e.dcmds.erase c, dopen := e.dopen ++ [({ ch := c.ch, tag := t, seq := c.seq, a := c.a, taken := e.ts } : DOpen)] } c.ch
  match c.tag, e.pick (e.freeTags c.ch) with
  | some t, _ => lost t e
  | none, some (t, e) => lost t e
  | none, none => e

/-- A FIFO's word is lost. A backing beat that is lost counts as taken, and its access ends by its timeout (R115). -/
def Eng.fifoLost (e : Eng) (unit word : Nat) : Eng :=
  match e.spill.find? fun s => e.sliceNum s.slice == unit && fifoWord 0 s.sector == word with
  | some s => e.spillLost s
  | none =>
    if e.waiters.any fun w => e.sliceNum w.slice == unit && fifoWord 1 w.sector == word then e.foghornMark 0x04 unit
    else match e.outq.find? fun o => o.at_ == unit && o.grp == 2 && fifoWord 2 o.id == word with
      | some o => Eng.present ({ e with outq := e.outq.filter fun (p : OEnt) => p.id != o.id }.accTaken o) o.at_ o.grp
      | none =>
        match e.dcmds.find? fun c => fifoWord 3 (c.seq * 2 ^ 40 + c.a.addr) == word with
        | some c => e.dcmdLost c
        | none =>
          -- a beat or message is discarded, and its flow ends by its timeouts (Table 12.4)
          { e with stages := e.stages.filter fun (s : Nat × Nat × Req) => !(fifoUnit s.1 == unit && fifoWord 4 s.2.2.gid == word) }

/-- A staging buffer's word is lost: its channel halts. -/
def Eng.stagingLost (e : Eng) (word : Nat) : Eng :=
  match e.chans.find? fun c => stgHolds c.ch word with
  | some c => (e.haltChan c.ch).abortStep c.ch
  | none => e

/-! ## Uncorrectable words found by the scrubber (R304, Table 12.4) -/

/-- A lease entry with a word beyond correction becomes Broken with cause 6 and owner 0. Its generation is kept where word 0 can be read, and
is a free value where that word is the one lost. R210 says nothing of its term and its deadline: the model sets both to 0, as of a lease
that no term runs in (DESIGN CHOICE, log entry 55). -/
def Eng.leaseLost (e : Eng) (l : Nat) (x : Lease) (word0 : Bool) : Eng :=
  let (g, e) := if word0 then (x.gen, e) else (Config.choice e.fresh % 2 ^ 32, { e with fresh := e.fresh + 1 })
  (e.putLease l { lease0 with st := .broken, cause := 6, gen := g, since := e.ts } true false).1

/-- The outcome of Table 12.4 for a word that the scrubber found beyond correction. -/
def Eng.wordLost (e : Eng) (store unit word : Nat) : Eng :=
  if store = 0 then (match e.sfaAt unit word with | some w => e.sfaLost w | none => e)
  else if store = 1 then
    match e.ctxs.find? fun x => e.sliceNum x.slice == unit && (ctxWord x.idx 0 == word || ctxWord x.idx 1 == word) with
    | none => e
    | some x => if ctxWord x.idx 0 = word then e.foghornMark 0x03 unit else e.entryLost x
  else if store = 2 then e.slotLost unit word
  else if store = 0xC then e.fifoLost unit word
  else if store = 0xE then e.stagingLost word
  else if store = 4 then (match e.dataAt unit word with | some (w, k) => e.hdcDataLost w k | none => e)
  else if store = 5 then (match e.tagAt unit word with | some w => e.hdcTagLost w | none => e)
  else if store = 0xD then
    let e : Eng := { e with pred := e.pred.filter (fun (p : Pred) => !(e.sliceNum p.slice == unit && tblWord 4 p.line == word)),
                            streams := e.streams.filter (fun (s : Stream) => !(e.sliceNum s.slice == unit && tblWord 2 (s.caid * 2 ^ 12 + s.tile % 2 ^ 12) == word)),
                            echo := e.echo.filter (fun (x : Echo) => !(e.sliceNum x.slice == unit && tblWord 1 x.line == word)),
                            unitDbs := e.unitDbs.filter (fun (u : Nat × Nat) => tblWord 3 u.1 != word), unitHeat := e.unitHeat.filter (fun (u : Nat × Nat) => tblWord 3 u.1 != word) }
    (e.leases.filter fun p => leaseWord p.1 0 == word || leaseWord p.1 1 == word).foldl (fun e p => e.leaseLost p.1 p.2 (leaseWord p.1 0 != word)) e
  else if store = 0x10 then e.foghornMark 0x05 unit
  else e

/-! ## Scrub (R298) -/

/-- Order of a word in the pass of the SFA group. -/
def wordKey (b : BitErr) : Nat := b.store * 2 ^ 45 + b.unit * 2 ^ 40 + b.word

/-- The store belongs to the SFA group's pass. -/
def scrubGroup (store : Nat) : Bool := store == 0 || store == 1 || store == 2 || store == 3 || store == 4 || store == 5 || store == 0xC || store == 0xD || store == 0xE || store == 0x10

/-- A pass of the SFA group halves every pressure counter (R140). -/
def Eng.pressureHalve (e : Eng) : Eng :=
  { e with pressure := (e.pressure.map fun p => (p.1, p.2 / 2)).filter fun (p : Nat × Nat) => p.2 != 0 }

/-- A pass has ended: its count rises, and entries rewritten before it that have not failed again leave the repeat tables
(R298, R299 step 5). -/
def Eng.passEnd (e : Eng) (g : Nat) : Eng :=
  let e := { (e.inc RAS_SCRUB_PASSES g) with ras := { e.ras with scrub := kput g 0 e.ras.scrub } }
  Eng.repeatsPass (if g = 0 then e.pressureHalve else e) g

/-- The next failing word of the SFA group's pass, at or past its position. -/
def Eng.nextErr (e : Eng) : Option BitErr :=
  match e.errs.filter fun b => scrubGroup b.store && decide (kget 0 0 e.ras.scrub ≤ wordKey b) with
  | [] => none
  | h :: t => some (t.foldl (fun m b => if wordKey b < wordKey m then b else m) h)

/-- A word read by a pass or a copy: a corrected value is written back, an uncorrectable word is written and meets Table 12.4
(R298, R302, R304). -/
def Eng.healWord (e : Eng) (b : BitErr) : Eng :=
  match e.eccRead b.store b.unit b.word true with
  | (e, true) => (e.eccWrite b.store b.unit b.word).wordLost b.store b.unit b.word
  | (e, false) => e.eccWrite b.store b.unit b.word

/-- A step of the SFA group's pass. Reading a word without error changes nothing, so the pass goes from one failing word to the
next (log entry 29). -/
def Eng.scrubWord (e : Eng) : Eng :=
  match e.nextErr with
  | none => e.passEnd 0
  | some b => Eng.healWord { e with ras := { e.ras with scrub := kput 0 (wordKey b + 1) e.ras.scrub } } b

/-- A step of the DBS pass: the next written page is read whole under its lock. -/
def Eng.scrubPage (e : Eng) : Eng :=
  if e.seqs.any fun s => match s.kind with | .scrub .. => true | _ => false then e
  else
    let pos := kget 0 1 e.ras.scrub
    match (ascend (e.dbs.map fun q => q.page)).find? fun p => decide (pos ≤ p) with
    | none => e.passEnd 1
    | some p =>
      let e := { e with ras := { e.ras with scrub := kput 1 (p + 1) e.ras.scrub } }
      e.newSeq (.scrub (pageCh p) p) (pageCh p) 3 (some p) [rds (e.wholeDbs p)]

/-- SCRUB_STEP of the SFA group (0) or the DBS (1); under Foghorn scrubbing stops (R309). -/
def Eng.scrubStep (e : Eng) (g : Nat) : Eng := if e.foghorn then e else if g = 0 then e.scrubWord else e.scrubPage

/-! ## Words that keep failing (R299, R300) -/

/-- REPEAT_REWRITE: the corrected value is written back at the scrubber's next free slot (R299 step 3). -/
def Eng.repeatRewrite (e : Eng) (store unit word : Nat) : Eng :=
  match e.repeatOf store unit word with
  | none => e
  | some r =>
    if r.rewritten ∨ r.count < e.ob RAS_REWRITE_AT ∨ e.foghorn then e
    else
      let r := { r with rewritten := true, count := 0, mark := e.passes store }
      let e := { e with ras := { e.ras with repeats := updFirst (fun (q : Repeat) => q.store == store && q.unit == unit && q.word == word) (fun _ => r) e.ras.repeats } }
      if store = 8 then
        let p := (word - e.ob DBS_BASE) / 4096
        if (e.page p).isNone then e
        else
          let id := e.fresh
          let e := e.newSeq (.scrub (pageCh p) p) (pageCh p) 3 (some p) [rds (e.wholeDbs p)]
          e.updSeq id fun s => { s with corr := true }
      else e.eccWrite store unit word

/-- A word's relocation is logged and its sticky record leaves the queue (R300). -/
def Eng.relocated (e : Eng) (unit store word : Nat) : Eng :=
  Eng.rasEntry { e with ras := { e.ras with stuck := e.ras.stuck.erase (unit, store, word) } } store 4 unit word 0 0

/-- The way of a sticky SFA entry is disabled, and its sector moves to another way of the set once the way is unpinned (Table 12.3). -/
def Eng.relocSfa (e : Eng) (unit word : Nat) (w : SfaWay) : Eng :=
  if e.pinned w then e
  else
    let off := { e with wayOff := e.wayOff ++ [(0, w.slice, w.set, w.way)] }
    match off.pickWay w.slice w.set with
    | none => e
    | some (way, old) =>
      let rank := match old with | some o => o.rank | none => 15
      let e1 := match old with | some o => off.spillOut o | none => off
      let e1 := { e1 with sfa := e1.sfa.filter fun (v : SfaWay) => !(v.slice == w.slice && v.set == w.set && v.way == w.way) }
      (e1.install w.slice w.sector w.psn w.set way rank w.l w.dbs w.dirty w.slot).relocated unit 0 word

/-- The HDC way of a sticky tag or data word is disabled once it holds no dirty line and no line in H; dirty lines leave by
write-back (Table 12.3). -/
def Eng.relocHdc (e : Eng) (unit store word : Nat) (w : HWay) : Eng :=
  if w.lh.any id ∨ !w.resv.isEmpty then e
  else if !(dirtyLines w).isEmpty then
    let ls := (dirtyLines w).map fun k => w.sector * 4 + k
    let new := ls.filter fun l => !(e.evb.any fun v => v.slice == w.slice && v.line == l && !v.inBuf)
    Eng.startWbacks { e with evb := e.evb ++ new.map fun (l : Nat) => ({ slice := w.slice, line := l, data := 0, inBuf := false, ctx := none } : EvLine) }
  else
    Eng.relocated { e with hdc := e.hdc.filter (fun (v : HWay) => !(v.slice == w.slice && v.set == w.set && v.way == w.way)), wayOff := e.wayOff ++ [(5, w.slice, w.set, w.way)] } unit store word

/-- A burst enters its channel's avoid list of 64, the oldest leaving a full one (Table 12.3). -/
def Eng.shun (e : Eng) (unit word p b : Nat) : Eng :=
  let here := e.ras.avoid.filter fun a => a.1 == pageCh p
  let avoid := (here ++ [(pageCh p, p, b)]).drop (here.length + 1 - 64) ++ e.ras.avoid.filter fun a => a.1 != pageCh p
  Eng.relocated { e with ras := { e.ras with avoid := avoid } } unit 8 word

/-- The sector of a sticky DBS entry leaves its burst and is placed again, and the burst is shunned (Table 12.3). -/
def Eng.relocDbs (e : Eng) (unit word : Nat) : Eng :=
  let p := (word - e.ob DBS_BASE) / 4096
  let b := (word - e.ob DBS_BASE) % 4096 / 64 - 4
  if (word - e.ob DBS_BASE) % 4096 < 256 then e.relocated unit 8 word
  else match e.page p with
    | none => e.shun unit word p b
    | some q =>
      match q.bursts.find? fun x => x.b == b with
      | none => e.shun unit word p b
      | some x =>
        let s := e.owner (x.sector * 4)
        let busy := (e.spillFind s x.sector).isSome || (e.fills.any fun f => f.slice == s && f.sector == x.sector) || e.lockHeld p
        match e.sfaFind s x.sector with
        | some w =>
          if busy then e
          else
            let e := { e with sfa := updFirst (fun (v : SfaWay) => v.slice == w.slice && v.set == w.set && v.way == w.way) (fun v => { v with dbs := false, dirty := true, slot := 0 }) e.sfa }
            ((e.setPage (q.free b)).unitDbsAdd x.psn false).shun unit word p b
        | none =>
          if busy ∨ 16 ≤ e.spillUsed s then e
          else
            let e := (e.setPage (q.free b)).unitDbsAdd x.psn false
            Eng.shun { e with spill := e.spill ++ [({ slice := s, sector := x.sector, psn := x.psn, l := x.l, kind := .placement, dbs := false, slot := 0, seq := none, chosen := none, back := false } : Spill)] } unit word p b

/-- RELOCATE_STICKY of a word (R300, Table 12.3). A slot, entry or FIFO word is withheld; an entry of fixed index, a lease or a mooring-unit
counter, has no other to take its place and stays in use (log entry 60). -/
def Eng.relocate (e : Eng) (unit store word : Nat) : Eng :=
  if !e.ras.stuck.contains (unit, store, word) ∨ e.foghorn then e
  else if store = 0 then
    match e.sfaAt unit word with
    | none => e.relocated unit store word
    | some w => e.relocSfa unit word w
  else if store = 1 then
    match (List.range 8192).find? fun i => ctxWord i 0 == word || ctxWord i 1 == word with
    | none => e.relocated unit store word
    | some i => Eng.relocated { e with wayOff := e.wayOff ++ [(1, unit, 0, i)] } unit store word
  else if store = 4 ∨ store = 5 then
    match (if store = 5 then e.tagAt unit word else (e.dataAt unit word).map fun p => p.1) with
    | none => e.relocated unit store word
    | some w => e.relocHdc unit store word w
  else if store = 8 then e.relocDbs unit word
  else match e.offKind store unit word with
    | some k => Eng.relocated { e with wayOff := e.wayOff ++ [(store, unit, k, word)] } unit store word
    | none => e.relocated unit store word

/-! ## Bank repair (R302) -/

/-- State of a bank (RAS_BANK_STATE): 1 spare, 2 in use, 4 retired. -/
def Eng.setBank (e : Eng) (b v : Nat) : Eng := e.set (RAS_BANK_STATE + b / 256) (b % 256) v

/-- A disabled way, withheld index or withheld word holds a word of a bank (log entry 14). -/
def offIn (bank : Nat) (w : Nat × Nat × Nat × Nat) : Bool :=
  let at_ (x : Nat) : Bool := bits x 23 14 == bank
  if w.1 = 0 then at_ (sfaWord w.2.2.1 w.2.2.2) else if w.1 = 1 then at_ (ctxWord w.2.2.2 0) || at_ (ctxWord w.2.2.2 1)
  else if w.1 = 5 then at_ (hdcTagWord w.2.2.1 w.2.2.2) else at_ w.2.2.2

/-- BANK_COPY_DONE: reads switch to the spare, the old bank powers off, and errors of its words have gone with it (R302 step
3), and so have its entries of the sticky tables (R300). Uncorrectable words that the copy finds meet Table 12.4. -/
def Eng.bankDone (e : Eng) : Eng :=
  match e.ras.bank with
  | none => e
  | some c =>
    if e.foghorn then e
    else
      let mine := e.errs.filter fun b => scrubGroup b.store && bits b.word 23 14 == c.bank
      let e := mine.foldl (fun e b => e.healWord b) e
      let e := (e.setBank c.bank 4).setBank c.spare 2
      let e := (e.set RAS_SPARES_LEFT 0 (e.ob RAS_SPARES_LEFT - 2 ^ 16)).set RAS_RETIRE_BUSY 0 0
      let e := e.rasEntry 0 5 0 (c.bank * 2 ^ 14) 0 0
      { e with wayOff := e.wayOff.filter (fun w => !offIn c.bank w), ras := { e.ras with bank := none, stuck := e.ras.stuck.filter fun (s : Nat × Nat × Nat) => !(scrubGroup s.2.1 && bits s.2.2 23 14 == c.bank) } }

/-! ## Injection (R305) -/

/-- An outbound beat newly presented at the port an injection names (R305). -/
def beatMeets (old : Eng) (b : BitErr) (o : OEnt) : Bool := o.at_ == b.unit && o.presented && !(old.outq.any fun p => p.id == o.id && p.presented)

/-- A DRAM write newly presented of the burst that holds the word or the page bytes an injection names (R305). -/
def cmdMeets (old : Eng) (b : BitErr) (c : DCmd) : Bool :=
  c.tag.isSome && c.a.op != .rd && c.a.addr == b.word / 64 && !(old.dcmds.any fun d => d.seq == c.seq && d.a == c.a && d.tag.isSome)

/-- Parts of the engine that a store's words hold differ between two states: a write reached the store's word. Where the layout
of words is not the spec's, a write to the unit's structure is taken as one to the word (log entry 14). -/
def Eng.wrote (old new : Eng) (b : BitErr) : Bool :=
  let here (s : Nat) : Bool := new.sliceNum s == b.unit
  if b.store = 0 then new.sfa.any fun w => here w.slice && sfaWord w.set w.way == b.word && !old.sfa.contains w
  else if b.store = 1 then new.ctxs.any fun x => here x.slice && (ctxWord x.idx 0 == b.word || ctxWord x.idx 1 == b.word) && !old.ctxs.contains x
  else if b.store = 2 then new.slots.any fun q => here q.slice && q.at_ b.word && !(old.slots.any fun p => p.gid == q.gid && p.data == q.data)
  else if b.store = 4 ∨ b.store = 5 then
    new.hdc.any fun w => here w.slice && !old.hdc.contains w
      && (if b.store = 5 then hdcTagWord w.set w.way == b.word else (List.range 16).any fun j => hdcDataWord w.set w.way (j / 4) (j % 4) == b.word)
  else if b.store = 7 then new.outq.any fun o => beatMeets old b o
  else if 8 ≤ b.store ∧ b.store ≤ 0xB then new.dcmds.any fun c => cmdMeets old b c
  else if b.store = 0xC then
    (new.spill.any fun s => here s.slice && fifoWord 0 s.sector == b.word && !old.spill.contains s)
      || (new.waiters.any fun w => here w.slice && fifoWord 1 w.sector == b.word && !old.waiters.contains w)
      || (new.outq.any fun o => o.at_ == b.unit && o.grp == 2 && fifoWord 2 o.id == b.word && !(old.outq.any fun p => p.id == o.id))
      || (new.stages.any fun s => fifoUnit s.1 == b.unit && fifoWord 4 s.2.2.gid == b.word && !(old.stages.any fun p => p.2.2.gid == s.2.2.gid))
      || (new.dcmds.any fun c => fifoWord 3 (c.seq * 2 ^ 40 + c.a.addr) == b.word && !old.dcmds.contains c)
  else if b.store = 0xD then
    (new.leases.any fun p => (leaseWord p.1 0 == b.word || leaseWord p.1 1 == b.word) && !old.leases.contains p) || (new.echo.any fun x => tblWord 1 x.line == b.word && !old.echo.contains x)
      || (new.streams.any fun s => tblWord 2 (s.caid * 2 ^ 12 + s.tile % 2 ^ 12) == b.word && !old.streams.contains s)
      || (new.unitDbs.any fun u => tblWord 3 u.1 == b.word && !old.unitDbs.contains u) || (new.pred.any fun p => tblWord 4 p.line == b.word && !old.pred.contains p)
  else if b.store = 0xE then new.chans.any fun c => stgHolds c.ch b.word && !old.chans.contains c
  else if b.store = 0x10 then new.objs != old.objs
  else false

/-- An operation reads a word: the entry that the word holds is taken, changed or moved by it. The words of store 0x10 are read by every
operation that names something new, such as a beat taken or a DRAM sequence begun; the words of an SFA entry and of the HDC are read where
they are looked up (log entry 60). -/
def Eng.touched (old new : Eng) (b : BitErr) : Bool :=
  let here (s : Nat) : Bool := old.sliceNum s == b.unit
  if b.store = 1 then old.ctxs.any fun x => here x.slice && (ctxWord x.idx 0 == b.word || ctxWord x.idx 1 == b.word) && !new.ctxs.contains x
  else if b.store = 2 then
    old.slots.any fun q => here q.slice && q.at_ b.word
      && (!(new.slots.any fun p => p.gid == q.gid && p.data == q.data) || ((old.qf.any fun p => p.req.gid == q.gid) && !(new.qf.any fun p => p.req.gid == q.gid)))
  else if b.store = 0xC then
    (old.spill.any fun s => here s.slice && fifoWord 0 s.sector == b.word && !new.spill.contains s)
      || (old.waiters.any fun w => here w.slice && fifoWord 1 w.sector == b.word && !new.waiters.contains w)
      || (old.outq.any fun o => o.at_ == b.unit && o.grp == 2 && fifoWord 2 o.id == b.word && !(new.outq.any fun p => p.id == o.id && p.presented == o.presented))
      || (old.stages.any fun s => fifoUnit s.1 == b.unit && fifoWord 4 s.2.2.gid == b.word && !(new.stages.any fun p => p.2.2.gid == s.2.2.gid))
      || (old.dcmds.any fun c => fifoWord 3 (c.seq * 2 ^ 40 + c.a.addr) == b.word && !new.dcmds.contains c)
  else if b.store = 0xD then
    (old.leases.any fun p => (leaseWord p.1 0 == b.word || leaseWord p.1 1 == b.word) && !new.leases.contains p) || (old.echo.any fun x => tblWord 1 x.line == b.word && !new.echo.contains x)
      || (old.streams.any fun s => tblWord 2 (s.caid * 2 ^ 12 + s.tile % 2 ^ 12) == b.word && !new.streams.contains s)
      || (old.unitDbs.any fun u => tblWord 3 u.1 == b.word && !new.unitDbs.contains u) || (old.unitHeat.any fun u => tblWord 3 u.1 == b.word && !new.unitHeat.contains u)
      || (old.pred.any fun p => tblWord 4 p.line == b.word && !new.pred.contains p)
  else if b.store = 0xE then old.chans.any fun c => stgHolds c.ch b.word && !new.chans.contains c
  else if b.store = 0x10 then old.fresh != new.fresh
  else false

/-- Words in error that an operation has read. -/
def Eng.readWords (old new : Eng) : List BitErr := old.errs.filter fun b => Eng.touched old new b

/-- A reader reads a word: a corrected one is used, an uncorrectable one meets Table 12.4 (R297, R304). -/
def Eng.readWord (e : Eng) (b : BitErr) : Eng :=
  match e.eccRead b.store b.unit b.word false with
  | (e, true) => (e.eccWrite b.store b.unit b.word).wordLost b.store b.unit b.word
  | (e, false) => e

/-- The writes of an operation end the errors of the words they write, and meet the armed injections (R305). A beat or a DRAM write that
meets one carries its masks out of the block, where the command that reads the word back tells the error (log entry 8). -/
def Eng.injected (old new : Eng) : Eng :=
  let hit := (new.ras.armed.filter fun b => old.ras.armed.contains b && Eng.wrote old new b) ++ new.errs.filter fun b => old.errs.contains b && Eng.wrote old new b
  hit.foldl (fun e b =>
    let e := e.eccWrite b.store b.unit b.word
    if b.store = 7 then { e with errs := e.errs.erase b, outq := updFirst (fun o => beatMeets old b o) (fun o => { o with inj := b :: o.inj }) e.outq }
    else if 8 ≤ b.store ∧ b.store ≤ 0xB then { e with errs := e.errs.erase b, dcmds := updFirst (fun c => cmdMeets old b c) (fun c => { c with inj := b :: c.inj }) e.dcmds }
    else e) new

/-! ## Arbiter starvation (R180) -/

/-- Frequency of SLCLK in MHz at a performance level (Table 13.4). -/
def slMHz (level : Nat) : Nat := [2000, 1600, 1200, 800].getD level 2000

/-- Each requester of the slice arbiters, of the egress arbiters and of the DRAM channels notes when it began to assert, and forgets it where it
no longer does (R180). -/
def Eng.assertTick (e : Eng) : Eng :=
  let e := if e.qf.isEmpty then e
    else
      let as_ := e.sliceList.flatMap fun s => (e.asserting s).map fun q => q.req.gid
      { e with qf := e.qf.map fun (q : QEnt) => { q with since := if as_.contains q.req.gid then some (q.since.getD e.ts) else none } }
  let e := if e.outq.isEmpty then e
    else
      let el (o : OEnt) : Bool := decide (o.grp ≤ 1) && !o.presented && ((e.eligible (e.outAt o.at_ o.grp)).any fun p => p.id == o.id)
      { e with outq := e.outq.map fun (o : OEnt) => { o with since := if el o then some (o.since.getD e.ts) else none } }
  { e with dcmds := e.dcmds.map fun (c : DCmd) => { c with since := if c.tag.isNone then some (c.since.getD e.ts) else none } }

/-- A requester that began to assert at a time has waited past a limit, in cycles of a clock of f MHz. -/
def Eng.pastLimit (e : Eng) (row f : Nat) (since : Option Nat) : Bool :=
  match since with
  | some t => decide (e.obj ARB_STARVE_LIMIT row * 1000 < (e.ts - t) * f)
  | none => false

/-- A class of a slice's arbiter has asserted past its limit: since its first head began to, or since its last grant. -/
def Eng.clsStarving (e : Eng) (slice f : Nat) : Bool :=
  (e.asserting slice).any fun q =>
    e.pastLimit 0 f (q.since.map fun t => max t (kget 0 (clsIdx q.req.cls) (e.arb 0 slice).won))

/-- A requester of an arbiter has asserted past its limit, in its arbiter's clock: SLCLK for the slice arbiters, XBCLK of 1.6 GHz for the
ports, DRCLK of 1 GHz for DRAM (R180, Table 07.7). Rows as Table 07.7 numbers them, from 0; slices and ports by slice number. In the model no
requester of a Gallery stop or of an HDC bank waits, so that there the command itself says that one has (log entry 30). -/
def Eng.starving (e : Eng) (row inst : Nat) : Bool :=
  let f := slMHz (e.ob PWR_LEVEL_NOW)
  let here := e.sliceList.filter fun s => e.sliceNum s == inst
  if row = 0 then here.any fun s => e.clsStarving s f
  else if row = 1 then here.any fun s => (e.asserting s).any fun q => e.pastLimit 1 f q.since
  else if row ≤ 3 then e.outq.any fun o => o.at_ == inst && o.grp == row - 2 && e.pastLimit row 1600 o.since
  else if row = 4 then e.dcmds.any fun c => c.ch == inst && e.pastLimit 4 1000 c.since
  else if row = 5 then e.onRing inst
  else here != []

/-- ARB_STARVATION of an instance of an arbiter row; `cw` for the clockwise direction of a Gallery stop, which is counted only. -/
def Eng.starvation (e : Eng) (row inst : Nat) (cw : Bool) : Eng :=
  if 7 ≤ row ∨ 64 ≤ inst ∨ !e.starving row inst then e
  else
    let e := e.inc ARB_STARVE_COUNT row
    let f := e.obj ARB_STARVE_FLAG row
    if cw ∨ bit f inst then e else (e.set ARB_STARVE_FLAG row (setBit f inst)).irq 2

end Sys2Proof.Machine
end

