-- ==== Sys2Proof/Machine/Dict.lean ====
section
/-! DEFINITION. Sys2Proof/Machine/Dict.lean: reads, staging, the commit port and the object access port (R353 to R363, R392), with
the commit checks and effects that are not the coherence side's own. -/
namespace Sys2Proof.Machine
open Ob

/-! ## Reads (R353, R355, R4) -/

/-- An index and element exist in this configuration (R353). -/
def Eng.exists_ (e : Eng) (idx el : Nat) : Bool :=
  match objRow idx el with
  | none => false
  | some r => match r.lim with | .all => true | .caid => decide (el < e.c) | .slice => decide (el < e.n)

/-- The object's unit is absent in this configuration (R4, R374, Tables 11.8 and 13.2). -/
def Eng.absent (e : Eng) (idx el : Nat) : Bool :=
  (!e.isH32 && ((decide (0x7000 ≤ idx) && decide (idx ≤ 0x7FFF)) || (decide (0x8010 ≤ idx) && decide (idx ≤ 0x8027)) || idx == SPARE_SWAP
      || ((idx == PWR_SLEEP_TARGET || idx == PWR_VOTE_NS || idx == PWR_VOTE_S) && (el == 4 || el == 0x40))))
    || (decide (PM_CTR_SEL ≤ idx) && decide (idx ≤ PM_CTR_SEL + 0x2F) && !bit (e.ob PM_BLOCKS) (idx - PM_CTR_SEL))

/-- Slice whose figures a slice number's element reads. -/
def Eng.sliceOf (e : Eng) (k : Nat) : Nat := if e.ob SPARE_STATE = 2 ∧ e.ob SPARE_FOR = k then spareStop else k

/-- A log table of entries, newest first. -/
def isLog (idx : Nat) : Bool :=
  idx == STRANGER_LOG || idx == PROTO_ERR_LOG || idx == BI_TIMEOUT_LOG || idx == GUARD_FAULT_LOG || idx == DBS_OVERFLOW_LOG || idx == DRX_TRAIN_LOG
    || idx == PWR_RAIL_LOG || idx == WORLD_DENY_LOG || idx == HEAT_TOP || (decide (RAS_LOG ≤ idx) && decide (idx ≤ RAS_LOG + 0x11))

/-- Status of a re-mooring (REMOOR_STATUS). -/
def Eng.remoorStatus (e : Eng) : Nat :=
  let r := e.remoor
  r.unit + (match r.role with | .none => 0 | .releasing => 1 | .receiving => 2) * 2 ^ 16 + r.step * 2 ^ 18 + r.committed.length * 2 ^ 21

/-- A taint-list element (Table 06.9). -/
def Eng.taintEntry (e : Eng) (el : Nat) : Nat :=
  match e.taint.find? fun t => t.el == el with
  | some t => 1 + t.kind * 2 + t.slice * 2 ^ 2 + t.whr * 2 ^ 7 + t.time % 2 ^ 48 * 2 ^ 27
  | none => 0

/-- A mooring-unit counter with its check bits (Table 09.1, R292). -/
def Eng.unitCount (e : Eng) (u : Nat) : Nat :=
  let w := kget 0 u e.unitHeat % 2 ^ 33 + kget 0 u e.unitDbs * 2 ^ 33
  w + secCheck 56 8 w * 2 ^ 56

/-- Clock domains running and locked (PWR_CLK_LOCK): AONCLK always; KFIO and the clock inputs while CORE is on; the PLLs of the
core from step 7 of Table 13.7, SLCLK, GALCLK, SRCLK and PMCLK outside block sleep only; Draix by its region. -/
def Chip.clkLock (c : Chip) : Nat :=
  let awake := c.kclk && (c.pwr.slp == .awake || c.pwr.slp == .quiescing || c.pwr.slp == .arming)
  let drx := c.eng.isH32 && c.dom 4 == 0
  1 + b2n c.kpr.on * (2 + 2 ^ 8 + 2 ^ 9 + 2 ^ 16 + 2 ^ 17) + b2n (c.kclk && c.kpr.on) * 2 ^ 2 + b2n awake * (0xF * 2 ^ 3 + 2 ^ 7 + 2 ^ 10)
    + b2n (awake && c.pmOn) * 2 ^ 14 + b2n drx * (2 ^ 11 + 2 ^ 13) + b2n (drx && !c.d.locks.isEmpty) * 2 ^ 12

/-- Credits of the Draix sender (DRX_CREDITS). -/
def Drx.credits (d : Drx) : Nat :=
  (List.range 4).foldl (fun n k => n + d.res.getD k 0 % 2 ^ 7 * 2 ^ (7 * k)) 0 + d.shr % 2 ^ 10 * 2 ^ 28 + d.held.length % 2 ^ 12 * 2 ^ 38

/-- AONCLK cycles left before the secure watchdog expires (WDT_REMAIN). -/
def Chip.wdtRemain (c : Chip) : Nat := if c.pwr.wdtOn then c.wdtPeriod - c.pwr.wdtCnt else 0

/-- Value that a read returns (R355, R4). -/
def Chip.value (c : Chip) (idx el : Nat) : Nat :=
  let e := c.eng
  if e.absent idx el then objDefault e.fz idx el
  else if idx = DRX_NODE_ID then e.ob HIER_NODE_ID
  else if isLog idx then (e.log idx).getD el 0
  else if idx = DICT_STAGED then (if el = 0 then c.dic.stS.length else c.dic.stN.length)
  else if idx = DICT_EVT_QUEUED then e.evq.length
  else if idx = PWR_CLK_LOCK then c.clkLock
  else if idx = TILE_MAP_BUSY then b2n e.tileBusy
  else if idx = WATCH_IN_USE then e.occ (e.sliceOf el)
  else if idx = WATCH_QUARANTINED then e.quar.length
  else if idx = QF_HDR_FREE then e.freeCount (e.sliceOf el) false
  else if idx = QF_DATA_FREE then e.freeCount (e.sliceOf el) true
  else if idx = HDC_DIRTY_LINES then (e.hdc.map fun w => (w.ld.filter id).length).sum + (e.evb.filter fun v => v.inBuf).length
  else if idx = ATOM_H_LINES then (e.hIdle.filter fun h => !e.mirrorsLine h.line).length
  else if idx = HDC_PRELOAD_BUSY then b2n e.preload.isSome
  else if idx = DBS_PAGES_WRITTEN then e.dbs.length
  else if idx = DBS_SECTORS then (e.dbs.map fun p => p.bursts.length).sum
  else if idx = TAINT_LIST then e.taintEntry el
  else if idx = DRIFT_STATUS then e.driftStatus el
  else if idx = REMOOR_STATUS then e.remoorStatus
  else if UNIT_COUNT ≤ idx ∧ idx ≤ UNIT_COUNT + 0xFF then e.unitCount ((idx - UNIT_COUNT) * 256 + el)
  else if idx = DRX_CREDITS then c.d.credits
  else if idx = MIR_HELD then e.mirHeld
  else if idx = MIR_ADOPTED_UNITS then e.adoptedUnits
  else if idx = RAS_REMAP then
    (match e.remap.find? fun m => m.2.1 == el with
      | some m => 1 + b2n m.2.2 * 2 + m.1 * 4
      | none => 0)
  else if idx = PM_SNAP_BUSY then b2n !c.pm.snapLeft.isEmpty
  else if idx = PM_SMP_BUFFERED then c.smpBuffered
  else if PM_HIST ≤ idx then (if idx ≤ PM_HIST + 0x7FF then kget 0 ((idx - PM_HIST) * 64 + el) c.pm.bins
    else if idx = WDT_REMAIN then c.wdtRemain
    else if LEASE_STATE ≤ idx ∧ idx ≤ LEASE_STATE + 15 then leaseEntry (e.lease ((idx - LEASE_STATE) * 256 + el))
    else e.obj idx el)
  else e.obj idx el

/-- A read by a world: status, value, and the object cleared where its right is RC (Tables 15.2, 15.5). -/
def Chip.read (c : Chip) (idx el : Nat) : Nat × Nat × Chip :=
  match objRow idx el with
  | none => (7, 0, c)
  | some r =>
    if !c.eng.exists_ idx el then (7, 0, c)
    else if r.acc = .wo then (0xA, 0, c)
    else
      let v := c.value idx el
      (0, v, if r.acc = .rc then c.set idx el 0 else c)

/-- Bytes of a value: those of its type, and of a text its own (R354). -/
def valueLen (r : ObjRow) (v : Nat) : Nat := if r.ty = .str then max 1 ((Nat.log2 v + 8) / 8) else r.len

/-! ## Staging (R355, R357, R392) -/

/-- Status of the right of Table 15.2 and of the world restriction in an object's meaning (R392 stage 3). -/
def rightStatus (w : World) (r : ObjRow) (idx : Nat) : Nat :=
  match r.acc with
  | .ro | .rc => 6
  | .rws => (match w with | .secure => 0 | .normal => 5)
  | .wo =>
    (match w with
      | .normal => if idx = WORLD_HO_REFUSE then 5 else 0
      | .secure => if idx = FW_READY then 5 else 0)
  | .rw | .rwl | .w1c => 0

/-- A value that the type does not allow (R392 stage 6, R354). -/
def typeBad (r : ObjRow) (v : Nat) : Bool :=
  match r.ty with
  | .bool => decide (1 < v)
  | .addr52 => decide (2 ^ 52 ≤ v)
  | .enum => !r.vals.contains v
  | _ => false

/-- The length of a write fits the type (Table 15.1). -/
def lenOk (r : ObjRow) (len : Nat) : Bool := if r.ty = .str then decide (1 ≤ len) && decide (len ≤ 64) else len == r.len

/-- The stage checks 1 to 6 of R392, in order: 0 where they pass. -/
def Eng.checkStatus (e : Eng) (w : World) (o : OWr) (len : Nat) : Nat :=
  match objRow o.idx o.el with
  | none => 7
  | some r =>
    if !e.exists_ o.idx o.el then 7
    else if e.absent o.idx o.el then 3
    else if rightStatus w r o.idx ≠ 0 then rightStatus w r o.idx
    else if r.acc = .rwl ∧ e.rwlDone.contains o.idx then 4
    else if !lenOk r len then 8
    else if typeBad r o.val then 1
    else 0

/-- A world's staging area. -/
def Dic.area (d : Dic) (w : World) : List OWr := match w with | .secure => d.stS | .normal => d.stN

/-- A world's staging area replaced. -/
def Dic.setArea (d : Dic) (w : World) (l : List OWr) : Dic := match w with | .secure => { d with stS := l } | .normal => { d with stN := l }

/-- Two writes name the same object and element. -/
def OWr.same (a b : OWr) : Bool := a.idx == b.idx && a.el == b.el

/-- A write put into an area in place of an earlier one of the same object and element; the area is in ascending order (R357). -/
def putWr (o : OWr) : List OWr → List OWr
  | [] => [o]
  | a :: t => if o.idx < a.idx ∨ (o.idx = a.idx ∧ o.el < a.el) then o :: a :: t else if o.same a then o :: t else a :: putWr o t

/-- The area has no room for a write (R357). -/
def areaFull (o : OWr) (l : List OWr) : Bool := decide (256 ≤ l.length) && !l.any fun a => o.same a

/-- A line that an interrupt source is routed to belongs to a world. -/
def Chip.ownsSrc (c : Chip) (w : World) (s : Nat) : Bool :=
  let l := c.eng.obj WORLD_IRQ_ROUTE s
  decide (l < 16) && (c.normalLine l == (w == .normal))

/-- A W1C write that has passed its checks: WORLD_IRQ_PENDING clears what is routed to the writer's lines, and refuses the normal
world a bit of a source routed to a secure line (R340, R355). -/
def Chip.w1c (c : Chip) (w : World) (o : OWr) : Chip × Nat :=
  let old := c.eng.obj o.idx o.el
  if o.idx = WORLD_IRQ_PENDING then
    if w = .normal ∧ ((List.range 16).any fun s => bit o.val s && decide (c.eng.obj WORLD_IRQ_ROUTE s < 16) && !c.ownsSrc .normal s) then (c, 5)
    else
      let m := (List.range 16).foldl (fun m s => if bit o.val s ∧ c.ownsSrc w s then setBit m s else m) 0
      (c.set o.idx 0 (maskOff old m 32), 0)
  else (c.set o.idx o.el (maskOff old o.val 64), 0)

/-! ## Commits on their way (R358) -/

/-- Next commit number of a world: 1 follows 65,535. -/
def nextNum (n : Nat) : Nat := if n = 65535 then 1 else n + 1

/-- Commit number last used by a world. -/
def Dic.num (d : Dic) (w : World) : Nat := match w with | .secure => d.numS | .normal => d.numN

/-- A write of 1 to DICT_COMMIT: the area leaves for the commit port, where the commit arrives 1 to 4 TSCLK cycles later. -/
def Chip.commit (c : Chip) (w : World) : Chip :=
  let n := nextNum (c.dic.num w)
  let cm : Cmt := { world := w, arrival := c.eng.ts + 1 + Config.choice c.eng.fresh % 4, lead := none, num := n, ws := c.dic.area w }
  let d := (c.dic.setArea w [])
  let d : Dic := match w with | .secure => { d with numS := n } | .normal => { d with numN := n }
  Chip.e { c with dic := { d with commits := d.commits ++ [cm] } } fun e => { e with fresh := e.fresh + 1 }

/-- A commit of X alone, as the row of that name states it: the write is checked and staged in an empty area, and its commit edge
comes at once (log entry 18). -/
def soloCmt (c : Chip) (w : World) (ws : List OWr) : Cmt := { world := w, arrival := c.eng.ts, lead := some 0, num := nextNum (c.dic.num w), ws := ws }

/-- A world's access port. -/
def Dic.oap (d : Dic) (w : World) : Oap := match w with | .secure => d.oapS | .normal => d.oapN

/-- A world's access port replaced. -/
def Dic.setOap (d : Dic) (w : World) (p : Oap) : Dic := match w with | .secure => { d with oapS := p } | .normal => { d with oapN := p }

/-- The right of an object is W1C. -/
def isW1C (o : OWr) : Bool := match objRow o.idx o.el with | some r => r.acc == .w1c | none => false

/-- Stage a write, or do what a write of a W1C object, of DICT_COMMIT or of DICT_ABORT does at once (R355, R357, R358, R365). The
last part of the answer says that a commit has been sent. -/
def Chip.stage (c : Chip) (w : World) (o : OWr) (len : Nat) : Chip × Nat × Bool :=
  let st := c.eng.checkStatus w o len
  if st ≠ 0 then (c, st, false)
  else if isW1C o then
    let r := c.w1c w o
    (r.1, r.2, false)
  else if o.idx = DICT_COMMIT then (if o.val = 1 then (c.commit w, 0, true) else (c, 0, false))
  else if o.idx = DICT_ABORT then ((if o.val = 1 then { c with dic := c.dic.setArea w [] } else c), 0, false)
  else
    let l := c.dic.area w
    if areaFull o l then (c, 9, false) else ({ c with dic := c.dic.setArea w (putWr o l) }, 0, false)

/-! ## The checks of a commit (R358 to R360, R345, R376) -/

/-- Unit that owns a sampler or trace object (R376). -/
def ringUnit (idx : Nat) : Option Nat :=
  if PM_SMP_ENABLE ≤ idx ∧ idx ≤ PM_SMP_FLUSH then some 0x10 else if TRC_ENABLE ≤ idx ∧ idx ≤ TRC_RING_TAIL then some 0x11 else none

/-- A world that does not own the unit of a sampler or trace object writes it (R376). -/
def Eng.notOwner (e : Eng) (w : World) (idx : Nat) : Bool := match ringUnit idx with | some u => e.unitOwner u != w | none => false

/-- A ring's SIZE: 0 or a power of two, 1,024 to 67,108,864 records. -/
def ringSizeOk (n : Nat) : Bool := n == 0 || ((List.range 17).any fun k => n == 2 ^ (10 + k))

/-- Status of a write of a ring's base, size or TAIL (Table 16.6, R378, R50). -/
def Eng.ringStatus (e : Eng) (ws : List OWr) (r : Ring) (o : OWr) : Nat :=
  let sz := e.pv ws r.size 0
  let b := e.pv ws r.base 0
  if o.idx = r.size ∨ o.idx = r.base then
    (if !ringSizeOk sz ∨ (sz ≠ 0 ∧ (b % (r.bytes * sz) ≠ 0 ∨ 2 ^ 40 < b + r.bytes * sz)) ∨ 2 ^ 40 ≤ b then 1 else 0)
  else if o.idx = r.tail then
    (if (e.ob r.head + 2 ^ 32 - e.ob r.tail) % 2 ^ 32 < (o.v + 2 ^ 32 - e.ob r.tail) % 2 ^ 32 then 1 else 0)
  else 0

/-- Status of a write of a performance or trace object (R374 to R378, Table 16.6). -/
def Chip.pmStatus (c : Chip) (ws : List OWr) (o : OWr) : Nat :=
  let e := c.eng
  let i := o.idx
  if PM_CTR_SEL ≤ i ∧ i ≤ PM_CTR_SEL + 0x2F then (if pmListed (i - PM_CTR_SEL) o.v then 0 else 1)
  else if i = PM_SNAP then (if o.val = 1 ∧ !c.pm.snapLeft.isEmpty then 2 else 0)
  else if i = PM_SMP_INTERVAL ∨ i = PM_SMP_JITTER then (if e.pv ws PM_SMP_INTERVAL 0 < 2 ^ e.pv ws PM_SMP_JITTER 0 then 1 else 0)
  else if PM_SMP_RING_BASE ≤ i ∧ i ≤ PM_SMP_RING_TAIL then e.ringStatus ws smpR o
  else if TRC_RING_BASE ≤ i ∧ i ≤ TRC_RING_TAIL then e.ringStatus ws trcR o
  else 0

/-- Sources that only the secure world may have, and that only the normal world may have (Table 14.3). -/
def secureOnly (s : Nat) : Bool := s == 1 || s == 4 || s == 5 || s == 6 || s == 8 || s == 14

/-- Status of a WORLD_IRQ_ROUTE write (R340). -/
def Chip.routeStatus (c : Chip) (w : World) (o : OWr) : Nat :=
  if 16 ≤ o.v ∧ o.v ≠ 0xFF then 1
  else if w = .normal ∧ (secureOnly o.el ∨ (o.v < 16 ∧ !c.normalLine o.v)) then 5
  else if o.v < 16 ∧ ((secureOnly o.el ∧ c.normalLine o.v) ∨ ((o.el = 7 ∨ o.el = 9) ∧ !c.normalLine o.v)) then 1
  else 0

/-- Status of a write of a world, watchdog, debug or firmware object (R340 to R352). -/
def Chip.worldStatus (c : Chip) (w : World) (o : OWr) : Nat :=
  let i := o.idx
  if i = WORLD_HO_REQ then c.eng.hoReqStatus w o.val
  else if i = WORLD_HO_RELEASE then c.hoReleaseStatus w o.val
  else if i = WORLD_HO_REFUSE then c.hoRefuseStatus o.val
  else if i = WORLD_IRQ_ROUTE then c.routeStatus w o
  else if i = WDT_ENABLE then (if o.v = 0 ∧ c.ob WDT_ENABLE = 1 then 1 else 0)
  else if i = WDT_WARN then (if o.v = 0 ∨ (10 ≤ o.v ∧ o.v ≤ 90) then 0 else 1)
  else if i = FW_MIN_SVN then (if o.v < c.ob FW_MIN_SVN then 1 else 0)
  else if i = FW_STAGE_BASE then (if o.v % 2 ^ 20 ≠ 0 ∨ 2 ^ 40 < o.v + 2 ^ 21 then 1 else 0)
  else if i = FW_ACTIVATE then
    (if o.val = 1 ∧ !(c.ob FW_STATUS = 0 ∨ c.ob FW_STATUS = 5 ∨ c.ob FW_STATUS = 6 ∨ c.ob FW_STATUS = 7) then 2 else 0)
  else if i = FW_READY then (if c.ob FW_STATUS ≠ 4 then 2 else 0)
  else 0

/-- Status of a write of a mirror or hierarchy object (R285, R286, Table 11.8). -/
def Chip.hierStatus (c : Chip) (o : OWr) : Nat :=
  let e := c.eng
  let i := o.idx
  let m := e.ob MIR_STATE
  if i = HIER_NODE_ID then (if e.ob DRX_STATE = 0 ∨ e.ob DRX_STATE = 6 then 0 else 2)
  else if i = HIER_MAP_SET then (if !e.isManager then 1 else if m = 4 ∨ m = 5 then 2 else 0)
  else if i = MIR_SWAP then
    (if m ≠ 2 ∨ (e.remoor.role ≠ .none ∧ e.remoor.unit = o.val) ∨ e.mswap.isSome then 2
     else if bits (e.mapEntry o.val) 7 0 ≠ e.ob HIER_NODE_ID then 1 else 0)
  else if i = MIR_FORCE_SOLO then (if o.val = 1 ∧ m ≠ 4 then 2 else 0)
  else 0

/-- A tile-map write or fill would touch entries of a unit this instance mirrors (R267). -/
def Eng.touchesMirrored (e : Eng) (o : OWr) : Bool :=
  let first := bits o.val 31 0 / 512
  let last := if o.idx = TILE_MAP_WRITE then first else (bits o.val 31 0 + bits o.val 63 32 - 1) / 512
  (o.idx == TILE_MAP_WRITE || (o.idx == TILE_MAP_FILL && bits o.val 63 32 != 0)) && e.ob HIER_NODE_ID != 0xFF
    && e.objs.any fun p => decide (HIER_MAP * 256 + first ≤ p.1) && decide (p.1 ≤ HIER_MAP * 256 + min last 65535) && bits p.2 15 8 == e.ob HIER_NODE_ID

/-- No Drift, re-mooring, handoff or swap starts while Keeper is away or updates its firmware (R232, R351, Table 01.3). -/
def Chip.placePaused (c : Chip) : Bool := !c.keeperUp || c.updating

/-- A write starts placement work. -/
def isPlaceCmd (i : Nat) : Bool := i == DRIFT_START || i == REMOOR_REQUEST || i == BUCKET_MOVE || i == SPARE_SWAP

/-- Status of one write at its commit edge: 0 where every check passes (R358). -/
def Chip.writeStatus (c : Chip) (w : World) (ws : List OWr) (o : OWr) : Nat :=
  let e := c.eng
  let i := o.idx
  let st := e.wrStatus ws o
  if w = .normal ∧ (e.denied (e.pv ws) o).isSome then 5
  else if e.notOwner w i then 5
  else if e.unitResetting o then 2
  else if st ≠ 0 then st
  else if isPlaceCmd i ∧ c.placePaused then 2
  else if e.touchesMirrored o then 2
  else if 0x1000 ≤ i ∧ i ≤ 0x1FFF then c.pwrStatus o
  else if 0x7000 ≤ i ∧ i ≤ 0x7FFF then Lnk.status { eng := e, d := c.d, ind := [] } o
  else if 0x8000 ≤ i ∧ i ≤ 0x8FFF then c.hierStatus o
  else if (0xA000 ≤ i ∧ i ≤ 0xAFFF) ∨ (TRC_ENABLE ≤ i ∧ i ≤ TAP_IDCODE) then c.pmStatus ws o
  else if (0xB000 ≤ i ∧ i ≤ 0xBFFF) ∨ (0xE000 ≤ i ∧ i ≤ 0xEFFF) then c.worldStatus w o
  else 0

/-- The first write of a commit that fails, with its status; every write fails busy under Foghorn (R358, R359). -/
def Chip.firstBad (c : Chip) (w : World) (ws : List OWr) : Option (OWr × Nat) :=
  ws.findSome? fun o =>
    let st := if c.eng.foghorn then 2 else c.writeStatus w ws o
    if st = 0 then none else some (o, st)

/-! ## The effects of a commit (R358 step 3) -/

/-- A value takes effect. -/
def Chip.applyWr (c : Chip) (o : OWr) : Chip :=
  let i := o.idx
  if 0x1000 ≤ i ∧ i ≤ 0x1FFF then c.pwrApply o
  else if 0x7000 ≤ i ∧ i ≤ 0x7FFF then c.setFab (c.fab.link fun l => l.apply o)
  else if PM_CTR_SEL ≤ i ∧ i ≤ PM_CTR_SEL + 0x2F then
    let ch := decide (c.eng.obj i o.el ≠ o.v)
    let c := c.set i o.el o.v
    if ch then c.set (PM_CTR + (i - PM_CTR_SEL)) o.el 0 else c
  else if i = HIER_NODE_ID then (let c := c.e fun e => e.applyValue o; c.setFab (c.fab.link Lnk.tryStart))
  else if i = WDT_ENABLE then c.wdtEnable o.v
  else if i = WDT_PERIOD then (c.set i 0 o.v).wdtZero
  else if i = DBG_ENABLE then (c.set i 0 (maskOff o.v (c.ob DBG_FUSE) 4)).haltCheck
  else c.e fun e => e.applyValue o

/-- A WO command starts. -/
def Chip.startWr (c : Chip) (w : World) (o : OWr) : Chip :=
  let i := o.idx
  let on := decide (o.val = 1)
  if i = PWR_FORCE_WAKE then c.forceWake o.val
  else if 0x7000 ≤ i ∧ i ≤ 0x7FFF then c.setFab (c.fab.link fun l => l.command o)
  else if i = HIER_MAP_SET then c.e fun e => e.mapChange (bits o.val 15 0) (bits o.val 47 16)
  else if i = HIER_WITNESS_CLEAR then c.setFab (c.fab.unclaim o.val)
  else if i = MIR_REJOIN then (if on then c.setFab c.fab.rejoin else c)
  else if i = MIR_SWAP then c.e fun e => e.swapBegin o.val
  else if i = MIR_UNIT_SETTLE then c.e fun e => e.settleUnit o.val
  else if i = MIR_FORCE_SOLO then (if on then c.setFab (c.fab.grantNow false) else c)
  else if i = PM_SNAP then (if on then c.snap else c)
  else if i = PM_CTR_CLEAR then c.ctrClear o.val
  else if i = PM_SMP_FLUSH then (if on then c.smpFlush else c)
  else if i = PM_HIST_CLEAR then (if on then c.histClear else c)
  else if i = WORLD_HO_REQ then c.hoReq w o.val
  else if i = WORLD_HO_RELEASE then c.hoRelease o.val
  else if i = WORLD_HO_REFUSE then c.hoRefuse o.val
  else if i = FW_ACTIVATE then (if on then c.fwActivate else c)
  else if i = FW_READY then (if on then c.fwReady else c)
  else c.e fun e => e.applyCommand o

/-- The right of an object is WO. -/
def isWO (o : OWr) : Bool := match objRow o.idx o.el with | some r => r.acc == .wo | none => false

/-- Every write of a commit that has passed takes effect: the values, then the commands (R358 step 3). -/
def Chip.applyCmt (c : Chip) (w : World) (ws : List OWr) : Chip :=
  let c := (ws.filter fun o => !isWO o).foldl (fun c o => c.applyWr o) c
  let c := (ws.filter isWO).foldl (fun c o => c.startWr w o) c
  c.voteCheck

/-- DICT_COMMIT_STATUS of a world (Table 15.10). -/
def Chip.setOutcome (c : Chip) (w : World) (num st idx el t : Nat) : Chip :=
  c.set DICT_COMMIT_STATUS (match w with | .secure => 0 | .normal => 1) (num + st * 2 ^ 16 + idx * 2 ^ 24 + el * 2 ^ 40 + t % 2 ^ 64 * 2 ^ 48)

/-- The first write that R345 refuses to the normal world is counted, logged and reported. -/
def Chip.denyLog (c : Chip) (w : World) (ws : List OWr) : Chip :=
  if w ≠ .normal then c
  else match ws.findSome? fun o => (c.eng.denied (c.eng.pv ws) o).map fun d => (o, d) with
    | none => c
    | some (o, d) => c.e fun e => e.logDenial o d.1 d.2

/-- A commit is handled at its time t (R358): all of it takes effect, or none. -/
def Chip.doCommit (c : Chip) (cm : Cmt) (t : Nat) : Chip :=
  let c1 := { c with dic := { c.dic with lastT := some t } }
  match c.firstBad cm.world cm.ws with
  | some (o, st) => (if c.eng.foghorn then c1 else c1.denyLog cm.world cm.ws).setOutcome cm.world cm.num st o.idx o.el t
  | none => (c1.setOutcome cm.world cm.num 0 0 0 t).applyCmt cm.world cm.ws

/-- Length of an object's value. -/
def rowLen (idx el : Nat) : Nat := match objRow idx el with | some r => r.len | none => 0

/-- Every write of a commit passes its stage checks (R392). -/
def Chip.stageable (c : Chip) (w : World) (ws : List OWr) : Bool := ws.all fun o => c.eng.checkStatus w o (rowLen o.idx o.el) == 0

/-- Time of a commit of its own row: now, and later than the last commit (R358, log entry 18). -/
def Chip.soloTime (c : Chip) : Nat := match c.dic.lastT with | some t => max c.eng.ts (t + 1) | none => c.eng.ts

/-- A world has used a commit number. -/
def Chip.setNum (c : Chip) (w : World) (n : Nat) : Chip :=
  { c with dic := (match w with | .secure => { c.dic with numS := n } | .normal => { c.dic with numN := n }) }

/-- A commit of X as one command (log entry 18). -/
def Chip.solo (c : Chip) (w : World) (ws : List OWr) : Chip :=
  if c.stageable w ws then (c.setNum w (nextNum (c.dic.num w))).doCommit (soloCmt c w ws) c.soloTime else c

/-- Commits that have arrived take the DICT_COMMIT_LEAD in force (R358 step 1). -/
def Chip.arrivals (c : Chip) : Chip :=
  let lead := c.ob DICT_COMMIT_LEAD
  { c with dic := { c.dic with commits := c.dic.commits.map fun (m : Cmt) => if m.lead.isNone && decide (m.arrival ≤ c.eng.ts) then { m with lead := some lead } else m } }

/-- The commit handled next: the earliest arrival, the secure world's first (R358). -/
def earliest : List Cmt → Option Cmt
  | [] => none
  | m :: t =>
    match earliest t with
    | none => some m
    | some n => if n.arrival < m.arrival ∨ (n.arrival = m.arrival ∧ n.world = .secure ∧ m.world = .normal) then some n else some m

/-- Commit time of a commit (R358 step 1). -/
def Chip.cmtTime (c : Chip) (m : Cmt) (lead : Nat) : Nat :=
  match c.dic.lastT with | some t => max (m.arrival + lead) (t + 1) | none => m.arrival + lead

/-- The port's operation ends as its world's commit has its outcome (R362). -/
def Chip.oapEnd (c : Chip) (w : World) : Chip :=
  let p := c.dic.oap w
  let st := bits (c.eng.obj DICT_COMMIT_STATUS (match w with | .secure => 0 | .normal => 1)) 23 16
  if p.busy then { c with dic := c.dic.setOap w { p with busy := false, status := st } } else c

/-- COMMIT_EDGE: the next commit is handled once its time T has come. -/
def Chip.commitEdge (c : Chip) : Chip :=
  match earliest c.dic.commits with
  | none => c
  | some m =>
    match m.lead with
    | none => c
    | some lead =>
      let t := c.cmtTime m lead
      if c.eng.ts < t then c else (Chip.doCommit { c with dic := { c.dic with commits := c.dic.commits.erase m } } m t).oapEnd m.world

/-! ## The object access port (R362) -/

/-- Keeper works in a world now, with the port's earlier operation ended. -/
def Chip.oapReady (c : Chip) (w : World) : Bool := c.keeperUp && c.kpr.world == w && !(c.dic.oap w).busy

/-- OAP_OBJ for an index, element and length (Table 15.4). -/
def oapObj (idx el len : Nat) : Nat := idx % 2 ^ 16 + el % 256 * 2 ^ 16 + len % 128 * 2 ^ 24

/-- OAP_DATA with a value of `len` bytes placed from byte 0. -/
def placeLow (d : BitVec 512) (len v : Nat) : BitVec 512 :=
  BitVec.ofNat 512 (d.toNat / 2 ^ (8 * len) * 2 ^ (8 * len) + v % 2 ^ (8 * len))

/-- Length of the value that a read returns. -/
def readLen (idx el v : Nat) : Nat := match objRow idx el with | some r => valueLen r v | none => 0

/-- An OAP_CMD read. -/
def Chip.oapRead (c : Chip) (w : World) (idx el len : Nat) : Chip :=
  let r := c.read idx el
  let c := r.2.2
  let old := (c.dic.oap w).data
  { c with dic := c.dic.setOap w { obj := oapObj idx el len, status := r.1, busy := false, data := if r.1 = 0 then placeLow old (readLen idx el r.2.1) r.2.1 else old } }

/-- An OAP_CMD stage: `len` bytes of OAP_DATA are the value. -/
def Chip.oapStage (c : Chip) (w : World) (idx el len : Nat) (data : BitVec 512) : Chip :=
  let r := c.stage w { idx := idx, el := el, val := data.toNat % 2 ^ (8 * len) } len
  let c := r.1
  { c with dic := c.dic.setOap w { obj := oapObj idx el len, status := r.2.1, busy := r.2.2, data := data } }

/-- An OAP_CMD commit. -/
def Chip.oapCommit (c : Chip) (w : World) : Chip :=
  let c := c.commit w
  { c with dic := c.dic.setOap w { c.dic.oap w with busy := true } }

/-- An OAP_CMD abort (R357). -/
def Chip.oapAbort (c : Chip) (w : World) : Chip :=
  let d := c.dic.setArea w []
  { c with dic := d.setOap w { d.oap w with status := 0, busy := false } }

end Sys2Proof.Machine
end

