-- ==== Sys2Proof/Machine/Mctp.lean ====
section
/-! DEFINITION. Sys2Proof/Machine/Mctp.lean: the MCTP endpoint, its two transports, the dictionary messages, the firmware-update
messages and the events (R53, R364 to R371). -/
namespace Sys2Proof.Machine
open Ob

/-! ## Bytes and packets -/

/-- A byte. -/
abbrev B8 := BitVec 8

/-- A byte of a number. -/
def b8 (n : Nat) : B8 := BitVec.ofNat 8 n

/-- Byte k of a message, 0 where it is shorter. -/
def at8 (m : List B8) (k : Nat) : Nat := (m.getD k 0).toNat

/-- A packet or a message is discarded and counted (DICT_REQ_DROPPED). -/
def Chip.drop (c : Chip) : Chip := c.e fun e => e.inc DICT_REQ_DROPPED

/-- Change the dictionary's paths alone. -/
def Chip.dc (c : Chip) (g : Dic → Dic) : Chip := { c with dic := g c.dic }

/-- A list cut into runs of k; `f` bounds their number. -/
def chunks {α : Type} (k : Nat) : Nat → List α → List (List α)
  | 0, _ => []
  | f + 1, l => if l.length ≤ k then [l] else l.take k :: chunks k f (l.drop k)

/-- Payload bytes of a packet of a transport: 64 on I3C (R368), 248 on the mailbox, whose packets have up to 252 (R369). -/
def Via.unit : Via → Nat
  | .i3c => 64
  | .mailbox _ => 248

/-- The packets of a message: header version, destination, source, and SOM, EOM, sequence, tag owner and tag (R364). -/
def packets (a : MAddr) (own : Nat) (msg : List B8) : List (List B8) :=
  let cs := chunks a.via.unit (msg.length + 1) msg
  cs.mapIdx fun i p =>
    let flags := b2n (i == 0) * 2 ^ 7 + b2n (i + 1 == cs.length) * 2 ^ 6 + i % 4 * 2 ^ 4 + b2n a.owner * 2 ^ 3 + a.tag % 8
    [b8 1, b8 a.eid, b8 own, b8 flags] ++ p

/-- Words of a packet on the mailbox (R369). -/
def mailWords (cookie : Nat) (p : List B8) : List (BitVec 32) :=
  BitVec.ofNat 32 (p.length + cookie % 256 * 2 ^ 8) :: (chunks 4 (p.length + 1) p).map fun q => BitVec.ofNat 32 (leNat q)

/-- The next packet's words are presented once those before it have been taken (R53). -/
def Dic.mbLoad (d : Dic) : Dic :=
  match d.mbOut, d.mbQ with
  | [], p :: t => { d with mbOut := mailWords (match p.via with | .mailbox k => k | .i3c => 0) p.bytes, mbQ := t }
  | _, _ => d

/-- A message leaves for a peer. -/
def Chip.send (c : Chip) (a : MAddr) (msg : List B8) : Chip :=
  let ps := packets a (c.ob DICT_EID) msg
  c.dc fun d =>
    match a.via with
    | .mailbox _ => Dic.mbLoad { d with mbQ := d.mbQ ++ ps.map fun p => ({ via := a.via, bytes := p } : MOut) }
    | .i3c => { d with i3cQ := d.i3cQ ++ ps }

/-- MAILBOX_OUT_WORD_TAKEN (R53). -/
def Dic.mbTaken (d : Dic) : Dic := Dic.mbLoad { d with mbOut := d.mbOut.drop 1 }

/-- Head of a dictionary message: type, vendor, ctl, cmd, cc (Table 15.6). -/
def Chip.head (c : Chip) (ctl cmd cc : Nat) : List B8 :=
  let v := c.ob DEV_MCTP_VENDOR
  [b8 0x7F, b8 (v / 2 ^ 24), b8 (v / 2 ^ 16), b8 (v / 2 ^ 8), b8 v, b8 ctl, b8 cmd, b8 cc]

/-- World bit of a message (Table 15.6). -/
def worldBit (w : World) : Nat := match w with | .secure => 64 | .normal => 0

/-- The response to a dictionary request: same tag, tag owner 0 (R364, Table 15.6). -/
def Chip.respond (c : Chip) (q : DReqQ) (cc : Nat) (body : List B8) : Chip :=
  c.send { q.addr with owner := false } (c.head (worldBit q.world + q.inst % 64) q.cmd cc ++ body)

/-! ## Control messages (R364) -/

/-- The answer to a control request: completion code and data. -/
def Chip.ctlAnswer (c : Chip) (a : MAddr) (inst cmd cc : Nat) (data : List B8) : Chip :=
  c.send { a with owner := false } ([b8 0, b8 (inst % 32), b8 cmd, b8 cc] ++ data)

/-- Set Endpoint ID: an EID that may be assigned is taken (R364). The codes of a refusal are DSP0236's (log entry 32). -/
def Chip.setEid (c : Chip) (a : MAddr) (inst : Nat) (data : List B8) : Chip :=
  let v := at8 data 1
  if data.length < 2 then c.ctlAnswer a inst 1 3 []
  else if 1 < at8 data 0 % 4 ∨ v = 0 ∨ v = 0xFF then c.ctlAnswer a inst 1 2 []
  else (c.set DICT_EID 0 v).ctlAnswer a inst 1 0 [b8 0, b8 v, b8 0]

/-- R17 of the endpoint at stop 43: something its chapter names as unsupported (log entry 59). -/
def Chip.unsup (c : Chip) (code : Nat) : Chip := c.e fun e => e.unitErr 43 code

/-- Get MCTP Version Support for a message type: MCTP 1.3 for the base specification (0xFF) and the control messages, as DSP0236 codes it; code 0x80
for a type the endpoint does not support (PRESUMED, DSP0236: log entry 32). -/
def versionAnswer (t : Nat) : Nat × List B8 :=
  if t = 0xFF ∨ t = 0 then (0, [b8 1, b8 0xF1, b8 0xF3, b8 0xFF, b8 0]) else if t = 0x7F then (0, Config.mctpVersion) else (0x80, [])

/-- A control command. -/
def Chip.control (c : Chip) (a : MAddr) (inst cmd : Nat) (data : List B8) : Chip :=
  if cmd = 1 then c.setEid a inst data
  else if cmd = 2 then c.ctlAnswer a inst cmd 0 [b8 (c.ob DICT_EID), b8 0, b8 0]
  else if cmd = 3 then c.ctlAnswer a inst cmd 0 (natBytes c.eng.fz.uuid 16)
  else if cmd = 4 then (let v := versionAnswer (at8 data 0); c.ctlAnswer a inst cmd v.1 v.2)
  else if cmd = 5 then c.ctlAnswer a inst cmd 0 [b8 2, b8 0, b8 0x7F]
  else if cmd = 6 then
    (if at8 data 0 ≠ 0 then c.ctlAnswer a inst cmd 2 []
     else
      let v := c.ob DEV_MCTP_VENDOR
      c.ctlAnswer a inst cmd 0 [b8 0xFF, b8 1, b8 (v / 2 ^ 24), b8 (v / 2 ^ 16), b8 (v / 2 ^ 8), b8 v, b8 0, b8 1])
  else (c.unsup cmd).ctlAnswer a inst cmd 5 []

/-- A control request that reaches the endpoint as one command. -/
def Chip.ctl (c : Chip) (q : Ctl) (cmd : Nat) (data : List B8) : Chip :=
  if !c.kpr.on then c
  else c.control { via := if q.i3c then .i3c else .mailbox q.cookie, eid := q.eid, tag := q.tag, owner := true } q.inst cmd data

/-! ## Events (R370, R371) -/

/-- Bytes of an event record (Table 15.9). -/
def EvRec.bytes (r : EvRec) : List B8 := natBytes r.num 4 ++ natBytes r.code 2 ++ [b8 0, b8 0] ++ natBytes r.time 8 ++ natBytes r.args 16

/-- An EVENT request to a peer. -/
def Chip.sendEvent (c : Chip) (via : Via) (eid : Nat) (r : EvRec) : Chip :=
  let t := c.dic.tag
  (c.send { via := via, eid := eid, tag := t, owner := true } (c.head (0x80 + r.num % 64) 0x10 0 ++ r.bytes)).dc fun d => { d with tag := (t + 1) % 8 }

/-- Transport on which an endpoint was last heard; the mailbox with cookie 0 where it never was (log entry 33). -/
def Dic.route (d : Dic) (eid : Nat) : Via := kget (.mailbox 0) eid d.routes

/-- Events go out: there is a manager to send them to, and the normal world runs (R370). -/
def Chip.evSends (c : Chip) : Bool := c.ob DICT_FM_EID != 0 && c.serves .normal && c.kpr.booted

/-- Send the record at the head of the queue, once more. -/
def Chip.evSend (c : Chip) : Chip :=
  match c.eng.evq with
  | [] => c
  | r :: t =>
    let fm := c.ob DICT_FM_EID
    (c.e fun e => { e with evq := { r with sends := r.sends + 1, at_ := e.ts } :: t }).sendEvent (c.dic.route fm) fm r

/-- Send the region-map notice at the head, once more: the hardware endpoint's own (R371). -/
def Chip.noticeSend (c : Chip) : Chip :=
  match c.eng.notices with
  | [] => c
  | r :: t => (c.e fun e => { e with notices := { r with sends := r.sends + 1, at_ := e.ts } :: t }).sendEvent (.mailbox 0) 0 r

/-- The record at the head has not been sent. -/
def unsentHead (l : List EvRec) : Bool := match l with | r :: _ => r.sends == 0 | [] => false

/-- Records that have not been sent, and may be, are sent: one record is outstanding at a time (log entry 33). -/
def Chip.evPump (c : Chip) : Chip :=
  let c := if c.evSends ∧ unsentHead c.eng.evq then c.evSend else c
  if c.kpr.on ∧ unsentHead c.eng.notices then c.noticeSend else c

/-- DICT_EVT_RETRY has passed since a record was last sent. -/
def Chip.retryDue (c : Chip) (r : EvRec) : Bool := decide (0 < r.sends) && decide (r.at_ + c.ob DICT_EVT_RETRY * 1000 ≤ c.eng.ts)

/-- EVENT_RETRY_EXPIRY: another send, or the record leaves after 8 (R370). -/
def Chip.evRetry (c : Chip) : Chip :=
  match c.eng.evq with
  | [] => c
  | r :: t => if !c.evSends ∨ !c.retryDue r then c else if 8 ≤ r.sends then c.e fun e => { e with evq := t } else c.evSend

/-- MAP_NOTICE_RETRY (R371). -/
def Chip.noticeRetry (c : Chip) : Chip :=
  match c.eng.notices with
  | [] => c
  | r :: _ => if c.kpr.on ∧ c.retryDue r then c.noticeSend else c

/-- EVENT_ACK of an event number, by the carrier chip itself or by a fabric manager: a record not outstanding is not acknowledged
(R370, R371). -/
def Chip.evAck (c : Chip) (num : Nat) (carrier : Bool) : Chip :=
  let out (l : List EvRec) : Bool := match l with | r :: _ => decide (0 < r.sends) && r.num == num | [] => false
  if carrier ∧ out c.eng.notices then c.e fun e => { e with notices := e.notices.drop 1 }
  else if out c.eng.evq then c.e fun e => { e with evq := e.evq.drop 1 }
  else c

/-! ## Messages in (R364 to R367) -/

/-- A dictionary request reaches its world's queue, or is answered unavailable (R366, R367). -/
def Chip.request (c : Chip) (q : DReqQ) : Chip :=
  if 16 ≤ (c.dic.reqs.filter fun r => r.world == q.world).length then c.respond q 0xD []
  else
    let c := c.dc fun d => { d with reqs := d.reqs ++ [q] }
    if q.world = .normal then c.e fun e => e.irq 10 else c

/-- A complete message (R364, R365). -/
def Chip.message (c : Chip) (a : MAddr) (m : List B8) : Chip :=
  let t := at8 m 0
  let vendor := at8 m 1 * 2 ^ 24 + at8 m 2 * 2 ^ 16 + at8 m 3 * 2 ^ 8 + at8 m 4
  if t = 0 then
    (if m.length < 3 ∨ !bit (at8 m 1) 7 then c.drop else c.control a (at8 m 1 % 32) (at8 m 2) (m.drop 3))
  else if t ≠ 0x7F then (c.unsup t).drop
  else if m.length < 7 ∨ vendor ≠ c.ob DEV_MCTP_VENDOR then c.drop
  else
    let ctl := at8 m 5
    let q : DReqQ := { world := if bit ctl 6 then .secure else .normal, addr := a, inst := ctl % 64, cmd := at8 m 6, body := m.drop 8, at_ := c.eng.ts, cmt := none }
    if !bit ctl 7 then
      (if at8 m 6 = 0x10 ∧ 12 ≤ m.length then c.evAck (leNat ((m.drop 8).take 4)) (a.via == .mailbox 0) else c.drop)
    else if m.length < 8 then c.respond q 0xC []
    else c.request q

/-- Assemblies are keyed by source EID, tag and tag owner. -/
def Asm.of (s : Asm) (a : MAddr) : Bool := s.addr.eid == a.eid && s.addr.tag == a.tag && s.addr.owner == a.owner

/-- A packet's bytes join an assembly, which ends at EOM; more than 1,100 bytes are discarded (R364). -/
def Chip.assemble (c : Chip) (s : Asm) (p : List B8) (eom : Bool) : Chip :=
  let bytes := s.bytes ++ p
  if 1100 < bytes.length then c.drop
  else if eom then c.message s.addr bytes
  else c.dc fun d => { d with asms := d.asms ++ [{ s with seq := (s.seq + 1) % 4, bytes := bytes }] }

/-- An assembly that a new first packet ends is counted. -/
def Chip.dropIf (c : Chip) (b : Bool) : Chip := if b then c.drop else c

/-- The first packet of a message (R364): an assembly of the same message that is under way is discarded and counted; a packet that
would start a ninth assembly is discarded. -/
def Chip.firstPacket (c : Chip) (a : MAddr) (old : Bool) (f : Nat) (body : List B8) : Chip :=
  let c := c.dropIf old
  if 8 ≤ c.dic.asms.length ∧ !bit f 6 then c.drop else c.assemble { addr := a, seq := bits f 5 4, bytes := [] } body (bit f 6)

/-- An MCTP packet reaches the endpoint (R364). -/
def Chip.packet (c : Chip) (via : Via) (p : List B8) : Chip :=
  let dst := at8 p 1
  let f := at8 p 3
  if p.length < 5 ∨ at8 p 0 % 16 ≠ 1 ∨ (dst ≠ 0 ∧ dst ≠ c.ob DICT_EID) then c.drop
  else
    let a : MAddr := { via := via, eid := at8 p 2, tag := f % 8, owner := bit f 3 }
    let c := c.dc fun d => { d with routes := kput a.eid via d.routes }
    let old := c.dic.asms.find? fun s => s.of a
    let c := c.dc fun d => { d with asms := d.asms.filter fun (s : Asm) => !s.of a }
    if bit f 7 then c.firstPacket a old.isSome f (p.drop 4)
    else match old with
      | none => c.drop
      | some s => if s.seq = bits f 5 4 then c.assemble s (p.drop 4) (bit f 6) else c.drop

/-- MAILBOX_PACKET: the words of one inbound packet (R53, R369). -/
def Chip.mailbox (c : Chip) (ws : List (BitVec 32)) : Chip :=
  let w0 := (ws.headD 0).toNat
  let n := w0 % 256
  if !c.kpr.on then c
  else if ws.length ≠ 1 + (n + 3) / 4 ∨ n < 5 ∨ 252 < n ∨ 64 < ws.length then c.drop
  else c.packet (.mailbox (bits w0 15 8)) (((ws.drop 1).flatMap fun w => natBytes w.toNat 4).take n)

/-! ## Serving the requests (R365 to R367) -/

/-- A request waits at the head of a world's queue, and the world's firmware, or the boot ROM, can take it up now. -/
def Chip.nextReq (c : Chip) (w : World) : Option DReqQ :=
  match c.dic.reqs.find? fun q => q.world == w with
  | some q => if c.serves w ∧ q.cmt.isNone ∧ !(c.dic.oap w).busy then some q else none
  | none => none

/-- A request leaves its queue with its response. -/
def Chip.finish (c : Chip) (q : DReqQ) (cc : Nat) (body : List B8) : Chip :=
  Chip.respond (c.dc fun d => { d with reqs := d.reqs.erase q }) q cc body

/-- Take up the request at the head of a world's queue where its command is `p`'s. `deny` is a refusal of secure firmware's own
policy (R366). -/
def Chip.serve (c : Chip) (w : World) (deny : Bool) (p : Nat → Bool) (act : Chip → DReqQ → Chip) : Chip :=
  match c.nextReq w with
  | none => c
  | some q => if !p q.cmd then c else if deny ∧ w = .secure ∧ c.kpr.booted then c.finish q 5 [] else act c q

/-- The boot ROM does not serve an object (R336, R367). -/
def Chip.romRefuses (c : Chip) (idx : Nat) : Bool := !c.kpr.booted && !(decide (idx ≤ 0x0FFF) || (decide (0xE000 ≤ idx) && decide (idx ≤ 0xEFFF)))

/-- Length of a value that a read would return, 0 where its status is not success. -/
def Chip.readLen (c : Chip) (idx el : Nat) : Nat :=
  match objRow idx el with
  | none => 0
  | some r => if c.romRefuses idx then 0 else if (c.read idx el).1 = 0 then valueLen r (c.value idx el) else 0

/-- Elements read one after the other, each with its status and value. -/
def Chip.readEls (c : Chip) (w : World) (idx : Nat) : List Nat → Chip × List B8
  | [] => (c, [])
  | el :: t =>
    if c.romRefuses idx then
      let r := c.readEls w idx t
      (r.1, b8 0xD :: r.2)
    else
      let n := c.readLen idx el
      let c := c.oapRead w idx el n
      let p := c.dic.oap w
      let r := c.readEls w idx t
      (r.1, b8 p.status :: (if p.status = 0 then natBytes p.data.toNat n else []) ++ r.2)

/-- READ (Table 15.7). -/
def Chip.mRead (c : Chip) (q : DReqQ) : Chip :=
  let idx := leNat (q.body.take 2)
  let first := at8 q.body 2
  let n := at8 q.body 3
  let els := (List.range n).map (first + ·)
  if q.body.length < 4 ∨ n = 0 ∨ 64 < n then c.finish q 0xC []
  else if 1100 < 8 + (els.map fun el => 1 + c.readLen idx el).sum then c.finish q 0xC []
  else
    let r := c.readEls q.world idx els
    r.1.finish q 0 r.2

/-- A write's index, element, length and value from a body (Table 15.7); none where the body is shorter or the length outside 1 to 64. -/
def bodyWr (b : List B8) : Option (Nat × Nat × Nat × Nat) :=
  let n := at8 b 3
  if b.length < 4 + n ∨ b.length < 4 ∨ n = 0 ∨ 64 < n then none else some (leNat (b.take 2), at8 b 2, n, leNat ((b.drop 4).take n))

/-- STAGE (Table 15.7). -/
def Chip.mStage (c : Chip) (q : DReqQ) : Chip :=
  match bodyWr q.body with
  | none => c.finish q 0xC []
  | some (idx, el, n, v) =>
    if c.romRefuses idx then c.finish q 0xD []
    else
      let c := c.oapStage q.world idx el n (BitVec.ofNat 512 v)
      c.finish q (c.dic.oap q.world).status []

/-- W1C (R365): an object with any other right is refused invalid-value once checks 1, 2 and 5 have passed. -/
def Chip.mW1c (c : Chip) (q : DReqQ) : Chip :=
  match bodyWr q.body with
  | none => c.finish q 0xC []
  | some (idx, el, n, v) =>
    match objRow idx el with
    | none => c.finish q 7 []
    | some r =>
      if !c.eng.exists_ idx el then c.finish q 7 []
      else if c.romRefuses idx then c.finish q 0xD []
      else if c.eng.absent idx el then c.finish q 3 []
      else if !lenOk r n then c.finish q 8 []
      else if r.acc ≠ .w1c then c.finish q 1 []
      else
        let c := c.oapStage q.world idx el n (BitVec.ofNat 512 v)
        c.finish q (c.dic.oap q.world).status []

/-- Body of a COMMIT or COMMIT_STATUS response from the world's DICT_COMMIT_STATUS (Table 15.7). -/
def Chip.outcomeBody (c : Chip) (w : World) : List B8 :=
  let v := c.eng.obj DICT_COMMIT_STATUS (match w with | .secure => 0 | .normal => 1)
  natBytes (bits v 15 0) 2 ++ natBytes (bits v 111 48) 8 ++ natBytes (bits v 39 24) 2 ++ natBytes (bits v 47 40) 1

/-- Status of a world's last commit. -/
def Chip.outcomeCc (c : Chip) (w : World) : Nat := bits (c.eng.obj DICT_COMMIT_STATUS (match w with | .secure => 0 | .normal => 1)) 23 16

/-- COMMIT: the firmware writes DICT_COMMIT, and answers once the outcome is there (R358). -/
def Chip.mCommit (c : Chip) (q : DReqQ) : Chip :=
  let c := c.oapCommit q.world
  c.dc fun d => { d with reqs := updFirst (fun r => r == q) (fun r => { r with cmt := some (d.num q.world) }) d.reqs }

/-- Requests whose commit has its outcome are answered. -/
def Chip.mAnswer (c : Chip) : Chip :=
  c.dic.reqs.foldl (fun c q =>
    match q.cmt with
    | none => c
    | some n =>
      let v := c.eng.obj DICT_COMMIT_STATUS (match q.world with | .secure => 0 | .normal => 1)
      if bits v 15 0 = n then c.finish q (c.outcomeCc q.world) (c.outcomeBody q.world) else c) c

/-- ABORT (Table 15.7). -/
def Chip.mAbort (c : Chip) (q : DReqQ) : Chip := (c.oapAbort q.world).finish q 0 []

/-- COMMIT_STATUS (Table 15.7). -/
def Chip.mStatus (c : Chip) (q : DReqQ) : Chip := c.finish q (c.outcomeCc q.world) (c.outcomeBody q.world)

/-- FW_BEGIN (R365): an image of up to 1 MiB. -/
def Chip.mFwBegin (c : Chip) (q : DReqQ) : Chip :=
  let n := leNat (q.body.take 4)
  if q.body.length < 4 then c.finish q 0xC []
  else if n = 0 ∨ 2 ^ 20 < n then c.finish q 1 []
  else (c.k fun k => { k with imgLen := some n }).finish q 0 []

/-- FW_DATA (R365): to SRAM in the boot ROM's endpoint, to DRAM at FW_STAGE_BASE under secure firmware; a write the Guard refuses is
answered busy (log entry 55). -/
def Chip.mFwData (c : Chip) (q : DReqQ) : Chip :=
  let off := leNat (q.body.take 4)
  let d := q.body.drop 4
  if q.body.length < 5 ∨ 1024 < d.length then c.finish q 0xC []
  else match c.kpr.imgLen with
    | none => c.finish q 2 []
    | some n =>
      if n < off + d.length then c.finish q 1 []
      else
        let at_ := if c.kpr.booted then c.ob FW_STAGE_BASE + off else off
        match c.fwAccess (if c.kpr.booted then .directory else .keeper) true at_ d.length with
        | (c, false) => c.finish q 2 []
        | (c, true) =>
          if c.kpr.booted then (c.k fun k => { k with dram := putBytes at_ d k.dram }).finish q 0 []
          else (c.k fun k => { k with sram := putBytes at_ d k.sram }).finish q 0 []

/-- FW_END (R365, R336). -/
def Chip.mFwEnd (c : Chip) (q : DReqQ) : Chip :=
  match c.kpr.imgLen with
  | none => c.finish q 2 []
  | some n =>
    let rom := !c.kpr.booted
    let c := c.k fun k => { k with imgLen := none }
    let c := if rom then c.bootImage (readCells c.kpr.sram 0 n) else c
    c.finish q 0 [b8 (c.ob FW_BOOT_STATUS)]

/-- Commands of Table 15.7 that a request may carry. -/
def listedCmd (k : Nat) : Bool := (decide (1 ≤ k) && decide (k ≤ 6)) || (decide (0x20 ≤ k) && decide (k ≤ 0x22))

/-- DICT_REQ_WAIT_EXPIRY: the oldest request that has waited DICT_REQ_WAIT is answered unavailable and removed (R367). -/
def Chip.reqExpiry (c : Chip) : Chip :=
  match c.dic.reqs.find? fun q => q.cmt.isNone && decide (q.at_ + c.ob DICT_REQ_WAIT * 1000000 ≤ c.eng.ts) with
  | some q => if c.kpr.on then c.finish q 0xD [] else c
  | none => c

/-! ## I3C (R52, R368) -/

/-- The I3C front end works: the always-on region has its supply and is out of reset. -/
def Chip.i3cUp (c : Chip) : Bool := decide (c.pwr.run ≠ .dead ∧ c.pwr.run ≠ .held)

/-- What the bus does to the target in SDR: an HDR wait has ended with its exit pattern. -/
def Chip.i3 (c : Chip) (g : I3c → I3c) : Chip := if c.i3cUp then c.dc fun d => { d with i3c := g { d.i3c with hdr := false, answer := [], nack := false } } else c

/-- An In-Band Interrupt is raised: a packet waits and IBIs are enabled. -/
def Chip.ibi (c : Chip) : Bool := c.dic.i3c.ibi && c.dic.i3c.dyn.isSome && !c.dic.i3cQ.isEmpty

/-- I3C_PRIVATE_WRITE: a packet for the target's address, with what its PEC check found (log entry 8). -/
def Chip.i3cWrite (c : Chip) (addr : Nat) (p : List B8) (pecOk : Bool) : Chip :=
  let c := c.i3 id
  if !c.i3cUp ∨ !c.kpr.on ∨ c.dic.i3c.dyn ≠ some addr then c
  else if !pecOk ∨ 68 < p.length ∨ c.dic.i3c.mwl < p.length then c.drop
  else c.packet .i3c p

/-- The packet error code of DSP0233: CRC-8 with x^8 + x^2 + x + 1 over the bytes of a transfer (PRESUMED, DSP0233: log entry 32). -/
def pec (l : List B8) : B8 :=
  l.foldl (fun r b => (List.range 8).foldl (fun r _ => if r.msb then (r <<< 1) ^^^ 7 else r <<< 1) (r ^^^ b)) 0

/-- BCR: a target that raises In-Band Interrupts with a payload; it declares no speed limit. DCR: MCTP (PRESUMED, I3C Basic: log entry 32). -/
def i3cBcr : B8 := 6
def i3cDcr : B8 := 0xCC

/-- GETSTATUS: no protocol error, activity mode 0, and a pending interrupt where packets wait (PRESUMED, I3C Basic: log entry 32). -/
def i3cStatus (waiting : Nat) : Nat := if waiting = 0 then 0 else (Config.i3cPending waiting).toNat

/-- I3C_PRIVATE_READ: the packet that waits, with its PEC, up to the SETMRL length. -/
def Chip.i3cRead (c : Chip) (addr : Nat) : Chip :=
  let c := c.i3 id
  if !c.i3cUp ∨ c.dic.i3c.dyn ≠ some addr then c
  else match c.dic.i3cQ with
    | [] => c.i3 fun i => { i with nack := true }
    | p :: t => (c.dc fun d => { d with i3cQ := t }).i3 fun i => { i with answer := (p ++ [pec (b8 (2 * addr + 1) :: p)]).take (i.mrl + 1) }

/-- A GET of the target, or its refusal where it has no such address. -/
def Chip.i3cGet (c : Chip) (addr : Nat) (ans : List B8) : Chip := c.i3 fun i => if i.dyn = some addr then { i with answer := ans } else i

/-- Bytes of a number, most significant first. -/
def beBytes (n k : Nat) : List B8 := (natBytes n k).reverse

/-- ENTDAA and SETDASA give a dynamic address to a target that has none. -/
def I3c.assign (i : I3c) (addr : Nat) : I3c := if i.dyn.isNone ∧ addr < 128 then { i with dyn := some addr } else i

end Sys2Proof.Machine
end

