-- ==== Sys2Proof/Machine/Tap.lean ====
section
/-! DEFINITION. Sys2Proof/Machine/Tap.lean: the TAP, its instruments and Keeper's debug module (R349, R382, R383), and what a
debugger reads and writes of Keeper's address map (R334). -/
namespace Sys2Proof.Machine
open Ob

/-- TAP_RESET: IDCODE is loaded, and every segment is left out (R382; log entry 34). -/
def Pm.tapReset (p : Pm) : Pm := { p with ir := 1, sib := 0 }

/-- The instruction register takes a code; the data register is the one it selects (Table 16.4). -/
def Chip.tapIr (c : Chip) (code : Nat) : Chip := c.q fun p => { p with ir := code, dr := if code = 1 then c.ob TAP_IDCODE else 0 }

/-! ## Keeper's address map (Table 14.1, R334, R335) -/

/-- A world's bank. -/
def Kpr.bank (k : Kpr) (w : World) : Bank := match w with | .secure => k.sb | .normal => k.nb

/-- Where an address lies: its region and offset, checked by the Guard for a word access of a world; none where it is outside every
row, or closed to the world. -/
inductive KWhere where
  | rom (o : Nat)
  | timer (o : Nat)
  | sram (o : Nat)
  | oap (o : Nat)
  | dram (a : Nat)
  deriving DecidableEq, Repr

/-- Resolve a word address. -/
def Chip.kaddr (c : Chip) (w : World) (wr : Bool) (a : Nat) : Option KWhere :=
  let sec := w == .secure
  if a % 4 ≠ 0 then none
  else if a < 0x10000 then (if sec ∧ !wr then some (.rom a) else none)
  else if 0x2000000 ≤ a ∧ a < 0x2001000 then some (.timer (a - 0x2000000))
  else if 0x10000000 ≤ a ∧ a < 0x10100000 then
    (if c.eng.guardOk .keeper (kprInit w) sec wr ((a - 0x10000000) / 4096) ((a - 0x10000000) / 4096) 0 0 then some (.sram (a - 0x10000000)) else none)
  else if 0x40000000 ≤ a ∧ a < 0x40010000 then some (.oap (a - 0x40000000))
  else if 0x80000000 ≤ a ∧ a < 0x90000000 then
    let d := (c.kpr.bank w).kwdwin.toNat * 2 ^ 28 + (a - 0x80000000)
    if c.eng.guardOk .directory (kprInit w) sec wr (d / 4096) (d / 4096) 0 0 then some (.dram d) else none
  else none

/-- The Guard refuses the word access, on the Keeper path for the SRAM and the directory path for the DRAM window (R81, R82). -/
def Chip.kRefused (c : Chip) (w : World) (wr : Bool) (a : Nat) : Option (GPath × Nat) :=
  if a % 4 ≠ 0 ∨ (c.kaddr w wr a).isSome then none
  else if 0x10000000 ≤ a ∧ a < 0x10100000 then some (.keeper, (a - 0x10000000) / 4096)
  else if 0x80000000 ≤ a ∧ a < 0x90000000 then some (.directory, ((c.kpr.bank w).kwdwin.toNat * 2 ^ 28 + (a - 0x80000000)) / 4096)
  else none

/-- OAP_STATUS of a port (Table 15.4). -/
def Oap.statusWord (p : Oap) : Nat := b2n p.busy + p.status * 2 ^ 8

/-- A word read of Keeper's address map. `mtime` and `mtimecmp` lie where the RISC-V timer has them is not stated: offset 0 is
`mtime`, offset 8 `mtimecmp` (log entry 34). -/
def Chip.kread (c : Chip) (w : World) (x : KWhere) : Nat :=
  match x with
  | .rom o => leNat ((List.range 4).map fun i => Config.bootRom (o + i))
  | .timer o =>
    let t := if o < 8 then c.eng.ts else (c.kpr.bank w).mtimecmp.toNat
    if 16 ≤ o then 0 else if o % 8 = 0 then t % 2 ^ 32 else t / 2 ^ 32 % 2 ^ 32
  | .sram o => leNat (readCells c.kpr.sram o 4)
  | .oap o =>
    let p := c.dic.oap w
    if o = 0 then p.obj else if o = 8 then p.statusWord else if 0x40 ≤ o ∧ o < 0x80 then p.data.toNat / 2 ^ (8 * (o - 0x40)) % 2 ^ 32 else 0
  | .dram a => leNat (readCells c.kpr.dram a 4)

/-- OAP_CMD takes a code (R362). -/
def Chip.oapCmd (c : Chip) (w : World) (code : Nat) : Chip :=
  let p := c.dic.oap w
  let idx := bits p.obj 15 0
  let el := bits p.obj 23 16
  let len := bits p.obj 30 24
  if p.busy then c
  else if code % 8 = 1 then c.oapRead w idx el len
  else if code % 8 = 2 then c.oapStage w idx el len p.data
  else if code % 8 = 3 then c.oapCommit w
  else if code % 8 = 4 then c.oapAbort w
  else c

/-- A word of a 512-bit value replaced. -/
def setWord (d : BitVec 512) (k : Nat) (v : BitVec 32) : BitVec 512 :=
  BitVec.ofNat 512 (d.toNat - d.toNat / 2 ^ (32 * k) % 2 ^ 32 * 2 ^ (32 * k) + v.toNat * 2 ^ (32 * k))

/-- A word write of Keeper's address map. -/
def Chip.kwrite (c : Chip) (w : World) (x : KWhere) (v : BitVec 32) : Chip :=
  match x with
  | .rom _ => c
  | .timer o =>
    let b := c.kpr.bank w
    let hi := b.mtimecmp.toNat / 2 ^ 32
    let lo := b.mtimecmp.toNat % 2 ^ 32
    let n := if o = 8 then some (hi * 2 ^ 32 + v.toNat) else if o = 12 then some (v.toNat * 2 ^ 32 + lo) else none
    (match n with
      | none => c
      | some t =>
        let b := { b with mtimecmp := BitVec.ofNat 64 t }
        c.k fun k => match w with | .secure => { k with sb := b } | .normal => { k with nb := b })
  | .sram o => (c.e fun e => e.sramWrite o 4).k fun k => { k with sram := putBytes o (natBytes v.toNat 4) k.sram }
  | .oap o =>
    let p := c.dic.oap w
    if o = 0 then { c with dic := c.dic.setOap w { p with obj := v.toNat % 2 ^ 31 } }
    else if o = 4 then c.oapCmd w v.toNat
    else if 0x40 ≤ o ∧ o < 0x80 then { c with dic := c.dic.setOap w { p with data := setWord p.data ((o - 0x40) / 4) v } }
    else c
  | .dram a => c.k fun k => { k with dram := putBytes a (natBytes v.toNat 4) k.dram }

/-! ## Instruments (Table 16.5, R349) -/

/-- Segment insertion bit of an operation's instrument. -/
def tapInst : TapOp → Nat
  | .sib _ => 4
  | .counter _ _ _ => 1
  | .sample _ => 2
  | .traceEnable _ => 3
  | _ => 0

/-- The enable that an operation needs is 1 (R349, Table 16.5). An attach and a halt request need none: the request is held. -/
def Chip.tapAllowed (c : Chip) (op : TapOp) : Bool :=
  match op with
  | .sib _ | .attach | .detach | .halt => true
  | .counter _ _ _ => c.dbgOn 1 || c.dbgOn 3
  | .sample _ => c.dbgOn (nonInvasive (c.eng.unitOwner 0x10))
  | .traceEnable _ => c.dbgOn (nonInvasive (c.eng.unitOwner 0x11))
  | .readMem a => c.pm.attached && c.dbgOn (invasive c.kpr.world) && (c.kaddr c.kpr.world false a).isSome
  | .writeMem a _ => c.pm.attached && c.dbgOn (invasive c.kpr.world) && (c.kaddr c.kpr.world true a).isSome
  | _ => c.pm.attached && c.dbgOn (invasive c.kpr.world)

/-- The data register captures a value. -/
def Chip.dr (c : Chip) (v : Nat) : Chip := c.q fun p => { p with dr := v }

/-- Register r of the hart: x0 reads 0, 32 names the `pc`. -/
def Kpr.reg (k : Kpr) (r : Nat) : BitVec 32 := if r = 32 then k.pc else if r = 0 then 0 else k.regs.toList.getD (r - 1) 0

/-- Register r of the hart written; x0 discards it. -/
def Kpr.setReg (k : Kpr) (r : Nat) (v : BitVec 32) : Kpr :=
  if r = 32 then { k with pc := v } else if h : 1 ≤ r ∧ r ≤ 31 then { k with regs := k.regs.set (r - 1) v (by omega) } else k

/-- Keeper runs on after a halt. -/
def Chip.resume (c : Chip) : Chip := if c.kpr.halted.isSome then (c.k fun k => { k with halted := none, haltReq := false }).set DBG_STATE 0 0 else c

/-! ## Control and status registers of the hart (R335, Table 14.2) -/

/-- A world's bank changed. -/
def Kpr.setBank (k : Kpr) (w : World) (g : Bank → Bank) : Kpr := match w with | .secure => { k with sb := g k.sb } | .normal => { k with nb := g k.nb }

/-- `mip` of a world: its machine external interrupt is the OR of the pending sources on the lines that it owns (R340), its timer interrupt
stands once `mtime` has reached its `mtimecmp`. -/
def Chip.mip (c : Chip) (w : World) : BitVec 32 :=
  let ext := (List.range 16).any fun n => (c.normalLine n == (w == .normal)) && c.linePending n
  BitVec.ofNat 32 (b2n ext * 2 ^ 11 + b2n (decide ((c.kpr.bank w).mtimecmp.toNat ≤ c.eng.ts)) * 2 ^ 7)

/-- A register that machine mode of a world reads; none where the world may not use it, or the spec gives the hart no such register
(log entry 34). -/
def Chip.csr (c : Chip) (w : World) (a : Nat) : Option (BitVec 32) :=
  let b := c.kpr.bank w
  let sec := w == .secure
  if a = 0x300 then some b.mstatus
  else if a = 0x304 then some b.mie
  else if a = 0x305 then some b.mtvec
  else if a = 0x340 then some b.mscratch
  else if a = 0x341 then some b.mepc
  else if a = 0x342 then some b.mcause
  else if a = 0x343 then some b.mtval
  else if a = 0x344 then some (c.mip w)
  else if a = 0xB00 then some (b.mcycle.setWidth 32)
  else if a = 0xB80 then some ((b.mcycle >>> 32).setWidth 32)
  else if a = 0xB02 then some (b.minstret.setWidth 32)
  else if a = 0xB82 then some ((b.minstret >>> 32).setWidth 32)
  else if a = 0x7C0 then some (if sec then BitVec.ofNat 32 (b2n c.kpr.ret * 2 + b2n c.kpr.npp * 4) else 1)
  else if a = 0x7C1 ∧ sec then some c.kpr.kwentry
  else if a = 0x7C2 then some (b.kwdwin.setWidth 32)
  else if a = 0x7C3 ∧ sec then some c.kpr.kwnepc
  else none

/-- A counter of two halves with one of them replaced. -/
def setHalf (x : BitVec 64) (hi : Bool) (v : BitVec 32) : BitVec 64 := if hi then v ++ x.setWidth 32 else (x >>> 32).setWidth 32 ++ v

/-- A register that machine mode of a world writes; none as for a read, and where the world only reads it. `kwstat` [0] follows the world
switches alone, and a 1 in [3] pets the secure watchdog. -/
def Chip.csrSet (c : Chip) (w : World) (a : Nat) (v : BitVec 32) : Option Chip :=
  let sec := w == .secure
  let bank (g : Bank → Bank) : Option Chip := some (c.k fun k => k.setBank w g)
  if a = 0x300 then bank fun b => { b with mstatus := v }
  else if a = 0x304 then bank fun b => { b with mie := v }
  else if a = 0x305 then bank fun b => { b with mtvec := v }
  else if a = 0x340 then bank fun b => { b with mscratch := v }
  else if a = 0x341 then bank fun b => { b with mepc := v &&& 0xFFFFFFFE#32 }
  else if a = 0x342 then bank fun b => { b with mcause := v }
  else if a = 0x343 then bank fun b => { b with mtval := v }
  else if a = 0x344 then some c
  else if a = 0xB00 ∨ a = 0xB80 then bank fun b => { b with mcycle := setHalf b.mcycle (a == 0xB80) v }
  else if a = 0xB02 ∨ a = 0xB82 then bank fun b => { b with minstret := setHalf b.minstret (a == 0xB82) v }
  else if a = 0x7C0 ∧ sec then
    let c := c.k fun k => { k with ret := v.getLsbD 1, npp := v.getLsbD 2 }
    some (if v.getLsbD 3 then c.wdtZero else c)
  else if a = 0x7C1 ∧ sec then some (c.k fun k => { k with kwentry := v &&& 0xFFFFFFFC#32 })
  else if a = 0x7C2 then bank fun b => { b with kwdwin := v.setWidth 12 }
  else if a = 0x7C3 ∧ sec then some (c.k fun k => { k with kwnepc := v })
  else none

/-- The operation ends with an error: its instrument's status bit. -/
def Chip.tapErr (c : Chip) (i : Nat) : Chip := c.q fun p => { p with stat := setBit p.stat i }

/-- The debug module reads a register of the hart: 0 to 32 its `x` registers and `pc`, from 0x1000 on its CSRs by their numbers. -/
def Chip.tapGet (c : Chip) (r i : Nat) : Chip :=
  if r < 0x1000 then c.dr (c.kpr.reg r).toNat
  else match c.csr c.kpr.world (r - 0x1000) with | some v => c.dr v.toNat | none => c.tapErr i

/-- The debug module writes a register of the hart. -/
def Chip.tapSet (c : Chip) (r i : Nat) (v : BitVec 32) : Chip :=
  if r < 0x1000 then c.k fun k => k.setReg r v
  else match c.csrSet c.kpr.world (r - 0x1000) v with | some t => t | none => c.tapErr i

/-- A debugger reads a word of the SRAM through its code; one beyond correction is not captured and sets the instrument's status bit
(R304; no program of the hart issued the read, so no trap is taken). -/
def Chip.tapSram (c : Chip) (o i : Nat) : Chip :=
  match c.eng.sramRead o 4 with
  | (e, none) => (c.e fun _ => e).dr (c.kread c.kpr.world (.sram o))
  | (e, some _) => (c.e fun _ => e).tapErr i

/-- What a permitted operation does. -/
def Chip.tapDo (c : Chip) (op : TapOp) : Chip :=
  let halted := c.kpr.halted.isSome
  match op with
  | .sib m => c.q fun p => { p with sib := m % 16 }
  | .attach => (c.q fun p => { p with attached := true }).e fun e => e.irq 14
  | .detach => (c.q fun p => { p with attached := false }).resume
  | .halt => c.debugHalt
  | .resume => c.resume
  | .step pc => if halted then c.k fun k => { k with pc := pc } else c
  | .breakpoint a on => c.k fun k => { k with bps := if on then insertNat a k.bps else dropNat a k.bps }
  | .readReg r => if halted then c.tapGet r (tapInst op) else c
  | .writeReg r v => if halted then c.tapSet r (tapInst op) v else c
  | .readMem a => (match c.kaddr c.kpr.world false a with
      | some (.sram o) => c.tapSram o (tapInst op)
      | some x => c.dr (c.kread c.kpr.world x)
      | none => c)
  | .writeMem a v => (match c.kaddr c.kpr.world true a with | some x => c.kwrite c.kpr.world x v | none => c)
  | .counter b i snap => c.dr (if 48 ≤ b ∨ 16 ≤ i then 0 else c.eng.obj ((if snap then PM_SNAP_CTR else PM_CTR) + b) i)
  | .sample n => c.dr (c.pm.smpBuf.getD n 0).toNat
  | .traceEnable on => (c.set TRC_ENABLE 0 (b2n on)).voteCheck

/-- A debugger's word access that the Guard refuses is logged with its interrupt (R82). No program of the hart issued it, so no trap is taken. -/
def Chip.tapRefused (c : Chip) (op : TapOp) : Chip :=
  let log (wr : Bool) (a : Nat) : Chip :=
    if c.pm.attached && c.dbgOn (invasive c.kpr.world) then
      (match c.kRefused c.kpr.world wr a with
       | some (p, pg) => c.e fun e => e.guardFault p (kprInit c.kpr.world) wr pg
       | none => c)
    else c
  match op with
  | .readMem a => log false a
  | .writeMem a _ => log true a
  | _ => c

/-- TAP_INSTRUMENT_OPERATION: with IJTAG selected and the instrument's segment inserted, the operation runs, or ends with its status
bit and no other effect (R349, R383). -/
def Chip.tapOp (c : Chip) (op : TapOp) : Chip :=
  let i := tapInst op
  if c.pm.ir ≠ 2 ∨ !c.kpr.on ∨ (i < 4 ∧ !bit c.pm.sib i) then c
  else if c.tapAllowed op then (c.q fun p => { p with stat := clearBit p.stat i }).tapDo op
  else (c.tapRefused op).q fun p => { p with stat := setBit p.stat i }

/-- DEBUG_HALT: a halt request through the debug module, or a breakpoint at `pc` in a world whose invasive enable is 1 (R349). -/
def Chip.haltEvent (c : Chip) (bp : Option (BitVec 32)) : Chip :=
  match bp with
  | none => c.debugHalt
  | some pc =>
    if c.pm.attached ∧ c.kpr.bps.contains pc.toNat ∧ c.dbgOn (invasive c.kpr.world) ∧ c.keeperUp then
      Chip.haltCheck (c.k fun k => { k with pc := pc, haltReq := true })
    else c

end Sys2Proof.Machine
end

