-- ==== Sys2Proof/Machine/Time.lean ====
section
/-! DEFINITION. Sys2Proof/Machine/Time.lean: one nanosecond of time, which passes when no command waits (log entry 1), and what follows
every command at its own edge. -/
namespace Sys2Proof.Machine
open Ob

/-- CORE has its power and TSCLK advances (R323, R329). -/
def Chip.coreOn (c : Chip) : Bool :=
  (c.pwr.run == .vsa || c.pwr.run == .vsl || c.pwr.run == .up)
    && !(c.pwr.slpTo == 2 && (c.pwr.slp == .offVco || c.pwr.slp == .asleep || c.pwr.slp == .hp || c.pwr.slp == .onVco))

/-- The coherence side serves: start-up has ended and CORE has its power. -/
def Chip.live (c : Chip) : Bool := c.pwr.run == .up && c.coreOn

/-- Every snoop timer that no link retry pauses runs for 1 ns (R114, R306). -/
def Eng.snoopTick (e : Eng) : Eng :=
  { e with snps := e.snps.map fun (s : Slot) => { s with tgts := s.tgts.map fun (t : Tgt) => if t.bit && t.taken && !e.paused (e.obj CAID_PORT t.caid) then { t with run := t.run + 1 } else t } }

/-- Cycles of a clock of f MHz that end in the nanosecond up to time t. -/
def cyclesIn (f t : Nat) : Nat := t * f / 1000 - (t - 1) * f / 1000

/-- A pulse of the bucket lines lasts one XBCLK cycle; in Brace none is on the lines (R46, Table 02.11). -/
def Eng.bucketTick (e : Eng) : Eng := if e.brace then e else { e with bktOut := e.bktOut.drop (cyclesIn 1600 e.ts) }

/-- Some counter is selected. -/
def Eng.pmAny (e : Eng) : Bool := e.objs.any fun p => decide (PM_CTR_SEL * 256 ≤ p.1) && decide (p.1 < (PM_CTR_SEL + 0x30) * 256) && p.2 != 0

/-- The counters of Table 16.1 that count cycles, at the nominal rate of each clock. -/
def Chip.cycleCounts (c : Chip) : Chip :=
  if !c.eng.pmAny then c
  else
    let t := c.eng.ts
    let sl := if c.ob PWR_LEVEL_NOW = 7 then 0 else cyclesIn (slMHz (c.ob PWR_LEVEL_NOW)) t
    let ml := cyclesIn 1660 t
    let one (c : Chip) (b : Nat) : Chip :=
      if c.blockSleeps b then c
      else c.e fun e =>
        let e := e.pm b 1 (if b < 33 then sl else if b < 37 then 1 else if b = 41 then ml else sl)
        let e := if b < 33 then e.pm b 0x18 (sl * e.occ b) else e
        let e := if 33 ≤ b ∧ b < 37 ∧ (e.dcmds.any fun d => d.ch == b - 33) then e.pm b 0x42 1 else e
        if b = 40 ∧ e.mirHeld ≠ 0 then e.pm b 0x71 ml else e
    c.blocks.foldl one c

/-- Response-lane and control-port cycles of one nanosecond at an SLCLK of f MHz (R170): every slice's lane serves a message in each cycle, and a
beat of a group 3 stage leaves in an internal issue slot (R32, R169). -/
def Eng.laneTick (e : Eng) (f : Nat) : Eng :=
  if e.rx.isEmpty then e
  else
    let first := (e.ts - 1) * f / 1000
    (List.range (cyclesIn f e.ts)).foldl (fun e i =>
      let e := e.sliceList.foldl (fun e s => e.laneServe s) e
      if internalSlot (first + i) then
        { e with rx := (e.rx.map fun p => if p.1 < 256 ∧ p.1 % 4 = 3 then (p.1, p.2 - 1) else p).filter fun p => p.2 != 0 }
      else e) e

/-- What the Queue Fabric and the Gallery do in one nanosecond at a core clock of f MHz: requesters note that they assert, the response lanes
serve, and circling messages go round (R168, R170, R180). -/
def Eng.fabricTick (e : Eng) (f : Nat) : Eng := ((e.assertTick).laneTick f).galTick f

/-- Whole packets of every FIFO that has entries of its own: its block and a name (R181). -/
def Eng.fifoWords (e : Eng) : List (Nat × Nat × Nat) :=
  (e.stages.map fun s => (fifoUnit s.1 % 48, 4, s.2.2.gid)) ++ (e.spill.map fun s => (s.slice, 0, s.sector)) ++ (e.waiters.map fun w => (w.slice, 1, w.sector))
    ++ (e.outq.filterMap fun o => if o.grp = 2 then some (o.at_, 2, o.id) else none) ++ (e.dcmds.map fun c => (33 + c.ch, 3, c.seq * 2 ^ 40 + c.a.addr))
    ++ e.snps.map fun s => (s.slice, 7, s.slot)

/-- Packets written to and read from the FIFOs between two states (R181, events 0x04 and 0x05 of Table 16.1). -/
def Eng.fifoCount (old new : Eng) : Eng :=
  if !new.pmAny then new
  else
    let a := old.fifoWords
    let b := new.fifoWords
    let e := (b.filter fun w => !a.contains w).foldl (fun e w => e.pm w.1 4 1) new
    (a.filter fun w => !b.contains w).foldl (fun e w => e.pm w.1 5 1) e

/-- The secure watchdog counts an AONCLK edge, four of them in a microsecond (R347). -/
def Chip.wdtTick (c : Chip) : Chip :=
  if c.wdtCounts ∧ c.eng.ts % 250 = 0 then c.p fun p => { p with wdtCnt := p.wdtCnt + 1 } else c

/-- `mcycle` of the world that runs counts Keeper's clock, KFIO at 200 MHz or KCLK at 800 MHz (R335, R329). -/
def Chip.hartTick (c : Chip) : Chip :=
  let n := cyclesIn (if c.ob PWR_KEEPER_CLK = 1 then 800 else 200) c.eng.ts
  if n = 0 ∨ !c.keeperUp then c
  else c.k fun k =>
    match k.world with
    | .secure => { k with sb := { k.sb with mcycle := k.sb.mcycle + BitVec.ofNat 64 n } }
    | .normal => { k with nb := { k.nb with mcycle := k.nb.mcycle + BitVec.ofNat 64 n } }

/-- Step 4 of block sleep has lasted its 6 AONCLK cycles (Table 13.5). -/
def Chip.armTick (c : Chip) : Chip := if c.pwr.slp = .arming ∧ c.pwr.armEnd ≤ c.eng.ts then c.clampAll.advance else c

/-- A Draix indication of R251 is asserted at this end. -/
def Chip.drxBusy (c : Chip) : Bool := c.d.indRx.isSome || c.d.indTx.isSome || (c.ob DRX_STATE != 4 && c.ob DRX_STATE != 0 && c.ob DRX_STATE != 6)

/-- AONCLK runs wherever the always-on supply is applied (R329). -/
def Chip.aonTick (c : Chip) : Chip := if c.pwr.run = .dead then c else c.p fun p => { p with aon := p.aon + 1 }

/-- TSCLK and the timers that it drives. -/
def Chip.clockTick (c : Chip) : Chip := c.e fun e => (Eng.snoopTick { e with ts := e.ts + 1 }).bucketTick

/-- The journal's timers stand while the link is indicated to the engines (R251, R306). -/
def Chip.journalTick (c : Chip) : Chip := if c.drxBusy then c.setFab c.fab.pauseJournal else c

/-- The Draix lanes (R239 to R241). -/
def Chip.linkTick (c : Chip) : Chip := if c.live ∧ c.eng.isH32 then c.setFab (c.fab.l Lnk.lineTick) else c

/-- The Queue Fabric, the Gallery and the HDC's preload. -/
def Chip.sliceTick (c : Chip) : Chip := if c.live then c.e fun e => (e.fabricTick (slMHz (c.ob PWR_LEVEL_NOW))).preloadStep 32 else c

/-- One nanosecond of the clocks that run while CORE has its power. -/
def Chip.tick (c : Chip) : Chip := c.aonTick.clockTick.journalTick.linkTick.sliceTick.cycleCounts.snapDue.arrivals.wdtTick.hartTick.armTick

/-! ## What follows a command -/

/-- What follows at the same edge on the fabric side: armed errors enter the words written, Foghorn closes every flow as it asserts,
DRAM sequences go on, messages and records leave. -/
def Chip.after (old c : Chip) : Chip :=
  let c := c.e fun e => Eng.fifoCount old.eng ((Eng.injected old.eng (Eng.after old.eng e)).settleAll.ackRetry)
  c.setFab c.fab.settle

/-- What follows at the same edge elsewhere: the monitor takes its records, hand-overs and power sequences go on, requests whose
commit has ended are answered, events leave. -/
def Chip.follow (c : Chip) : Chip := c.pmTake.rings.hoStep.advance.mAnswer.evPump

/-- An operation on stored words: where one that it reads is in error, its readers' outcomes come first, and the operation acts on what they
leave (R297, R304). -/
def Chip.reads (c : Chip) (g : Chip → Chip) : Chip :=
  match c.eng.readWords (g c).eng with
  | [] => g c
  | ws => g (c.e fun e => ws.foldl (fun e b => e.readWord b) e)

/-- A command with all that follows it. -/
def Chip.run (c : Chip) (g : Chip → Chip) : Chip := (Chip.after c (c.reads g)).follow

/-- A nanosecond in which no command comes: without power in CORE, AONCLK alone runs (R329). -/
def Chip.idle (c : Chip) : Chip := if c.coreOn then c.run Chip.tick else c.aonTick

/-- A command of the coherence side, the fabric or the DRAM port: nothing happens while the block does not serve. -/
def Chip.runE (c : Chip) (g : Eng → Eng) : Chip := if c.live then c.run fun c => c.e g else c

/-- A command of the mirror or the hierarchy. -/
def Chip.runF (c : Chip) (g : Fab → Fab) : Chip := if c.live then c.run fun c => c.setFab (g c.fab) else c

/-- A command of the Draix link. -/
def Chip.runL (c : Chip) (g : Lnk → Lnk) : Chip := if c.live then c.run fun c => c.setFab (c.fab.link g) else c

/-- A command of a unit in CORE, PM, the dictionary or Keeper. -/
def Chip.runC (c : Chip) (g : Chip → Chip) : Chip := if c.coreOn then c.run g else c

end Sys2Proof.Machine
end

