-- ==== Sys2Proof/Machine/Lift.lean ====
section
/-! DEFINITION. Sys2Proof/Machine/Lift.lean: how the operation of a unit is the effect of a command on the machine. -/
namespace Sys2Proof.Machine

/-- An operation on the block. -/
def State.chip (s : State) (g : Chip → Chip) : Host.Outcome State Fault Refusal := .next { s with toChip := g s.toChip }

/-- An operation of the coherence side, the crossbar ports or the DRAM port. -/
def State.engine (s : State) (g : Eng → Eng) : Host.Outcome State Fault Refusal := s.chip fun c => c.runE g

/-- An operation of the Mirror Engine or the Hierarchy Agent. -/
def State.fabric (s : State) (g : Fab → Fab) : Host.Outcome State Fault Refusal := s.chip fun c => c.runF g

/-- An operation of the Draix link. -/
def State.link (s : State) (g : Lnk → Lnk) : Host.Outcome State Fault Refusal := s.chip fun c => c.runL g

/-- An operation of a unit in CORE. -/
def State.core (s : State) (g : Chip → Chip) : Host.Outcome State Fault Refusal := s.chip fun c => c.runC g

/-- A commit by a world of the writes given, as one command (log entry 18): Keeper runs, and all that follows the commit edge. -/
def State.commit (s : State) (w : World) (ws : List OWr) : Host.Outcome State Fault Refusal :=
  s.core fun c => if c.keeperUp then c.solo w ws else c

end Sys2Proof.Machine
end

