-- ==== Sys2Proof/Machine/CmdBacking.lean ====
section
/-! DEFINITION. Sys2Proof/Machine/CmdBacking.lean: the commands of backing responses, outbound beats and timers. -/
namespace Sys2Proof.Machine
open Ob

/-- BACKING_DATA. A backing response of kind 0xB: `form` 0 `MemData`, 1 `MemData-NXM`, else an opcode that was not expected; `h.tag` is the
HTID (R104, Table 04.3). -/
def execBackingData (h : HostBeat) (form dl : Nat) (pl : Payload) (s : State) : Host.Outcome State Fault Refusal := s.engine fun e => e.backingData h form dl pl

/-- BACKING_COMPLETION. A backing response of kind 0xA; its opcode is `Cmp` where `opc` is 0 (R105). -/
def execBackingCompletion (h : HostBeat) (opc dl : Nat) (s : State) : Host.Outcome State Fault Refusal := s.engine fun e => e.backingCmp h opc dl

/-- BACKING_UIO_COMPLETION. A completion of kind 0xD (R203). -/
def execBackingUioCompletion (h : HostBeat) (status : Nat) (data : Data) (s : State) : Host.Outcome State Fault Refusal := s.engine fun e => e.backingUio h status data

/-- STALE_BACKING_RESPONSE. A backing beat whose HTID names no open context (R41). -/
def execStaleBackingResponse (h : HostBeat) (o : RspOp) (dl : Nat) (s : State) : Host.Outcome State Fault Refusal :=
  s.engine fun e => e.staleBeat h o.kind o.opc dl

/-- OUTBOUND_BEAT_TAKEN. The carrier takes the beat that a group presents at a port (R36). -/
def execOutboundBeatTaken (port grp : Nat) (s : State) : Host.Outcome State Fault Refusal := s.engine fun e => e.beatTaken port grp

/-- SNOOP_SLOT_ACQUIRED. A waiting context takes a free snoop slot (R98). -/
def execSnoopSlotAcquired (slice idx : Nat) (s : State) : Host.Outcome State Fault Refusal := s.engine fun e => e.snoopAcquire slice idx

/-- BI_TIMEOUT. A target's back-invalidate timer expires (R114). -/
def execBiTimeout (slice slot caid : Nat) (s : State) : Host.Outcome State Fault Refusal := s.engine fun e => e.biTimeout slice slot caid

/-- MEM_TIMEOUT. A backing access has exceeded MEM_RD_TIMEOUT (R115). -/
def execMemTimeout (slice idx : Nat) (s : State) : Host.Outcome State Fault Refusal := s.engine fun e => e.memTimeout slice idx

/-- ECHO_ENTRY_EXPIRY. An echo entry fails the age test (R127). -/
def execEchoEntryExpiry (slice i : Nat) (s : State) : Host.Outcome State Fault Refusal := s.engine fun e => e.echoExpire slice i

/-- WATCH_QUARANTINE_EXPIRY. WATCH_QUARANTINE has passed for a withheld index (R166). -/
def execWatchQuarantineExpiry (slice idx : Nat) (s : State) : Host.Outcome State Fault Refusal := s.engine fun e => e.quarEnd slice idx

end Sys2Proof.Machine
end

