-- ==== Sys2Proof/Machine/CmdDbs.lean ====
section
/-! DEFINITION. Sys2Proof/Machine/CmdDbs.lean: the commands of the DRAM Backing Store and the stacked-tier port. -/
namespace Sys2Proof.Machine
open Ob

/-- DBS_IN_PLACE_REWRITE. The oldest spilled sector with a DBS slot is rewritten (R145). -/
def execDbsInPlaceRewrite (slice : Nat) (s : State) : Host.Outcome State Fault Refusal := s.engine fun e => e.spillStart slice .rewrite

/-- DBS_PLACEMENT. The oldest spilled sector without a slot is placed (R146). -/
def execDbsPlacement (slice : Nat) (s : State) : Host.Outcome State Fault Refusal := s.engine fun e => e.spillStart slice .placement

/-- DBS_RELEASE. The oldest all-I sector's burst is freed (R147). -/
def execDbsRelease (slice : Nat) (s : State) : Host.Outcome State Fault Refusal := s.engine fun e => e.spillStart slice .release

/-- EVICT. The slice receives the EVICT of a page (R151). -/
def execEvict (page : Nat) (s : State) : Host.Outcome State Fault Refusal := s.engine fun e => e.evict page

/-- DECLINE. The controller receives a DECLINE (R150). -/
def execDecline (page : Nat) (s : State) : Host.Outcome State Fault Refusal := s.engine fun e => e.declined page .declineSent

/-- COMPLETE. The controller receives COMPLETE (R150). -/
def execComplete (page : Nat) (s : State) : Host.Outcome State Fault Refusal := s.engine fun e => e.complete page

/-- KEPT. The controller receives KEPT (R151). -/
def execKept (page : Nat) (s : State) : Host.Outcome State Fault Refusal := s.engine fun e => e.declined page .keptSent

/-- DBS_EVICT_RETRY_EXPIRY. DBS_EVICT_RETRY has passed (R150). -/
def execDbsEvictRetryExpiry (page : Nat) (s : State) : Host.Outcome State Fault Refusal := s.engine fun e => e.evictRetry page

/-- SWEEP_DBS_SCAN. The DBS scan of a sweep starts (R153). -/
def execSweepDbsScan (caid : Nat) (s : State) : Host.Outcome State Fault Refusal := s.engine fun e => e.sweepDbs caid

/-- TAINT_CLEAR. A commit of TAINT_CLEAR (R160). -/
def execTaintClear (w : World) (el : Nat) (s : State) : Host.Outcome State Fault Refusal := s.commit w [⟨TAINT_CLEAR, 0, el⟩]

/-- DRAM_COMMAND_TAKEN. The carrier takes the DRAM command of a channel (R48). -/
def execDramCommandTaken (ch : Nat) (s : State) : Host.Outcome State Fault Refusal := s.engine fun e => e.dramTaken ch

/-- DRAM_READ_RESPONSE. `dr_rd_vld` with `dr_rd_err`, and `dr_rd_data` as its difference from what the block wrote there (R48). -/
def execDramReadResponse (ch tag : Nat) (r : DramRd) (s : State) : Host.Outcome State Fault Refusal :=
  s.engine fun e => e.dramRead ch tag r.err r.diff

/-- DRAM_WRITE_COMPLETION. `dr_wc_vld` (R48). -/
def execDramWriteCompletion (ch tag : Nat) (s : State) : Host.Outcome State Fault Refusal := s.engine fun e => e.dramWrite ch tag

/-- DRAM_TIMEOUT. No response by edge A + 8,001 (R49). -/
def execDramTimeout (ch tag : Nat) (s : State) : Host.Outcome State Fault Refusal := s.engine fun e => e.dramTimeout ch tag

end Sys2Proof.Machine
end

