-- ==== Sys2Proof/Machine/CmdDict.lean ====
section
/-! DEFINITION. Sys2Proof/Machine/CmdDict.lean: the commands of the object access port and dictionary messages. -/
namespace Sys2Proof.Machine
open Ob

/-- The right of an object is RC. -/
def isRC (idx el : Nat) : Bool := match objRow idx el with | some r => r.acc == .rc | none => false

/-- OAP_READ. An OAP_CMD read (R362). -/
def execOapRead (w : World) (idx el len : Nat) (s : State) : Host.Outcome State Fault Refusal := s.chip fun c => if c.oapReady w then c.oapRead w idx el len else c

/-- OAP_STAGE. An OAP_CMD stage (R392). -/
def execOapStage (w : World) (idx el len : Nat) (data : Data) (s : State) : Host.Outcome State Fault Refusal := s.chip fun c => if c.oapReady w then c.oapStage w idx el len data else c

/-- OAP_COMMIT. An OAP_CMD commit (R358). -/
def execOapCommit (w : World) (s : State) : Host.Outcome State Fault Refusal := s.chip fun c => if c.oapReady w then c.oapCommit w else c

/-- OAP_ABORT. An OAP_CMD abort (R357). -/
def execOapAbort (w : World) (s : State) : Host.Outcome State Fault Refusal := s.chip fun c => if c.oapReady w then c.oapAbort w else c

/-- RC_READ. A read of an RC object (R355). -/
def execRcRead (w : World) (idx el : Nat) (s : State) : Host.Outcome State Fault Refusal := s.chip fun c => if c.serves w ∧ isRC idx el then (c.read idx el).2.2 else c

/-- W1C_WRITE. A W1C write (R355). -/
def execW1cWrite (w : World) (idx el v : Nat) (s : State) : Host.Outcome State Fault Refusal := s.chip fun c => if c.serves w ∧ isW1C ⟨idx, el, v⟩ then (c.stage w ⟨idx, el, v⟩ (rowLen idx el)).1 else c

/-- DICT_READ. READ at the head of a world's queue; `deny` a refusal of secure firmware's own policy (R365, R366). -/
def execDictRead (w : World) (deny : Bool) (s : State) : Host.Outcome State Fault Refusal := s.chip fun c => c.serve w deny (fun k => k == 1) fun c q => c.mRead q

/-- DICT_STAGE. STAGE (R365). -/
def execDictStage (w : World) (deny : Bool) (s : State) : Host.Outcome State Fault Refusal := s.chip fun c => c.serve w deny (fun k => k == 2) fun c q => c.mStage q

/-- DICT_COMMIT. COMMIT (R358). -/
def execDictCommit (w : World) (deny : Bool) (s : State) : Host.Outcome State Fault Refusal := s.chip fun c => c.serve w deny (fun k => k == 3) fun c q => c.mCommit q

/-- DICT_ABORT. ABORT (R357). -/
def execDictAbort (w : World) (deny : Bool) (s : State) : Host.Outcome State Fault Refusal := s.chip fun c => c.serve w deny (fun k => k == 4) fun c q => c.mAbort q

/-- DICT_COMMIT_STATUS. COMMIT_STATUS (R365). -/
def execDictCommitStatus (w : World) (deny : Bool) (s : State) : Host.Outcome State Fault Refusal := s.chip fun c => c.serve w deny (fun k => k == 5) fun c q => c.mStatus q

/-- DICT_W1C. W1C (R365). -/
def execDictW1c (w : World) (deny : Bool) (s : State) : Host.Outcome State Fault Refusal := s.chip fun c => c.serve w deny (fun k => k == 6) fun c q => c.mW1c q

/-- EVENT_ACK. An acknowledgement of the record of a number: by the fabric manager, or with `carrier` of a region-map notice (R370, R371).
-/
def execEventAck (num : Nat) (carrier : Bool) (s : State) : Host.Outcome State Fault Refusal := s.chip fun c => (c.evAck num carrier).evPump

/-- FW_BEGIN. FW_BEGIN (R365). -/
def execFwBegin (w : World) (deny : Bool) (s : State) : Host.Outcome State Fault Refusal := s.chip fun c => c.serve w deny (fun k => k == 0x20) fun c q => c.mFwBegin q

/-- FW_DATA. FW_DATA (R365). -/
def execFwData (w : World) (deny : Bool) (s : State) : Host.Outcome State Fault Refusal := s.chip fun c => c.serve w deny (fun k => k == 0x21) fun c q => c.mFwData q

/-- FW_END. FW_END (R365, R336). -/
def execFwEnd (w : World) (deny : Bool) (s : State) : Host.Outcome State Fault Refusal := s.chip fun c => c.serve w deny (fun k => k == 0x22) fun c q => c.mFwEnd q

/-- UNSUPPORTED_DICT_COMMAND. A message whose cmd is not of Table 15.7 (R363). -/
def execUnsupportedDictCommand (w : World) (deny : Bool) (s : State) : Host.Outcome State Fault Refusal := s.chip fun c => c.serve w deny (fun k => !listedCmd k) fun c q => (c.unsup q.cmd).finish q 0xB []

/-- COMMIT_EDGE. The commit time T of the next commit (R358). -/
def execCommitEdge (s : State) : Host.Outcome State Fault Refusal := s.core fun c => c.commitEdge

/-- EVENT_RETRY_EXPIRY. DICT_EVT_RETRY has passed for the event sent (R370). -/
def execEventRetryExpiry (s : State) : Host.Outcome State Fault Refusal := s.chip fun c => c.evRetry.evPump

/-- MAP_NOTICE_RETRY. DICT_EVT_RETRY has passed for the region-map notice sent (R371). -/
def execMapNoticeRetry (s : State) : Host.Outcome State Fault Refusal := s.chip fun c => c.noticeRetry.evPump

/-- DICT_REQ_WAIT_EXPIRY. A request has waited DICT_REQ_WAIT (R367). -/
def execDictReqWaitExpiry (s : State) : Host.Outcome State Fault Refusal := s.chip fun c => c.reqExpiry

end Sys2Proof.Machine
end

