-- ==== Sys2Proof/Machine/CmdDraix.lean ====
section
/-! DEFINITION. Sys2Proof/Machine/CmdDraix.lean: the commands of the Draix link. -/
namespace Sys2Proof.Machine
open Ob

/-- LANE_LOCK. Four commas at exact spacing on a lane: the partner lane they name, an inverted pair, a lock that came too late for the
deskew (R240). -/
def execLaneLock (lane plane : Nat) (inv late : Bool) (s : State) : Host.Outcome State Fault Refusal := s.link fun l => l.laneLock lane plane inv late

/-- LANE_LOCK_LOSS. Two consecutive commas are missing on a lane (R240). -/
def execLaneLockLoss (lane : Nat) (s : State) : Host.Outcome State Fault Refusal := s.link fun l => l.laneLoss lane

/-- DATA_FLIT. A good data flit; `corr` the physical lanes of its corrected symbols (R246). -/
def execDataFlit (corr : List Nat) (seq cls : Nat) (shared : Bool) (ackseq acktype : Nat) (payload : BitVec 1984) (s : State) : Host.Outcome State Fault Refusal := s.link fun l => l.dataFlit corr seq cls shared ackseq acktype payload

/-- IDLE_FLIT. A good idle flit (R246). -/
def execIdleFlit (corr : List Nat) (ackseq acktype : Nat) (s : State) : Host.Outcome State Fault Refusal := s.link fun l => l.idleFlit corr ackseq acktype

/-- CONTROL_FLIT. A good control flit with its cumulative counters (R249). -/
def execControlFlit (corr : List Nat) (ackseq acktype : Nat) (cr : List Nat) (cs : Nat) (s : State) : Host.Outcome State Fault Refusal := s.link fun l => l.controlFlit corr ackseq acktype cr cs

/-- RETRAIN_REQUEST_FLIT. A good retrain request (R254). -/
def execRetrainRequestFlit (corr : List Nat) (ackseq acktype node excl : Nat) (isFresh : Bool) (s : State) : Host.Outcome State Fault Refusal := s.link fun l => l.requestFlit corr ackseq acktype node excl isFresh

/-- BAD_FLIT. A flit that fails RS decode (`rs`) or CRC (R246). -/
def execBadFlit (rs : Bool) (s : State) : Host.Outcome State Fault Refusal := s.link fun l => l.badFlit rs

/-- UNKNOWN_KIND_FLIT. A good flit of an unknown kind (R245). -/
def execUnknownKindFlit (corr : List Nat) (s : State) : Host.Outcome State Fault Refusal := s.link fun l => l.unknownFlit corr

/-- TS1. A TS1 flit (R255). -/
def execTs1 (p : TsBody) (s : State) : Host.Outcome State Fault Refusal := s.link fun l => l.ts1 p

/-- TS2. A TS2 flit (R255). -/
def execTs2 (p : TsBody) (q : Ts2Body) (s : State) : Host.Outcome State Fault Refusal := s.link fun l => l.ts2 p q

/-- LANE_ACTIVITY. Activity on a set of lanes (R259). -/
def execLaneActivity (lanes : Nat) (s : State) : Host.Outcome State Fault Refusal := s.link fun l => l.laneActivity lanes

/-- DRX_ENABLE. A commit of DRX_ENABLE (R254). -/
def execDrxEnable (w : World) (on : Bool) (s : State) : Host.Outcome State Fault Refusal := s.commit w [⟨DRX_ENABLE, 0, b2n on⟩]

/-- DRX_TRAIN. A commit of DRX_TRAIN (R254). -/
def execDrxTrain (w : World) (s : State) : Host.Outcome State Fault Refusal := s.commit w [⟨DRX_TRAIN, 0, 1⟩]

/-- DRX_RETRAIN_RESUME. A commit of DRX_RETRAIN = 1 (R257). -/
def execDrxRetrainResume (w : World) (s : State) : Host.Outcome State Fault Refusal := s.commit w [⟨DRX_RETRAIN, 0, 1⟩]

/-- DRX_RETRAIN_FRESH. A commit of DRX_RETRAIN = 2 (R257). -/
def execDrxRetrainFresh (w : World) (s : State) : Host.Outcome State Fault Refusal := s.commit w [⟨DRX_RETRAIN, 0, 2⟩]

/-- LOOPBACK_NEAR_SERIAL. A commit of DRX_LOOPBACK = 1 (R262). -/
def execLoopbackNearSerial (w : World) (s : State) : Host.Outcome State Fault Refusal := s.commit w [⟨DRX_LOOPBACK, 0, 1⟩]

/-- LOOPBACK_NEAR_PARALLEL. A commit of DRX_LOOPBACK = 2 (R262). -/
def execLoopbackNearParallel (w : World) (s : State) : Host.Outcome State Fault Refusal := s.commit w [⟨DRX_LOOPBACK, 0, 2⟩]

/-- LOOPBACK_FAR_END. A commit of DRX_LOOPBACK = 3 (R262). -/
def execLoopbackFarEnd (w : World) (s : State) : Host.Outcome State Fault Refusal := s.commit w [⟨DRX_LOOPBACK, 0, 3⟩]

/-- LOOPBACK_EXIT. A commit of DRX_LOOPBACK = 0 (R262). -/
def execLoopbackExit (w : World) (s : State) : Host.Outcome State Fault Refusal := s.commit w [⟨DRX_LOOPBACK, 0, 0⟩]

/-- DRX_EYE_CTRL. A commit of DRX_EYE_CTRL (R261). -/
def execDrxEyeCtrl (w : World) (v : Nat) (s : State) : Host.Outcome State Fault Refusal := s.commit w [⟨DRX_EYE_CTRL, 0, v⟩]

/-- EYE_SCAN_COMPLETE. The eye scan has seen its symbols (R261). -/
def execEyeScanComplete (count : Nat) (s : State) : Host.Outcome State Fault Refusal := s.link fun l => l.eyeDone count

/-- DRX_ERR_INJECT. A commit of DRX_ERR_INJECT (R263). -/
def execDrxErrInject (w : World) (v : Nat) (s : State) : Host.Outcome State Fault Refusal := s.commit w [⟨DRX_ERR_INJECT, 0, v⟩]

/-- REPLAY_TIMER_EXPIRY. DRX_REPLAY_TIMER without a release (R248). -/
def execReplayTimerExpiry (s : State) : Host.Outcome State Fault Refusal := s.link fun l => l.replayTimer

/-- NAK_TIMER_EXPIRY. DRX_NAK_TIMER since the last NAK (R247). -/
def execNakTimerExpiry (s : State) : Host.Outcome State Fault Refusal := s.link fun l => l.nakTimer

/-- ACK_TIMER_EXPIRY. DRX_ACK_TIMER since the oldest unacknowledged flit (R247). -/
def execAckTimerExpiry (s : State) : Host.Outcome State Fault Refusal := s.link fun l => l.ackTimer

/-- CREDIT_REPORT_TIMER. 200 ns since the oldest unreported freed slot (R249). -/
def execCreditReportTimer (s : State) : Host.Outcome State Fault Refusal := s.link fun l => l.creditTimer

/-- SEEK_SETTLE_EXPIRY. The settle time has passed (R255). -/
def execSeekSettleExpiry (s : State) : Host.Outcome State Fault Refusal := s.link fun l => l.settleExpiry

/-- LINK_ACTIVE. Sixteen consecutive good flits in Ready (R254). -/
def execLinkActive (s : State) : Host.Outcome State Fault Refusal := s.link fun l => l.linkActive

/-- ATTEMPT_TIMEOUT. The attempt timer reaches 50 ms (R254). -/
def execAttemptTimeout (s : State) : Host.Outcome State Fault Refusal := s.link fun l => l.attemptTimeout

/-- BACKOFF_ELAPSED. The backoff has elapsed (R254). -/
def execBackoffElapsed (s : State) : Host.Outcome State Fault Refusal := s.link fun l => l.backoffElapsed

/-- CORRECTION_THRESHOLD_CHECK. The end of a millisecond (R257). -/
def execCorrectionThresholdCheck (s : State) : Host.Outcome State Fault Refusal := s.link fun l => l.corrCheck

/-- LOOPED_IDLE_EXIT. A Looped end has seen idle on every lane for 10 µs (R262). -/
def execLoopedIdleExit (s : State) : Host.Outcome State Fault Refusal := s.link fun l => l.loopedExit

end Sys2Proof.Machine
end

