-- ==== Sys2Proof/Machine/CmdHdc.lean ====
section
/-! DEFINITION. Sys2Proof/Machine/CmdHdc.lean: the commands of the Home Data Cache and the Lease Lock Unit. -/
namespace Sys2Proof.Machine
open Ob

/-- H_IDLE_EXIT. ATOM_H_IDLE has passed since the last AtomicOp of a line (R202). -/
def execHIdleExit (line : Nat) (s : State) : Host.Outcome State Fault Refusal := s.engine fun e => e.hIdleExit line

/-- HDC_DISABLE. A commit of HDC_ENABLE = 0 (R196). -/
def execHdcDisable (w : World) (s : State) : Host.Outcome State Fault Refusal := s.commit w [⟨HDC_ENABLE, 0, 0⟩]

/-- HDC_DISABLE_FINISH. The walk of a slice goes on, or ends (R196). -/
def execHdcDisableFinish (slice : Nat) (s : State) : Host.Outcome State Fault Refusal := s.engine fun e => e.hdcFinish slice

/-- HDC_ENABLE. A commit of HDC_ENABLE = 1 (R197). -/
def execHdcEnable (w : World) (s : State) : Host.Outcome State Fault Refusal := s.commit w [⟨HDC_ENABLE, 0, 1⟩]

/-- HDC_PRELOAD. A commit of HDC_PRELOAD (R191). -/
def execHdcPreload (w : World) (v : Nat) (s : State) : Host.Outcome State Fault Refusal := s.commit w [⟨HDC_PRELOAD, 0, v⟩]

/-- HDC_UNLOCK_ALL. A commit of HDC_UNLOCK_ALL = 1 (R191). -/
def execHdcUnlockAll (w : World) (s : State) : Host.Outcome State Fault Refusal := s.commit w [⟨HDC_UNLOCK_ALL, 0, 1⟩]

/-- LEASE_EXPIRY. A Held lease reaches its deadline (R209). -/
def execLeaseExpiry (l : Nat) (s : State) : Host.Outcome State Fault Refusal := s.engine fun e => e.leaseExpiry l

/-- LEASE_BREAK. A commit of LEASE_BREAK (R207). -/
def execLeaseBreak (w : World) (l : Nat) (s : State) : Host.Outcome State Fault Refusal := s.commit w [⟨LEASE_BREAK, 0, l⟩]

/-- LEASE_BREAK_CAID. A commit of LEASE_BREAK_CAID (R207). -/
def execLeaseBreakCaid (w : World) (caid : Nat) (s : State) : Host.Outcome State Fault Refusal := s.commit w [⟨LEASE_BREAK_CAID, 0, caid⟩]

/-- LEASE_FREE. A commit of LEASE_FREE (R206). -/
def execLeaseFree (w : World) (l : Nat) (s : State) : Host.Outcome State Fault Refusal := s.commit w [⟨LEASE_FREE, 0, l⟩]

/-- LEASE_ACQUIRE. The oldest lease command is a Swap at `uio_off` 0x00 (R206). -/
def execLeaseAcquire (s : State) : Host.Outcome State Fault Refusal := s.engine fun e => e.leaseCmd .acquire

/-- LEASE_RENEW. The oldest lease command is a Swap at `uio_off` 0x08 (R206). -/
def execLeaseRenew (s : State) : Host.Outcome State Fault Refusal := s.engine fun e => e.leaseCmd .renew

/-- LEASE_RELEASE. The oldest lease command is a Swap at `uio_off` 0x10 (R206). -/
def execLeaseRelease (s : State) : Host.Outcome State Fault Refusal := s.engine fun e => e.leaseCmd .release

/-- LEASE_QUERY. The oldest lease command is a FetchAdd of 0 at `uio_off` 0x18 (R205). -/
def execLeaseQuery (s : State) : Host.Outcome State Fault Refusal := s.engine fun e => e.leaseCmd .query

/-- LEASE_BREAK_TRIGGER. The oldest break message reaches stop 44 (R207, R208). -/
def execLeaseBreakTrigger (s : State) : Host.Outcome State Fault Refusal := s.engine fun e => e.breakTrigger

end Sys2Proof.Machine
end

