-- ==== Sys2Proof/Machine/CmdHost.lean ====
section
/-! DEFINITION. Sys2Proof/Machine/CmdHost.lean: the commands of host ports and host beats. -/
namespace Sys2Proof.Machine
open Ob

/-- A request without data. -/
def noPl : Payload := { data := 0, be := 0, poison := false }

/-- PORT_UP. `xb_port_up`[p] reads 1: while the filtered state is 0 the port rises (R44). -/
def execPortUp (port : Nat) (s : State) : Host.Outcome State Fault Refusal := s.engine fun e => e.portRise port

/-- PORT_DEPARTURE. `xb_port_up`[p] has read 0 at this many more consecutive edges; the fourth departs the port (R44, R72). -/
def execPortDeparture (f : PortFall) (s : State) : Host.Outcome State Fault Refusal := s.engine fun e => e.portDepart f.port f.edges

/-- MEM_RD. A `MemRd`, or with `d` a `MemRdData`, beat (R87). -/
def execMemRd (d : Bool) (h : HostBeat) (m : Meta) (s : State) : Host.Outcome State Fault Refusal := s.engine fun e => e.request h 0 (if d then 2 else 1) (if d then .memRdData else .memRd) 0 (rowRd d m) 1 2 false noPl

/-- MEM_INV. A `MemInv`, or with `nt` a `MemInvNT`, beat (R87). -/
def execMemInv (nt : Bool) (h : HostBeat) (m : Meta) (s : State) : Host.Outcome State Fault Refusal := s.engine fun e => e.request h 0 (if nt then 9 else 0) (if nt then .memInvNT else .memInv) 0 (rowInv m) 2 2 false noPl

/-- MEM_CLN_EVCT. A `MemClnEvct` beat (R87). -/
def execMemClnEvct (h : HostBeat) (m : Meta) (s : State) : Host.Outcome State Fault Refusal := s.engine fun e => e.request h 0 10 .memClnEvct 0 (rowCln m) 2 2 true noPl

/-- MEM_SPEC_RD. A `MemSpecRd` hint: any SnpType and meta fields (R87). -/
def execMemSpecRd (h : HostBeat) (_m : Meta) (s : State) : Host.Outcome State Fault Refusal := s.engine fun e => e.request h 0 8 .memSpecRd 0 8 0 0 false noPl

/-- MEM_WR. A `MemWr` beat: its byte enables are all ones (R87, Table 02.3). -/
def execMemWr (h : HostBeat) (m : Meta) (pl : Payload) (s : State) : Host.Outcome State Fault Refusal := s.engine fun e => e.request h 1 1 .memWr 1 (rowWr m) 0 2 true { pl with be := Be.full }

/-- MEM_WR_PTL. A `MemWrPtl` beat (R87). -/
def execMemWrPtl (h : HostBeat) (m : Meta) (pl : Payload) (s : State) : Host.Outcome State Fault Refusal := s.engine fun e => e.request h 1 2 .memWrPtl 1 (rowWr m) 0 2 true pl

/-- MEM_RD_FWD. A `MemRdFwd` beat: `MemData-NXM` (R88). -/
def execMemRdFwd (h : HostBeat) (s : State) : Host.Outcome State Fault Refusal := s.engine fun e => e.request h 0 3 .memRd 0 0 1 3 false noPl

/-- MEM_WR_FWD. A `MemWrFwd` beat: `Cmp` granting no state (R88). -/
def execMemWrFwd (h : HostBeat) (s : State) : Host.Outcome State Fault Refusal := s.engine fun e => e.request h 0 4 .memRd 0 0 2 3 false noPl

/-- UNSUPPORTED_HOST_BEAT. A beat of kind 0x0, 0x1 or 0x2 with a reserved opcode (R88, Table 04.3); a supported opcode with unsupported
fields is the row of that opcode. -/
def execUnsupportedHostBeat (h : HostBeat) (kind opc : Nat) (s : State) : Host.Outcome State Fault Refusal := s.engine fun e =>
    if !reservedOpc kind opc then e
    else if kind = 2 then e.biRspRsvd h opc
    else if kind = 1 then e.request h 1 opc .memWr 1 0 0 1 false noPl
    else e.request h 0 opc .memRd 0 0 2 1 false noPl

/-- INVALID_KIND_BEAT. A beat of kind 0xF or of a kind that does not belong to its group (R37). -/
def execInvalidKindBeat (h : HostBeat) (grp kind opc : Nat) (s : State) : Host.Outcome State Fault Refusal := s.engine fun e => e.invalidKind h grp kind opc

/-- BICONFLICT. A `BIConflict` (R116). -/
def execBiconflict (h : HostBeat) (s : State) : Host.Outcome State Fault Refusal := s.engine fun e => e.biConflict h

/-- BIRSP. A `BIRspI` (0), `BIRspS` (1) or `BIRspE` (2) (R100). -/
def execBirsp (h : HostBeat) (bitag rsp : Nat) (s : State) : Host.Outcome State Fault Refusal := s.engine fun e => e.biRsp h bitag rsp

/-- BIRSP_BLK. A `BIRspIBlk` (0), `BIRspSBlk` (1) or `BIRspEBlk` (2) (R99). -/
def execBirspBlk (h : HostBeat) (bitag rsp : Nat) (s : State) : Host.Outcome State Fault Refusal := s.engine fun e => e.biRspBlk h bitag rsp

/-- ATOMIC_OP. An AtomicOp beat (R198). -/
def execAtomicOp (h : HostBeat) (uop usize uoff : Nat) (data : Data) (s : State) : Host.Outcome State Fault Refusal := s.engine fun e => e.atomicBeat h uop usize uoff data

/-- PORT_RETRY_CHANGE. `xb_port_retry`[p] changes level (R44, R306). -/
def execPortRetryChange (port : Nat) (up : Bool) (s : State) : Host.Outcome State Fault Refusal := s.engine fun e => e.portRetry port up

end Sys2Proof.Machine
end

