-- ==== Sys2Proof/Machine/CmdI3c.lean ====
section
/-! DEFINITION. Sys2Proof/Machine/CmdI3c.lean: the commands of the I3C target. -/
namespace Sys2Proof.Machine
open Ob

/-- I3C_PRIVATE_WRITE. A private write of a packet to an address, and what its PEC check found (R368). -/
def execI3cPrivateWrite (addr : Nat) (data : List (BitVec 8)) (pecOk : Bool) (s : State) : Host.Outcome State Fault Refusal := s.chip fun c => c.i3cWrite addr data pecOk

/-- I3C_PRIVATE_READ. A private read from an address (R368). -/
def execI3cPrivateRead (addr : Nat) (s : State) : Host.Outcome State Fault Refusal := s.chip fun c => c.i3cRead addr

/-- ENTDAA. ENTDAA: the address offered, and whether the target won the arbitration (R368). -/
def execEntdaa (addr : Nat) (won : Bool) (s : State) : Host.Outcome State Fault Refusal := s.chip fun c => c.i3 fun i => if won then i.assign addr else i

/-- SETDASA. SETDASA (R368). -/
def execSetdasa (static_ addr : Nat) (s : State) : Host.Outcome State Fault Refusal := s.chip fun c => c.i3 fun i => if static_ = c.ob DICT_I3C_STATIC then i.assign addr else i

/-- SETMWL. SETMWL, broadcast or to an address (R368). -/
def execSetmwl (addr : Option Nat) (v : Nat) (s : State) : Host.Outcome State Fault Refusal := s.chip fun c => c.i3 fun i => if addr = none ∨ addr = i.dyn then { i with mwl := v } else i

/-- SETMRL. SETMRL, broadcast or to an address (R368). -/
def execSetmrl (addr : Option Nat) (v : Nat) (s : State) : Host.Outcome State Fault Refusal := s.chip fun c => c.i3 fun i => if addr = none ∨ addr = i.dyn then { i with mrl := v } else i

/-- GETMWL. GETMWL (R368). -/
def execGetmwl (addr : Nat) (s : State) : Host.Outcome State Fault Refusal := s.chip fun c => c.i3cGet addr (beBytes c.dic.i3c.mwl 2)

/-- GETMRL. GETMRL (R368). -/
def execGetmrl (addr : Nat) (s : State) : Host.Outcome State Fault Refusal := s.chip fun c => c.i3cGet addr (beBytes c.dic.i3c.mrl 2)

/-- GETPID. GETPID: DEV_I3C_PID (R368). -/
def execGetpid (addr : Nat) (s : State) : Host.Outcome State Fault Refusal := s.chip fun c => c.i3cGet addr (beBytes c.eng.fz.i3cPid 6)

/-- GETBCR. GETBCR (R368). -/
def execGetbcr (addr : Nat) (s : State) : Host.Outcome State Fault Refusal := s.chip fun c => c.i3cGet addr [i3cBcr]

/-- GETDCR. GETDCR (R368). -/
def execGetdcr (addr : Nat) (s : State) : Host.Outcome State Fault Refusal := s.chip fun c => c.i3cGet addr [i3cDcr]

/-- GETSTATUS. GETSTATUS (R368). -/
def execGetstatus (addr : Nat) (s : State) : Host.Outcome State Fault Refusal := s.chip fun c => c.i3cGet addr (beBytes (i3cStatus c.dic.i3cQ.length) 2)

/-- UNSUPPORTED_CCC. An unsupported CCC: direct to an address, or broadcast (R368). -/
def execUnsupportedCcc (addr : Option Nat) (s : State) : Host.Outcome State Fault Refusal := s.chip fun c =>
  Chip.i3 (if c.i3cUp ∧ (addr = none ∨ addr = c.dic.i3c.dyn) then c.unsup 0x100 else c) fun i => if addr.isSome ∧ addr = i.dyn then { i with nack := true } else i

/-- CONTROLLER_ROLE_OFFER. A controller-role hand-off offer (R52). -/
def execControllerRoleOffer (addr : Nat) (s : State) : Host.Outcome State Fault Refusal := s.chip fun c => c.i3 fun i => if i.dyn = some addr then { i with nack := true } else i

/-- ENEC. ENEC (R368). -/
def execEnec (s : State) : Host.Outcome State Fault Refusal := s.chip fun c => c.i3 fun i => { i with ibi := true }

/-- DISEC. DISEC (R368). -/
def execDisec (s : State) : Host.Outcome State Fault Refusal := s.chip fun c => c.i3 fun i => { i with ibi := false }

/-- RSTDAA. RSTDAA (R368). -/
def execRstdaa (s : State) : Host.Outcome State Fault Refusal := s.chip fun c => c.i3 fun i => { i with dyn := none }

/-- HDR_ENTRY. HDR entry (R368). -/
def execHdrEntry (s : State) : Host.Outcome State Fault Refusal := s.chip fun c => c.i3 fun i => { i with hdr := true }

end Sys2Proof.Machine
end

