-- ==== Sys2Proof/Machine/CmdKeeper.lean ====
section
/-! DEFINITION. Sys2Proof/Machine/CmdKeeper.lean: the commands of Keeper, worlds, the watchdog, debug and firmware. -/
namespace Sys2Proof.Machine
open Ob

/-- ECALL_SECURE. An `ecall` in N-M at a `pc` (R337). -/
def execEcallSecure (pc : BitVec 32) (s : State) : Host.Outcome State Fault Refusal := s.chip fun c => c.ecall pc

/-- SECURE_INTERRUPT. A pending, enabled secure-line interrupt is taken at a `pc` (R337). -/
def execSecureInterrupt (pc : BitVec 32) (s : State) : Host.Outcome State Fault Refusal := s.chip fun c => c.secureIrq pc

/-- MRET_TO_NORMAL. An `mret` with `kwstat`[1] set, with the registers as secure firmware left them (R338; log entry 31). -/
def execMretToNormal (npp : Bool) (nepc entry mie : BitVec 32) (a : List (BitVec 32)) (s : State) : Host.Outcome State Fault Refusal := s.chip fun c => c.mret { npp := npp, nepc := nepc, entry := entry, mie := mie, a := a }

/-- WDT_ENABLE. A commit of WDT_ENABLE = 1 (R347). -/
def execWdtEnable (w : World) (s : State) : Host.Outcome State Fault Refusal := s.commit w [⟨WDT_ENABLE, 0, 1⟩]

/-- WDT_PERIOD. A commit of WDT_PERIOD (R347). -/
def execWdtPeriod (w : World) (v : Nat) (s : State) : Host.Outcome State Fault Refusal := s.commit w [⟨WDT_PERIOD, 0, v⟩]

/-- WORLD_HO_REQ. A commit of WORLD_HO_REQ (R342). -/
def execWorldHoReq (w : World) (u : Nat) (s : State) : Host.Outcome State Fault Refusal := s.commit w [⟨WORLD_HO_REQ, 0, u⟩]

/-- WORLD_HO_RELEASE. A commit of WORLD_HO_RELEASE (R342). -/
def execWorldHoRelease (w : World) (u : Nat) (s : State) : Host.Outcome State Fault Refusal := s.commit w [⟨WORLD_HO_RELEASE, 0, u⟩]

/-- WORLD_HO_REFUSE. A commit of WORLD_HO_REFUSE (R342). -/
def execWorldHoRefuse (w : World) (u : Nat) (s : State) : Host.Outcome State Fault Refusal := s.commit w [⟨WORLD_HO_REFUSE, 0, u⟩]

/-- WORLD_HO_WAIT_EXPIRY. WORLD_HO_WAIT has passed without release (R342). -/
def execWorldHoWaitExpiry (u : Nat) (s : State) : Host.Outcome State Fault Refusal := s.chip fun c => c.hoExpiry u

/-- HANDOVER_RESET_DONE. A unit's hand-over reset ends (R342). -/
def execHandoverResetDone (u : Nat) (s : State) : Host.Outcome State Fault Refusal := s.chip fun c => c.hoDone u

/-- WORLD_IRQ_PENDING. A W1C write of WORLD_IRQ_PENDING (R340). -/
def execWorldIrqPending (w : World) (v : Nat) (s : State) : Host.Outcome State Fault Refusal := s.chip fun c => if c.serves w then (c.w1c w ⟨WORLD_IRQ_PENDING, 0, v⟩).1 else c

/-- DEBUG_HALT. A halt request, or a breakpoint at a `pc` (R349). -/
def execDebugHalt (bp : Option (BitVec 32)) (s : State) : Host.Outcome State Fault Refusal := s.chip fun c => c.haltEvent bp

/-- FW_ACTIVATE. A commit of FW_ACTIVATE (R351). -/
def execFwActivate (w : World) (s : State) : Host.Outcome State Fault Refusal := s.commit w [⟨FW_ACTIVATE, 0, 1⟩]

/-- FW_QUIESCE_DONE. The `ecall` 0x51 of the normal world, or FW_QUIESCE_MAX (R351). -/
def execFwQuiesceDone (byEcall : Bool) (s : State) : Host.Outcome State Fault Refusal := s.chip fun c => c.fwQuiesced byEcall

/-- FW_READY. A commit of FW_READY (R351). -/
def execFwReady (w : World) (s : State) : Host.Outcome State Fault Refusal := s.commit w [⟨FW_READY, 0, 1⟩]

/-- FW_READY_TIMEOUT. FW_READY has not come within FW_READY_MAX, or the new image faulted (R351). -/
def execFwReadyTimeout (fault : Bool) (s : State) : Host.Outcome State Fault Refusal := s.chip fun c => c.fwTimeout fault

/-- UNTAKEABLE_NORMAL_TRAP. A trap whose normal-world handler would fault at fetch (R337). -/
def execUntakeableNormalTrap (pc mtvec cause tval : BitVec 32) (s : State) : Host.Outcome State Fault Refusal := s.chip fun c => c.untakeable pc mtvec cause tval

/-- WATCHDOG_PET. A write of 1 to `kwstat`[3] from S-M (R347). -/
def execWatchdogPet (s : State) : Host.Outcome State Fault Refusal := s.chip fun c => c.pet

/-- WATCHDOG_WARNING. The count reaches WDT_WARN percent of the period (R347). -/
def execWatchdogWarning (s : State) : Host.Outcome State Fault Refusal := s.chip fun c => c.wdtWarn

/-- SECURE_WATCHDOG_EXPIRY. The count reaches WDT_PERIOD (R348). -/
def execSecureWatchdogExpiry (s : State) : Host.Outcome State Fault Refusal := s.chip fun c => c.wdtExpiry

end Sys2Proof.Machine
end

