-- ==== Sys2Proof/Machine/CmdMctp.lean ====
section
/-! DEFINITION. Sys2Proof/Machine/CmdMctp.lean: the commands of MCTP control and the mailbox. -/
namespace Sys2Proof.Machine
open Ob

/-- MAILBOX_PACKET. The words of an inbound mailbox packet (R369). -/
def execMailboxPacket (ws : List (BitVec 32)) (s : State) : Host.Outcome State Fault Refusal := s.chip fun c => c.mailbox ws

/-- SET_ENDPOINT_ID. Set Endpoint ID (R364). -/
def execSetEndpointId (q : Ctl) (data : List (BitVec 8)) (s : State) : Host.Outcome State Fault Refusal := s.chip fun c => c.ctl q 1 data

/-- GET_ENDPOINT_ID. Get Endpoint ID (R364). -/
def execGetEndpointId (q : Ctl) (s : State) : Host.Outcome State Fault Refusal := s.chip fun c => c.ctl q 2 []

/-- GET_ENDPOINT_UUID. Get Endpoint UUID (R364). -/
def execGetEndpointUuid (q : Ctl) (s : State) : Host.Outcome State Fault Refusal := s.chip fun c => c.ctl q 3 []

/-- GET_MCTP_VERSION_SUPPORT. Get MCTP Version Support (R364). -/
def execGetMctpVersionSupport (q : Ctl) (data : List (BitVec 8)) (s : State) : Host.Outcome State Fault Refusal := s.chip fun c => c.ctl q 4 data

/-- GET_MESSAGE_TYPE_SUPPORT. Get Message Type Support (R364). -/
def execGetMessageTypeSupport (q : Ctl) (s : State) : Host.Outcome State Fault Refusal := s.chip fun c => c.ctl q 5 []

/-- GET_VENDOR_DEFINED_MESSAGE_SUPPORT. Get Vendor Defined Message Support (R364). -/
def execGetVendorDefinedMessageSupport (q : Ctl) (data : List (BitVec 8)) (s : State) : Host.Outcome State Fault Refusal := s.chip fun c => c.ctl q 6 data

/-- UNSUPPORTED_CONTROL_CMD. Any other MCTP control command (R364). -/
def execUnsupportedControlCmd (q : Ctl) (cmd : Nat) (s : State) : Host.Outcome State Fault Refusal := s.chip fun c => if 1 ≤ cmd ∧ cmd ≤ 6 then c else c.ctl q cmd []

/-- MAILBOX_OUT_WORD_TAKEN. The carrier takes the outbound mailbox word (R53). -/
def execMailboxOutWordTaken (s : State) : Host.Outcome State Fault Refusal := s.chip fun c => c.dc Dic.mbTaken

end Sys2Proof.Machine
end

