-- ==== Sys2Proof/Machine/CmdMirror.lean ====
section
/-! DEFINITION. Sys2Proof/Machine/CmdMirror.lean: the commands of mirroring and the hierarchy. -/
namespace Sys2Proof.Machine
open Ob

/-- MIR_PACK_WAIT_EXPIRY. MIR_PACK_WAIT since a flit's first record: class 0 deltas, class 1 journal (R269). -/
def execMirPackWaitExpiry (cls : Nat) (s : State) : Host.Outcome State Fault Refusal := s.fabric fun f => f.packExpiry cls

/-- DELTA_APPLY. A slice of the mirror applies the oldest line delta (R271). -/
def execDeltaApply (slice : Nat) (s : State) : Host.Outcome State Fault Refusal := s.engine fun e => e.deltaApply slice

/-- BEACON. A Beacon through the crossbar (R276). -/
def execBeacon (h : Hdr) (b : BeaconB) (s : State) : Host.Outcome State Fault Refusal := s.fabric fun f => f.beacon h b

/-- CLAIM. CLAIM at the witness (R278). -/
def execClaim (h : Hdr) (partner : Nat) (s : State) : Host.Outcome State Fault Refusal := s.fabric fun f => f.claim h partner

/-- GRANT. GRANT (R277). -/
def execGrant (h : Hdr) (s : State) : Host.Outcome State Fault Refusal := s.fabric fun f => f.grant h

/-- DENY. DENY (R277). -/
def execDeny (h : Hdr) (s : State) : Host.Outcome State Fault Refusal := s.fabric fun f => f.deny h

/-- RELEASE. RELEASE at the witness (R278). -/
def execRelease (h : Hdr) (partner : Nat) (s : State) : Host.Outcome State Fault Refusal := s.fabric fun f => f.releaseMsg h partner

/-- MIR_FORCE_SOLO. A commit of MIR_FORCE_SOLO (R277). -/
def execMirForceSolo (w : World) (s : State) : Host.Outcome State Fault Refusal := s.commit w [⟨MIR_FORCE_SOLO, 0, 1⟩]

/-- MIR_REJOIN. A commit of MIR_REJOIN (R284). -/
def execMirRejoin (w : World) (s : State) : Host.Outcome State Fault Refusal := s.commit w [⟨MIR_REJOIN, 0, 1⟩]

/-- JOIN. JOIN (R284). -/
def execJoin (h : Hdr) (s : State) : Host.Outcome State Fault Refusal := s.fabric fun f => f.join h

/-- RESYNC_COPY. A channel of the resynchronisation copies its next sector (R284). -/
def execResyncCopy (ch : Nat) (s : State) : Host.Outcome State Fault Refusal := s.fabric fun f => f.resync ch

/-- MIR_SWAP. A commit of MIR_SWAP (R285). -/
def execMirSwap (w : World) (unit : Nat) (s : State) : Host.Outcome State Fault Refusal := s.commit w [⟨MIR_SWAP, 0, unit⟩]

/-- MIR_UNIT_SETTLE. A commit of MIR_UNIT_SETTLE (R283). -/
def execMirUnitSettle (w : World) (unit : Nat) (s : State) : Host.Outcome State Fault Refusal := s.commit w [⟨MIR_UNIT_SETTLE, 0, unit⟩]

/-- HIER_MAP_SET. A commit of HIER_MAP_SET (R289). -/
def execHierMapSet (w : World) (unit v : Nat) (s : State) : Host.Outcome State Fault Refusal := s.commit w [⟨HIER_MAP_SET, 0, unit + v * 2 ^ 16⟩]

/-- MAP_UPDATE. MAP_UPDATE (R289). -/
def execMapUpdate (h : Hdr) (unit v : Nat) (s : State) : Host.Outcome State Fault Refusal := s.fabric fun f => f.mapUpdate h unit v

/-- MAP_ACK. MAP_ACK (R289). -/
def execMapAck (h : Hdr) (k : Nat) (s : State) : Host.Outcome State Fault Refusal := s.fabric fun f => f.mapAck h k

/-- ADOPT. ADOPT (R289). -/
def execAdopt (h : Hdr) (lost : Nat) (s : State) : Host.Outcome State Fault Refusal := s.fabric fun f => f.adoptMsg h lost

/-- HIER_RETRY_EXPIRY. HIER_RETRY has passed without an answer (R288). -/
def execHierRetryExpiry (seq : Nat) (s : State) : Host.Outcome State Fault Refusal := s.fabric fun f => f.retry seq

/-- HIER_WITNESS_CLEAR. A commit of HIER_WITNESS_CLEAR (R278). -/
def execHierWitnessClear (w : World) (node : Nat) (s : State) : Host.Outcome State Fault Refusal := s.commit w [⟨HIER_WITNESS_CLEAR, 0, node⟩]

/-- UNKNOWN_HIERARCHY_MESSAGE. A hierarchy message of no row of Table 11.7, from 0xFF or for another node (R287). -/
def execUnknownHierarchyMessage (h : Hdr) (typ : Nat) (s : State) : Host.Outcome State Fault Refusal := s.fabric fun f => f.unknownMsg h typ

/-- LEASE_DELTA_APPLY. The mirror applies the oldest lease delta (R271). -/
def execLeaseDeltaApply (s : State) : Host.Outcome State Fault Refusal := s.fabric fun f => f.leaseApply

/-- JOURNAL_RECORD_APPLY. The mirror applies the oldest journal record (R274). -/
def execJournalRecordApply (s : State) : Host.Outcome State Fault Refusal := s.fabric fun f => f.journalApply

/-- JOURNAL_TIMEOUT. A record has not been reported applied within MIR_JOURNAL_TIMEOUT (R274). -/
def execJournalTimeout (s : State) : Host.Outcome State Fault Refusal := s.fabric fun f => f.journalTimeout

/-- BEACON_SEND. MIR_BEACON_PERIOD has passed (R275). -/
def execBeaconSend (s : State) : Host.Outcome State Fault Refusal := s.fabric fun f => f.beaconSend

/-- BEACON_PATH_LOSS. Beacons have arrived only over the crossbar for MIR_BEACON_MISS periods (R279). -/
def execBeaconPathLoss (s : State) : Host.Outcome State Fault Refusal := s.fabric fun f => f.pathLoss

/-- SERVING_LEASE_LAPSE. The serving lease lapses (R276). -/
def execServingLeaseLapse (s : State) : Host.Outcome State Fault Refusal := s.fabric fun f => f.lapse

/-- FENCE_GUARD_EXPIRY. MIR_FENCE_GUARD has passed since GRANT (R281). -/
def execFenceGuardExpiry (s : State) : Host.Outcome State Fault Refusal := s.fabric fun f => f.guardExpiry

/-- FAILOVER_ADOPT. The receive pool and apply buffers have drained (R282). -/
def execFailoverAdopt (s : State) : Host.Outcome State Fault Refusal := s.fabric fun f => f.adoptNow

end Sys2Proof.Machine
end

