-- ==== Sys2Proof/Machine/CmdPerf.lean ====
section
/-! DEFINITION. Sys2Proof/Machine/CmdPerf.lean: the commands of the monitor, the trace unit and the TAP. -/
namespace Sys2Proof.Machine
open Ob

/-- PM_SNAP. A commit of PM_SNAP = 1 (R375). -/
def execPmSnap (w : World) (s : State) : Host.Outcome State Fault Refusal := s.commit w [⟨PM_SNAP, 0, 1⟩]

/-- SNAP_BROADCAST. A block receives the snapshot broadcast (R375). -/
def execSnapBroadcast (block : Nat) (s : State) : Host.Outcome State Fault Refusal := s.chip fun c => c.snapBroadcast block

/-- PM_CTR_CLEAR. A commit of PM_CTR_CLEAR (R374). -/
def execPmCtrClear (w : World) (v : Nat) (s : State) : Host.Outcome State Fault Refusal := s.commit w [⟨PM_CTR_CLEAR, 0, v⟩]

/-- RING_WRITE_COMPLETE. The 64 B write of the sampler's ring, or with `trc` of the trace unit's, has completed (R378). -/
def execRingWriteComplete (trc : Bool) (s : State) : Host.Outcome State Fault Refusal := s.chip fun c => c.ringDone trc

/-- PM_SMP_FLUSH. A commit of PM_SMP_FLUSH = 1 (R378). -/
def execPmSmpFlush (w : World) (s : State) : Host.Outcome State Fault Refusal := s.commit w [⟨PM_SMP_FLUSH, 0, 1⟩]

/-- HIST_MERGE_FLUSH. 10 µs have passed since a slice last sent its merged increments (R380). -/
def execHistMergeFlush (slice : Nat) (s : State) : Host.Outcome State Fault Refusal := s.chip fun c => c.histSend slice

/-- HIST_INCREMENT. The oldest increment arrives at stop 46, which takes it or has no room (R380). -/
def execHistIncrement (accept : Bool) (s : State) : Host.Outcome State Fault Refusal := s.chip fun c => c.histArrive accept

/-- PM_HIST_CLEAR. A commit of PM_HIST_CLEAR = 1 (R380). -/
def execPmHistClear (w : World) (s : State) : Host.Outcome State Fault Refusal := s.commit w [⟨PM_HIST_CLEAR, 0, 1⟩]

/-- TRACE_RECORD. The trace unit forms a record (R384). -/
def execTraceRecord (src : TrcSrc) (s : State) : Host.Outcome State Fault Refusal := s.chip fun c => c.trace src

/-- BYPASS. Any other instruction code (R382). -/
def execBypass (code : Nat) (s : State) : Host.Outcome State Fault Refusal := s.chip fun c => if code = 1 ∨ code = 2 then c else c.tapIr code

/-- TAP_INSTRUMENT_OPERATION. A data-register scan performs an instrument operation (R383). -/
def execTapInstrumentOperation (op : TapOp) (s : State) : Host.Outcome State Fault Refusal := s.chip fun c => c.tapOp op

/-- SAMPLER_RECORD. The oldest sampler record on its way arrives at stop 46 (R378). -/
def execSamplerRecord (s : State) : Host.Outcome State Fault Refusal := s.chip fun c => c.smpArrive

/-- TAP_RESET. `mg_trst_n` or Test-Logic-Reset (R382). -/
def execTapReset (s : State) : Host.Outcome State Fault Refusal := s.chip fun c => c.q Pm.tapReset

/-- IDCODE. The IDCODE instruction (R382). -/
def execIdcode (s : State) : Host.Outcome State Fault Refusal := s.chip fun c => c.tapIr 1

/-- IJTAG. The IJTAG instruction (R383). -/
def execIjtag (s : State) : Host.Outcome State Fault Refusal := s.chip fun c => c.tapIr 2

end Sys2Proof.Machine
end

