-- ==== Sys2Proof/Machine/CmdPlace.lean ====
section
/-! DEFINITION. Sys2Proof/Machine/CmdPlace.lean: the commands of heat, Drift, re-mooring and handoff. -/
namespace Sys2Proof.Machine
open Ob

/-- DRIFT_START. A commit of DRIFT_START (R218). -/
def execDriftStart (w : World) (v : Nat) (s : State) : Host.Outcome State Fault Refusal := s.commit w [⟨DRIFT_START, 0, v⟩]

/-- DRIFT_COPY_ISSUE. A Drift channel issues its next copy (R219). -/
def execDriftCopyIssue (ch : Nat) (s : State) : Host.Outcome State Fault Refusal := s.engine fun e => e.driftCopy ch

/-- DRIFT_FLIP. The last copy has retired (R219). -/
def execDriftFlip (ch : Nat) (s : State) : Host.Outcome State Fault Refusal := s.engine fun e => e.driftFlip ch

/-- DRIFT_DRAIN_REPORT. A slice reports that its work under the old gen has retired (R219). -/
def execDriftDrainReport (ch slice : Nat) (s : State) : Host.Outcome State Fault Refusal := s.engine fun e => e.driftReport ch slice

/-- DRIFT_ABORT. A commit of DRIFT_ABORT (R221). -/
def execDriftAbort (w : World) (ch : Nat) (s : State) : Host.Outcome State Fault Refusal := s.commit w [⟨DRIFT_ABORT, 0, ch⟩]

/-- REMOOR_REQUEST. A commit of REMOOR_REQUEST (R222). -/
def execRemoorRequest (w : World) (unit node : Nat) (s : State) : Host.Outcome State Fault Refusal := s.commit w [⟨REMOOR_REQUEST, 0, unit + node * 2 ^ 16⟩]

/-- REMOOR_TRANSFER_OP. A slice of O issues a transfer operation (R224). -/
def execRemoorTransferOp (slice : Nat) (s : State) : Host.Outcome State Fault Refusal := s.engine fun e => e.transferOp slice

/-- REMOOR_FWD_TIMEOUT. A forwarded request has had no answer within REMOOR_FWD_TIMEOUT (R225). -/
def execRemoorFwdTimeout (id : Nat) (s : State) : Host.Outcome State Fault Refusal := s.engine fun e => e.fwdTimeout id

/-- BUCKET_MOVE. A commit of BUCKET_MOVE (R229). -/
def execBucketMove (w : World) (b to_ : Nat) (s : State) : Host.Outcome State Fault Refusal := s.commit w [⟨BUCKET_MOVE, 0, b + to_ * 2 ^ 8⟩]

/-- SLICE_PARK. A commit of SLICE_PARK (R230). -/
def execSlicePark (w : World) (v : Nat) (s : State) : Host.Outcome State Fault Refusal := s.commit w [⟨SLICE_PARK, 0, v⟩]

/-- SPARE_SWAP. A commit of SPARE_SWAP (R231). -/
def execSpareSwap (w : World) (k : Nat) (s : State) : Host.Outcome State Fault Refusal := s.commit w [⟨SPARE_SWAP, 0, k⟩]

/-- HEAT_PASS_START. HEAT_SCAN_PERIOD has passed (R216). -/
def execHeatPassStart (s : State) : Host.Outcome State Fault Refusal := s.engine fun e => e.heatStart

/-- HEAT_DELTA. The oldest heat delta arrives (R215). -/
def execHeatDelta (s : State) : Host.Outcome State Fault Refusal := s.engine fun e => e.heatTake

/-- REMOOR_PREPARE_TIMEOUT. No PREPARED from both within REMOOR_PREPARE_MAX (R223). -/
def execRemoorPrepareTimeout (s : State) : Host.Outcome State Fault Refusal := s.engine fun e => e.prepareTimeout

/-- REMOOR_DRAIN_EXPIRY. REMOOR_DRAIN has passed (R222). -/
def execRemoorDrainExpiry (s : State) : Host.Outcome State Fault Refusal := s.engine fun e => e.drainExpiry

/-- REMOOR_XFER_TIMEOUT. N has been unreachable beyond REMOOR_XFER_MAX (R228). -/
def execRemoorXferTimeout (s : State) : Host.Outcome State Fault Refusal := s.engine fun e => e.xferTimeout

/-- HANDOFF_QUIESCED. Slice A has nothing open for the bucket (R229). -/
def execHandoffQuiesced (s : State) : Host.Outcome State Fault Refusal := s.engine fun e => e.handoffQuiesced

/-- HANDOFF_DONE. Slice B receives DONE (R229). -/
def execHandoffDone (s : State) : Host.Outcome State Fault Refusal := s.engine fun e => e.handoffDone

end Sys2Proof.Machine
end

