-- ==== Sys2Proof/Machine/CmdPools.lean ====
section
/-! DEFINITION. Sys2Proof/Machine/CmdPools.lean: the commands of pools, binding, the tile map and the Guard. -/
namespace Sys2Proof.Machine
open Ob

/-- The writes of a CAID_BIND: the fields given, in ascending order (R68). -/
def bindWrs (caid : Nat) (port biid pools : Option Nat) : List OWr :=
  (port.map fun v => ⟨CAID_PORT, caid, v⟩).toList ++ (biid.map fun v => ⟨CAID_BIID, caid, v⟩).toList ++ (pools.map fun v => ⟨CAID_POOLS, caid, v⟩).toList

/-- CAID_BIND. A commit of some of a CAID's binding-record fields (R68). -/
def execCaidBind (w : World) (caid : Nat) (port biid pools : Option Nat) (s : State) : Host.Outcome State Fault Refusal := s.commit w (bindWrs caid port biid pools)

/-- CAID_UNBIND_PLANNED. A commit of CAID_UNBIND = 1 (R72). -/
def execCaidUnbindPlanned (w : World) (caid : Nat) (s : State) : Host.Outcome State Fault Refusal := s.commit w [⟨CAID_UNBIND, caid, 1⟩]

/-- CAID_UNBIND_FORCED. A commit of CAID_UNBIND = 2 (R72). -/
def execCaidUnbindForced (w : World) (caid : Nat) (s : State) : Host.Outcome State Fault Refusal := s.commit w [⟨CAID_UNBIND, caid, 2⟩]

/-- POOL_ADD. A commit of POOL_BASE, POOL_UNITS and POOL_TMBASE (R62). -/
def execPoolAdd (w : World) (p base units tm : Nat) (s : State) : Host.Outcome State Fault Refusal := s.commit w [⟨POOL_BASE, p, base⟩, ⟨POOL_UNITS, p, units⟩, ⟨POOL_TMBASE, p, tm⟩]

/-- POOL_REMOVE. A commit of POOL_UNITS = 0 (R64). -/
def execPoolRemove (w : World) (p : Nat) (s : State) : Host.Outcome State Fault Refusal := s.commit w [⟨POOL_UNITS, p, 0⟩]

/-- POOL_PURGE_COMPLETE. Both steps of a purge have ended everywhere (R64). -/
def execPoolPurgeComplete (p : Nat) (s : State) : Host.Outcome State Fault Refusal := s.engine fun e => e.purgeDone p

/-- TILE_MAP_WRITE. A commit of TILE_MAP_WRITE (R79). -/
def execTileMapWrite (w : World) (v : Nat) (s : State) : Host.Outcome State Fault Refusal := s.commit w [⟨TILE_MAP_WRITE, 0, v⟩]

/-- TILE_MAP_FILL. A commit of TILE_MAP_FILL (R79). -/
def execTileMapFill (w : World) (v : Nat) (s : State) : Host.Outcome State Fault Refusal := s.commit w [⟨TILE_MAP_FILL, 0, v⟩]

/-- GUARD_ARM. A commit of GUARD_ARM = 1 (R83). -/
def execGuardArm (w : World) (s : State) : Host.Outcome State Fault Refusal := s.commit w [⟨GUARD_ARM, 0, 1⟩]

end Sys2Proof.Machine
end

