-- ==== Sys2Proof/Machine/CmdPower.lean ====
section
/-! DEFINITION. Sys2Proof/Machine/CmdPower.lean: the commands of power, clocks and reset. -/
namespace Sys2Proof.Machine
open Ob

/-- The vote object of a world (R315). -/
def voteOb (w : World) : Nat := match w with | .secure => PWR_VOTE_S | .normal => PWR_VOTE_NS

/-- RAIL_ACK. `ack` of a rail rises or falls: 0 VCO, 1 VSA, 2 VSL, 3 the retention rail (R57, Table 02.8). -/
def execRailAck (rail : Nat) (up : Bool) (s : State) : Host.Outcome State Fault Refusal := s.chip fun c => c.railAck rail up

/-- RAIL_ACK_TIMEOUT. A rail request has had no `ack` for 800 AONCLK cycles (R58). -/
def execRailAckTimeout (rail : Nat) (s : State) : Host.Outcome State Fault Refusal := s.chip fun c => c.railTimeout rail

/-- PWR_LEVEL. A commit of PWR_LEVEL (R318). -/
def execPwrLevel (w : World) (v : Nat) (s : State) : Host.Outcome State Fault Refusal := s.commit w [⟨PWR_LEVEL, 0, v⟩]

/-- PWR_KEEPER_CLK. A commit of PWR_KEEPER_CLK (R329, R332). -/
def execPwrKeeperClk (w : World) (v : Nat) (s : State) : Host.Outcome State Fault Refusal := s.commit w [⟨PWR_KEEPER_CLK, 0, v⟩]

/-- PWR_VOTE. A commit of the committing world's vote for a domain (R315). -/
def execPwrVote (w : World) (el : Nat) (on : Bool) (s : State) : Host.Outcome State Fault Refusal := s.commit w [⟨voteOb w, el, b2n on⟩]

/-- DOMAIN_SLEEP_ENTRY. A domain without votes has passed its clamp step (R316). -/
def execDomainSleepEntry (el : Nat) (s : State) : Host.Outcome State Fault Refusal := s.chip fun c => c.domainEntry el

/-- DOMAIN_SLEEP_EXIT. A domain that votes or a wake brought back is in service (R313, R317). -/
def execDomainSleepExit (el : Nat) (s : State) : Host.Outcome State Fault Refusal := s.chip fun c => c.domainExit el

/-- PWR_FORCE_WAKE. A commit of PWR_FORCE_WAKE (R319). -/
def execPwrForceWake (w : World) (el : Nat) (s : State) : Host.Outcome State Fault Refusal := s.commit w [⟨PWR_FORCE_WAKE, 0, el⟩]

/-- BLOCK_ECLIPSE_REQUEST. A commit of PWR_BLOCK_SLEEP = 1 (R321). -/
def execBlockEclipseRequest (w : World) (s : State) : Host.Outcome State Fault Refusal := s.commit w [⟨PWR_BLOCK_SLEEP, 0, 1⟩]

/-- BLOCK_EXTINGUISH_REQUEST. A commit of PWR_BLOCK_SLEEP = 2 (R321). -/
def execBlockExtinguishRequest (w : World) (s : State) : Host.Outcome State Fault Refusal := s.commit w [⟨PWR_BLOCK_SLEEP, 0, 2⟩]

/-- BLOCK_WAKE_COMMIT. A commit of PWR_BLOCK_SLEEP = 0 (R324). -/
def execBlockWakeCommit (w : World) (s : State) : Host.Outcome State Fault Refusal := s.commit w [⟨PWR_BLOCK_SLEEP, 0, 0⟩]

/-- WAKE_SOURCE. A wake source, by its bit of Table 13.6, is sampled (R322). -/
def execWakeSource (n : Nat) (s : State) : Host.Outcome State Fault Refusal := s.chip fun c => c.wakeSource n

/-- POWER_ON_RESET. `rs_por_n` is asserted (R56, R331). -/
def execPowerOnReset (s : State) : Host.Outcome State Fault Refusal := s.chip fun c => c.porAssert

/-- POWER_ON_RESET_RELEASE. `rs_por_n` is deasserted: start-up begins (R329). -/
def execPowerOnResetRelease (s : State) : Host.Outcome State Fault Refusal := s.chip fun c => c.porRelease

/-- WARM_RESET. `rs_warm_n` is asserted (R56, R330). -/
def execWarmReset (s : State) : Host.Outcome State Fault Refusal := s.chip fun c => c.warmAssert

/-- WARM_RESET_RELEASE. `rs_warm_n` is deasserted (R330). -/
def execWarmResetRelease (s : State) : Host.Outcome State Fault Refusal := s.chip fun c => c.warmRelease

/-- BROWN_OUT. The always-on regulator has browned out (R320). -/
def execBrownOut (s : State) : Host.Outcome State Fault Refusal := s.chip fun c => c.brownOut

/-- BROWN_OUT_RECOVERY. The always-on regulator has recovered (R320). -/
def execBrownOutRecovery (s : State) : Host.Outcome State Fault Refusal := s.chip fun c => c.brownRecovery

/-- BRACE_ENTRY. Brace is entered (R326, R328). -/
def execBraceEntry (s : State) : Host.Outcome State Fault Refusal := s.chip fun c => c.braceIn

/-- BRACE_EXIT. The eighth good AONCLK edge ends Brace (R327). -/
def execBraceExit (s : State) : Host.Outcome State Fault Refusal := s.chip fun c => c.braceOut

/-- SUPPLY_RESET. The CORE supply has fallen below 0.64 V (R328). -/
def execSupplyReset (s : State) : Host.Outcome State Fault Refusal := s.chip fun c => c.supplyReset

/-- SUPPLY_RESET_RECOVERY. The CORE supply has been good for 100 µs (R328). -/
def execSupplyResetRecovery (s : State) : Host.Outcome State Fault Refusal := s.chip fun c => c.supplyRecovery

/-- LEVEL_SWITCH. The slice and Gallery clocks switch frequency (R318). -/
def execLevelSwitch (s : State) : Host.Outcome State Fault Refusal := s.chip fun c => c.levelSwitch.advance

/-- BLOCK_SLEEP_QUIESCED. Steps 2 and 3 of block sleep entry have ended (R321). -/
def execBlockSleepQuiesced (s : State) : Host.Outcome State Fault Refusal := s.chip fun c => c.quiesced

/-- WAKE_TIMER_EXPIRY. The wake timer has run out (R322). -/
def execWakeTimerExpiry (s : State) : Host.Outcome State Fault Refusal := s.chip fun c => c.wakeTimer

/-- ALWAYS_ON_SUPPLY_LOSS. The always-on input supply is lost (R331). -/
def execAlwaysOnSupplyLoss (s : State) : Host.Outcome State Fault Refusal := s.chip fun c => c.supplyLoss

/-- ALWAYS_ON_SUPPLY_APPLIED. The always-on input supply is applied (R356). -/
def execAlwaysOnSupplyApplied (s : State) : Host.Outcome State Fault Refusal := s.chip fun c => c.supplyOn

/-- AONREG_HP_SETTLED. The always-on regulator has reached high-power mode (R319). -/
def execAonregHpSettled (s : State) : Host.Outcome State Fault Refusal := s.chip fun c => c.hpSettled

end Sys2Proof.Machine
end

