-- ==== Sys2Proof/Machine/CmdRas.lean ====
section
/-! DEFINITION. Sys2Proof/Machine/CmdRas.lean: the commands of RAS. -/
namespace Sys2Proof.Machine
open Ob

/-- SCRUB_STEP. A scrubber reads its next word (0, the SFA and its group) or DBS page (1) (R298). -/
def execScrubStep (g : Nat) (s : State) : Host.Outcome State Fault Refusal := s.engine fun e => e.scrubStep g

/-- REPEAT_REWRITE. A word that reached RAS_REWRITE_AT corrections is rewritten (R299). -/
def execRepeatRewrite (store unit word : Nat) (s : State) : Host.Outcome State Fault Refusal := s.engine fun e => e.repeatRewrite store unit word

/-- RELOCATE_STICKY. A sticky word is relocated (R300). -/
def execRelocateSticky (unit store word : Nat) (s : State) : Host.Outcome State Fault Refusal := s.engine fun e => e.relocate unit store word

/-- RAS_PAGE_RETIRE. A commit of RAS_PAGE_RETIRE (R301). -/
def execRasPageRetire (w : World) (v : Nat) (s : State) : Host.Outcome State Fault Refusal := s.commit w [⟨RAS_PAGE_RETIRE, 0, v⟩]

/-- RAS_BANK_RETIRE. A commit of RAS_BANK_RETIRE (R302). -/
def execRasBankRetire (w : World) (bank : Nat) (s : State) : Host.Outcome State Fault Refusal := s.commit w [⟨RAS_BANK_RETIRE, 0, bank⟩]

/-- RAS_INJECT. A commit of RAS_INJECT (R305). -/
def execRasInject (w : World) (v : Nat) (s : State) : Host.Outcome State Fault Refusal := s.commit w [⟨RAS_INJECT, 0, v⟩]

/-- RAS_RAW_READ. A commit of RAS_RAW_READ (R305). -/
def execRasRawRead (w : World) (v : Nat) (s : State) : Host.Outcome State Fault Refusal := s.commit w [⟨RAS_RAW_READ, 0, v⟩]

/-- RAS_FOGHORN_TEST. A commit of RAS_FOGHORN_TEST = 1 (R308). -/
def execRasFoghornTest (w : World) (s : State) : Host.Outcome State Fault Refusal := s.commit w [⟨RAS_FOGHORN_TEST, 0, 1⟩]

/-- ARB_STARVATION. A requester of an arbiter, by its row of Table 07.7, has waited beyond its limit; `cw` where the wait is one that R180
counts without a flag (R180). -/
def execArbStarvation (row inst : Nat) (cw : Bool) (s : State) : Host.Outcome State Fault Refusal := s.engine fun e => e.starvation row inst cw

/-- BANK_COPY_DONE. The last word of a bank has been copied (R302). -/
def execBankCopyDone (s : State) : Host.Outcome State Fault Refusal := s.engine fun e => e.bankDone

end Sys2Proof.Machine
end

