-- ==== Sys2Proof/Machine/CmdRemoor.lean ====
section
/-! DEFINITION. Sys2Proof/Machine/CmdRemoor.lean: the commands of the messages of re-mooring. -/
namespace Sys2Proof.Machine
open Ob

/-- PREPARE. PREPARE (R223). -/
def execPrepare (h : Hdr) (unit o n : Nat) (tiles : List TileB) (s : State) : Host.Outcome State Fault Refusal := s.fabric fun f => f.prepare h unit o n tiles

/-- PREPARED. PREPARED (R222). -/
def execPrepared (h : Hdr) (s : State) : Host.Outcome State Fault Refusal := s.fabric fun f => f.prepared h

/-- REFUSE. REFUSE (R228). -/
def execRefuse (h : Hdr) (_check : Nat) (s : State) : Host.Outcome State Fault Refusal := s.fabric fun f => f.refuse h

/-- START. START (R224). -/
def execStart (h : Hdr) (unit : Nat) (s : State) : Host.Outcome State Fault Refusal := s.fabric fun f => f.start h unit

/-- SECTOR. SECTOR: the state code and sharer field of each of its four lines (R226). -/
def execSector (h : Hdr) (sec : Nat) (ls : List (Nat × Nat)) (s : State) : Host.Outcome State Fault Refusal := s.fabric fun f => f.sector h sec ls

/-- ACK. ACK (R224). -/
def execAck (h : Hdr) (sec : Nat) (s : State) : Host.Outcome State Fault Refusal := s.fabric fun f => f.ack h sec

/-- TRANSFER_DONE. TRANSFER_DONE (R222). -/
def execTransferDone (h : Hdr) (unit : Nat) (s : State) : Host.Outcome State Fault Refusal := s.fabric fun f => f.transferDone h unit

/-- FLIP. FLIP (R222). -/
def execFlip (h : Hdr) (unit : Nat) (s : State) : Host.Outcome State Fault Refusal := s.fabric fun f => f.flip h unit

/-- FLIPPED. FLIPPED (R222). -/
def execFlipped (h : Hdr) (unit : Nat) (s : State) : Host.Outcome State Fault Refusal := s.fabric fun f => f.flipped h unit

/-- DRAIN_DONE. DRAIN_DONE (R222). -/
def execDrainDone (h : Hdr) (unit : Nat) (s : State) : Host.Outcome State Fault Refusal := s.fabric fun f => f.drainDone h unit

/-- ABORT. ABORT (R228). -/
def execAbort (h : Hdr) (unit : Nat) (s : State) : Host.Outcome State Fault Refusal := s.fabric fun f => f.abort h unit

/-- FWD_REQ. FWD_REQ (R226). -/
def execFwdReq (h : Hdr) (b : FwdBeat) (s : State) : Host.Outcome State Fault Refusal := s.fabric fun f => f.fwdReq h b

/-- FWD_RSP. FWD_RSP (R225). -/
def execFwdRsp (h : Hdr) (b : FwdAnsB) (s : State) : Host.Outcome State Fault Refusal := s.fabric fun f => f.fwdRsp h b

end Sys2Proof.Machine
end

