-- ==== Sys2Proof/Machine/CmdSlice.lean ====
section
/-! DEFINITION. Sys2Proof/Machine/CmdSlice.lean: the commands of the slices: grants, lookups and what completes them. -/
namespace Sys2Proof.Machine
open Ob

/-- SLICE_GRANT. One SLCLK cycle of the slice arbiter (R169). -/
def execSliceGrant (slice : Nat) (s : State) : Host.Outcome State Fault Refusal := s.engine fun e => e.sliceGrant slice

/-- LOOKUP_ISSUE. The oldest eligible per-line head takes a context and looks up (R170). -/
def execLookupIssue (slice idx : Nat) (s : State) : Host.Outcome State Fault Refusal := s.engine fun e => e.lookupIssue slice idx

/-- SET_CONFLICT_RETRY. The oldest waiter of a set repeats victim selection (R140). -/
def execSetConflictRetry (slice set : Nat) (s : State) : Host.Outcome State Fault Refusal := s.engine fun e => e.setRetry slice set

/-- HOLD_WINDOW_END. HOLD_WINDOW has passed since an ownership grant (R103). -/
def execHoldWindowEnd (slice idx : Nat) (s : State) : Host.Outcome State Fault Refusal := s.engine fun e => e.holdEnd slice idx

/-- DBS_FILL_COMPLETE. A DBS fill returns its sector (R143). -/
def execDbsFillComplete (slice sec : Nat) (s : State) : Host.Outcome State Fault Refusal := s.engine fun e => e.fillComplete slice sec

/-- TILE_WALK_COMPLETE. A tile-cache walk has returned its entry (R78). -/
def execTileWalkComplete (slice i : Nat) (s : State) : Host.Outcome State Fault Refusal := s.engine fun e => e.walkComplete slice i

/-- SWEEP_VISIT. A class 7 visit at the front of a slice acts on its line (R154). -/
def execSweepVisit (slice idx : Nat) (s : State) : Host.Outcome State Fault Refusal := s.engine fun e => e.sweepVisit slice idx

/-- SLICE_DARK. A parked slice goes dark (R230). -/
def execSliceDark (slice : Nat) (s : State) : Host.Outcome State Fault Refusal := s.engine fun e => e.sliceDark slice

/-- SLICE_DRAIN. A slice drains for a drain-effect object (R360). -/
def execSliceDrain (k : Nat) (s : State) : Host.Outcome State Fault Refusal := s.engine fun e => e.sliceDrain k

end Sys2Proof.Machine
end

