-- ==== Sys2Proof/Machine/Dispatch.lean ====
section
/-! DEFINITION. Sys2Proof/Machine/Dispatch.lean: the meaning of each command, one arm for each. -/
namespace Sys2Proof.Machine

def exec (i : Instr) (s : State) : Host.Outcome State Fault Refusal :=
  match i with
  | .railAck rail up => Sys2Proof.Machine.execRailAck rail up s
  | .railAckTimeout rail => Sys2Proof.Machine.execRailAckTimeout rail s
  | .pwrLevel w v => Sys2Proof.Machine.execPwrLevel w v s
  | .pwrKeeperClk w v => Sys2Proof.Machine.execPwrKeeperClk w v s
  | .pwrVote w el on => Sys2Proof.Machine.execPwrVote w el on s
  | .domainSleepEntry el => Sys2Proof.Machine.execDomainSleepEntry el s
  | .domainSleepExit el => Sys2Proof.Machine.execDomainSleepExit el s
  | .pwrForceWake w el => Sys2Proof.Machine.execPwrForceWake w el s
  | .blockEclipseRequest w => Sys2Proof.Machine.execBlockEclipseRequest w s
  | .blockExtinguishRequest w => Sys2Proof.Machine.execBlockExtinguishRequest w s
  | .blockWakeCommit w => Sys2Proof.Machine.execBlockWakeCommit w s
  | .wakeSource n => Sys2Proof.Machine.execWakeSource n s
  | .portUp port => Sys2Proof.Machine.execPortUp port s
  | .portDeparture f => Sys2Proof.Machine.execPortDeparture f s
  | .memRd d h m => Sys2Proof.Machine.execMemRd d h m s
  | .memInv nt h m => Sys2Proof.Machine.execMemInv nt h m s
  | .memClnEvct h m => Sys2Proof.Machine.execMemClnEvct h m s
  | .memSpecRd h m => Sys2Proof.Machine.execMemSpecRd h m s
  | .memWr h m pl => Sys2Proof.Machine.execMemWr h m pl s
  | .memWrPtl h m pl => Sys2Proof.Machine.execMemWrPtl h m pl s
  | .memRdFwd h => Sys2Proof.Machine.execMemRdFwd h s
  | .memWrFwd h => Sys2Proof.Machine.execMemWrFwd h s
  | .unsupportedHostBeat h kind opc => Sys2Proof.Machine.execUnsupportedHostBeat h kind opc s
  | .invalidKindBeat h grp kind opc => Sys2Proof.Machine.execInvalidKindBeat h grp kind opc s
  | .biconflict h => Sys2Proof.Machine.execBiconflict h s
  | .birsp h bitag rsp => Sys2Proof.Machine.execBirsp h bitag rsp s
  | .birspBlk h bitag rsp => Sys2Proof.Machine.execBirspBlk h bitag rsp s
  | .atomicOp h uop usize uoff data => Sys2Proof.Machine.execAtomicOp h uop usize uoff data s
  | .backingData h form dl pl => Sys2Proof.Machine.execBackingData h form dl pl s
  | .backingCompletion h opc dl => Sys2Proof.Machine.execBackingCompletion h opc dl s
  | .backingUioCompletion h status data => Sys2Proof.Machine.execBackingUioCompletion h status data s
  | .staleBackingResponse h o dl => Sys2Proof.Machine.execStaleBackingResponse h o dl s
  | .outboundBeatTaken port grp => Sys2Proof.Machine.execOutboundBeatTaken port grp s
  | .sliceGrant slice => Sys2Proof.Machine.execSliceGrant slice s
  | .lookupIssue slice idx => Sys2Proof.Machine.execLookupIssue slice idx s
  | .snoopSlotAcquired slice idx => Sys2Proof.Machine.execSnoopSlotAcquired slice idx s
  | .setConflictRetry slice set => Sys2Proof.Machine.execSetConflictRetry slice set s
  | .holdWindowEnd slice idx => Sys2Proof.Machine.execHoldWindowEnd slice idx s
  | .dbsFillComplete slice sec => Sys2Proof.Machine.execDbsFillComplete slice sec s
  | .tileWalkComplete slice tile => Sys2Proof.Machine.execTileWalkComplete slice tile s
  | .dbsInPlaceRewrite slice => Sys2Proof.Machine.execDbsInPlaceRewrite slice s
  | .dbsPlacement slice => Sys2Proof.Machine.execDbsPlacement slice s
  | .dbsRelease slice => Sys2Proof.Machine.execDbsRelease slice s
  | .evict page => Sys2Proof.Machine.execEvict page s
  | .decline page => Sys2Proof.Machine.execDecline page s
  | .complete page => Sys2Proof.Machine.execComplete page s
  | .kept page => Sys2Proof.Machine.execKept page s
  | .dbsEvictRetryExpiry page => Sys2Proof.Machine.execDbsEvictRetryExpiry page s
  | .sweepDbsScan caid => Sys2Proof.Machine.execSweepDbsScan caid s
  | .sweepVisit slice idx => Sys2Proof.Machine.execSweepVisit slice idx s
  | .biTimeout slice slot caid => Sys2Proof.Machine.execBiTimeout slice slot caid s
  | .memTimeout slice idx => Sys2Proof.Machine.execMemTimeout slice idx s
  | .echoEntryExpiry slice ent => Sys2Proof.Machine.execEchoEntryExpiry slice ent s
  | .watchQuarantineExpiry slice idx => Sys2Proof.Machine.execWatchQuarantineExpiry slice idx s
  | .hIdleExit line => Sys2Proof.Machine.execHIdleExit line s
  | .hdcDisable w => Sys2Proof.Machine.execHdcDisable w s
  | .hdcDisableFinish slice => Sys2Proof.Machine.execHdcDisableFinish slice s
  | .hdcEnable w => Sys2Proof.Machine.execHdcEnable w s
  | .hdcPreload w v => Sys2Proof.Machine.execHdcPreload w v s
  | .hdcUnlockAll w => Sys2Proof.Machine.execHdcUnlockAll w s
  | .leaseExpiry l => Sys2Proof.Machine.execLeaseExpiry l s
  | .leaseBreak w l => Sys2Proof.Machine.execLeaseBreak w l s
  | .leaseBreakCaid w caid => Sys2Proof.Machine.execLeaseBreakCaid w caid s
  | .leaseFree w l => Sys2Proof.Machine.execLeaseFree w l s
  | .caidBind w caid port biid pools => Sys2Proof.Machine.execCaidBind w caid port biid pools s
  | .caidUnbindPlanned w caid => Sys2Proof.Machine.execCaidUnbindPlanned w caid s
  | .caidUnbindForced w caid => Sys2Proof.Machine.execCaidUnbindForced w caid s
  | .poolAdd w p base units tm => Sys2Proof.Machine.execPoolAdd w p base units tm s
  | .poolRemove w p => Sys2Proof.Machine.execPoolRemove w p s
  | .poolPurgeComplete p => Sys2Proof.Machine.execPoolPurgeComplete p s
  | .tileMapWrite w v => Sys2Proof.Machine.execTileMapWrite w v s
  | .tileMapFill w v => Sys2Proof.Machine.execTileMapFill w v s
  | .guardArm w => Sys2Proof.Machine.execGuardArm w s
  | .taintClear w el => Sys2Proof.Machine.execTaintClear w el s
  | .dramCommandTaken ch => Sys2Proof.Machine.execDramCommandTaken ch s
  | .dramReadResponse ch tag r => Sys2Proof.Machine.execDramReadResponse ch tag r s
  | .dramWriteCompletion ch tag => Sys2Proof.Machine.execDramWriteCompletion ch tag s
  | .dramTimeout ch tag => Sys2Proof.Machine.execDramTimeout ch tag s
  | .driftStart w v => Sys2Proof.Machine.execDriftStart w v s
  | .driftCopyIssue ch => Sys2Proof.Machine.execDriftCopyIssue ch s
  | .driftFlip ch => Sys2Proof.Machine.execDriftFlip ch s
  | .driftDrainReport ch slice => Sys2Proof.Machine.execDriftDrainReport ch slice s
  | .driftAbort w ch => Sys2Proof.Machine.execDriftAbort w ch s
  | .remoorRequest w unit node => Sys2Proof.Machine.execRemoorRequest w unit node s
  | .remoorTransferOp slice => Sys2Proof.Machine.execRemoorTransferOp slice s
  | .remoorFwdTimeout id => Sys2Proof.Machine.execRemoorFwdTimeout id s
  | .prepare h unit o n tiles => Sys2Proof.Machine.execPrepare h unit o n tiles s
  | .prepared h => Sys2Proof.Machine.execPrepared h s
  | .refuse h check => Sys2Proof.Machine.execRefuse h check s
  | .start h unit => Sys2Proof.Machine.execStart h unit s
  | .sector h sec ls => Sys2Proof.Machine.execSector h sec ls s
  | .ack h sec => Sys2Proof.Machine.execAck h sec s
  | .transferDone h unit => Sys2Proof.Machine.execTransferDone h unit s
  | .flip h unit => Sys2Proof.Machine.execFlip h unit s
  | .flipped h unit => Sys2Proof.Machine.execFlipped h unit s
  | .drainDone h unit => Sys2Proof.Machine.execDrainDone h unit s
  | .abort h unit => Sys2Proof.Machine.execAbort h unit s
  | .fwdReq h b => Sys2Proof.Machine.execFwdReq h b s
  | .fwdRsp h b => Sys2Proof.Machine.execFwdRsp h b s
  | .bucketMove w b to_ => Sys2Proof.Machine.execBucketMove w b to_ s
  | .slicePark w v => Sys2Proof.Machine.execSlicePark w v s
  | .sliceDark slice => Sys2Proof.Machine.execSliceDark slice s
  | .spareSwap w k => Sys2Proof.Machine.execSpareSwap w k s
  | .laneLock lane plane inv late => Sys2Proof.Machine.execLaneLock lane plane inv late s
  | .laneLockLoss lane => Sys2Proof.Machine.execLaneLockLoss lane s
  | .dataFlit corr seq cls shared ackseq acktype payload => Sys2Proof.Machine.execDataFlit corr seq cls shared ackseq acktype payload s
  | .idleFlit corr ackseq acktype => Sys2Proof.Machine.execIdleFlit corr ackseq acktype s
  | .controlFlit corr ackseq acktype cr cs => Sys2Proof.Machine.execControlFlit corr ackseq acktype cr cs s
  | .retrainRequestFlit corr ackseq acktype node excl isFresh => Sys2Proof.Machine.execRetrainRequestFlit corr ackseq acktype node excl isFresh s
  | .badFlit rs => Sys2Proof.Machine.execBadFlit rs s
  | .unknownKindFlit corr => Sys2Proof.Machine.execUnknownKindFlit corr s
  | .ts1 p => Sys2Proof.Machine.execTs1 p s
  | .ts2 p q => Sys2Proof.Machine.execTs2 p q s
  | .laneActivity lanes => Sys2Proof.Machine.execLaneActivity lanes s
  | .drxEnable w on => Sys2Proof.Machine.execDrxEnable w on s
  | .drxTrain w => Sys2Proof.Machine.execDrxTrain w s
  | .drxRetrainResume w => Sys2Proof.Machine.execDrxRetrainResume w s
  | .drxRetrainFresh w => Sys2Proof.Machine.execDrxRetrainFresh w s
  | .loopbackNearSerial w => Sys2Proof.Machine.execLoopbackNearSerial w s
  | .loopbackNearParallel w => Sys2Proof.Machine.execLoopbackNearParallel w s
  | .loopbackFarEnd w => Sys2Proof.Machine.execLoopbackFarEnd w s
  | .loopbackExit w => Sys2Proof.Machine.execLoopbackExit w s
  | .drxEyeCtrl w v => Sys2Proof.Machine.execDrxEyeCtrl w v s
  | .eyeScanComplete count => Sys2Proof.Machine.execEyeScanComplete count s
  | .drxErrInject w v => Sys2Proof.Machine.execDrxErrInject w v s
  | .mirPackWaitExpiry cls => Sys2Proof.Machine.execMirPackWaitExpiry cls s
  | .deltaApply slice => Sys2Proof.Machine.execDeltaApply slice s
  | .beacon h b => Sys2Proof.Machine.execBeacon h b s
  | .claim h partner => Sys2Proof.Machine.execClaim h partner s
  | .grant h => Sys2Proof.Machine.execGrant h s
  | .deny h => Sys2Proof.Machine.execDeny h s
  | .release h partner => Sys2Proof.Machine.execRelease h partner s
  | .mirForceSolo w => Sys2Proof.Machine.execMirForceSolo w s
  | .mirRejoin w => Sys2Proof.Machine.execMirRejoin w s
  | .join h => Sys2Proof.Machine.execJoin h s
  | .resyncCopy ch => Sys2Proof.Machine.execResyncCopy ch s
  | .mirSwap w unit => Sys2Proof.Machine.execMirSwap w unit s
  | .mirUnitSettle w unit => Sys2Proof.Machine.execMirUnitSettle w unit s
  | .hierMapSet w unit v => Sys2Proof.Machine.execHierMapSet w unit v s
  | .mapUpdate h unit v => Sys2Proof.Machine.execMapUpdate h unit v s
  | .mapAck h k => Sys2Proof.Machine.execMapAck h k s
  | .adopt h lost => Sys2Proof.Machine.execAdopt h lost s
  | .hierRetryExpiry seq => Sys2Proof.Machine.execHierRetryExpiry seq s
  | .hierWitnessClear w node => Sys2Proof.Machine.execHierWitnessClear w node s
  | .scrubStep g => Sys2Proof.Machine.execScrubStep g s
  | .repeatRewrite store unit word => Sys2Proof.Machine.execRepeatRewrite store unit word s
  | .relocateSticky unit store word => Sys2Proof.Machine.execRelocateSticky unit store word s
  | .rasPageRetire w v => Sys2Proof.Machine.execRasPageRetire w v s
  | .rasBankRetire w bank => Sys2Proof.Machine.execRasBankRetire w bank s
  | .rasInject w v => Sys2Proof.Machine.execRasInject w v s
  | .rasRawRead w v => Sys2Proof.Machine.execRasRawRead w v s
  | .rasFoghornTest w => Sys2Proof.Machine.execRasFoghornTest w s
  | .arbStarvation row inst cw => Sys2Proof.Machine.execArbStarvation row inst cw s
  | .ecallSecure pc => Sys2Proof.Machine.execEcallSecure pc s
  | .secureInterrupt pc => Sys2Proof.Machine.execSecureInterrupt pc s
  | .mretToNormal npp nepc entry mie a => Sys2Proof.Machine.execMretToNormal npp nepc entry mie a s
  | .wdtEnable w => Sys2Proof.Machine.execWdtEnable w s
  | .wdtPeriod w v => Sys2Proof.Machine.execWdtPeriod w v s
  | .worldHoReq w u => Sys2Proof.Machine.execWorldHoReq w u s
  | .worldHoRelease w u => Sys2Proof.Machine.execWorldHoRelease w u s
  | .worldHoRefuse w u => Sys2Proof.Machine.execWorldHoRefuse w u s
  | .worldHoWaitExpiry u => Sys2Proof.Machine.execWorldHoWaitExpiry u s
  | .handoverResetDone u => Sys2Proof.Machine.execHandoverResetDone u s
  | .worldIrqPending w v => Sys2Proof.Machine.execWorldIrqPending w v s
  | .debugHalt bp => Sys2Proof.Machine.execDebugHalt bp s
  | .fwActivate w => Sys2Proof.Machine.execFwActivate w s
  | .fwQuiesceDone byEcall => Sys2Proof.Machine.execFwQuiesceDone byEcall s
  | .fwReady w => Sys2Proof.Machine.execFwReady w s
  | .fwReadyTimeout fault => Sys2Proof.Machine.execFwReadyTimeout fault s
  | .oapRead w idx el len => Sys2Proof.Machine.execOapRead w idx el len s
  | .oapStage w idx el len data => Sys2Proof.Machine.execOapStage w idx el len data s
  | .oapCommit w => Sys2Proof.Machine.execOapCommit w s
  | .oapAbort w => Sys2Proof.Machine.execOapAbort w s
  | .sliceDrain k => Sys2Proof.Machine.execSliceDrain k s
  | .rcRead w idx el => Sys2Proof.Machine.execRcRead w idx el s
  | .w1cWrite w idx el v => Sys2Proof.Machine.execW1cWrite w idx el v s
  | .dictRead w deny => Sys2Proof.Machine.execDictRead w deny s
  | .dictStage w deny => Sys2Proof.Machine.execDictStage w deny s
  | .dictCommit w deny => Sys2Proof.Machine.execDictCommit w deny s
  | .dictAbort w deny => Sys2Proof.Machine.execDictAbort w deny s
  | .dictCommitStatus w deny => Sys2Proof.Machine.execDictCommitStatus w deny s
  | .dictW1c w deny => Sys2Proof.Machine.execDictW1c w deny s
  | .eventAck num carrier => Sys2Proof.Machine.execEventAck num carrier s
  | .fwBegin w deny => Sys2Proof.Machine.execFwBegin w deny s
  | .fwData w deny => Sys2Proof.Machine.execFwData w deny s
  | .fwEnd w deny => Sys2Proof.Machine.execFwEnd w deny s
  | .mailboxPacket ws => Sys2Proof.Machine.execMailboxPacket ws s
  | .setEndpointId q data => Sys2Proof.Machine.execSetEndpointId q data s
  | .getEndpointId q => Sys2Proof.Machine.execGetEndpointId q s
  | .getEndpointUuid q => Sys2Proof.Machine.execGetEndpointUuid q s
  | .getMctpVersionSupport q data => Sys2Proof.Machine.execGetMctpVersionSupport q data s
  | .getMessageTypeSupport q => Sys2Proof.Machine.execGetMessageTypeSupport q s
  | .getVendorDefinedMessageSupport q data => Sys2Proof.Machine.execGetVendorDefinedMessageSupport q data s
  | .unsupportedControlCmd q cmd => Sys2Proof.Machine.execUnsupportedControlCmd q cmd s
  | .i3cPrivateWrite addr data pecOk => Sys2Proof.Machine.execI3cPrivateWrite addr data pecOk s
  | .i3cPrivateRead addr => Sys2Proof.Machine.execI3cPrivateRead addr s
  | .entdaa addr won => Sys2Proof.Machine.execEntdaa addr won s
  | .setdasa static_ addr => Sys2Proof.Machine.execSetdasa static_ addr s
  | .setmwl addr v => Sys2Proof.Machine.execSetmwl addr v s
  | .setmrl addr v => Sys2Proof.Machine.execSetmrl addr v s
  | .getmwl addr => Sys2Proof.Machine.execGetmwl addr s
  | .getmrl addr => Sys2Proof.Machine.execGetmrl addr s
  | .getpid addr => Sys2Proof.Machine.execGetpid addr s
  | .getbcr addr => Sys2Proof.Machine.execGetbcr addr s
  | .getdcr addr => Sys2Proof.Machine.execGetdcr addr s
  | .getstatus addr => Sys2Proof.Machine.execGetstatus addr s
  | .unsupportedCcc addr => Sys2Proof.Machine.execUnsupportedCcc addr s
  | .controllerRoleOffer addr => Sys2Proof.Machine.execControllerRoleOffer addr s
  | .pmSnap w => Sys2Proof.Machine.execPmSnap w s
  | .snapBroadcast block => Sys2Proof.Machine.execSnapBroadcast block s
  | .pmCtrClear w v => Sys2Proof.Machine.execPmCtrClear w v s
  | .ringWriteComplete trc => Sys2Proof.Machine.execRingWriteComplete trc s
  | .pmSmpFlush w => Sys2Proof.Machine.execPmSmpFlush w s
  | .histMergeFlush slice => Sys2Proof.Machine.execHistMergeFlush slice s
  | .histIncrement accept => Sys2Proof.Machine.execHistIncrement accept s
  | .pmHistClear w => Sys2Proof.Machine.execPmHistClear w s
  | .traceRecord src => Sys2Proof.Machine.execTraceRecord src s
  | .bypass code => Sys2Proof.Machine.execBypass code s
  | .portRetryChange port up => Sys2Proof.Machine.execPortRetryChange port up s
  | .tapInstrumentOperation op => Sys2Proof.Machine.execTapInstrumentOperation op s
  | .untakeableNormalTrap pc mtvec cause tval => Sys2Proof.Machine.execUntakeableNormalTrap pc mtvec cause tval s
  | .unknownHierarchyMessage h typ => Sys2Proof.Machine.execUnknownHierarchyMessage h typ s
  | .unsupportedDictCommand w deny => Sys2Proof.Machine.execUnsupportedDictCommand w deny s
  | .powerOnReset => Sys2Proof.Machine.execPowerOnReset s
  | .powerOnResetRelease => Sys2Proof.Machine.execPowerOnResetRelease s
  | .warmReset => Sys2Proof.Machine.execWarmReset s
  | .warmResetRelease => Sys2Proof.Machine.execWarmResetRelease s
  | .brownOut => Sys2Proof.Machine.execBrownOut s
  | .brownOutRecovery => Sys2Proof.Machine.execBrownOutRecovery s
  | .braceEntry => Sys2Proof.Machine.execBraceEntry s
  | .braceExit => Sys2Proof.Machine.execBraceExit s
  | .supplyReset => Sys2Proof.Machine.execSupplyReset s
  | .supplyResetRecovery => Sys2Proof.Machine.execSupplyResetRecovery s
  | .levelSwitch => Sys2Proof.Machine.execLevelSwitch s
  | .blockSleepQuiesced => Sys2Proof.Machine.execBlockSleepQuiesced s
  | .wakeTimerExpiry => Sys2Proof.Machine.execWakeTimerExpiry s
  | .leaseAcquire => Sys2Proof.Machine.execLeaseAcquire s
  | .leaseRenew => Sys2Proof.Machine.execLeaseRenew s
  | .leaseRelease => Sys2Proof.Machine.execLeaseRelease s
  | .leaseQuery => Sys2Proof.Machine.execLeaseQuery s
  | .leaseBreakTrigger => Sys2Proof.Machine.execLeaseBreakTrigger s
  | .heatPassStart => Sys2Proof.Machine.execHeatPassStart s
  | .heatDelta => Sys2Proof.Machine.execHeatDelta s
  | .remoorPrepareTimeout => Sys2Proof.Machine.execRemoorPrepareTimeout s
  | .remoorDrainExpiry => Sys2Proof.Machine.execRemoorDrainExpiry s
  | .remoorXferTimeout => Sys2Proof.Machine.execRemoorXferTimeout s
  | .handoffQuiesced => Sys2Proof.Machine.execHandoffQuiesced s
  | .handoffDone => Sys2Proof.Machine.execHandoffDone s
  | .replayTimerExpiry => Sys2Proof.Machine.execReplayTimerExpiry s
  | .nakTimerExpiry => Sys2Proof.Machine.execNakTimerExpiry s
  | .ackTimerExpiry => Sys2Proof.Machine.execAckTimerExpiry s
  | .creditReportTimer => Sys2Proof.Machine.execCreditReportTimer s
  | .seekSettleExpiry => Sys2Proof.Machine.execSeekSettleExpiry s
  | .linkActive => Sys2Proof.Machine.execLinkActive s
  | .attemptTimeout => Sys2Proof.Machine.execAttemptTimeout s
  | .backoffElapsed => Sys2Proof.Machine.execBackoffElapsed s
  | .correctionThresholdCheck => Sys2Proof.Machine.execCorrectionThresholdCheck s
  | .loopedIdleExit => Sys2Proof.Machine.execLoopedIdleExit s
  | .leaseDeltaApply => Sys2Proof.Machine.execLeaseDeltaApply s
  | .journalRecordApply => Sys2Proof.Machine.execJournalRecordApply s
  | .journalTimeout => Sys2Proof.Machine.execJournalTimeout s
  | .beaconSend => Sys2Proof.Machine.execBeaconSend s
  | .beaconPathLoss => Sys2Proof.Machine.execBeaconPathLoss s
  | .servingLeaseLapse => Sys2Proof.Machine.execServingLeaseLapse s
  | .fenceGuardExpiry => Sys2Proof.Machine.execFenceGuardExpiry s
  | .failoverAdopt => Sys2Proof.Machine.execFailoverAdopt s
  | .bankCopyDone => Sys2Proof.Machine.execBankCopyDone s
  | .watchdogPet => Sys2Proof.Machine.execWatchdogPet s
  | .watchdogWarning => Sys2Proof.Machine.execWatchdogWarning s
  | .secureWatchdogExpiry => Sys2Proof.Machine.execSecureWatchdogExpiry s
  | .commitEdge => Sys2Proof.Machine.execCommitEdge s
  | .eventRetryExpiry => Sys2Proof.Machine.execEventRetryExpiry s
  | .mapNoticeRetry => Sys2Proof.Machine.execMapNoticeRetry s
  | .dictReqWaitExpiry => Sys2Proof.Machine.execDictReqWaitExpiry s
  | .enec => Sys2Proof.Machine.execEnec s
  | .disec => Sys2Proof.Machine.execDisec s
  | .rstdaa => Sys2Proof.Machine.execRstdaa s
  | .hdrEntry => Sys2Proof.Machine.execHdrEntry s
  | .samplerRecord => Sys2Proof.Machine.execSamplerRecord s
  | .tapReset => Sys2Proof.Machine.execTapReset s
  | .idcode => Sys2Proof.Machine.execIdcode s
  | .ijtag => Sys2Proof.Machine.execIjtag s
  | .mailboxOutWordTaken => Sys2Proof.Machine.execMailboxOutWordTaken s
  | .alwaysOnSupplyLoss => Sys2Proof.Machine.execAlwaysOnSupplyLoss s
  | .alwaysOnSupplyApplied => Sys2Proof.Machine.execAlwaysOnSupplyApplied s
  | .aonregHpSettled => Sys2Proof.Machine.execAonregHpSettled s

end Sys2Proof.Machine
end

