-- ==== Sys2Proof/WellFormed.lean ====
section
/-! DEFINITION. Sys2Proof/WellFormed.lean: the commands whose fields fit the widths the spec gives them. -/
namespace Sys2Proof

/-- A number of k bits. -/
def fits (k n : Nat) : Bool := decide (n < 2 ^ k)

/-- A check result of a beat, which has eight chunks (Table 02.1). -/
def Chk.wf : Chk → Bool
  | .ok => true
  | .corr n => decide (0 < n) && decide (n ≤ 8)
  | .header n | .data n => decide (n < 8)

/-- Fields of a host or backing beat (Table 02.3): a port of at most 33, counting the spare stop, an 8-bit `caid`, a 6-bit host port,
an 18-bit `tag`, HPA[51:6]. -/
def HostBeat.wf (h : HostBeat) : Bool := decide (h.xport < 33) && h.chk.wf && fits 8 h.caid && fits 6 h.hport && fits 18 h.tag && fits 46 h.line

/-- Header of a hierarchy message (Table 11.6). -/
def Hdr.wf (h : Hdr) : Bool := decide (h.xport < 33) && h.chk.wf && h.chk2.wf && fits 8 h.src && fits 8 h.dst && fits 32 h.seq && fits 32 h.epoch

/-- A tile-map entry on its way to N (Table 03.7). -/
def TileB.wf (t : TileB) : Bool := fits 25 t.i && fits 8 t.dev && fits 31 t.dpa && fits 8 t.gen

/-- The beat inside a FWD_REQ. -/
def FwdBeat.wf (b : FwdBeat) : Bool :=
  fits 4 b.row && fits 8 b.caid && fits 6 b.port && fits 18 b.tag && fits 46 b.line && fits 2 b.usize && fits 6 b.uoff

/-- The beat inside a FWD_RSP. -/
def FwdAnsB.wf (b : FwdAnsB) : Bool :=
  fits 8 b.caid && fits 18 b.tag && b.ndr.all (fits 2) && decide (b.drs < 3) && b.uio.all (fits 3)

/-- The fields of a TS flit (Table 10.12). -/
def TsBody.wf (p : TsBody) : Bool :=
  fits 8 p.node && fits 16 p.locked && fits 16 p.txmask && fits 1 p.rate && fits 2 p.cap && fits 8 p.epoch && fits 2 p.loop

/-- The fields a TS2 adds (Table 10.12). -/
def Ts2Body.wf (q : Ts2Body) : Bool :=
  fits 2 q.width && decide (q.map.length ≤ 16) && q.map.all (fits 4) && fits 12 q.e && fits 12 q.n && fits 12 q.o && fits 16 q.excl

/-- Body of a Beacon (Table 11.4). -/
def BeaconB.wf (b : BeaconB) : Bool :=
  fits 32 b.seq && fits 32 b.echo && fits 48 b.dapp && fits 48 b.japp && fits 48 b.dsent && fits 48 b.jsent && fits 4 b.state && fits 2 b.shadow
    && fits 8 b.epoch

/-- Addressing of a control request (R364, R369). -/
def Ctl.wf (q : Ctl) : Bool := fits 8 q.cookie && fits 8 q.eid && fits 3 q.tag && fits 5 q.inst

/-- A register of the hart as the debug module numbers it: `x0` to `x31`, the `pc`, or a CSR (R335). -/
def dbgReg (r : Nat) : Bool := decide (r < 33) || (decide (0x1000 ≤ r) && decide (r < 0x2000))

/-- An instrument operation (Table 16.5). -/
def TapOp.wf : TapOp → Bool
  | .sib m => fits 4 m
  | .breakpoint a _ => fits 32 a
  | .readReg r => dbgReg r
  | .writeReg r _ => dbgReg r
  | .readMem a => fits 32 a
  | .writeMem a _ => fits 32 a
  | .counter b i _ => decide (b < 48) && decide (i < 16)
  | .sample n => fits 14 n
  | .attach | .detach | .halt | .resume | .step _ | .traceEnable _ => true

/-- A source of the trace unit (R384). -/
def TrcSrc.wf : TrcSrc → Bool
  | .flow k _ => decide (k < 4)
  | .event | .loss => true

/-- The four lines of a SECTOR: a 3-bit state code and a 16-bit sharer field each (Table 04.5). -/
def lineStatesWf (l : List (Nat × Nat)) : Bool := l.length == 4 && l.all fun p => fits 3 p.1 && fits 16 p.2

/-- Every field of a command fits the width the spec gives it. -/
def Instr.wf : Instr → Bool
  | .railAck rail _ => fits 2 rail
  | .railAckTimeout rail => fits 2 rail
  | .pwrLevel _ v => fits 2 v
  | .pwrKeeperClk _ v => fits 1 v
  | .pwrVote _ el _ => fits 8 el
  | .domainSleepEntry el => fits 8 el
  | .domainSleepExit el => fits 8 el
  | .pwrForceWake _ el => fits 8 el
  | .blockEclipseRequest _ => true
  | .blockExtinguishRequest _ => true
  | .blockWakeCommit _ => true
  | .wakeSource n => fits 3 n
  | .portUp port => decide (port < 64)
  | .portDeparture f => decide (f.port < 64) && decide (0 < f.edges)
  | .memRd _ h _ => h.wf
  | .memInv _ h _ => h.wf
  | .memClnEvct h _ => h.wf
  | .memSpecRd h _ => h.wf
  | .memWr h _ _ => h.wf
  | .memWrPtl h _ _ => h.wf
  | .memRdFwd h => h.wf
  | .memWrFwd h => h.wf
  | .unsupportedHostBeat h kind opc => h.wf && decide (kind < 3) && fits 4 opc
  | .invalidKindBeat h grp kind opc => h.wf && fits 2 grp && fits 4 kind && fits 4 opc
  | .biconflict h => h.wf
  | .birsp h bitag rsp => h.wf && fits 12 bitag && decide (rsp < 3)
  | .birspBlk h bitag rsp => h.wf && fits 12 bitag && decide (rsp < 3)
  | .atomicOp h uop usize uoff _ => h.wf && fits 4 uop && fits 2 usize && fits 6 uoff
  | .backingData h form dl _ => h.wf && fits 4 form && fits 2 dl
  | .backingCompletion h opc dl => h.wf && fits 4 opc && fits 2 dl
  | .backingUioCompletion h status _ => h.wf && fits 3 status
  | .staleBackingResponse h o dl => h.wf && fits 4 o.kind && fits 4 o.opc && fits 2 dl
  | .outboundBeatTaken port grp => decide (port < 33) && fits 2 grp
  | .sliceGrant slice => decide (slice < 33)
  | .lookupIssue slice idx => decide (slice < 33) && decide (idx < 8192)
  | .snoopSlotAcquired slice idx => decide (slice < 33) && decide (idx < 8192)
  | .setConflictRetry slice set => decide (slice < 33) && fits 16 set
  | .holdWindowEnd slice idx => decide (slice < 33) && decide (idx < 8192)
  | .dbsFillComplete slice sec => decide (slice < 33) && fits 44 sec
  | .tileWalkComplete slice tile => decide (slice < 33) && fits 32 tile
  | .dbsInPlaceRewrite slice => decide (slice < 33)
  | .dbsPlacement slice => decide (slice < 33)
  | .dbsRelease slice => decide (slice < 33)
  | .evict page => fits 20 page
  | .decline page => fits 20 page
  | .complete page => fits 20 page
  | .kept page => fits 20 page
  | .dbsEvictRetryExpiry page => fits 20 page
  | .sweepDbsScan caid => fits 8 caid
  | .sweepVisit slice idx => decide (slice < 33) && decide (idx < 8192)
  | .biTimeout slice slot caid => decide (slice < 33) && fits 7 slot && fits 8 caid
  | .memTimeout slice idx => decide (slice < 33) && decide (idx < 8192)
  | .echoEntryExpiry slice ent => decide (slice < 33) && fits 14 ent
  | .watchQuarantineExpiry slice idx => decide (slice < 33) && decide (idx < 8192)
  | .hIdleExit line => fits 46 line
  | .hdcDisable _ => true
  | .hdcDisableFinish slice => decide (slice < 33)
  | .hdcEnable _ => true
  | .hdcPreload _ v => fits 128 v
  | .hdcUnlockAll _ => true
  | .leaseExpiry l => fits 12 l
  | .leaseBreak _ l => fits 16 l
  | .leaseBreakCaid _ caid => fits 8 caid
  | .leaseFree _ l => fits 16 l
  | .caidBind _ caid port biid pools => fits 8 caid && port.all (fits 8) && biid.all (fits 16) && pools.all (fits 64)
  | .caidUnbindPlanned _ caid => fits 8 caid
  | .caidUnbindForced _ caid => fits 8 caid
  | .poolAdd _ p base units tm => decide (p < 64) && fits 64 base && fits 32 units && fits 32 tm
  | .poolRemove _ p => decide (p < 64)
  | .poolPurgeComplete p => decide (p < 64)
  | .tileMapWrite _ v => fits 160 v
  | .tileMapFill _ v => fits 128 v
  | .guardArm _ => true
  | .taintClear _ el => fits 8 el
  | .dramCommandTaken ch => fits 2 ch
  | .dramReadResponse ch tag _ => fits 2 ch && fits 8 tag
  | .dramWriteCompletion ch tag => fits 2 ch && fits 8 tag
  | .dramTimeout ch tag => fits 2 ch && fits 8 tag
  | .driftStart _ v => fits 128 v
  | .driftCopyIssue ch => fits 4 ch
  | .driftFlip ch => fits 4 ch
  | .driftDrainReport ch slice => fits 4 ch && decide (slice < 33)
  | .driftAbort _ ch => fits 8 ch
  | .remoorRequest _ unit node => fits 16 unit && fits 8 node
  | .remoorTransferOp slice => decide (slice < 33)
  | .remoorFwdTimeout id => fits 32 id
  | .prepare h unit o n tiles => h.wf && fits 16 unit && fits 8 o && fits 8 n && tiles.all (·.wf)
  | .prepared h => h.wf
  | .refuse h check => h.wf && fits 8 check
  | .start h unit => h.wf && fits 16 unit
  | .sector h sec ls => h.wf && fits 44 sec && lineStatesWf ls
  | .ack h sec => h.wf && fits 44 sec
  | .transferDone h unit => h.wf && fits 16 unit
  | .flip h unit => h.wf && fits 16 unit
  | .flipped h unit => h.wf && fits 16 unit
  | .drainDone h unit => h.wf && fits 16 unit
  | .abort h unit => h.wf && fits 16 unit
  | .fwdReq h b => h.wf && b.wf
  | .fwdRsp h b => h.wf && b.wf
  | .bucketMove _ b to_ => fits 8 b && fits 5 to_
  | .slicePark _ v => fits 32 v
  | .sliceDark slice => decide (slice < 33)
  | .spareSwap _ k => fits 8 k
  | .laneLock lane plane _ _ => fits 4 lane && fits 4 plane
  | .laneLockLoss lane => fits 4 lane
  | .dataFlit corr seq cls _ ackseq acktype _ => corr.all (fits 4) && fits 12 seq && fits 2 cls && fits 12 ackseq && fits 2 acktype
  | .idleFlit corr ackseq acktype => corr.all (fits 4) && fits 12 ackseq && fits 2 acktype
  | .controlFlit corr ackseq acktype cr cs => corr.all (fits 4) && fits 12 ackseq && fits 2 acktype && (cr.length == 4 && cr.all (fits 16)) && fits 16 cs
  | .retrainRequestFlit corr ackseq acktype node excl _ => corr.all (fits 4) && fits 12 ackseq && fits 2 acktype && fits 8 node && fits 16 excl
  | .badFlit _ => true
  | .unknownKindFlit corr => corr.all (fits 4)
  | .ts1 p => p.wf
  | .ts2 p q => p.wf && q.wf
  | .laneActivity lanes => fits 16 lanes
  | .drxEnable _ _ => true
  | .drxTrain _ => true
  | .drxRetrainResume _ => true
  | .drxRetrainFresh _ => true
  | .loopbackNearSerial _ => true
  | .loopbackNearParallel _ => true
  | .loopbackFarEnd _ => true
  | .loopbackExit _ => true
  | .drxEyeCtrl _ v => fits 64 v
  | .eyeScanComplete count => fits 48 count
  | .drxErrInject _ v => fits 64 v
  | .mirPackWaitExpiry cls => fits 1 cls
  | .deltaApply slice => decide (slice < 33)
  | .beacon h b => h.wf && b.wf
  | .claim h partner => h.wf && fits 8 partner
  | .grant h => h.wf
  | .deny h => h.wf
  | .release h partner => h.wf && fits 8 partner
  | .mirForceSolo _ => true
  | .mirRejoin _ => true
  | .join h => h.wf
  | .resyncCopy ch => fits 4 ch
  | .mirSwap _ unit => fits 16 unit
  | .mirUnitSettle _ unit => fits 16 unit
  | .hierMapSet _ unit v => fits 16 unit && fits 32 v
  | .mapUpdate h unit v => h.wf && fits 16 unit && fits 32 v
  | .mapAck h k => h.wf && fits 32 k
  | .adopt h lost => h.wf && fits 8 lost
  | .hierRetryExpiry seq => fits 32 seq
  | .hierWitnessClear _ node => fits 8 node
  | .scrubStep g => fits 1 g
  | .repeatRewrite store unit word => fits 5 store && fits 5 unit && fits 40 word
  | .relocateSticky unit store word => fits 5 unit && fits 5 store && fits 40 word
  | .rasPageRetire _ v => fits 64 v
  | .rasBankRetire _ bank => fits 16 bank
  | .rasInject _ v => fits 192 v
  | .rasRawRead _ v => fits 64 v
  | .rasFoghornTest _ => true
  | .arbStarvation row inst _ => decide (row < 7) && fits 6 inst
  | .ecallSecure _ => true
  | .secureInterrupt _ => true
  | .mretToNormal _ _ _ _ a => a.length == 4
  | .wdtEnable _ => true
  | .wdtPeriod _ v => fits 32 v
  | .worldHoReq _ u => fits 8 u
  | .worldHoRelease _ u => fits 8 u
  | .worldHoRefuse _ u => fits 8 u
  | .worldHoWaitExpiry u => fits 8 u
  | .handoverResetDone u => fits 8 u
  | .worldIrqPending _ v => fits 32 v
  | .debugHalt _ => true
  | .fwActivate _ => true
  | .fwQuiesceDone _ => true
  | .fwReady _ => true
  | .fwReadyTimeout _ => true
  | .oapRead _ idx el len => fits 16 idx && fits 8 el && fits 7 len
  | .oapStage _ idx el len _ => fits 16 idx && fits 8 el && fits 7 len
  | .oapCommit _ => true
  | .oapAbort _ => true
  | .sliceDrain k => decide (k < 32)
  | .rcRead _ idx el => fits 16 idx && fits 8 el
  | .w1cWrite _ idx el v => fits 16 idx && fits 8 el && fits 64 v
  | .dictRead _ _ => true
  | .dictStage _ _ => true
  | .dictCommit _ _ => true
  | .dictAbort _ _ => true
  | .dictCommitStatus _ _ => true
  | .dictW1c _ _ => true
  | .eventAck num _ => fits 32 num
  | .fwBegin _ _ => true
  | .fwData _ _ => true
  | .fwEnd _ _ => true
  | .mailboxPacket _ => true
  | .setEndpointId q _ => q.wf
  | .getEndpointId q => q.wf
  | .getEndpointUuid q => q.wf
  | .getMctpVersionSupport q _ => q.wf
  | .getMessageTypeSupport q => q.wf
  | .getVendorDefinedMessageSupport q _ => q.wf
  | .unsupportedControlCmd q cmd => q.wf && fits 8 cmd
  | .i3cPrivateWrite addr _ _ => fits 7 addr
  | .i3cPrivateRead addr => fits 7 addr
  | .entdaa addr _ => fits 7 addr
  | .setdasa static_ addr => fits 7 static_ && fits 7 addr
  | .setmwl addr v => addr.all (fits 7) && fits 16 v
  | .setmrl addr v => addr.all (fits 7) && fits 16 v
  | .getmwl addr => fits 7 addr
  | .getmrl addr => fits 7 addr
  | .getpid addr => fits 7 addr
  | .getbcr addr => fits 7 addr
  | .getdcr addr => fits 7 addr
  | .getstatus addr => fits 7 addr
  | .unsupportedCcc addr => addr.all (fits 7)
  | .controllerRoleOffer addr => fits 7 addr
  | .pmSnap _ => true
  | .snapBroadcast block => decide (block < 48)
  | .pmCtrClear _ v => fits 64 v
  | .ringWriteComplete _ => true
  | .pmSmpFlush _ => true
  | .histMergeFlush slice => decide (slice < 33)
  | .histIncrement _ => true
  | .pmHistClear _ => true
  | .traceRecord src => src.wf
  | .bypass code => fits 8 code
  | .portRetryChange port _ => decide (port < 64)
  | .tapInstrumentOperation op => op.wf
  | .untakeableNormalTrap _ _ _ _ => true
  | .unknownHierarchyMessage h typ => h.wf && fits 8 typ
  | .unsupportedDictCommand _ _ => true
  | .powerOnReset => true
  | .powerOnResetRelease => true
  | .warmReset => true
  | .warmResetRelease => true
  | .brownOut => true
  | .brownOutRecovery => true
  | .braceEntry => true
  | .braceExit => true
  | .supplyReset => true
  | .supplyResetRecovery => true
  | .levelSwitch => true
  | .blockSleepQuiesced => true
  | .wakeTimerExpiry => true
  | .leaseAcquire => true
  | .leaseRenew => true
  | .leaseRelease => true
  | .leaseQuery => true
  | .leaseBreakTrigger => true
  | .heatPassStart => true
  | .heatDelta => true
  | .remoorPrepareTimeout => true
  | .remoorDrainExpiry => true
  | .remoorXferTimeout => true
  | .handoffQuiesced => true
  | .handoffDone => true
  | .replayTimerExpiry => true
  | .nakTimerExpiry => true
  | .ackTimerExpiry => true
  | .creditReportTimer => true
  | .seekSettleExpiry => true
  | .linkActive => true
  | .attemptTimeout => true
  | .backoffElapsed => true
  | .correctionThresholdCheck => true
  | .loopedIdleExit => true
  | .leaseDeltaApply => true
  | .journalRecordApply => true
  | .journalTimeout => true
  | .beaconSend => true
  | .beaconPathLoss => true
  | .servingLeaseLapse => true
  | .fenceGuardExpiry => true
  | .failoverAdopt => true
  | .bankCopyDone => true
  | .watchdogPet => true
  | .watchdogWarning => true
  | .secureWatchdogExpiry => true
  | .commitEdge => true
  | .eventRetryExpiry => true
  | .mapNoticeRetry => true
  | .dictReqWaitExpiry => true
  | .enec => true
  | .disec => true
  | .rstdaa => true
  | .hdrEntry => true
  | .samplerRecord => true
  | .tapReset => true
  | .idcode => true
  | .ijtag => true
  | .mailboxOutWordTaken => true
  | .alwaysOnSupplyLoss => true
  | .alwaysOnSupplyApplied => true
  | .aonregHpSettled => true

end Sys2Proof
end

