-- ==== Sys2Proof/Safety.lean ====
section
/-! DEFINITION. Sys2Proof/Safety.lean: the terms in which the claims speak: a command's own effect with what follows it, a commit
that passes, the commands of each side, and the invariants that every step keeps. -/
namespace Sys2Proof.Machine
open Ob

/-- The state after a command whose own effect on the block is `c`, with all that follows at the same edge. -/
def State.effect (s : State) (c : Chip) : State := { s with toChip := (Chip.after s.toChip c).follow }

/-- The state after a command whose own effect leaves the coherence side as `e`. -/
def State.eff (s : State) (e : Eng) : State := s.effect { s.toChip with eng := e }

/-- The state after a command whose own effect leaves the fabric side as `f`. -/
def State.effFab (s : State) (f : Fab) : State := s.effect (s.toChip.setFab f)

/-- The state after a command whose own effect leaves the link as `l`, with what it indicates (R251). -/
def State.effLink (s : State) (l : Lnk) : State := s.effFab (l.ind.foldl (fun f i => f.indicate i) { s.toChip.fab with eng := l.eng, d := l.d })

/-- The link as a command finds it: no flit put on the lanes and nothing indicated yet. -/
def State.lnk (s : State) : Lnk := { eng := s.eng, d := { s.d with sent := [] }, ind := [] }

/-- The state with its block replaced: a command that nothing follows. -/
def State.block (s : State) (c : Chip) : State := { s with toChip := c }

/-- The coherence side with a request in the group 0 stage of the port that took it, and moved on where it can (R167, R173). -/
def Eng.staged (e : Eng) (h : HostBeat) (op : Op) (cls row : Nat) (pl : Payload) (usize uoff : Nat := 0) : Eng :=
  Eng.pump { e with fresh := e.fresh + 1, stages := e.stages ++ [(h.xport, e.ts, mkReq e h op cls row pl usize uoff)] }

/-- A hierarchy message whose port takes its beats and whose beats are whole, that R287 lets through, and whose pair of source and number has not
been answered before (R36, R288). -/
def Fab.isNew (f : Fab) (h : Hdr) : Bool :=
  (decide (h.xport = linkPort) || f.eng.rdy h.xport 3) && msgWhole h && !(f.arrived h).eng.foghorn && decide (h.src ≠ 0xFF ∧ h.dst = (f.arrived h).me)
    && ((f.arrived h).mir.hans.find? fun a => a.src == h.src && a.seq == h.seq).isNone

/-- Keeper can commit, no stored word is in error, and every write passes the stage checks of R392 and the commit checks of R358. -/
def Chip.accepts (c : Chip) (w : World) (ws : List OWr) : Bool := c.coreOn && c.eng.errs.isEmpty && c.keeperUp && c.stageable w ws && (c.firstBad w ws).isNone

/-- The block as a commit takes effect: its number, its time and the outcome 0 are recorded (R358). -/
def Chip.passed (c : Chip) (w : World) : Chip :=
  let n := nextNum (c.dic.num w)
  let c1 := c.setNum w n
  Chip.setOutcome { c1 with dic := { c1.dic with lastT := some c.soloTime } } w n 0 0 0 c.soloTime

/-- The state after a commit by a world that takes effect as `f`: its number, time and outcome are recorded, every vote is looked at
again, and all that follows follows. -/
def State.committed (s : State) (w : World) (f : Chip → Chip) : State := s.effect (f (s.toChip.passed w)).voteCheck

/-- The coherence side serves, and no word that it stores is in error. -/
def Chip.works (c : Chip) : Bool := c.live && c.eng.errs.isEmpty

/-- CORE has its power, and no word that the block stores is in error. -/
def Chip.coreWorks (c : Chip) : Bool := c.coreOn && c.eng.errs.isEmpty

/-- Commands of the coherence side: the crossbar ports, the slices, the directory, placement and the DRAM port. -/
def isCoherence : Instr → Bool
  | .backingData .. | .backingCompletion .. | .backingUioCompletion .. | .staleBackingResponse .. | .outboundBeatTaken .. | .snoopSlotAcquired .. => true
  | .biTimeout .. | .memTimeout .. | .echoEntryExpiry .. | .watchQuarantineExpiry .. | .dbsInPlaceRewrite .. | .dbsPlacement .. => true
  | .dbsRelease .. | .evict .. | .decline .. | .complete .. | .kept .. | .dbsEvictRetryExpiry .. => true
  | .sweepDbsScan .. | .dramCommandTaken .. | .dramReadResponse .. | .dramWriteCompletion .. | .dramTimeout .. | .hIdleExit .. => true
  | .hdcDisableFinish .. | .leaseExpiry .. | .leaseAcquire .. | .leaseRenew .. | .leaseRelease .. | .leaseQuery .. => true
  | .leaseBreakTrigger .. | .portUp .. | .portDeparture .. | .memRd .. | .memInv .. | .memClnEvct .. => true
  | .memSpecRd .. | .memWr .. | .memWrPtl .. | .memRdFwd .. | .memWrFwd .. | .unsupportedHostBeat .. => true
  | .invalidKindBeat .. | .biconflict .. | .birsp .. | .birspBlk .. | .atomicOp .. | .portRetryChange .. => true
  | .deltaApply .. | .driftCopyIssue .. | .driftFlip .. | .driftDrainReport .. | .remoorTransferOp .. | .remoorFwdTimeout .. => true
  | .heatPassStart .. | .heatDelta .. | .remoorPrepareTimeout .. | .remoorDrainExpiry .. | .remoorXferTimeout .. | .handoffQuiesced .. => true
  | .handoffDone .. | .poolPurgeComplete .. | .scrubStep .. | .repeatRewrite .. | .relocateSticky .. | .arbStarvation .. => true
  | .bankCopyDone .. | .sliceGrant .. | .lookupIssue .. | .setConflictRetry .. | .holdWindowEnd .. | .dbsFillComplete .. => true
  | .tileWalkComplete .. | .sweepVisit .. | .sliceDark .. | .sliceDrain .. => true
  | _ => false

/-- Commands of the Mirror Engine and the Hierarchy Agent. -/
def isFabric : Instr → Bool
  | .mirPackWaitExpiry .. | .beacon .. | .claim .. | .grant .. | .deny .. | .release .. => true
  | .join .. | .resyncCopy .. | .mapUpdate .. | .mapAck .. | .adopt .. | .hierRetryExpiry .. => true
  | .unknownHierarchyMessage .. | .leaseDeltaApply .. | .journalRecordApply .. | .journalTimeout .. | .beaconSend .. | .beaconPathLoss .. => true
  | .servingLeaseLapse .. | .fenceGuardExpiry .. | .failoverAdopt .. | .prepare .. | .prepared .. | .refuse .. => true
  | .start .. | .sector .. | .ack .. | .transferDone .. | .flip .. | .flipped .. => true
  | .drainDone .. | .abort .. | .fwdReq .. | .fwdRsp .. => true
  | _ => false

/-- Commands of the Draix link. -/
def isLink : Instr → Bool
  | .laneLock .. | .laneLockLoss .. | .dataFlit .. | .idleFlit .. | .controlFlit .. | .retrainRequestFlit .. => true
  | .badFlit .. | .unknownKindFlit .. | .ts1 .. | .ts2 .. | .laneActivity .. | .eyeScanComplete .. => true
  | .replayTimerExpiry .. | .nakTimerExpiry .. | .ackTimerExpiry .. | .creditReportTimer .. | .seekSettleExpiry .. | .linkActive .. => true
  | .attemptTimeout .. | .backoffElapsed .. | .correctionThresholdCheck .. | .loopedIdleExit .. => true
  | _ => false

/-! ## Invariants -/

/-- A store of cells is in its one form: addresses rise strictly, and no cell holds what an unlisted address reads as (log entry 7). -/
def Memory.wf : List Host.Cell → Bool
  | [] => true
  | [x] => x.2 != 0
  | x :: y :: t => x.2 != 0 && decide (x.1 < y.1) && Memory.wf (y :: t)

/-- Keeper's SRAM and the carrier's DRAM are in their one form. -/
def Chip.memOk (c : Chip) : Prop := Memory.wf c.kpr.sram = true ∧ Memory.wf c.kpr.dram = true

/-- Writes in strictly ascending order of object and element: no two name the same (R357). -/
def ascending : List OWr → Bool
  | [] => true
  | [_] => true
  | a :: b :: t => (decide (a.idx < b.idx) || (a.idx == b.idx && decide (a.el < b.el))) && ascending (b :: t)

/-- An area of staged writes as R357 keeps it. -/
def areaOk (l : List OWr) : Bool := decide (l.length ≤ 256) && ascending l

/-- Both staging areas, and the writes of every commit on its way, are as R357 keeps them. -/
def Chip.stagingOk (c : Chip) : Prop := areaOk c.dic.stS = true ∧ areaOk c.dic.stN = true ∧ ∀ m ∈ c.dic.commits, areaOk m.ws = true

end Sys2Proof.Machine
end

