-- ==== Sys2Proof/Certificates/Slice0/Obligations.lean ====
section
/-! DEFINITION. Sys2Proof/Certificates/Slice0/Obligations.lean: the statements for the provers. -/
open Sys2Proof Sys2Proof.Machine Sys2Proof.Machine.Ob

/-- With a command at the front of its queue, a step of the machine answers exactly what the command does on the machine with the rest of
the queue; with an empty queue one nanosecond passes: without power in CORE it advances the time of AONCLK alone, and that not where the
always-on supply is gone, and with CORE powered it passes for the whole block, after the outcomes of the words in error that it reads
(01_block_overview, R323; the queue and the nanosecond are the model's, log entry 1). -/
def Obligations.StepRunsFront : Prop :=
  (∀ (c : Instr) (rest : List Instr) (s : State), s.pending = c :: rest → step s = exec c { s with pending := rest })
  ∧ (∀ s : State, s.pending = [] → s.toChip.coreOn = false →
    step s = .next { s with pwr := { s.pwr with aon := if s.pwr.run = .dead then s.pwr.aon else s.pwr.aon + 1 } })
  ∧ (∀ s : State, s.pending = [] → s.toChip.coreOn = true → step s = .next (s.effect (s.toChip.reads fun c => c.tick)))

/-- While the block serves with no stored word in error: a rise of a port that is down makes it present and queues event 0x02 with the
port; a rise of a port that is present ends a short fall; a fall of a present port that has read 0 at fewer than 4 edges keeps it present
and counts the edges; one that reaches 4 edges makes it absent and takes every CAID bound to it that is Bound or Sweeping-planned into
Sweeping-surprise; a retry change sets or clears the port's retry level. Each completes with exactly that effect (R44, R72, R306). -/
def Obligations.PortLevels : Prop :=
  ∀ s : State, s.toChip.works = true →
    (∀ p, s.eng.portUp.contains p = false →
      exec (.portUp p) s = .next (s.eff (Eng.event { s.eng with portUp := insertNat p s.eng.portUp } 0x02 (evArgs [(0, p)]))))
    ∧ (∀ p, s.eng.portUp.contains p = true → exec (.portUp p) s = .next (s.eff { s.eng with portLow := kdel p s.eng.portLow }))
    ∧ (∀ p n, s.eng.portUp.contains p = true → kget 0 p s.eng.portLow + n < 4 →
      exec (.portDeparture ⟨p, n⟩) s = .next (s.eff { s.eng with portLow := kput p (kget 0 p s.eng.portLow + n) s.eng.portLow }))
    ∧ (∀ p n, s.eng.portUp.contains p = true → 4 ≤ kget 0 p s.eng.portLow + n →
      exec (.portDeparture ⟨p, n⟩) s = .next (s.eff
        ((s.eng.caidList.filter fun c => s.eng.obj CAID_PORT c == p && (s.eng.caidSt c == 1 || s.eng.caidSt c == 2)).foldl
          (fun e c => e.surprise c 2) { s.eng with portUp := dropNat p s.eng.portUp, portLow := kdel p s.eng.portLow })))
    ∧ (∀ p, exec (.portRetryChange p true) s = .next (s.eff { s.eng with retry := insertNat p s.eng.retry }))
    ∧ (∀ p, exec (.portRetryChange p false) s = .next (s.eff { s.eng with retry := dropNat p s.eng.retry }))

/-- While the block serves without Foghorn and with no stored word in error, a request of kind 0x0 or 0x1 that a port takes, whose check
bits do not discard it, whose combination Table 04.2 lists, outside the lease window, and that no reason of R69 refuses, joins the group 0
stage of its port with the row of Table 04.2, its own tag, CAID, port, line and data and its time, and moves on to its slice where a slot
is free. It holds for every request opcode (R69, R87, R167, R173). -/
def Obligations.RequestsAdmitted : Prop :=
  ∀ (s : State) (h : HostBeat) (e : Eng), s.toChip.works = true → s.eng.rdy0 h.xport = true → s.eng.takeChk h = some e → e.foghorn = false →
    e.inLeases h.line = false →
    (∀ d m, rowRd d m ≠ 0 → e.reason h false = none →
      exec (.memRd d h m) s = .next (s.eff (e.staged h (if d then .memRdData else .memRd) 0 (rowRd d m) noPl)))
    ∧ (∀ nt m, rowInv m ≠ 0 → e.reason h false = none →
      exec (.memInv nt h m) s = .next (s.eff (e.staged h (if nt then .memInvNT else .memInv) 0 (rowInv m) noPl)))
    ∧ (∀ m, rowCln m ≠ 0 → e.reason h true = none → exec (.memClnEvct h m) s = .next (s.eff (e.staged h .memClnEvct 0 (rowCln m) noPl)))
    ∧ (∀ m, e.reason h false = none → exec (.memSpecRd h m) s = .next (s.eff (e.staged h .memSpecRd 0 8 noPl)))
    ∧ (∀ m pl, rowWr m ≠ 0 → e.reason h true = none →
      exec (.memWr h m pl) s = .next (s.eff (e.staged h .memWr 1 (rowWr m) { pl with be := Be.full })))
    ∧ (∀ m pl, rowWr m ≠ 0 → e.reason h true = none → exec (.memWrPtl h m pl) s = .next (s.eff (e.staged h .memWrPtl 1 (rowWr m) pl)))

/-- While the block serves with no stored word in error, a request of Table 04.2, outside the lease window, that a reason n of R69 refuses
is counted and logged under n (R71) and answered from its port in the form of Table 03.2: MemData-NXM alone for MemRd and MemRdData, Cmp
granting no state for MemInv, MemInvNT and MemClnEvct, nothing for MemSpecRd, MemWr and MemWrPtl, and a kind 0x7 completion with status 1
for an AtomicOp (R69, R70, R71). -/
def Obligations.RequestsRefused : Prop :=
  ∀ (s : State) (h : HostBeat) (e : Eng) (n : Nat), s.toChip.works = true → s.eng.rdy0 h.xport = true → s.eng.takeChk h = some e →
    e.inLeases h.line = false →
    (∀ d m, rowRd d m ≠ 0 → e.reason h false = some n →
      exec (.memRd d h m) s = .next (s.eff (Eng.answerNxm (e.refused n 0 (if d then 2 else 1) h) h.xport
        (mkReq e h (if d then .memRdData else .memRd) 0 (rowRd d m) noPl 0 0) (occBand (e.occ h.xport)))))
    ∧ (∀ nt m, rowInv m ≠ 0 → e.reason h false = some n →
      exec (.memInv nt h m) s = .next (s.eff (Eng.answerCmp (e.refused n 0 (if nt then 9 else 0) h) h.xport
        (mkReq e h (if nt then .memInvNT else .memInv) 0 (rowInv m) noPl 0 0) (occBand (e.occ h.xport)))))
    ∧ (∀ m, rowCln m ≠ 0 → e.reason h true = some n →
      exec (.memClnEvct h m) s = .next (s.eff (Eng.answerCmp (e.refused n 0 10 h) h.xport
        (mkReq e h .memClnEvct 0 (rowCln m) noPl 0 0) (occBand (e.occ h.xport)))))
    ∧ (∀ m, e.reason h false = some n → exec (.memSpecRd h m) s = .next (s.eff ((e.refused n 0 8 h).freeSlots e.fresh)))
    ∧ (∀ m pl, rowWr m ≠ 0 → e.reason h true = some n → exec (.memWr h m pl) s = .next (s.eff ((e.refused n 1 1 h).freeSlots e.fresh)))
    ∧ (∀ m pl, rowWr m ≠ 0 → e.reason h true = some n → exec (.memWrPtl h m pl) s = .next (s.eff ((e.refused n 1 2 h).freeSlots e.fresh)))
    ∧ (∀ uop usize uoff data, e.reason h false = some n →
      exec (.atomicOp h uop usize uoff data) s = .next (s.eff (Eng.answerFail (e.refused n 6 uop h) h.xport
        (mkReq e h .atomic 6 uop { data := data, be := 0, poison := false } usize uoff) 1)))

/-- While the block serves with no stored word in error, a beat that no reason of R69 refuses and that is MemRdFwd, MemWrFwd, of a
reserved opcode, or of unlisted fields is logged as a protocol error with the cause of Table 04.16 and answered as Table 04.3 says:
MemData-NXM for MemRdFwd, Cmp for MemWrFwd and a reserved opcode of kind 0x0, nothing for kinds 0x1 and 0x2. A beat of an invalid kind
enters its group's stage; a beat of groups 1 to 3 is at the head there and is logged with cause 6 and discarded, and a beat of group 0
waits in the stage, in no class, behind those before it. In Foghorn an unsupported combination of Table 04.2's opcodes takes the safe form
of Table 02.11 (R37, R61, R88, R89). -/
def Obligations.UnsupportedBeats : Prop :=
  ∀ (s : State) (h : HostBeat), s.toChip.works = true →
    (∀ e : Eng, s.eng.rdy0 h.xport = true → s.eng.takeChk h = some e → e.inLeases h.line = false →
      (e.reason h false = none → exec (.memRdFwd h) s = .next (s.eff ((e.badBeat h 3 0 3).sorterAnswer h 1)))
      ∧ (e.reason h false = none → exec (.memWrFwd h) s = .next (s.eff ((e.badBeat h 3 0 4).sorterAnswer h 2)))
      ∧ (∀ opc, reservedOpc 0 opc = true → e.reason h false = none → exec (.unsupportedHostBeat h 0 opc) s = .next (s.eff ((e.badBeat h 1 0 opc).sorterAnswer h 2)))
      ∧ (∀ opc, reservedOpc 1 opc = true → e.reason h false = none → exec (.unsupportedHostBeat h 1 opc) s = .next (s.eff (e.badBeat h 1 1 opc)))
      ∧ (∀ d m, rowRd d m = 0 → e.foghorn = false → e.reason h false = none →
        exec (.memRd d h m) s = .next (s.eff ((e.badBeat h 2 0 (if d then 2 else 1)).sorterAnswer h 1)))
      ∧ (∀ m pl, rowWr m = 0 → e.foghorn = false → e.reason h true = none → exec (.memWrPtl h m pl) s = .next (s.eff (e.badBeat h 2 1 2)))
      ∧ (∀ m pl, rowWr m = 0 → e.foghorn = true → e.reason h true = none → exec (.memWr h m pl) s = .next (s.eff
        (Eng.safeForm { e.badBeat h 2 1 1 with fresh := (e.badBeat h 2 1 1).fresh + 1 } h.xport
          (mkReq e h .memWr 1 0 { pl with be := Be.full } 0 0) (occBand (e.occ h.xport)))))
      ∧ (∀ kind opc, misplaced 0 kind opc = true → exec (.invalidKindBeat h 0 kind opc) s = .next (s.eff
        (Eng.pump { e with fresh := e.fresh + 1, stages := e.stages ++ [(h.xport, e.ts,
          { mkReq e h .memRd badCls kind noData (e.lineSt (e.owner h.line) h.line).code 0 with v := opc })] }))))
    ∧ (∀ (e : Eng) opc, reservedOpc 2 opc = true → s.eng.rdyG h.xport 1 = true → s.eng.takeG h 1 (s.eng.owner h.line) = some e → e.caidReason h.caid h.hport true = none → e.foghorn = false →
      exec (.unsupportedHostBeat h 2 opc) s = .next (s.eff (e.badBeat h 1 2 opc)))
    ∧ (∀ (e : Eng) grp kind opc, misplaced grp kind opc = true → grp ≠ 0 → s.eng.rdyG h.xport grp = true → s.eng.takeG h grp h.xport = some e →
      exec (.invalidKindBeat h grp kind opc) s = .next (s.eff (e.badBeat h 6 kind opc)))

/-- While the block serves without Foghorn and with no stored word in error, an AtomicOp that passes R69 (in the lease window only the
CAID checks) and R198 joins its stage with its operation, size, offset and operand; one of an unsupported operation or form is logged with
cause 1 or 2 and answered UR; one with uncorrectable operand data is answered CA. Under Foghorn it is answered CA at once (R42, R198,
R204, R61). -/
def Obligations.AtomicBeats : Prop :=
  ∀ (s : State) (h : HostBeat) (e : Eng) (uop usize uoff : Nat) (data : Data), s.toChip.works = true → s.eng.rdy0 h.xport = true →
    s.eng.takeChk h = some e →
    (if e.inLeases h.line then e.caidReason h.caid h.hport false else e.reason h false) = none →
    let pl : Payload := { data := data, be := 0, poison := false }
    let r := mkReq e h .atomic 6 uop pl usize uoff
    let e1 : Eng := { e with fresh := e.fresh + 1 }
    (e.foghorn = false → 1 ≤ uop → uop ≤ 3 → badForm (e.inLeases h.line) uop usize uoff data = false → h.chk.isData = false →
      exec (.atomicOp h uop usize uoff data) s = .next (s.eff (e.staged h .atomic 6 uop pl usize uoff)))
    ∧ (e.foghorn = false → (uop = 0 ∨ 3 < uop) →
      exec (.atomicOp h uop usize uoff data) s = .next (s.eff (Eng.answerFail { e.badBeat h 1 6 uop with fresh := e.fresh + 1 } h.xport r 1)))
    ∧ (e.foghorn = false → 1 ≤ uop → uop ≤ 3 → badForm (e.inLeases h.line) uop usize uoff data = true →
      exec (.atomicOp h uop usize uoff data) s = .next (s.eff (Eng.answerFail { e.badBeat h 2 6 uop with fresh := e.fresh + 1 } h.xport r 1)))
    ∧ (e.foghorn = false → 1 ≤ uop → uop ≤ 3 → badForm (e.inLeases h.line) uop usize uoff data = false → h.chk.isData = true →
      exec (.atomicOp h uop usize uoff data) s = .next (s.eff (e1.replyUio h.xport r 4 0).1))
    ∧ (e.foghorn = true → exec (.atomicOp h uop usize uoff data) s = .next (s.eff (e1.answerFail h.xport r 4)))

/-- While the block serves without Foghorn and with no stored word in error, a response that a ready port takes from a CAID that passes
the CAID checks is counted for its line where its tag names an open slot in which the target's bit is set, a block response for each of
its four lines, and otherwise logged with cause 0x10; a BIConflict is counted and answered by a BI-ConflictAck from the owning slice, and
either counted as a stray or marked on the target whose bit is set (R69, R99, R100, R116, R118). -/
def Obligations.BackInvalidateAnswers : Prop :=
  ∀ (s : State) (h : HostBeat) (e : Eng), s.toChip.works = true → s.eng.rdyG h.xport 1 = true → s.eng.takeG h 1 (s.eng.owner h.line) = some e →
    e.caidReason h.caid h.hport true = none → e.foghorn = false →
    (∀ tag rsp sl, e.slotOfTag tag h.line = some sl → sl.blk = true →
      sl.tgts.any (fun t => t.caid == h.caid && t.bit && t.left.contains (h.line % 4)) = true →
      exec (.birsp h tag rsp) s = .next (s.eff (e.countRsp sl h.caid (h.line % 4) rsp rsp)))
    ∧ (∀ tag rsp sl, e.slotOfTag tag h.line = some sl → sl.blk = false → sl.ctxs.any (fun c => c.1 == h.line % 4) = true →
      sl.tgts.any (fun t => t.caid == h.caid && t.bit) = true →
      exec (.birsp h tag rsp) s = .next (s.eff (e.countRsp sl h.caid (h.line % 4) rsp rsp)))
    ∧ (∀ tag rsp, e.slotOfTag tag h.line = none → exec (.birsp h tag rsp) s =
        .next (s.eff (e.protoErr (e.owner h.line) 0x10 2 rsp h.caid (e.lineSt (e.owner h.line) h.line).code h.line)))
    ∧ (∀ tag rsp, exec (.birspBlk h tag rsp) s =
        .next (s.eff ((List.range 4).foldl (fun e k => e.rspLine h tag (4 + rsp) rsp (h.line / 4 * 4 + k)) e)))
    ∧ (((e.inc BICONFLICT_COUNT).conflictAck h).slotFor h.line h.caid = none →
      exec (.biconflict h) s = .next (s.eff (((e.inc BICONFLICT_COUNT).conflictAck h).inc BICONFLICT_STRAY)))
    ∧ (∀ sl, ((e.inc BICONFLICT_COUNT).conflictAck h).slotFor h.line h.caid = some sl →
      exec (.biconflict h) s = .next (s.eff (((e.inc BICONFLICT_COUNT).conflictAck h).markConflict sl h.caid)))

/-- While the block serves without Foghorn and with no stored word in error, a backing beat that a ready port takes records the device's
DevLoad and, where its tag names an open context whose access it fits, closes that access: good data goes to the flow, poisoned,
uncorrectable or no-such-memory data gives the context its _T form, a Cmp ends the write, and a kind 0xD completion gives the flow the
operation's status and data (status 1 counted and logged as UR). An unlisted opcode is logged with cause 0x05. A tag that names no open
context is logged with cause 0x12 or 0x13 and changes no flow (R41, R95, R104, R105, R203; the RAS_LOG entry of a UR is the model's
reading, log entry 19). -/
def Obligations.BackingAnswers : Prop :=
  ∀ (s : State) (h : HostBeat) (e : Eng) (dl : Nat), s.toChip.works = true → s.eng.rdyG h.xport 2 = true →
    s.eng.takeG h 2 (s.eng.numbered (h.tag / 8192)) = some e → e.foghorn = false →
    let f := e.sawLoad h.hport dl
    (∀ x a, f.ctxOfTag h.tag = some x → x.acc = some a → a.kind = .rd →
      let y : Ctx := { x with acc := none, stampM := f.ts - x.req.t0 }
      (∀ pl, pl.poison = false → h.chk.isData = false →
        exec (.backingData h 0 dl pl) s = .next (s.eff (Eng.adv (f.putCtx (y.gotData pl.data)) { y.gotData pl.data with tc := f.code y })))
      ∧ (∀ pl, h.chk.isData = true → exec (.backingData h 0 dl pl) s = .next (s.eff (f.accFailed y)))
      ∧ (∀ pl, pl.poison = true → h.chk.isData = false →
        exec (.backingData h 0 dl pl) s = .next (s.eff ((f.uncorrectable 7 h.xport (x.req.line % 2 ^ 40) 0).accFailed y)))
      ∧ (∀ pl, h.chk.isData = false →
        exec (.backingData h 1 dl pl) s = .next (s.eff ((f.uncorrectable 7 h.xport (x.req.line % 2 ^ 40) 0).accFailed y))))
    ∧ (∀ x a, f.ctxOfTag h.tag = some x → x.acc = some a → (a.kind = .wr ∨ a.kind = .wrPtl) →
      exec (.backingCompletion h 0 dl) s = .next (s.eff (f.writeDone x a)))
    ∧ (∀ x a n, f.ctxOfTag h.tag = some x → x.acc = some a → n ≠ 0 →
      exec (.backingCompletion h n dl) s = .next (s.eff (f.protoErr x.slice 5 0xA n 0 x.start.code x.req.line))
      ∧ (∀ pl, 1 < n → exec (.backingData h n dl pl) s = .next (s.eff (f.protoErr x.slice 5 0xB n 0 x.start.code x.req.line))))
    ∧ (∀ x a d, e.ctxOfTag h.tag = some x → x.acc = some a → a.kind = .uio → h.chk.isData = false →
      let y : Ctx := { x with acc := none, needUio := false, stampM := e.ts - x.req.t0 }
      let failed : Ctx := { y with uioRes := some (4, 0), uioRd := false }
      let done : Ctx := { y with uioRes := some (0, d), gotBe := if x.uioRd then 0 else x.gotBe, got := if x.uioRd then 0 else x.got }
      exec (.backingUioCompletion h 0 d) s = .next (s.eff (Eng.adv (e.putCtx done) done))
      ∧ exec (.backingUioCompletion h 1 d) s = .next (s.eff
        (Eng.adv (((e.inc ATOM_MEM_UR).rasEntry 7 2 h.xport (x.req.line % 2 ^ 40) 0xFF 0).putCtx failed) failed))
      ∧ exec (.backingUioCompletion h 4 d) s = .next (s.eff (Eng.adv (e.putCtx { failed with toP := true }) { failed with toP := true })))
    ∧ (e.ctxOfTag h.tag = none → ∀ o,
      exec (.staleBackingResponse h ⟨0xB, o⟩ dl) s = .next (s.eff (f.protoErr (f.tagSlice h.tag) 0x12 0xB o 0 0 0))
      ∧ exec (.staleBackingResponse h ⟨0xA, o⟩ dl) s = .next (s.eff (f.protoErr (f.tagSlice h.tag) 0x13 0xA o 0 0 0))
      ∧ exec (.staleBackingResponse h ⟨0xD, o⟩ dl) s = .next (s.eff (e.protoErr (e.tagSlice h.tag) 0x13 0xD o 0 0 0)))

/-- While the block serves with no stored word in error: the presented beat of a port and group leaves when the carrier takes it, with
what its taking does, or makes way for the next beat of its entry, and the next is presented; a waiting context that can take a snoop slot
goes on; an expired target of a slot is late for each line it has not answered; a backing access past its deadline is logged, its index
withheld, and its flow or write-back takes the outcome of R115; an echo entry that fails the age test is cleared; a withheld index whose
time has passed returns (R36, R98, R114, R115, R127, R166). -/
def Obligations.BeatsTakenAndFlowTimers : Prop :=
  ∀ s : State, s.toChip.works = true →
    (∀ port grp o, s.eng.portClamped port = false → (s.eng.outAt port grp).find? (fun o => o.presented) = some o →
      let e : Eng := { s.eng with undo := s.eng.undo.filter fun a => !(a.kind == grp + 2 && a.inst == port) }
      (o.more = [] → exec (.outboundBeatTaken port grp) s = .next (s.eff
        (((Eng.took { e with outq := e.outq.filter fun (p : OEnt) => p.id != o.id } o).present port grp).roomAt port)))
      ∧ (o.more ≠ [] → s.eng.foghorn = false → exec (.outboundBeatTaken port grp) s = .next (s.eff
        (((Eng.setOut (if o.grp = 1 then e.copyTaken o else e) (e.nextBeat o)).present port grp).roomAt port))))
    ∧ (∀ slice idx x, s.eng.ctx slice idx = some x → x.phase = .opened → x.want.isSome = true →
      exec (.snoopSlotAcquired slice idx) s = .next (s.eff (s.eng.adv x)))
    ∧ (∀ slice slot caid sl t, s.eng.snps.find? (fun q => q.slice == slice && q.slot == slot) = some sl →
      sl.tgts.find? (fun t => t.caid == caid) = some t → t.expired s.eng.ts = true →
      exec (.biTimeout slice slot caid) s = .next (s.eff (s.eng.targetLate sl t)))
    ∧ (∀ slice idx x a d, s.eng.ctx slice idx = some x → x.acc = some a → a.deadline = some d → d ≤ s.eng.ts →
      (x.req.op = .wback → exec (.memTimeout slice idx) s = .next (s.eff ((s.eng.accLate x a).wbackLate { x with acc := none })))
      ∧ (∀ ch, x.req.op = .drift ch → (a.kind = .wr ∨ a.kind = .wrPtl) → exec (.memTimeout slice idx) s = .next (s.eff
          ((((((s.eng.accLate x a).inc MEM_TIMEOUT_POISONED).haltChan ch).freeSlots x.req.gid).retire { x with acc := none }).abortStep ch)))
      ∧ (∀ ch, x.req.op = .drift ch → a.kind = .rd → exec (.memTimeout slice idx) s = .next (s.eff
          (((s.eng.accLate x a).inc MEM_TIMEOUT_POISONED).accFailed { x with acc := none })))
      ∧ (x.req.op ≠ .wback → (∀ ch, x.req.op ≠ .drift ch) →
          exec (.memTimeout slice idx) s = .next (s.eff ((s.eng.accLate x a).flowLate { x with acc := none } a))))
    ∧ (∀ slice i x, (s.eng.echo.filter fun x => x.slice == slice)[i]? = some x → x.valid = true → s.eng.echoFresh x = false →
      exec (.echoEntryExpiry slice i) s = .next (s.eff
        { s.eng with echo := updFirst (fun (y : Echo) => decide (y = x)) (fun y => { y with valid := false }) s.eng.echo }))
    ∧ (∀ slice idx, exec (.watchQuarantineExpiry slice idx) s = .next (s.eff
        { s.eng with quar := s.eng.quar.filter fun q => !(q.slice == slice && q.idx == idx && decide (q.ends ≤ s.eng.ts)) }))

/-- While the block serves with no stored word in error: a cycle of the slice arbiter grants up to two entries, the second without the
queue that won first; in a lookup cycle every slice that holds a head without a free context counts a stall, the slot belongs to internal
work as R32 gives it, and the oldest eligible head takes a free context of its share and runs its lookup, or opens its sector where it is
a transfer operation (a sweep's visit by its own row too); the oldest waiter of a set whose repeated selection finds a way goes on; a
context whose hold window has passed opens, or, opened, goes on with its round; a completed fill or walk installs what it read and its
waiters go on (R32, R78, R103, R109, R120, R140, R143, R154, R164, R169, R170). -/
def Obligations.SliceOperations : Prop :=
  ∀ s : State, s.toChip.works = true →
    (∀ slice e1 w, s.eng.pump.grantOne slice none = (e1, some w) →
      exec (.sliceGrant slice) s = .next (s.eff (e1.grantOne slice (some w)).1.pump))
    ∧ (∀ slice idx, s.eng.looksUp slice = true →
      let e := (s.eng.countStall slice).useSlot slice
      (s.eng.issueHead slice = none → exec (.lookupIssue slice idx) s = .next (s.eff e))
      ∧ (∀ q, s.eng.issueHead slice = some q → q.req.op = .remoor → exec (.lookupIssue slice idx) s = .next (s.eff (e.remoorOpen slice (q.req.line / 4))))
      ∧ (∀ q sh, s.eng.issueHead slice = some q → q.req.op ≠ .remoor → e.shareFor slice q.req.cls = some sh → e.idxFree slice idx = true →
        exec (.lookupIssue slice idx) s = .next (s.eff
          (Eng.lookup { e with lineq := e.lineq.filter fun (p : QEnt) => p.req.gid != q.req.gid } slice idx sh q.req))))
    ∧ (∀ slice idx q sh c planned, s.eng.looksUp slice = true → s.eng.head slice true = some q → q.req.op = .visit c planned →
      s.eng.shareFor slice q.req.cls = some sh → s.eng.idxFree slice idx = true →
      exec (.sweepVisit slice idx) s = .next (s.eff
        (Eng.lookup { s.eng with lineq := s.eng.lineq.filter fun (p : QEnt) => p.req.gid != q.req.gid } slice idx sh q.req)))
    ∧ (∀ slice set w idx x e1 x1, s.eng.waiters.find? (fun w => w.slice == slice && w.set == set) = some w → w.ctx = some idx →
      s.eng.evicting slice w.sector = false →
      s.eng.ctx slice idx = some x → s.eng.lookDir x true = (e1, x1) → x1.phase ≠ .waitSet →
      exec (.setConflictRetry slice set) s = .next (s.eff (Eng.tryOpen
        { e1 with waiters := s.eng.waiters.filter fun (v : Waiter) => !(v.slice == slice && v.set == set && v.sector == w.sector && v.ctx == w.ctx) } x1)))
    ∧ (∀ slice idx x, s.eng.ctx slice idx = some x → x.phase = .held →
      exec (.holdWindowEnd slice idx) s = .next (s.eff (s.eng.openCtx x)))
    ∧ (∀ slice idx x, s.eng.ctx slice idx = some x → x.phase = .opened →
      exec (.holdWindowEnd slice idx) s = .next (s.eff (s.eng.adv x)))
    ∧ (∀ slice sec f, s.eng.fills.find? (fun f => f.slice == slice && f.sector == sec) = some f → f.res ≠ .reading →
      exec (.dbsFillComplete slice sec) s = .next (s.eff (s.eng.fillTaken f)))
    ∧ (∀ slice i w r, s.eng.walks.find? (fun w => w.slice == slice && w.i == i) = some w → w.res = some r →
      exec (.tileWalkComplete slice i) s = .next (s.eff (s.eng.walkTaken slice i (if w.stale then s.eng.tent i else r.getD tent0))))

/-- While the block serves with no stored word in error: with the DBS up, the oldest spill entry of a slice of each kind without a
sequence starts its own (rewrite, placement, release); EVICT for the burst a running overflow named starts at the owner of the sector, or
is declined where R151 says so; a DECLINE or KEPT is counted (that a KEPT counts is the model's reading, log entry 55), its burst is not
asked again, and the overflow goes on; COMPLETE closes and logs the overflow and the waiting sector is placed in the first free burst from
its home; once DBS_EVICT_RETRY has passed, the overflow reads its page again; the DBS scan of a sweep whose SFA scan has ended takes every
written page (R145, R146, R147, R150, R151, R153, R272). -/
def Obligations.DbsOperations : Prop :=
  ∀ s : State, s.toChip.works = true →
    (∀ slice sp, s.eng.dbsUp = true →
      (s.eng.spill.find? (fun p => p.slice == slice && p.kind == .rewrite && s.eng.spillMay p) = some sp →
        exec (.dbsInPlaceRewrite slice) s = .next (s.eff (s.eng.startSpill sp)))
      ∧ (s.eng.spill.find? (fun p => p.slice == slice && p.kind == .placement && s.eng.spillMay p) = some sp →
        exec (.dbsPlacement slice) s = .next (s.eff (s.eng.startSpill sp)))
      ∧ (s.eng.spill.find? (fun p => p.slice == slice && p.kind == .release && s.eng.spillMay p) = some sp →
        exec (.dbsRelease slice) s = .next (s.eff (s.eng.startSpill sp))))
    ∧ (∀ page o q b, s.eng.overflows.find? (fun o => o.page == page && decide (o.st = .evictSent)) = some o → s.eng.page page = some q →
      q.bursts.find? (fun b => b.b == o.asked) = some b →
      let slice := s.eng.owner (b.sector * 4)
      let e := s.eng.galSend .evict 7 (33 + pageCh page) slice
      (e.evictDeclines slice b.sector = true → exec (.evict page) s = .next (s.eff (e.updOv page .evictSent fun o =>
          { o with st := .declineSent, shadow := o.shadow || e.mirrorsLine (b.sector * 4) })))
      ∧ (e.evictDeclines slice b.sector = false → exec (.evict page) s =
          .next (s.eff (e.evictStart page slice b.sector b.psn b.b (e.sfaFind slice b.sector) b.l).1)))
    ∧ (∀ page st o, s.eng.overflows.find? (fun o => o.page == page && o.st == st) = some o →
      let e := ((s.eng.galSend .evict 7 (s.eng.owner (o.vsector * 4)) (33 + pageCh page)).inc DBS_EVICT_DECLINES).updOv page st fun o =>
        { o with declined := o.asked :: o.declined }
      (st = .declineSent → exec (.decline page) s = .next (s.eff (e.ovNext o.id)))
      ∧ (st = .keptSent → exec (.kept page) s = .next (s.eff (e.ovNext o.id))))
    ∧ (∀ page o sq z q f, s.eng.overflows.find? (fun o => o.page == page && decide (o.st = .completeSent)) = some o →
      (s.eng.ovClosed o).seqs.find? (fun q => q.id == o.id) = some sq →
      (s.eng.ovClosed o).seqSpill o.zslice o.zsector sq.id = some z → (s.eng.ovClosed o).page page = some q →
      firstFree q (dbsHome z.psn) ((s.eng.ovClosed o).avoidOf page) = some f →
      exec (.complete page) s = .next (s.eff ((s.eng.ovClosed o).ovPlace sq z q f)))
    ∧ (∀ page o sq, s.eng.overflows.find? (fun o => o.page == page && decide (o.st = .retryWait)) = some o → o.retryAt ≤ s.eng.ts →
      s.eng.seqs.find? (fun q => q.id == o.id) = some sq →
      exec (.dbsEvictRetryExpiry page) s = .next (s.eff (s.eng.ovAgain sq page)))
    ∧ (∀ caid w, s.eng.sweeps.find? (fun w => w.caid == caid && w.sfaDone && w.dbsLeft.isNone) = some w →
      exec (.sweepDbsScan caid) s = .next (s.eff ((s.eng.updSweep w.id fun v => { v with dbsLeft := some s.eng.scanPages }).sweepNext w.id)))

/-- While the block serves with no stored word in error, a line in H whose idle time has passed, that no mirror journals, and that can
move leaves H and is counted; a slice that disables walks on and, once quiet, clears its ways, the last slice making HDC_STATUS read
disabled. A commit of HDC_ENABLE 0 or 1, HDC_PRELOAD or HDC_UNLOCK_ALL that passes every check takes effect: enabling empties the cache
and sets HDC_STATUS to 1, unlocking clears every lock bit, a preload starts at its first line (R191, R196, R197, R202, R358). -/
def Obligations.HdcCommands : Prop :=
  (∀ (s : State) (line : Nat) (h : HIdle) (e1 : Eng), s.toChip.works = true → s.eng.hIdle.find? (fun h => h.line == line) = some h →
      h.since + s.eng.ob ATOM_H_IDLE ≤ s.eng.ts → s.eng.mirrorsLine line = false → s.eng.hMove line = (e1, true) →
      exec (.hIdleExit line) s = .next (s.eff (e1.inc ATOM_H_IDLE_EXITS)))
  ∧ (∀ (s : State) (slice : Nat), s.toChip.works = true → s.eng.ob HDC_STATUS = 2 → s.eng.hdcLeft.contains slice = true →
      ((s.eng.hdcWalk slice).hdcQuiet slice = false → exec (.hdcDisableFinish slice) s = .next (s.eff (s.eng.hdcWalk slice)))
      ∧ ((s.eng.hdcWalk slice).hdcQuiet slice = true → exec (.hdcDisableFinish slice) s = .next (s.eff ((s.eng.hdcWalk slice).hdcClear slice))))
  ∧ (∀ (s : State) (w : World),
      (s.toChip.accepts w [⟨HDC_ENABLE, 0, 0⟩] = true → exec (.hdcDisable w) s = .next (s.committed w fun c => c.e fun e => e.hdcDisable))
      ∧ (s.toChip.accepts w [⟨HDC_ENABLE, 0, 1⟩] = true → exec (.hdcEnable w) s = .next (s.committed w fun c => c.e fun e =>
          let e1 := e.set HDC_ENABLE 0 1
          if e1.ob HDC_STATUS = 0 then { (e1.set HDC_STATUS 0 1) with hdc := [] } else e1))
      ∧ (s.toChip.accepts w [⟨HDC_UNLOCK_ALL, 0, 1⟩] = true → exec (.hdcUnlockAll w) s =
          .next (s.committed w fun c => c.e fun e => { e with hdc := e.hdc.map fun v => { v with lock := false } }))
      ∧ (∀ v, s.toChip.accepts w [⟨HDC_PRELOAD, 0, v⟩] = true → exec (.hdcPreload w v) s = .next (s.committed w fun c => c.e fun e =>
          if e.ob HDC_STATUS ≠ 1 ∨ bits v 83 52 * 4 = 0 then e
          else Eng.preloadStep 64 { e with preload := some ⟨bits v 51 8 * 4, bits v 51 8 * 4 + bits v 83 52 * 4 - 1, bit v 84⟩ })))

/-- While the block serves without Foghorn and with no stored word in error and the leases are held here without a mirror, the oldest
lease command that no break reached first, from a Bound CAID of the lease's pool, changes its lease as Table 08.6 says and is answered
with status 0 and the result word of Table 08.5: outcome 0 and 1 acquire a Free or Broken lease with gen raised, 4 acquires or renews the
own lease, each setting the deadline to the time plus the term, 2 and 3 leave it unchanged, 5 releases it, 6 reports it. A CAID that is
not Bound or not of the pool is answered UR and counted (R204, R205, R206, R208). -/
def Obligations.LeaseCommands : Prop :=
  ∀ (s : State) (q : LeaseReq), s.toChip.works = true → s.eng.leaseHead = some q →
    let e := s.eng.breaksNear
    let l := q.req.line - e.ob LEASE_BASE / 64
    let c := q.req.caid
    let x := e.lease l
    let t := e.leaseTerm (getInt q.req.data 0 8)
    let take (g since : Nat) : Lease := { st := .held, owner := c, cause := x.cause, gen := g, term := t, deadline := e.ts + t * 1000, since := since }
    let answer (e : Eng) (out : Nat) (y : Lease) : Host.Outcome State Fault Refusal :=
      .next (s.eff (Eng.leaseAnswer { e with leases := kput l y e.leases } q 0 (leaseResult out y)))
    let same (out : Nat) : Host.Outcome State Fault Refusal := .next (s.eff (e.leaseAnswer q 0 (leaseResult out x)))
    e.foghorn = false → e.leaseAway = false →
    (e.mayLease c l = false → ∀ i, (i, q.req.leaseCmd) ∈ [(Instr.leaseAcquire, LeaseCmd.acquire), (.leaseRenew, .renew), (.leaseRelease, .release), (.leaseQuery, .query)] →
      exec i s = .next (s.eff ((e.inc LEASE_REFUSED).leaseAnswer q 1 0)))
    ∧ (e.mayLease c l = true → e.leaseMirrored = false →
      (q.req.leaseCmd = .acquire →
        (x.st = .free → exec .leaseAcquire s = answer (e.inc LEASE_ACQUIRES) 0 (take ((x.gen + 1) % 2 ^ 32) e.ts))
        ∧ (x.st = .broken → exec .leaseAcquire s = answer (e.inc LEASE_ACQUIRES) 1 (take ((x.gen + 1) % 2 ^ 32) e.ts))
        ∧ (x.st = .held → x.owner = c → exec .leaseAcquire s = answer e 4 (take x.gen x.since))
        ∧ (x.st = .held → x.owner ≠ c → exec .leaseAcquire s = same 2))
      ∧ (q.req.leaseCmd = .renew →
        (x.st = .held → x.owner = c → exec .leaseRenew s = answer e 4 (take x.gen x.since))
        ∧ (x.st ≠ .held ∨ x.owner ≠ c → exec .leaseRenew s = same 3))
      ∧ (q.req.leaseCmd = .release →
        (x.st = .held → x.owner = c → exec .leaseRelease s = answer e 5 { x with st := .free, owner := 0, since := e.ts })
        ∧ (x.st ≠ .held ∨ x.owner ≠ c → exec .leaseRelease s = same 3))
      ∧ (q.req.leaseCmd = .query → exec .leaseQuery s = same 6))

/-- While the block serves with no stored word in error, a Held lease whose deadline has come, with neither Brace nor Foghorn and the
leases held here, breaks with cause 1; the oldest break message that no command precedes breaks the lease it names, or every lease held by
the CAID it names. A commit of LEASE_BREAK or LEASE_BREAK_CAID that passes every check sends a break message of cause 6, one of LEASE_FREE
frees the lease. A break leaves a Held lease Broken without an owner, with its cause and time, counted in LEASE_BROKEN, one that expired
in LEASE_EXPIRED too, and every other lease as it was (R206, R207, R208, R209, R358). -/
def Obligations.LeaseBreaks : Prop :=
  (∀ (s : State) (l : Nat), s.toChip.works = true → (s.eng.lease l).st = .held → (s.eng.lease l).deadline ≤ s.eng.ts →
      s.eng.brace = false → s.eng.foghorn = false → s.eng.leaseAway = false →
      exec (.leaseExpiry l) s = .next (s.eff (s.eng.breakLease l 1)))
  ∧ (∀ (s : State) (b : BreakMsg) (rest : List BreakMsg), s.toChip.works = true → s.eng.foghorn = false → s.eng.breaks = b :: rest → b.after = 0 →
      (∀ l, b.lease = some l → b.caid = none → exec .leaseBreakTrigger s = .next (s.eff (Eng.breakLease { s.eng with breaks := rest } l b.cause)))
      ∧ (∀ c, b.lease = none → b.caid = some c → exec .leaseBreakTrigger s = .next (s.eff
          ((s.eng.leases.filter fun p => p.2.st == .held && p.2.owner == c).foldl (fun e p => e.breakLease p.1 b.cause) { s.eng with breaks := rest }))))
  ∧ (∀ (e : Eng) (l cause : Nat), (e.lease l).st = .held →
      (e.breakLease l cause).lease l = { e.lease l with st := .broken, owner := 0, cause := cause, since := e.ts }
      ∧ (∀ k, k ≠ l → (e.breakLease l cause).lease k = e.lease k)
      ∧ (e.breakLease l cause).ob LEASE_BROKEN = (e.inc LEASE_BROKEN).ob LEASE_BROKEN
      ∧ (e.breakLease l cause).ob LEASE_EXPIRED = if cause = 1 then (e.inc LEASE_EXPIRED).ob LEASE_EXPIRED else e.ob LEASE_EXPIRED)
  ∧ (∀ (s : State) (w : World),
      (∀ l, s.toChip.accepts w [⟨LEASE_BREAK, 0, l⟩] = true → exec (.leaseBreak w l) s = .next (s.committed w fun c => c.e fun e => e.sendBreak (some l) none 6))
      ∧ (∀ caid, s.toChip.accepts w [⟨LEASE_BREAK_CAID, 0, caid⟩] = true →
          exec (.leaseBreakCaid w caid) s = .next (s.committed w fun c => c.e fun e => e.sendBreak none (some caid) 6))
      ∧ (∀ l, s.toChip.accepts w [⟨LEASE_FREE, 0, l⟩] = true →
          exec (.leaseFree w l) s = .next (s.committed w fun c => c.e fun e => (e.set LEASE_FREE 0 (l &&& 0xFFFF)).leaseFree (l &&& 0xFFFF))))

/-- A commit of any of a CAID's binding fields that passes every check sets the port and the back-invalidate ID and gives the new pools
their effect (R67, R72); one of CAID_UNBIND 1 on a CAID that is not Unbound breaks its leases with cause 3 and starts the planned sweep,
one of 2 the surprise sweep (R67, R68, R72, R207, R358). -/
def Obligations.BindingCommits : Prop :=
  ∀ (s : State) (w : World) (caid : Nat), caid < 256 →
    (∀ port biid pools, s.toChip.accepts w (bindWrs caid port biid pools) = true →
      exec (.caidBind w caid port biid pools) s = .next (s.committed w fun c => c.e fun e =>
        let e1 := port.elim e fun v => e.set CAID_PORT caid (OWr.mk CAID_PORT caid v).v
        let e2 := biid.elim e1 fun v => e1.set CAID_BIID caid (OWr.mk CAID_BIID caid v).v
        pools.elim e2 fun v => e2.setPools caid (OWr.mk CAID_POOLS caid v).v))
    ∧ (s.toChip.accepts w [⟨CAID_UNBIND, caid, 1⟩] = true → exec (.caidUnbindPlanned w caid) s = .next (s.committed w fun c => c.e fun e =>
        if e.caidSt caid = 0 then e else (e.sendBreak none (some caid) 3).planUnbind caid))
    ∧ (s.toChip.accepts w [⟨CAID_UNBIND, caid, 2⟩] = true → exec (.caidUnbindForced w caid) s = .next (s.committed w fun c => c.e fun e =>
        if e.caidSt caid = 0 then e else e.surprise caid 3))

/-- A commit that passes every check takes effect: adding a pool sets its base, units and first tile and makes its state present;
POOL_UNITS 0 on a present pool starts its purge; TILE_MAP_WRITE and TILE_MAP_FILL start the writes of their entries; GUARD_ARM 1 arms the
Partition Guard and lets waiting DRAM accesses go; TAINT_CLEAR removes its element, and a DBS page it named reads as unwritten. While the
block serves with no stored word in error, a purge with nothing of its pool left ends and the pool's state reads absent (R62, R64, R79,
R83, R160, R358). -/
def Obligations.PoolAndTileCommits : Prop :=
  (∀ (s : State) (w : World) (p : Nat), p < 64 →
    (∀ base units tm, (OWr.mk POOL_UNITS p units).v ≠ 0 → s.toChip.accepts w [⟨POOL_BASE, p, base⟩, ⟨POOL_UNITS, p, units⟩, ⟨POOL_TMBASE, p, tm⟩] = true →
      exec (.poolAdd w p base units tm) s = .next (s.committed w fun c => c.e fun e =>
        let e1 := e.set POOL_BASE p (OWr.mk POOL_BASE p base).v
        let u := (OWr.mk POOL_UNITS p units).v
        let e2 := if u = e1.obj POOL_UNITS p then e1 else (e1.set POOL_UNITS p u).set POOL_STATE p 1
        e2.set POOL_TMBASE p (OWr.mk POOL_TMBASE p tm).v))
    ∧ (s.toChip.accepts w [⟨POOL_UNITS, p, 0⟩] = true → exec (.poolRemove w p) s = .next (s.committed w fun c => c.e fun e =>
        if e.obj POOL_UNITS p = 0 then e else e.purge p)))
  ∧ (∀ (s : State) (w : World),
    (∀ v, s.toChip.accepts w [⟨TILE_MAP_WRITE, 0, v⟩] = true → exec (.tileMapWrite w v) s =
        .next (s.committed w fun c => c.e fun e => e.tileWrite [{ i := bits v 31 0, what := .write, ent := Tent.ofWord (bits v 159 32) }]))
    ∧ (∀ v, s.toChip.accepts w [⟨TILE_MAP_FILL, 0, v⟩] = true → exec (.tileMapFill w v) s = .next (s.committed w fun c => c.e fun e =>
        if bits v 63 32 = 0 then e
        else e.tileWrite ((List.range (bits v 63 32)).map fun k => { i := bits v 31 0 + k, what := .write, ent := { tent0 with valid := true, dev := bits v 71 64, dpa := bits v 102 72 + k, pool := bits v 108 103 } })))
    ∧ (s.toChip.accepts w [⟨GUARD_ARM, 0, 1⟩] = true → exec (.guardArm w) s = .next (s.committed w fun c => c.e fun e => Eng.presentAll (e.set GUARD_ARM 0 1)))
    ∧ (∀ el, s.toChip.accepts w [⟨TAINT_CLEAR, 0, el⟩] = true → exec (.taintClear w el) s = .next (s.committed w fun c => c.e fun e => e.taintClear el)))
  ∧ (∀ (s : State) (p : Nat) (q : Nat × Nat × Nat × Nat), s.toChip.works = true → s.eng.purges.find? (fun q => q.1 == p) = some q →
      s.eng.purgeBusy q = false →
      exec (.poolPurgeComplete p) s = .next (s.eff { (s.eng.set POOL_STATE p 0) with purges := s.eng.purges.filter fun r => r.1 != p }))

/-- While the block serves with no stored word in error: the command that stands presented on a channel is taken, opens under its tag, and
the next is presented; without Foghorn, a good read response that is in time ends its access, one with an error mark is logged and leaves
its burst among the failures of its sequence, one whose symbols differ from what was written is decoded word by word, each correction and
each failure logged and counted, and a write completion that is in time ends its access; an access without a response for more than 8,000
cycles is counted, its tag is withheld, and outside Foghorn it counts as a failed one (R48, R49, R179, R292; what the code of a read entry
found is the command's operand, log entry 8). -/
def Obligations.DramPort : Prop :=
  ∀ s : State, s.toChip.works = true →
    (∀ ch c, (s.eng.dramPresent ch).dcmds.find? (fun c => c.ch == ch && c.tag.isSome) = some c →
      let e := (s.eng.dramPresent ch).pm (33 + ch) (if c.a.op = .rd then 0x40 else 0x41) 1
      exec (.dramCommandTaken ch) s = .next (s.eff (Eng.dramPresent
        { e with dcmds := e.dcmds.erase c, dopen := e.dopen ++ [{ ch := ch, tag := c.tag.getD 0, seq := c.seq, a := c.a, taken := e.ts }] } ch)))
    ∧ (∀ ch tag e o, s.eng.dramRsp ch tag false = (e, some o) → e.foghorn = false →
      let st := match e.seqs.find? fun q => q.id == o.seq with | some q => q.kind.store | none => 8
      exec (.dramReadResponse ch tag ⟨false, 0⟩) s = .next (s.eff (e.accEnd o id))
      ∧ (∀ diff, exec (.dramReadResponse ch tag ⟨true, diff⟩) s = .next (s.eff
          ((e.uncorrectable st ch (o.a.addr * 64) 0).accEnd o fun q => { q with bad := q.bad ++ [(o.a.addr, none)] })))
      ∧ (∀ diff e1 corr bad, diff ≠ 0 → e.burstRead st ch o.a.addr diff = (e1, corr, bad) →
          exec (.dramReadResponse ch tag ⟨false, diff⟩) s = .next (s.eff (e1.accEnd o fun q =>
            { q with corr := q.corr || corr, bad := if bad then q.bad ++ [(o.a.addr, some diff)] else q.bad,
                     soft := if bad || softPart st o.a.addr diff == 0 then q.soft else q.soft ++ [(o.a.addr, softPart st o.a.addr diff)] }))))
    ∧ (∀ ch tag e o, s.eng.dramRsp ch tag true = (e, some o) → e.foghorn = false →
      exec (.dramWriteCompletion ch tag) s = .next (s.eff (e.accEnd o id)))
    ∧ (∀ ch tag o, s.eng.dopen.find? (fun o => o.ch == ch && o.tag == tag) = some o → o.taken + 8000 < s.eng.ts →
      let e := { s.eng.inc RAS_DRAM_TIMEOUTS ch with dopen := s.eng.dopen.erase o, withheld := s.eng.withheld ++ [(ch, o.tag)] }
      (s.eng.foghorn = true → exec (.dramTimeout ch tag) s = .next (s.eff e))
      ∧ (s.eng.foghorn = false → o.a.op = .rd → exec (.dramTimeout ch tag) s = .next (s.eff (e.accEnd o fun q => { q with bad := q.bad ++ [(o.a.addr, none)] })))
      ∧ (s.eng.foghorn = false → o.a.op ≠ .rd → exec (.dramTimeout ch tag) s = .next (s.eff (e.accEnd o fun q => { q with wbad := true }))))

/-- A commit of DRIFT_START that passes every check claims the lowest free channel for the tile and marks its entry; one of DRIFT_ABORT
moves a copying channel to abort. While the block serves with no stored word in error: a channel that may copy issues its next line in
ascending order; with all its copies retired it writes the entry's new place; a report of a drained slice is taken off the channel's list,
and the last one ends the Drift with its count, event 0x0A and interrupt 13; a due heat pass starts, or waits and is counted where one
runs; the oldest heat delta arrives (R215, R216, R218, R219, R220, R221, R358). -/
def Obligations.DriftAndHeat : Prop :=
  (∀ (s : State) (w : World),
    (∀ v, s.toChip.accepts w [⟨DRIFT_START, 0, v⟩] = true → exec (.driftStart w v) s = .next (s.committed w fun c => c.e fun e => e.driftStart v))
    ∧ (∀ ch, s.toChip.accepts w [⟨DRIFT_ABORT, 0, ch⟩] = true → exec (.driftAbort w ch) s = .next (s.committed w fun c => c.e fun e =>
        Eng.abortStep { e with chans := updFirst (fun (c : Chan) => c.ch == ch && decide (c.phase = .copy)) (fun c => { c with phase := .abort }) e.chans } ch)))
  ∧ (∀ (e : Eng) (v ch : Nat), (List.range 16).find? e.chanFree = some ch → e.driftStart v = Eng.tileWrite
      { e with chans := e.chans ++ [{ ch := ch, phase := .copy, tile := bits v 24 0, sdev := (e.tent (bits v 24 0)).dev, sframe := (e.tent (bits v 24 0)).dpa, ddev := bits v 39 32, dframe := bits v 70 40, cursor := 0, next := 0, reports := [], aborted := false, last := none, wait := none }] }
      [{ i := bits v 24 0, what := .mark, ent := tent0 }])
  ∧ (∀ s : State, s.toChip.works = true →
    (∀ ch c l, s.eng.chans.find? (fun c => c.ch == ch) = some c → s.eng.driftMay c = true → s.eng.tileLine c.tile c.next = some l →
      exec (.driftCopyIssue ch) s = .next (s.eff (Eng.sendInt
        { s.eng with chans := updFirst (fun (d : Chan) => d.ch == ch) (fun d => { d with next := d.next + 1, last := some s.eng.ts }) s.eng.chans } (.drift ch) 3 ch l)))
    ∧ (∀ ch c, s.eng.chans.find? (fun c => c.ch == ch) = some c → c.phase = .copy → 32768 ≤ c.cursor → s.eng.driftOpen ch = 0 →
      exec (.driftFlip ch) s = .next (s.eff (Eng.tileWrite { s.eng with chans := updFirst (fun (d : Chan) => d.ch == ch) (fun d => { d with phase := .flip }) s.eng.chans }
        [{ i := c.tile, what := .flip, ent := { tent0 with dev := c.ddev, dpa := c.dframe } }])))
    ∧ (∀ ch slice c, (s.eng.driftDrain ch).chans.find? (fun c => c.ch == ch) = some c → c.phase = .drain → c.reports.contains slice = true →
      (s.eng.driftDrain ch).driftClear slice c.tile = true →
      ((dropNat slice c.reports).isEmpty = true → exec (.driftDrainReport ch slice) s = .next (s.eff ((s.eng.driftDrain ch).driftEnd c)))
      ∧ ((dropNat slice c.reports).isEmpty = false → exec (.driftDrainReport ch slice) s = .next (s.eff
          { s.eng.driftDrain ch with chans := updFirst (fun (d : Chan) => d.ch == ch) (fun d => { d with reports := dropNat slice c.reports }) (s.eng.driftDrain ch).chans })))
    ∧ (s.eng.heatDue ≤ s.eng.ts → s.eng.foghorn = false →
      let e1 := { s.eng with heatDue := s.eng.heatDue + s.eng.ob HEAT_SCAN_PERIOD * 1000000 }
      (s.eng.heatLeft = none → exec .heatPassStart s = .next (s.eff e1.heatBegin.heatIssue))
      ∧ (s.eng.heatLeft ≠ none → exec .heatPassStart s = .next (s.eff (Eng.inc { e1 with heatWait := true } HEAT_PASS_OVERRUNS))))
    ∧ (∀ i d t, s.eng.heatMsgs = (i, d) :: t → exec .heatDelta s = .next (s.eff (Eng.heatArrive { s.eng with heatMsgs := t } i d))))

/-- While the block serves with no stored word in error, a new hierarchy message to this node has its effect. PREPARE at O or N that
passes the checks of R223 takes up the role, at N writes the unit's entries, and is answered PREPARED; one that fails a check is answered
REFUSE with it. START at a prepared O starts the transfer; FLIP at N moors the unit and is answered FLIPPED; ABORT before the transfer
ends the role, and N clears what it wrote. SECTOR at N installs the sector and is answered ACK, or waits for a way; ACK at O commits the
sector (R222, R223, R224, R226, R228, R287, R288; the tile-map entries a PREPARE carries are the model's, log entry 23; the numbering of
the checks is log entry 22). -/
def Obligations.RemooringAtOwnerAndTarget : Prop :=
  ∀ (s : State) (h : Hdr), s.toChip.works = true → s.toChip.fab.isNew h = true →
    let f := s.toChip.fab.arrived h
    let e := f.eng
    let me := e.ob HIER_NODE_ID
    (∀ u o n tiles, h.src ≠ me → me = o → e.prepareO u = none →
      exec (.prepare h u o n tiles) s = .next (s.effFab (f.e fun e =>
        (Eng.remoorStep { e with remoor := { remoor0 with role := .releasing, unit := u, peer := n, out := e.tilesOut u } } 1).hsend 0x11 h.src 0 none none (some h.seq))))
    ∧ (∀ u o n tiles k, h.src ≠ me → me = o → e.prepareO u = some k →
      exec (.prepare h u o n tiles) s = .next (s.effFab (f.e fun e => e.hsend 0x12 h.src k none none (some h.seq))))
    ∧ (∀ u o n tiles k, h.src ≠ me → me ≠ o → me = n → e.prepareN u = some k →
      exec (.prepare h u o n tiles) s = .next (s.effFab (f.e fun e => e.hsend 0x12 h.src k none none (some h.seq))))
    ∧ (∀ u o n (tiles : List TileB), h.src ≠ me → me ≠ o → me = n → e.prepareN u = none →
      exec (.prepare h u o n tiles) s = .next (s.effFab (f.e fun e =>
        let ws : List TileWr := ((tiles.map fun t => (t.i, { tent0 with valid := t.valid, dev := t.dev, dpa := t.dpa, gen := t.gen })).filter
          fun (t : Nat × Tent) => decide (u * 512 ≤ t.1) && decide (t.1 < u * 512 + 512)).map
            fun t => { i := t.1, what := .raw, ent := { t.2 with drift := false, heat := 0, pool := (e.unitPool u).getD 0 } }
        ((Eng.remoorStep { e with remoor := { remoor0 with role := .receiving, unit := u, peer := o, wrote := ws.map fun w => w.i } } 1).tileWrite ws).hsend
          0x11 h.src 0 none none (some h.seq))))
    ∧ (∀ u, e.remoor.role = .releasing → e.remoor.unit = u → e.remoor.step = 1 →
      exec (.start h u) s = .next (s.effFab (f.e fun e => Eng.remoorStep { e with remoor := { e.remoor with cursors := e.sliceList.map fun k => (k, e.unitSector u), timer := some (e.ts + e.ob REMOOR_XFER_MAX * 1000) } } 2)))
    ∧ (∀ u, e.remoor.role = .receiving → e.remoor.unit = u → h.src ≠ (Eng.remoorStep { e with moor := insertNat u e.moor } 3).ob HIER_NODE_ID →
      exec (.flip h u) s = .next (s.effFab (f.e fun e => (Eng.remoorStep { e with moor := insertNat u e.moor } 3).hsend 0x18 h.src u none none (some h.seq))))
    ∧ (∀ u, e.remoor.unit = u → e.remoor.step = 1 →
      (e.remoor.role = .releasing → exec (.abort h u) s = .next (s.effFab (f.e fun e => { e with remoor := remoor0 })))
      ∧ (e.remoor.role = .receiving → exec (.abort h u) s = .next (s.effFab (f.e fun e =>
          Eng.tileWrite { e with remoor := remoor0 } (e.remoor.wrote.map fun i => { i := i, what := .raw, ent := tent0 })))))
    ∧ (∀ sec ls, e.remoor.role = .receiving →
      exec (.sector h sec ls) s = .next (s.effFab (f.e fun e => e.sectorIn sec h.src h.seq ((List.range 4).map fun k => let p := ls.getD k (0, 0); lstOf p.1 p.2))))
    ∧ (∀ sec, e.remoor.role = .releasing → e.remoor.sent.contains sec = true → e.remoor.committed.contains sec = false →
      exec (.ack h sec) s = .next (s.effFab ((f.answered fun m => m.typ == 0x14 && m.body % 2 ^ 44 == sec).e fun e => e.sectorAck sec)))

/-- While the block serves with no stored word in error, a new hierarchy message has its effect at the manager of a re-mooring. PREPARED
from a node is that of the oldest re-mooring in step 1 that waits for the node: it is recorded for O or N, and the second one enters step
2, ends an earlier re-mooring of the unit, and gives START to O. REFUSE from such a node ends the re-mooring and gives ABORT to O and to
N. TRANSFER_DONE for the unit in step 2 enters step 3 and gives FLIP to N. FLIPPED in step 3 enters step 4 and changes the unit's map
entry to N. DRAIN_DONE for the unit in step 4 ends the re-mooring. Where O or N is the manager's own node it acts on the message at once;
otherwise the message is sent to it (R222, R223, R228, R287, R288, R289). -/
def Obligations.RemooringAtManager : Prop :=
  ∀ (s : State) (h : Hdr) (m : RemoorMgr), s.toChip.works = true → s.toChip.fab.isNew h = true →
    let f := s.toChip.fab.arrived h
    (f.eng.asked h.src = some m →
      m.step = 1 ∧ ((m.o = h.src ∧ m.preparedO = false) ∨ (m.n = h.src ∧ m.preparedN = false))
      ∧ (let m' := { m with preparedO := m.preparedO || h.src == m.o, preparedN := m.preparedN || h.src == m.n }
        let f1 := f.answered fun x => x.prepares m.unit (some h.src)
        (¬ (m'.preparedO = true ∧ m'.preparedN = true) → exec (.prepared h) s = .next (s.effFab (f1.e fun e => { e with rmgr := updFirst (fun r => r == m) (fun _ => m') e.rmgr })))
        ∧ (m'.preparedO = true → m'.preparedN = true → exec (.prepared h) s = .next (s.effFab (f1.e fun e =>
            let e1 := e.putMgr m 2 ({ m' with step := 2 } :: e.rmgr.filter fun (r : RemoorMgr) => r.unit != m.unit)
            if m.o = e1.ob HIER_NODE_ID then e1.start m.unit else e1.hsend 0x13 m.o m.unit none none none))))
      ∧ (∀ k, exec (.refuse h k) s = .next (s.effFab ((f.answered fun x => x.prepares m.unit none).e fun e =>
          [m.o, m.n].foldl (fun e d => if d = e.ob HIER_NODE_ID then e.remoorAbort m.unit else e.hsend 0x1A d m.unit none none none)
            (e.putMgr m 0 (e.rmgr.eraseP fun r => r == m))))))
    ∧ (f.eng.mgrAt m.unit 2 = some m → exec (.transferDone h m.unit) s = .next (s.effFab ((f.answered fun x => x.typ == 0x13 && x.body == m.unit).e fun e =>
        let e1 := e.mgrStep m 3
        if m.n = e1.ob HIER_NODE_ID then e1.flip m.unit m.n none else e1.hsend 0x17 m.n m.unit none none none)))
    ∧ (f.eng.mgrAt m.unit 3 = some m → exec (.flipped h m.unit) s = .next (s.effFab ((f.answered fun x => x.typ == 0x17 && x.body == m.unit).e fun e =>
        Eng.mapChange (e.mgrStep m 4) m.unit (e.mapEntry m.unit - bits (e.mapEntry m.unit) 7 0 + m.n))))
    ∧ (f.eng.mgrAt m.unit 4 = some m → exec (.drainDone h m.unit) s = .next (s.effFab (f.e fun e => e.putMgr m 0 (e.rmgr.eraseP fun r => r == m))))

/-- While the block serves with no stored word in error, a new FWD_REQ that passes R69 (reason 7 apart) enters N's ingress under its
mapped CAID, poisoned where its data was uncorrectable; one refused for another reason is counted and logged under it and answered as
Table 03.2 says: MemData-NXM for MemRd and MemRdData, Cmp for MemInv, MemInvNT and MemClnEvct, a completion with status 1 for an AtomicOp,
nothing for MemWr and MemWrPtl. A new FWD_RSP at O that names an open forwarded request answers it from O's port in the form it carries
and, with its last beat, ends it; a requester that has departed gets no answer; one that names no open forwarded request changes no flow
(R69, R70, R71, R225, R226, R287, R288). -/
def Obligations.ForwardedRequests : Prop :=
  ∀ (s : State) (h : Hdr), s.toChip.works = true → s.toChip.fab.isNew h = true →
    let f := s.toChip.fab.arrived h
    (∀ b : FwdBeat,
      let r0 := reqOfFwd b
      let r := f.eng.fwdIn { r0 with poison := r0.poison || h.chk2.isData } h.src h.seq
      let e1 := { f.eng with fresh := f.eng.fresh + 1 }
      (e1.fwdWhy r = none → exec (.fwdReq h b) s = .next (s.effFab (f.e fun _ => Eng.pump { e1 with stages := e1.stages ++ [(hierStage, e1.ts, r)] })))
      ∧ (∀ k, e1.fwdWhy r = some k →
        ((r.op = .memRd ∨ r.op = .memRdData) → exec (.fwdReq h b) s = .next (s.effFab (f.e fun _ =>
            (Eng.answer (e1.refuse k 0 r.row r.caid r.port r.line) 0 r none .nxm none false).1)))
        ∧ ((r.op = .memInv ∨ r.op = .memInvNT ∨ r.op = .memClnEvct) → exec (.fwdReq h b) s = .next (s.effFab (f.e fun _ =>
            (Eng.answer (e1.refuse k 0 r.row r.caid r.port r.line) 0 r none .none (some .cmp) false).1)))
        ∧ (r.op = .atomic → exec (.fwdReq h b) s = .next (s.effFab (f.e fun _ =>
            (Eng.answerUio (e1.refuse k 6 r.row r.caid r.port r.line) 0 r 1 0).1)))
        ∧ ((r.op = .memWr ∨ r.op = .memWrPtl) → exec (.fwdReq h b) s = .next (s.effFab (f.e fun _ =>
            e1.refuse k 1 r.row r.caid r.port r.line)))))
    ∧ (∀ b : FwdAnsB,
      let f1 := f.answered fun (m : HMsg) => m.typ == 0x1B && m.dst == h.src && (match m.req with | some r => r.caid == b.caid && r.tag == b.tag | none => false)
      let named := f1.eng.fwds.find? fun g => g.mcaid == b.caid && g.req.tag == b.tag
      (named = none → exec (.fwdRsp h b) s = .next (s.effFab f1))
      ∧ (∀ fw, named = some fw →
        let port := f1.eng.portOf fw.slice
        let dl := occBand (f1.eng.occ fw.slice)
        let ended := { f1.eng with fwds := f1.eng.fwds.filter fun (g : Fwd) => g.id != fw.id }
        let ndr : Option OutOp := b.ndr.map fun n => if n = 1 then .cmpS else if n = 2 then .cmpE else if n = 3 then .cmpM else .cmp
        let drs : Drs := if b.drs = 1 then .data b.data (b.poison || h.chk2.isData) else if b.drs = 2 then .nxm else .none
        ((b.drs ≠ 1 ∨ b.ndr.isSome = true) →
          (ended.deaf fw.req.caid = true → exec (.fwdRsp h b) s = .next (s.effFab (f1.e fun _ => ended.freeSlots fw.req.gid)))
          ∧ (ended.deaf fw.req.caid = false →
            (∀ st, b.uio = some st → exec (.fwdRsp h b) s = .next (s.effFab (f1.e fun _ => ((ended.freeData fw.req.gid).replyUio port fw.req st b.data).1)))
            ∧ (b.uio = none → exec (.fwdRsp h b) s = .next (s.effFab (f1.e fun _ =>
                ((if fw.req.isWrite then ended.freeData fw.req.gid else ended).reply port fw.req dl drs ndr false).1)))))
        ∧ (b.drs = 1 → b.ndr = none →
          (f1.eng.deaf fw.req.caid = true → exec (.fwdRsp h b) s = .next (s.effFab f1))
          ∧ (f1.eng.deaf fw.req.caid = false → b.uio = none → exec (.fwdRsp h b) s = .next (s.effFab (f1.e fun e =>
              ((if fw.req.isWrite then e.freeData fw.req.gid else e).reply port fw.req dl drs none false).1))))))

/-- A commit of REMOOR_REQUEST that passes every check records the re-mooring in step 1 and sends PREPARE to O and to N; a manager that is
O or N itself takes its own PREPARE after the other's is sent. While the block serves with no stored word in error: a slice that may issue
takes its next transfer operation; at the manager, step 1 that outlasts REMOOR_PREPARE_MAX aborts; O's drain that outlasts REMOOR_DRAIN
leaves the unit; O in step 2 or 3 beyond REMOOR_XFER_MAX marks the unit stranded; a forwarded request beyond REMOOR_FWD_TIMEOUT is logged,
in the place the model chooses, and answered as for a line in P; a forwarded write takes a context for its backing write (R222, R223,
R224, R225, R228, R358; where the log of R225 stands is log entry 19's). -/
def Obligations.RemooringTimersAndTransfer : Prop :=
  (∀ (s : State) (w : World) (u n : Nat), s.toChip.accepts w [⟨REMOOR_REQUEST, 0, u + n * 2 ^ 16⟩] = true →
    exec (.remoorRequest w u n) s = .next (s.committed w fun c => c.e fun e => e.remoorRequest (u + n * 2 ^ 16)))
  ∧ (∀ (e : Eng) (v : Nat),
      let u := bits v 15 0
      let n := bits v 23 16
      let o := bits (e.mapEntry u) 7 0
      let me := e.ob HIER_NODE_ID
      let m : RemoorMgr := { unit := u, o := o, n := n, preparedO := false, preparedN := false, step := 1, ends := e.ts + e.ob REMOOR_PREPARE_MAX * 1000 }
      let e1 := e.putMgr m 1 (m :: e.rmgr)
      let ask (e : Eng) (d : Nat) : Eng := e.hsend 0x10 d (u + o * 2 ^ 16 + n * 2 ^ 24) none none none
      let here (e : Eng) : Eng := e.prepare u o n me none none
      (o ≠ me → n ≠ me → e.remoorRequest v = ask (ask e1 o) n)
      ∧ (o = me → n ≠ me → e.remoorRequest v = here (ask e1 n))
      ∧ (o ≠ me → n = me → e.remoorRequest v = here (ask e1 o)))
  ∧ (∀ s : State, s.toChip.works = true →
    (∀ k, s.eng.transferMay k = true → exec (.remoorTransferOp k) s = .next (s.eff (s.eng.transferNext k)))
    ∧ (∀ m, s.eng.rmgr.reverse.find? (fun m => m.step == 1 && decide (m.ends ≤ s.eng.ts)) = some m → exec .remoorPrepareTimeout s = .next (s.eff (s.eng.mgrAbort m)))
    ∧ (∀ t, s.eng.remoor.timer = some t → s.eng.remoor.role = .releasing → t ≤ s.eng.ts →
      (s.eng.remoor.step = 4 → exec .remoorDrainExpiry s = .next (s.eff (s.eng.swapForgets.leaveUnit s.eng.remoor.unit)))
      ∧ ((s.eng.remoor.step = 2 ∨ s.eng.remoor.step = 3) → exec .remoorXferTimeout s = .next (s.eff s.eng.strand)))
    ∧ (∀ id fw, s.eng.fwds.find? (fun f => f.id == id) = some fw → fw.ends ≤ s.eng.ts →
      let e := Eng.rasEntry { s.eng with fwds := s.eng.fwds.filter fun (g : Fwd) => g.id != id } 7 2 (s.eng.portOf fw.slice) (fw.req.line % 2 ^ 40) 0xFF 0
      (fw.req.isWrite = true → ∀ e2, e.fwdWrite fw = (e2, true) → exec (.remoorFwdTimeout id) s = .next (s.eff e2))
      ∧ (fw.req.isWrite = false → s.eng.deaf fw.req.caid = false → exec (.remoorFwdTimeout id) s = .next (s.eff (e.pAnswer fw.slice fw.req none)))
      ∧ (fw.req.isWrite = false → s.eng.deaf fw.req.caid = true → exec (.remoorFwdTimeout id) s = .next (s.eff (e.freeSlots fw.req.gid)))))

/-- A commit that passes every check takes effect: BUCKET_MOVE holds the bucket and reads busy; SLICE_PARK takes its value and votes awake
each slice whose bit cleared; SPARE_SWAP starts with SPARE_STATE 1, the spare's number and its power vote. While the block serves with no
stored word in error: the bucket's lines in H and its dirty lines are sent on their way first; a quiet bucket's entries move, and with
none left at A the table switches and the waiting entries pass; after that DONE ends the handoff with event 0x0C and interrupt 13; a
parked lit slice that owns and holds nothing leaves service and loses its vote; SLICE_DRAIN of the number that drains now, dark, or with
no context open and no request or internal operation queued there, takes its new values and lets admission resume (R229, R230, R231, R358,
R360). -/
def Obligations.HandoffAndSpare : Prop :=
  (∀ (s : State) (w : World),
    (∀ b t, b < 256 → t < 32 → s.toChip.accepts w [⟨BUCKET_MOVE, 0, b + t * 2 ^ 8⟩] = true →
      exec (.bucketMove w b t) s = .next (s.committed w fun c => c.e fun e =>
        { (e.set HANDOFF_BUSY 0 1) with handoff := some { bucket := b, a := e.bucketOwner b, b := t, passing := false } }))
    ∧ (∀ v, s.toChip.accepts w [⟨SLICE_PARK, 0, v⟩] = true → exec (.slicePark w v) s = .next (s.committed w fun c => c.e fun e =>
        let v := (OWr.mk SLICE_PARK 0 v).v
        ((List.range e.n).filter fun k => bit (e.ob SLICE_PARK) k && !(bit v k)).foldl (fun e k => e.set PWR_VOTE_HW (0x20 + k) 1) (e.set SLICE_PARK 0 v)))
    ∧ (∀ k, s.toChip.accepts w [⟨SPARE_SWAP, 0, k⟩] = true → exec (.spareSwap w k) s = .next (s.committed w fun c => c.e fun e =>
        Eng.swapNext { (((e.set SPARE_STATE 0 1).set SPARE_FOR 0 k).set PWR_VOTE_HW 0x40 1) with
          swap := some { k := k, left := (List.range 256).filter fun b => e.bucketOwner b == k } })))
  ∧ (∀ s : State, s.toChip.works = true →
    (∀ h, s.eng.handoff = some h → h.passing = false → s.eng.brace = false → s.eng.foghorn = false →
      let e1 := s.eng.bucketWalk h
      (e1.bucketQuiet h = false → exec .handoffQuiesced s = .next (s.eff e1)) ∧ (e1.bucketQuiet h = true →
      let e2 := Eng.moveWays h.b (e1.bucketWays h) e1
      ((e2.bucketWays h).isEmpty = true → exec .handoffQuiesced s = .next (s.eff (e2.bucketSwitch h)))
      ∧ ((e2.bucketWays h).isEmpty = false → exec .handoffQuiesced s = .next (s.eff e2))))
    ∧ (∀ h, s.eng.handoff = some h → h.passing = true →
      exec .handoffDone s = .next (s.eff ((Eng.event { (s.eng.set HANDOFF_BUSY 0 0) with handoff := none } 0x0C (evArgs [(0, 2), (1, h.bucket)])).irq 13).swapNext))
    ∧ (∀ k, k < s.eng.n → bit (s.eng.ob SLICE_PARK) k = true → bit (s.eng.ob SLICE_LIT) k = true → s.eng.owns k = false → s.eng.sliceEmpty k = true →
      let e := { s.eng with svc := dropNat k s.eng.svc }
      exec (.sliceDark k) s = .next (s.eff ((e.set SLICE_LIT 0 (clearBit (e.ob SLICE_LIT) k)).set PWR_VOTE_HW (0x20 + k) 0)))
    ∧ (∀ k, s.eng.draining = some k → (bit (s.eng.ob SLICE_LIT) k = false ∨ ((∀ x ∈ s.eng.ctxs, s.eng.sliceNum x.slice ≠ k)
        ∧ (∀ q ∈ s.eng.qf ++ s.eng.lineq, s.eng.sliceNum q.slice = k → q.req.cls ≠ 0 ∧ q.req.cls ≠ 1 ∧ q.req.cls ≠ 6 ∧ q.req.cls ≠ 7))) →
      let e := s.eng
      let ss := e.sliceList.filter fun t => e.sliceNum t == k
      let e1 := { e with drainEff := e.drainEff.filter (fun p => !(ss.any fun t => decide (drainKey t 0 0 ≤ p.1) && decide (p.1 < drainKey (t + 1) 0 0))), slots := e.slots.map (fun (q : QSlot) => if ss.contains q.slice then { q with relinked := true } else q) }
      exec (.sliceDrain k) s = .next (s.eff (e1.set DICT_DRAIN_PENDING 0 (clearBit (e1.ob DICT_DRAIN_PENDING) k)).pump)))

/-- While the block serves with no stored word in error, a good flit in Ready or Active counts its corrected symbols and applies its ACK
or NAK; beyond that: a data flit in Active with the expected number takes a free slot and is delivered, without one it counts an overrun
and the end retrains fresh; one of a later number is discarded and brings a NAK unless one is open; a copy of an accepted one is dropped
and acknowledged; a control flit returns credits; a retrain request in Active leads to Seek; an unknown kind is counted, and counted and
logged among the unit's errors. A bad flit is counted and logged and brings a NAK unless one is open (R243, R245, R246, R249, R250, R254,
R258; that a flit is good and what it holds are the command's operands, log entry 8). -/
def Obligations.DraixFlits : Prop :=
  ∀ s : State, s.toChip.works = true → s.lnk.hears = true →
    let l := s.lnk
    (∀ corr seq cls shared ackseq acktype payload,
      let l1 := (l.good corr).applyAck ackseq acktype
      let c := cls % 4
      let d := (seq % 4096 + 4096 - l1.d.e) % 4096
      let free := if shared then decide (l1.d.usedSh < 768) else decide (l1.d.used.getD c 0 < 64)
      let go (t : Lnk) : Prop := exec (.dataFlit corr seq cls shared ackseq acktype payload) s = .next (s.effLink t)
      (l1.st ≠ 4 → l1.loops = false → go l1)
      ∧ (l1.st = 4 →
        (d = 0 → free = true → go (l1.deliver { id := l1.eng.fresh, cls := c, shared := shared, payload := payload }))
        ∧ (d = 0 → free = false → go (((l1.inc DRX_CREDIT_OVERRUN).upd fun d => { d with fault := true }).retrain 5 0 true))
        ∧ (0 < d → d < 2048 → l1.d.nakOpen = true → go (l1.inc DRX_SEQ_DISCARDED))
        ∧ (0 < d → d < 2048 → l1.d.nakOpen = false → go (l1.inc DRX_SEQ_DISCARDED).sendNak)
        ∧ (2048 ≤ d → go ((l1.inc DRX_DUP_DROPPED).upd fun d => { d with ackDue := true }).sendAck)))
    ∧ (∀ corr ackseq acktype, exec (.idleFlit corr ackseq acktype) s = .next (s.effLink ((l.good corr).applyAck ackseq acktype)))
    ∧ (∀ corr ackseq acktype cr cs,
      let l1 := (l.good corr).applyAck ackseq acktype
      exec (.controlFlit corr ackseq acktype cr cs) s = .next (s.effLink (Lnk.tx (l1.upd fun d =>
        { d with res := (List.range 4).map (fun k => d.res.getD k 0 + (cr.getD k 0 % 65536 + 65536 - l1.d.lr.getD k 0) % 65536), lr := (List.range 4).map (fun k => cr.getD k 0 % 65536), shr := d.shr + (cs % 65536 + 65536 - d.ls) % 65536, ls := cs % 65536 }))))
    ∧ (∀ corr ackseq acktype node excl fr,
      let l1 := (l.good corr).applyAck ackseq acktype
      (l1.st = 4 → exec (.retrainRequestFlit corr ackseq acktype node excl fr) s = .next (s.effLink ((l1.seek (!fr)).upd fun d =>
        { d with partner2 := some { width := 3, map := [], e := 0, n := 0, o := 0, resok := false, req := true, excl := excl, final := false } })))
      ∧ (l1.st ≠ 4 → exec (.retrainRequestFlit corr ackseq acktype node excl fr) s = .next (s.effLink (l1.abandon node))))
    ∧ (∀ corr, exec (.unknownKindFlit corr) s = .next (s.effLink
        (let l1 := ((l.good corr).upd fun d => { d with good := 0 }).inc DRX_KIND_ERR; { l1 with eng := l1.eng.unitErr 41 0 })))
    ∧ (∀ rs : Bool,
      let l1 := (l.inc (if rs then DRX_RS_FAIL else DRX_CRC_FAIL)).upd fun d => { d with good := 0 }
      let l2 := { l1 with eng := (l1.eng.inc RAS_UE_COUNT 0x11).rasEntry 0x11 2 0 0 0xFF 0 }
      (l2.d.nakOpen = false → exec (.badFlit rs) s = .next (s.effLink l2.sendNak))
      ∧ (l2.d.nakOpen = true → exec (.badFlit rs) s = .next (s.effLink l2)))

/-- While the block serves with no stored word in error: a lane lock is recorded and Seek may end; a lost one is counted, and one of the
width in Active retrains with the lane excluded; a TS1 in Active or Ready leads to Seek, in Seek is recorded or enters the far-end
loopback that both ends want, a TS that names this end's node ID is a clash; a TS2 in Configure is compared; activity on 4 lanes ends
Wait, and in Down raises event 0x06 once; the settle, attempt, backoff, replay, NAK, ACK and credit timers have their effect once due;
sixteen good flits in Ready lead to Active; a Looped end that saw idle seeks fresh (R240, R247, R248, R249, R253, R254, R255, R257, R258,
R259, R262). -/
def Obligations.DraixTraining : Prop :=
  ∀ s : State, s.toChip.works = true →
    let l := s.lnk
    (∀ lane plane inv, l.regionOn = true → l.st ≠ 0 → l.st ≠ 5 → l.st ≠ 6 → lane < 16 → plane < 16 →
      exec (.laneLock lane plane inv false) s = .next (s.effLink (Lnk.seekEnd (l.upd fun d => { d with act := setBit d.act lane, locks := ({ lane := lane, plane := plane, inverted := inv } : LaneLock) :: d.locks.filter (fun (k : LaneLock) => k.lane != lane) }) false)))
    ∧ (∀ lane k, l.d.locks.find? (fun k => k.lane == lane) = some k →
      let l1 := (l.inc DRX_LANE_LOCK_LOSS lane).upd fun d => { d with locks := d.locks.filter (fun (j : LaneLock) => j.lane != lane), eye := d.eye.map (fun (t : EyeScan) => if t.lane = lane then { t with ok := false } else t) }
      (l1.st ≠ 4 → exec (.laneLockLoss lane) s = .next (s.effLink l1))
      ∧ (l1.st = 4 →
        (l1.d.partner2 = none → exec (.laneLockLoss lane) s = .next (s.effLink (l1.retrain 2 (2 ^ k.plane) false)))
        ∧ (∀ q, l1.d.partner2 = some q →
          ((q.map.take (l1.eng.ob DRX_WIDTH)).contains k.plane = true → exec (.laneLockLoss lane) s = .next (s.effLink (l1.retrain 2 (2 ^ k.plane) false)))
          ∧ ((q.map.take (l1.eng.ob DRX_WIDTH)).contains k.plane = false → exec (.laneLockLoss lane) s = .next (s.effLink l1)))))
    ∧ (∀ p, (l.st = 4 → exec (.ts1 p) s = .next (s.effLink (Lnk.seekEnd ((l.seek true).upd fun d => { d with partner := some p }) false)))
      ∧ (l.st = 1 → p.node = l.node → exec (.ts1 p) s = .next (s.effLink l.clash))
      ∧ (l.st = 1 → p.node ≠ l.node →
        (p.loop = 0 → exec (.ts1 p) s = .next (s.effLink (Lnk.seekEnd (l.upd fun d => { d with partner := some p }) false)))
        ∧ (p.loop = 1 → l.eng.ob DRX_FE_LOOP_ALLOW = 1 → exec (.ts1 p) s = .next (s.effLink ((l.goto 8).upd fun d =>
            { d.discard with attempt := none, settle := none, line := [l.tsFlit 8 (tsBits { l.tsOut with loop := 2 } none)] })))
        ∧ (p.loop = 2 → l.eng.ob DRX_LOOPBACK = 3 → exec (.ts1 p) s = .next (s.effLink
            ((l.loadEq.goto 7).upd fun d => { d with attempt := none, settle := none, partner := some p })))
        ∧ (∀ q, exec (.ts2 p q) s = .next (s.effLink (Lnk.seekEnd (l.upd fun d => { d with partner := some p }) false))))
      ∧ (∀ q, (l.st = 1 ∨ l.st = 2) → p.node = l.node → exec (.ts2 p q) s = .next (s.effLink l.clash))
      ∧ (l.st = 3 → exec (.ts1 p) s = .next (s.effLink ((l.goto 1).upd fun d =>
          { d with partner := some p, partner2 := none, settle := none, agree := 0, final := false, prop := 3, good := 0 })))
      ∧ (∀ q : Ts2Body, l.st = 2 → p.node ≠ l.node →
        let l1 := (if q.req then l.abandon p.node else l).upd fun d => { d with partner := some p, partner2 := some q }
        let w := (l1.propose p).1
        let m := (l1.propose p).2
        let ok := l1.resok p q
        let agree := w == q.width && w != 3 && ok == q.resok
        let l2 := l1.upd fun d => { d with prop := w, map := m, agree := if agree then d.agree + 1 else 0 }
        let l3 := l2.upd fun d => { d with final := d.final || decide (16 ≤ d.agree) }
        (l3.d.final = true → agree = true → q.final = true → exec (.ts2 p q) s = .next (s.effLink (l3.enterReady p q ok)))
        ∧ (¬ (l3.d.final = true ∧ agree = true ∧ q.final = true) → exec (.ts2 p q) s = .next (s.effLink l3))))
    ∧ (∀ lanes, l.regionOn = true → 4 ≤ (bitList lanes 16).length →
      let l1 := l.upd fun d => { d with act := d.act ||| lanes % 65536 }
      (l.st = 5 → exec (.laneActivity lanes) s = .next (s.effLink (l1.loadEq.seek l.d.resume)))
      ∧ (l.st = 6 → l.d.told = false → exec (.laneActivity lanes) s = .next (s.effLink { (l1.upd fun d => { d with told := true }) with eng := (l1.eng.event 0x06 0).irq 12 })))
    ∧ (l.st = 4 → l.d.held ≠ [] → l.d.replayAt + l.eng.ob DRX_REPLAY_TIMER ≤ l.eng.ts → exec .replayTimerExpiry s = .next (s.effLink (l.replay l.d.o)))
    ∧ (l.hears = true → l.d.nakOpen = true → l.d.nakAt + l.eng.ob DRX_NAK_TIMER ≤ l.eng.ts → exec .nakTimerExpiry s = .next (s.effLink l.sendNak))
    ∧ (∀ t, l.d.unackedAt = some t → l.hears = true → t + l.eng.ob DRX_ACK_TIMER ≤ l.eng.ts → exec .ackTimerExpiry s = .next (s.effLink l.sendAck))
    ∧ (∀ t, l.d.unrepAt = some t → l.hears = true → t + 200 ≤ l.eng.ts → exec .creditReportTimer s = .next (s.effLink l.sendControl))
    ∧ (∀ t, l.d.settle = some t → l.st = 1 → t ≤ l.eng.ts → exec .seekSettleExpiry s = .next (s.effLink (l.seekEnd true)))
    ∧ (l.st = 3 → 16 ≤ l.d.good →
      let l1 := (((l.goto 4).set DRX_ATTEMPTS 0 0).inc DRX_TRAININGS).upd fun d => { d with attempt := none, wasActive := true, replayAt := l.eng.ts }
      (l1.d.held.isEmpty = true → exec .linkActive s = .next (s.effLink (l1.say .active).tx))
      ∧ (l1.d.held.isEmpty = false → exec .linkActive s = .next (s.effLink ((l1.replay l1.d.o).say .active).tx)))
    ∧ (∀ t, l.d.attempt = some t → t ≤ l.eng.ts → (l.st = 1 ∨ l.st = 2 ∨ l.st = 3) →
      let l1 := l.trainLog l.failCause
      let k := l1.eng.ob DRX_ATTEMPTS
      (7 ≤ k → exec .attemptTimeout s = .next (s.effLink ((l1.set DRX_ATTEMPTS 0 8).down l.failCause)))
      ∧ (k < 7 → exec .attemptTimeout s = .next (s.effLink (((l1.set DRX_ATTEMPTS 0 (k + 1)).goto 5).upd fun d => { d with attempt := none, settle := none, backoff := some (l1.eng.ts + 2 ^ k * 1000000) }))))
    ∧ (∀ t, l.d.backoff = some t → l.st = 5 → t ≤ l.eng.ts → exec .backoffElapsed s = .next (s.effLink (l.loadEq.seek l.d.resume)))
    ∧ (l.eng.ob DRX_CORR_THRESHOLD = 0 → exec .correctionThresholdCheck s = .next (s.effLink (l.upd fun d => { d with corr := [] })))
    ∧ (let bad := l.d.corr.filter fun c => decide (l.eng.ob DRX_CORR_THRESHOLD < c.2)
      l.st = 4 → l.eng.ob DRX_CORR_THRESHOLD ≠ 0 → bad.isEmpty = false →
      exec .correctionThresholdCheck s = .next (s.effLink (Lnk.retrain (l.upd fun d => { d with corr := [] }) 4
        (bad.foldl (fun m c => match l.d.locks.find? fun k => k.lane == c.1 with | some k => setBit m k.plane | none => m) 0) false)))
    ∧ (l.st = 8 → exec .loopedIdleExit s = .next (s.effLink (Lnk.freshSeek (l.upd fun d => { d with act := 0 }))))

/-- A commit that passes every check takes effect on the link: DRX_ENABLE 0 returns it to Off and 1 lets it train; DRX_TRAIN in Down seeks
fresh; DRX_RETRAIN 1 and 2 retrain with cause 1, 2 marking it fresh; DRX_LOOPBACK enters its mode from Off or Down of an end that has a
node ID, mode 3 by seeking fresh, and 0 returns to the state it came from; DRX_EYE_CTRL starts a scan and reads busy, which ends with the
count, the dwell and whether the lane kept its lock; DRX_ERR_INJECT arms its corruption (R254, R257, R261, R262, R263, R264, R358). -/
def Obligations.DraixCommits : Prop :=
  (∀ (s : State) (w : World),
    (s.toChip.accepts w [⟨DRX_ENABLE, 0, 0⟩] = true → exec (.drxEnable w false) s = .next (s.committed w fun c => c.setFab (c.fab.link fun l =>
      let l1 := l.set DRX_ENABLE 0 0
      (l1.set PWR_VOTE_HW 4 (if l1.eng.ob DRX_LOOPBACK ≠ 0 then 1 else 0)).off)))
    ∧ (s.toChip.accepts w [⟨DRX_ENABLE, 0, 1⟩] = true → exec (.drxEnable w true) s = .next (s.committed w fun c => c.setFab (c.fab.link fun l =>
      ((l.set DRX_ENABLE 0 1).set PWR_VOTE_HW 4 1).tryStart)))
    ∧ (s.toChip.accepts w [⟨DRX_TRAIN, 0, 1⟩] = true → exec (.drxTrain w) s = .next (s.committed w fun c => c.setFab (c.fab.link fun l =>
      if l.st = 6 then l.freshSeek else l)))
    ∧ (s.toChip.accepts w [⟨DRX_RETRAIN, 0, 1⟩] = true → exec (.drxRetrainResume w) s = .next (s.committed w fun c => c.setFab (c.fab.link fun l => l.retrain 1 0 false)))
    ∧ (s.toChip.accepts w [⟨DRX_RETRAIN, 0, 2⟩] = true → exec (.drxRetrainFresh w) s = .next (s.committed w fun c => c.setFab (c.fab.link fun l => l.retrain 1 0 true)))
    ∧ (s.toChip.accepts w [⟨DRX_LOOPBACK, 0, 1⟩] = true → exec (.loopbackNearSerial w) s = .next (s.committed w fun c => c.setFab (c.fab.link fun l => l.loopback 1)))
    ∧ (s.toChip.accepts w [⟨DRX_LOOPBACK, 0, 2⟩] = true → exec (.loopbackNearParallel w) s = .next (s.committed w fun c => c.setFab (c.fab.link fun l => l.loopback 2)))
    ∧ (s.toChip.accepts w [⟨DRX_LOOPBACK, 0, 3⟩] = true → exec (.loopbackFarEnd w) s = .next (s.committed w fun c => c.setFab (c.fab.link fun l => l.loopback 3)))
    ∧ (s.toChip.accepts w [⟨DRX_LOOPBACK, 0, 0⟩] = true → exec (.loopbackExit w) s = .next (s.committed w fun c => c.setFab (c.fab.link fun l => l.loopback 0)))
    ∧ (∀ v, s.toChip.accepts w [⟨DRX_EYE_CTRL, 0, v⟩] = true → exec (.drxEyeCtrl w v) s = .next (s.committed w fun c => c.setFab (c.fab.link fun l =>
      (l.set DRX_EYE_BUSY 0 1).upd fun d => { d with eye := some { lane := bits v 3 0, dwell := bits v 25 20, ok := d.locks.any fun k => k.lane == bits v 3 0 } })))
    ∧ (∀ v, s.toChip.accepts w [⟨DRX_ERR_INJECT, 0, v⟩] = true → exec (.drxErrInject w v) s = .next (s.committed w fun c => c.setFab (c.fab.link fun l =>
      l.upd fun d => { d with inj := if bits v 23 8 = 0 then none else some { lane := bits v 3 0, syms := bits v 6 4, crc := bit v 7, left := bits v 23 8 } }))))
  ∧ (∀ (s : State) (x : EyeScan) (n : Nat), s.toChip.works = true → s.lnk.d.eye = some x →
      exec (.eyeScanComplete n) s = .next (s.effLink (((s.lnk.set DRX_EYE_BUSY 0 0).upd fun d => { d with eye := none }).set DRX_EYE_RESULT 0 (n % 2 ^ 48 + x.dwell * 2 ^ 48 + b2n x.ok * 2 ^ 56))))
  ∧ (∀ (l : Lnk) (v : Nat), v ≠ 0 → (l.st = 0 ∨ l.st = 6) → l.eng.ob DRX_ENABLE = 1 → l.regionOn = true → l.node ≠ 0xFF →
      let l1 := (l.set DRX_LOOPBACK 0 v).set PWR_VOTE_HW 4 1
      let l2 := l1.upd fun d => { d.discard with loopFrom := l1.st, patTx := 0, patRx := 0 }
      (v = 3 → l.loopback v = l2.freshSeek) ∧ (v ≠ 3 → l.loopback v = l2.loadEq.goto 7))
  ∧ (∀ l : Lnk, l.eng.ob DRX_LOOPBACK ≠ 0 →
      let l1 := (l.set DRX_LOOPBACK 0 0).set PWR_VOTE_HW 4 (if l.eng.ob DRX_ENABLE = 1 then 1 else 0)
      l.loopback 0 = ((l1.goto l1.d.loopFrom).upd fun d => { d.discard with attempt := none, settle := none, hushEnd := l.eng.ts + 10000 }).tryStart)

/-- While the block serves with no stored word in error: records that waited MIR_PACK_WAIT leave in a flit; the oldest delta of a slice
that does not wait is written into its directory, or its sector is read first; the oldest lease delta and the oldest journal record of the
pool are applied; a Beacon that is due takes the next number and goes to the partner; a new Beacon from the partner is taken; a record
unapplied for MIR_JOURNAL_TIMEOUT, or for 4 of them from its first sending, which is counted, or no Beacon over Draix for a lease window,
leads a member whose serving lease holds to solo-link (R269, R271, R272, R274, R275, R276, R279, R287; what a journal record of the
manager holds is log entry 26). -/
def Obligations.MirrorRecordsAndBeacons : Prop :=
  ∀ s : State, s.toChip.works = true →
    let f := s.toChip.fab
    let e := s.eng
    (∀ c t, c < 2 → f.mir.packAt.getD c none = some t → f.mayPack = true → t + e.ob MIR_PACK_WAIT ≤ e.ts → exec (.mirPackWaitExpiry c) s = .next (s.effFab (f.sendPack c)))
    ∧ (∀ k d e1, e.nextDelta k = some d → e.foghorn = false → e.ob HDC_INIT_DONE = 1 → e.dirLookup k (d.line / 4) (e.psn d.line) false = (e1, .ready) →
      exec (.deltaApply k) s = .next (s.eff (e1.deltaWrite d)))
    ∧ (∀ k d e1, e.nextDelta k = some d → e.foghorn = false → e.ob HDC_INIT_DONE = 1 → e.dirLookup k (d.line / 4) (e.psn d.line) false = (e1, .filling) →
      exec (.deltaApply k) s = .next (s.eff e1.startFills))
    ∧ (∀ i, f.mir.inRecs.find? (fun i => i.cls == 0 && i.word % 16 == 2 && decide (i.mseq ≤ f.mir.rcv.getD 0 0)) = some i →
      exec .leaseDeltaApply s = .next (s.effFab ((f.e fun e => e.leaseDelta i.word).takeIn i)))
    ∧ (∀ i, f.mir.inRecs.find? (fun i => i.cls == 1 && decide (i.mseq ≤ f.mir.rcv.getD 1 0)) = some i →
      (i.word % 256 = 1 → exec .journalRecordApply s = .next (s.effFab (Fab.takeIn (f.e fun e =>
          e.tileWrite [{ i := bits i.word 32 8, what := .raw, ent := { Tent.ofWord (bits i.word 87 33) with heat := (e.tent (bits i.word 32 8)).heat } }]) i)))
      ∧ (i.word % 256 = 4 → exec .journalRecordApply s = .next (s.effFab (Fab.takeIn (f.e fun e => e.shadowClear (bits i.word 67 24)) i)))
      ∧ (i.word % 256 = 2 → exec .journalRecordApply s = .next (s.effFab (Fab.takeIn (f.m fun r =>
          let cur := match r.rej with | some j => if j.unit = bits i.word 23 8 then j.cursors else [] | none => []
          { r with rej := if bits i.word 28 26 = 0 then none else some { unit := bits i.word 23 8, role := bits i.word 25 24, step := bits i.word 28 26, cursors := cur } }) i)))
      ∧ (i.word % 256 = 3 → exec .journalRecordApply s = .next (s.effFab (Fab.takeIn (f.m fun r =>
          { r with rej := r.rej.map fun (j : ReJ) => if j.unit = bits i.word 23 8 then { j with cursors := kput (bits i.word 28 24) (bits i.word 72 29) j.cursors } else j }) i)))
      ∧ (i.word % 256 = 5 → ∀ e1, e.shedEvict (bits i.word 51 8) = (e1, true) → exec .journalRecordApply s = .next (s.effFab (Fab.takeIn { f with eng := e1 } i)))
      ∧ (i.word % 256 = 6 → exec .journalRecordApply s = .next (s.effFab (Fab.takeIn (f.e fun e =>
          e.roleApply (bits i.word 23 8) (bits i.word 31 24 + bits i.word 39 32 * 2 ^ 8 + bits i.word 40 40 * 2 ^ 16)) i)))
      ∧ (i.word % 256 = 7 → exec .journalRecordApply s = .next (s.effFab (Fab.takeIn (f.mgrRec i.word) i))))
    ∧ (f.mayBeacon = true →
      let n := (f.mir.bseq + 1) % 2 ^ 32
      let b : BeaconB := { seq := n, echo := f.mir.blast, dapp := f.applied 0, japp := f.applied 1, dsent := f.mir.sent.getD 0 0, jsent := f.mir.sent.getD 1 0, state := f.st, shadow := e.ob MIR_SHADOW, epoch := e.ob MIR_EPOCH, edge := none }
      let f1 := f.m fun r => { r with bseq := n, bnext := e.ts + e.ob MIR_BEACON_PERIOD, bsent := (n, e.ts) :: r.bsent.filter (fun (p : Nat × Nat) => decide (e.ts < p.2 + f.window)) }
      let post (f1 : Fab) : Fab := (f1.m fun r => { r with hseq := (f1.mir.hseq + 1) % 2 ^ 32 }).put f1.mir.hseq { typ := 0x01, dst := f1.peer, body := beaconBits b, req := none, ans := none, re := none, epoch := e.ob MIR_EPOCH } true
      exec .beaconSend s = .next (s.effFab (post (if f1.eng.ob DRX_STATE = 4 then f1.l fun l => l.submit { cls := 3, payload := BitVec.ofNat 1984 (beaconBits b), recs := [] } else f1))))
    ∧ (∀ h b, f.isNew h = true → h.src = (f.arrived h).peer → exec (.beacon h b) s = .next (s.effFab ((f.arrived h).beaconIn b false)))
    ∧ (∀ j, j ∈ f.mir.buf → j.at_ + e.ob MIR_JOURNAL_TIMEOUT * 1000 ≤ e.ts → exec .journalTimeout s = .next (s.effFab (f.solo 2)))
    ∧ (∀ j, f.leaseHolds = true → (∀ k ∈ f.mir.buf, e.ts < k.at_ + e.ob MIR_JOURNAL_TIMEOUT * 1000) → j ∈ f.mir.buf → j.t0 + 4 * (e.ob MIR_JOURNAL_TIMEOUT * 1000) ≤ e.ts →
      exec .journalTimeout s = .next (s.effFab ((f.e fun e => e.inc RAS_CAPPED_EXPIRIES).solo 2)))
    ∧ (f.mir.bdrx + f.window ≤ e.ts → exec .beaconPathLoss s = .next (s.effFab (f.solo 3)))
    ∧ (∀ k, f.leaseHolds = true →
      let f1 := (f.e fun e => (e.set MIR_STATE 0 3).set MIR_SHADOW 0 3).dropRecs
      let keep (w : Option MSwap) : Option MSwap := match w with | some w => (match w.st with | .forward _ => some w | _ => none) | none => none
      f.solo k = (f1.e fun e => Eng.releaseAcks { e with mswap := keep e.mswap }).e fun e => (e.event 0x07 (evArgs [(0, k)])).irq 12)

/-- While the block serves with no stored word in error: a lapsed serving lease fences the instance, which claims at the witness; a new
CLAIM at the witness for a pair with no record is recorded and granted, one of the recorded claimant granted, another denied; RELEASE from
the claimant clears it; GRANT or DENY from the witness in fencing starts the guard or leaves the instance fenced with its boundary shut;
the guard's end discards records after a gap; and with all records applied the survivor adopts and announces. MIR_FORCE_SOLO grants
without the witness (R276, R277, R278, R281, R282, R287, R358). -/
def Obligations.LeaseClaimAndFailover : Prop :=
  (∀ s : State, s.toChip.works = true →
    let f := s.toChip.fab
    ((f.st = 1 ∨ f.st = 2) → f.leaseHolds = false → exec .servingLeaseLapse s = .next (s.effFab
        (((f.e fun e => e.set MIR_STATE 0 4).m fun r => { r with granted := false, guard := none, drain := false, scan := none }).e fun e =>
          e.hsend 0x02 (e.ob HIER_WITNESS_NODE) (e.ob MIR_PARTNER_NODE) none none none)))
    ∧ (∀ t, f.mir.guard = some t → t ≤ f.eng.ts → f.st = 4 → exec .fenceGuardExpiry s = .next (s.effFab
        (f.m fun r => { r with guard := none, drain := true, inRecs := r.inRecs.filter fun i => decide (i.mseq ≤ f.mir.rcv.getD i.cls 0) })))
    ∧ (f.st = 4 → f.mir.drain = true → f.mir.inRecs = [] → f.eng.deltas = [] → exec .failoverAdopt s = .next (s.effFab (f.adoptUnits.announce f.peer f.toAdopt.length)))
    ∧ (∀ h, f.isNew h = true →
      let f := s.toChip.fab.arrived h
      (∀ p, f.mir.claims.find? (fun c => c.1 == min h.src p) = none → exec (.claim h p) s = .next (s.effFab
          (((f.m fun r => { r with claims := kput (min h.src p) (h.src, h.epoch) r.claims }).e fun e => e.journalMgr 1 (min h.src p + h.src * 2 ^ 8 + h.epoch % 256 * 2 ^ 16)).e fun e =>
            e.hsend 0x03 h.src 0 none none (some h.seq))))
      ∧ (∀ p c, f.mir.claims.find? (fun c => c.1 == min h.src p) = some c →
        exec (.claim h p) s = .next (s.effFab (f.e fun e => e.hsend (if c.2.1 = h.src then 0x03 else 0x04) h.src 0 none none (some h.seq)))
        ∧ (c.2.1 = h.src → exec (.release h p) s = .next (s.effFab (f.unclaim (min h.src p))))
        ∧ (c.2.1 ≠ h.src → exec (.release h p) s = .next (s.effFab f)))
      ∧ (∀ p, f.mir.claims.find? (fun c => c.1 == min h.src p) = none → exec (.release h p) s = .next (s.effFab f))
      ∧ (h.src = f.eng.ob HIER_WITNESS_NODE → f.st = 4 → f.mir.granted = false →
        exec (.grant h) s = .next (s.effFab ((f.answered fun m => m.typ == 0x02).m fun r => { r with granted := true, held := true, guard := some (f.eng.ts + f.eng.ob MIR_FENCE_GUARD) }))
        ∧ exec (.deny h) s = .next (s.effFab ((f.answered fun m => m.typ == 0x02).e fun e => { (e.set MIR_STATE 0 5) with foghorn := true, fenced := true })))))
  ∧ (∀ (s : State) (w : World), s.toChip.accepts w [⟨MIR_FORCE_SOLO, 0, 1⟩] = true → exec (.mirForceSolo w) s = .next (s.committed w fun c => c.setFab
      (if c.fab.st ≠ 4 ∨ c.fab.mir.granted then c.fab
       else (c.fab.answered fun m => m.typ == 0x02).m fun r => { r with granted := true, guard := some (c.fab.eng.ts + c.fab.eng.ob MIR_FENCE_GUARD) })))

/-- A commit that passes every check takes effect: MIR_REJOIN starts joining and sends JOIN; MIR_SWAP and MIR_UNIT_SETTLE start on their
unit; HIER_MAP_SET changes an entry under the next epoch; HIER_WITNESS_CLEAR clears a record. While the block serves with no stored word
in error: a new JOIN from the partner starts joining and is answered, or answers this member's own; a free channel copies the next sector;
MAP_UPDATE of the next epoch is applied and answered with the epoch; MAP_ACK brings the updates after it again; ADOPT is taken at the
manager; an unanswered message is sent again, and after 16 sends the event 0x10 names the node and the type, a CLAIM going on; a message
of no type of Table 11.7, from 0xFF or for another node is discarded and counted (R17, R278, R283, R284, R285, R287, R288, R289, R358). -/
def Obligations.RejoinSwapAndMap : Prop :=
  (∀ (s : State) (w : World),
    (s.toChip.accepts w [⟨MIR_REJOIN, 0, 1⟩] = true → exec (.mirRejoin w) s = .next (s.committed w fun c => c.setFab
      (if c.fab.mayJoin then c.fab.joinStart.e fun e => e.hsend 0x06 (e.ob MIR_PARTNER_NODE) 0 none none none else c.fab)))
    ∧ (∀ u, s.toChip.accepts w [⟨MIR_SWAP, 0, u⟩] = true → exec (.mirSwap w u) s = .next (s.committed w fun c => c.e fun e =>
      { e with mswap := some { unit := u, peer := bits (e.mapEntry u) 15 8, st := .quiet } }))
    ∧ (∀ u, s.toChip.accepts w [⟨MIR_UNIT_SETTLE, 0, u⟩] = true → exec (.mirUnitSettle w u) s = .next (s.committed w fun c => c.e fun e =>
      let v := e.mapEntry u % 2 ^ 16
      let e1 := e.setMapEntry u v
      (if e1.mirroredUnit u then (e1.journal (roleRec u v)).1 else e1).tellManager u))
    ∧ (∀ u v, u < 2 ^ 16 → v < 2 ^ 32 → s.toChip.accepts w [⟨HIER_MAP_SET, 0, u + v * 2 ^ 16⟩] = true → exec (.hierMapSet w u v) s = .next (s.committed w fun c => c.e fun e => e.mapChange u v))
    ∧ (∀ n, s.toChip.accepts w [⟨HIER_WITNESS_CLEAR, 0, n⟩] = true → exec (.hierWitnessClear w n) s = .next (s.committed w fun c => c.setFab
      ((c.fab.m fun r => { r with claims := kdel n r.claims }).e fun e => e.journalMgr 2 n))))
  ∧ (∀ s : State, s.toChip.works = true →
    let f := s.toChip.fab
    (∀ ch sec t, f.mir.scan = some (sec :: t) → f.mayResync ch = true → exec (.resyncCopy ch) s = .next (s.effFab
      ((f.m fun r => { r with scan := some t }).e fun e =>
        ((f.eng.sectorLines (f.eng.owner (sec * 4)) sec).zipIdx.filter fun p => decide (p.1.shadow ≠ .I)).foldl (fun e p => e.sendInt (.resync ch) 5 ch (sec * 4 + p.2)) e)))
    ∧ (∀ seq o, f.mir.hout.find? (fun o => o.seq == seq) = some o → o.at_ + f.eng.ob HIER_RETRY * 1000 ≤ f.eng.ts →
      (o.sends < 16 → exec (.hierRetryExpiry seq) s = .next (s.effFab ((f.put seq o.msg false).m fun r =>
          { r with hout := updFirst (fun (p : HOut) => p.seq == seq) (fun p => { p with sends := p.sends + 1, at_ := (f.put seq o.msg false).eng.ts }) r.hout })))
      ∧ (o.sends = 16 → o.msg.typ ≠ 0x02 → exec (.hierRetryExpiry seq) s = .next (s.effFab
          ((f.e fun e => e.event 0x10 (evArgs [(0, o.msg.dst), (1, o.msg.typ)])).m fun r => { r with hout := r.hout.filter fun (p : HOut) => p.seq != seq })))
      ∧ (o.sends = 16 → o.msg.typ = 0x02 → let g := (f.e fun e => e.event 0x10 (evArgs [(0, o.msg.dst), (1, 0x02)])).put seq o.msg false
          exec (.hierRetryExpiry seq) s = .next (s.effFab (g.m fun r =>
            { r with hout := updFirst (fun (p : HOut) => p.seq == seq) (fun p => { p with sends := p.sends + 1, at_ := g.eng.ts }) r.hout }))))
    ∧ (∀ h typ, (h.xport = linkPort ∨ f.eng.rdy h.xport 3 = true) → msgWhole h = true → (f.arrived h).eng.foghorn = false →
      let log (cause : Nat) : Fab := (f.arrived h).e fun e => e.protoErr (h.xport % 32) cause 0xE (typ % 16) 0 0 0
      (h.src = 0xFF ∨ h.dst ≠ (f.arrived h).me → exec (.unknownHierarchyMessage h typ) s = .next (s.effFab (log 2)))
      ∧ (f.isNew h = true → typ ∉ [0x01, 0x02, 0x03, 0x04, 0x05, 0x06, 0x10, 0x11, 0x12, 0x13, 0x14, 0x15, 0x16, 0x17, 0x18, 0x19, 0x1A, 0x1B, 0x1C, 0x20, 0x21, 0x22] →
        exec (.unknownHierarchyMessage h typ) s = .next (s.effFab (log 1))))
    ∧ (∀ h, f.isNew h = true →
      let f := s.toChip.fab.arrived h
      (h.src = f.peer → f.mayJoin = true → exec (.join h) s = .next (s.effFab (f.joinStart.e fun e => e.hsend 0x06 h.src 0 none none (some h.seq))))
      ∧ (h.src = f.peer → f.mayJoin = false → exec (.join h) s = .next (s.effFab (f.answered fun m => m.typ == 0x06)))
      ∧ (∀ u v, let g := f.answered fun m => m.typ == 0x22 && m.dst == h.src
        let next := (f.eng.ob HIER_MAP_EPOCH + 1) % 2 ^ 32
        (h.epoch = next → f.eng.isManager = false → exec (.mapUpdate h u v) s = .next (s.effFab ((g.e fun e => e.mapApply u v).e fun e => e.hsend 0x21 h.src (e.ob HIER_MAP_EPOCH) none none (some h.seq))))
        ∧ (h.epoch = next → f.eng.isManager = true → exec (.mapUpdate h u v) s = .next (s.effFab ((g.e fun e => e.mapChange u v).e fun e => e.hsend 0x21 h.src (e.ob HIER_MAP_EPOCH) none none (some h.seq))))
        ∧ (h.epoch ≠ next → exec (.mapUpdate h u v) s = .next (s.effFab (g.e fun e => e.hsend 0x21 h.src (e.ob HIER_MAP_EPOCH) none none (some h.seq)))))
      ∧ (∀ k, let g := f.answered fun m => m.typ == 0x20 && m.dst == h.src
        (f.eng.isManager = false → exec (.mapAck h k) s = .next (s.effFab g))
        ∧ (f.eng.isManager = true → exec (.mapAck h k) s = .next (s.effFab (g.e fun e => (e.mapLog.filter fun c => decide (k < c.1)).foldl (fun e c => e.sendMap h.src c) e))))
      ∧ (∀ lost, f.eng.isManager = true → exec (.adopt h lost) s = .next (s.effFab (f.e fun e =>
          (e.unitsWith fun v => bits v 7 0 == lost && bits v 15 8 == h.src).foldl (fun e u => e.mapChange u (h.src + 0xFF * 2 ^ 8 + 2 ^ 16)) e)))))

/-- While the block serves, without Foghorn: a scrub step of the SFA group heals the next failing word (where healing it reads no other
failing word); with no stored word in error it ends the pass, a scrub step of the DBS reads the next written page whole under its lock or
ends the pass; a word corrected RAS_REWRITE_AT times is rewritten; a sticky word is relocated by its store's rule; a bank's copy ends with
the bank retired, its spare in use and an entry logged. A requester that waited past its arbiter's limit is counted; where its bit of the
flag is 0 and it is not the clockwise direction of a Gallery stop, the bit is set and interrupt 2 raised (R180, R298, R299, R300, R302,
R309; the pass goes from one failing word to the next, log entry 29; where words lie is log entry 14). -/
def Obligations.ScrubRepairAndRelocation : Prop :=
  (∀ (s : State) b, s.toChip.live = true → s.eng.foghorn = false → s.eng.nextErr = some b →
    let e1 := Eng.healWord { s.eng with ras := { s.eng.ras with scrub := kput 0 (wordKey b + 1) s.eng.ras.scrub } } b
    s.eng.readWords e1 = [] → exec (.scrubStep 0) s = .next (s.eff e1))
  ∧ ∀ s : State, s.toChip.works = true →
    (s.eng.foghorn = false →
      (s.eng.nextErr = none → exec (.scrubStep 0) s = .next (s.eff (s.eng.passEnd 0)))
      ∧ ((∀ q ∈ s.eng.seqs, ∀ c p, q.kind ≠ .scrub c p) →
        let next := (ascend (s.eng.dbs.map fun q => q.page)).find? fun p => decide (kget 0 1 s.eng.ras.scrub ≤ p)
        (∀ p, next = some p → let e1 := { s.eng with ras := { s.eng.ras with scrub := kput 1 (p + 1) s.eng.ras.scrub } }
          exec (.scrubStep 1) s = .next (s.eff (e1.newSeq (.scrub (pageCh p) p) (pageCh p) 3 (some p) [rds (e1.wholeDbs p)])))
        ∧ (next = none → exec (.scrubStep 1) s = .next (s.eff (s.eng.passEnd 1))))
      ∧ (∀ store unit word r, s.eng.repeatOf store unit word = some r → r.rewritten = false → s.eng.ob RAS_REWRITE_AT ≤ r.count →
        let r' := { r with rewritten := true, count := 0, mark := s.eng.passes store }
        let e1 := { s.eng with ras := { s.eng.ras with repeats := updFirst (fun (q : Repeat) => q.store == store && q.unit == unit && q.word == word) (fun _ => r') s.eng.ras.repeats } }
        let p := (word - s.eng.ob DBS_BASE) / 4096
        (store ≠ 8 → exec (.repeatRewrite store unit word) s = .next (s.eff (e1.eccWrite store unit word)))
        ∧ (store = 8 → (s.eng.page p).isNone = true → exec (.repeatRewrite store unit word) s = .next (s.eff e1))
        ∧ (store = 8 → (s.eng.page p).isNone = false → exec (.repeatRewrite store unit word) s = .next (s.eff
            ((e1.newSeq (.scrub (pageCh p) p) (pageCh p) 3 (some p) [rds (e1.wholeDbs p)]).updSeq e1.fresh fun s => { s with corr := true }))))
      ∧ (∀ unit store word, s.eng.ras.stuck.contains (unit, store, word) = true →
        (∀ w, store = 0 → s.eng.sfaAt unit word = some w → exec (.relocateSticky unit store word) s = .next (s.eff (s.eng.relocSfa unit word w)))
        ∧ (∀ i, store = 1 → (List.range 8192).find? (fun i => ctxWord i 0 == word || ctxWord i 1 == word) = some i →
          exec (.relocateSticky unit store word) s = .next (s.eff (Eng.relocated { s.eng with wayOff := s.eng.wayOff ++ [(1, unit, 0, i)] } unit store word)))
        ∧ (∀ w, store = 5 → s.eng.tagAt unit word = some w → exec (.relocateSticky unit store word) s = .next (s.eff (s.eng.relocHdc unit store word w)))
        ∧ (∀ w k, store = 4 → s.eng.dataAt unit word = some (w, k) → exec (.relocateSticky unit store word) s = .next (s.eff (s.eng.relocHdc unit store word w)))
        ∧ ((store = 0 ∧ s.eng.sfaAt unit word = none) ∨ (store = 4 ∧ s.eng.dataAt unit word = none) ∨ (store = 5 ∧ s.eng.tagAt unit word = none) →
          exec (.relocateSticky unit store word) s = .next (s.eff (s.eng.relocated unit store word)))
        ∧ (store = 8 → exec (.relocateSticky unit store word) s = .next (s.eff (s.eng.relocDbs unit word)))
        ∧ (store ≠ 0 → store ≠ 1 → store ≠ 4 → store ≠ 5 → store ≠ 8 →
          (s.eng.offKind store unit word = none → exec (.relocateSticky unit store word) s = .next (s.eff (s.eng.relocated unit store word)))
          ∧ (∀ k, s.eng.offKind store unit word = some k →
            exec (.relocateSticky unit store word) s = .next (s.eff (Eng.relocated { s.eng with wayOff := s.eng.wayOff ++ [(store, unit, k, word)] } unit store word)))))
      ∧ (∀ c, s.eng.ras.bank = some c →
        let e1 := (s.eng.errs.filter fun b => scrubGroup b.store && bits b.word 23 14 == c.bank).foldl (fun e b => e.healWord b) s.eng
        let e2 := (e1.setBank c.bank 4).setBank c.spare 2
        let e3 := ((e2.set RAS_SPARES_LEFT 0 (e2.ob RAS_SPARES_LEFT - 2 ^ 16)).set RAS_RETIRE_BUSY 0 0).rasEntry 0 5 0 (c.bank * 2 ^ 14) 0 0
        exec .bankCopyDone s = .next (s.eff { e3 with wayOff := e3.wayOff.filter (fun w => !offIn c.bank w), ras := { e3.ras with bank := none, stuck := e3.ras.stuck.filter (fun (s : Nat × Nat × Nat) => !(scrubGroup s.2.1 && bits s.2.2 23 14 == c.bank)) } })))
    ∧ (∀ row inst, row < 7 → inst < 64 → s.eng.starving row inst = true →
      let e1 := s.eng.inc ARB_STARVE_COUNT row
      exec (.arbStarvation row inst true) s = .next (s.eff e1)
      ∧ (bit (e1.obj ARB_STARVE_FLAG row) inst = false →
        exec (.arbStarvation row inst false) s = .next (s.eff ((e1.set ARB_STARVE_FLAG row (setBit (e1.obj ARB_STARVE_FLAG row) inst)).irq 2))))

/-- A commit that passes every check takes effect: RAS_PAGE_RETIRE with a spare page reads busy and reads the page whole under its lock;
RAS_BANK_RETIRE with a spare bank reads busy and starts its copy; RAS_INJECT arms its masks; RAS_RAW_READ leaves the stored word, with its
errors, in RAS_RAW_DATA; RAS_FOGHORN_TEST 1 raises Foghorn with cause 6 (R301, R302, R305, R308, R358; the contents of a word that the
model does not hold are a free value, log entry 5). -/
def Obligations.RasCommits : Prop :=
  ∀ (s : State) (w : World),
    (∀ v, s.toChip.accepts w [⟨RAS_PAGE_RETIRE, 0, v⟩] = true → exec (.rasPageRetire w v) s = .next (s.committed w fun c => c.e fun e => e.pageRetire v))
    ∧ (∀ (e : Eng) (v el : Nat), e.sparePage (bits v 20 1) = some el → e.pageRetire v = (e.set RAS_RETIRE_BUSY 0 1).newSeq (.retire el (bits v 20 1) (bit v 0)) (pageCh (bits v 20 1)) 3
        (some (if bit v 0 then tileLock (bits v 20 1) else bits v 20 1)) [rds (if bit v 0 then e.wholeTile (bits v 20 1) else e.wholeDbs (bits v 20 1))])
    ∧ (∀ b, s.toChip.accepts w [⟨RAS_BANK_RETIRE, 0, b⟩] = true → exec (.rasBankRetire w b) s = .next (s.committed w fun c => c.e fun e => e.bankRetire b))
    ∧ (∀ (e : Eng) (b x : Nat), e.spareBank = some x → e.bankRetire b = { (e.set RAS_RETIRE_BUSY 0 1) with ras := { e.ras with bank := some { bank := b, spare := x } } })
    ∧ (∀ v, s.toChip.accepts w [⟨RAS_INJECT, 0, v⟩] = true → exec (.rasInject w v) s = .next (s.committed w fun c => c.e fun e =>
        { e with ras := { e.ras with armed := e.ras.armed ++ [({ store := bits v 4 0, unit := bits v 9 5, word := bits v 49 10, mask := bits v 177 50 + bits v 189 178 * 2 ^ 128 } : BitErr)] } }))
    ∧ (∀ v, s.toChip.accepts w [⟨RAS_RAW_READ, 0, v⟩] = true → exec (.rasRawRead w v) s = .next (s.committed w fun c => c.e fun e =>
        let raw := e.storedWord (bits v 4 0) (bits v 9 5) (bits v 49 10)
        let m := e.errMask (bits v 4 0) (bits v 9 5) (bits v 49 10)
        e.set RAS_RAW_DATA 0 ((raw % 2 ^ 128 ^^^ m % 2 ^ 128) + (raw / 2 ^ 128 % 2 ^ 12 ^^^ m / 2 ^ 128 % 2 ^ 12) * 2 ^ 128)))
    ∧ (s.toChip.accepts w [⟨RAS_FOGHORN_TEST, 0, 1⟩] = true → exec (.rasFoghornTest w) s = .next (s.committed w fun c => c.e fun e => (e.set RAS_FOGHORN_TEST 0 1).foghornMark 6 0))

/-- A change of a rail's ack is taken, and where no reset is held the sequences go on; a request whose ack has risen ends; a request
without ack for more than 800 AONCLK cycles is withdrawn, the earlier setting stands, and the failure is counted, logged and raises
interrupt 0. Once its time of Table 13.3 has passed, an entering domain is in the state PWR_SLEEP_TARGET names, DRX then asking for its
rail's low setting in state 3, and a leaving one is in service where the regulator and its rail allow. The clocks of a raise switch once
its rail is at the new voltage, those of a lowering before its handshake. The regulator settles in high power. Commits of PWR_LEVEL,
PWR_KEEPER_CLK, a vote and PWR_FORCE_WAKE that pass every check take effect (R57, R58, R313, R315, R316, R317, R318, R319, R332, R358). -/
def Obligations.RailsAndDomains : Prop :=
  (∀ (s : State) (k : Nat), k < 4 →
    let c := s.toChip
    let r := c.rail k
    (∀ up, c.railLate k = false →
      let c1 := c.setRail k { r with ack := up }
      let c2 := if k = 3 ∧ c1.dom 4 = 5 ∧ (c1.rail 3).holds 1 = true then c1.p fun p => { p with domEnds := kput 4 (p.aon + 100000) p.domEnds } else c1
      (c2.isHeld = true → exec (.railAck k up) s = .next (s.block c2)) ∧ (c2.isHeld = false → exec (.railAck k up) s = .next (s.block c2.advance)))
    ∧ (r.req = true → r.ack = false → r.since + 200000 < c.pwr.aon → c.isHeld = false →
      exec (.railAckTimeout k) s = .next (s.block (Chip.advance ((c.setRail k { r with req := false, field := r.old }).e fun e =>
        ((e.inc PWR_RAIL_FAULTS).logPush PWR_RAIL_LOG 16 (k + r.field * 4 + b2n (isRaise k r.old r.field) * 2 ^ 5 + e.t48 * 2 ^ 6)).irq 0))))
    ∧ (r.req = true → r.ack = true → c.startRail k = c.setRail k { r with req := false }))
  ∧ (∀ (s : State) (el : Nat),
    let c := s.toChip
    let t := c.eng.obj PWR_SLEEP_TARGET el
    c.domDue el = true →
    (c.dom el = 4 → el ≠ 4 → exec (.domainSleepEntry el) s = .next (s.block (c.set PWR_DOMAIN_STATE el t)))
    ∧ (c.dom el = 4 → el = 4 → t ≠ 3 → exec (.domainSleepEntry el) s = .next (s.block (c.set PWR_DOMAIN_STATE el t).drxOff))
    ∧ (c.dom el = 4 → el = 4 → t = 3 → exec (.domainSleepEntry el) s = .next (s.block (Chip.ask (c.set PWR_DOMAIN_STATE el t).drxOff 3 0)))
    ∧ (c.dom el = 5 → c.ob PWR_AONREG_HP = 1 →
      let c1 := (c.set PWR_DOMAIN_STATE el 0).lastWake (if c.pwr.forced.contains el then 6 else 7) el false
      (el = 4 → (c.rail 3).holds 1 = true → exec (.domainSleepExit el) s = .next (s.block (Chip.voteCheck (c1.setFab (c1.fab.link Lnk.tryStart)))))
      ∧ (0x20 ≤ el → el < 0x20 + s.eng.n → s.eng.n ≤ 32 → exec (.domainSleepExit el) s = .next (s.block (Chip.voteCheck (c1.e fun e =>
          Eng.set { e with svc := insertNat (el - 0x20) e.svc } SLICE_LIT 0 (setBit (e.ob SLICE_LIT) (el - 0x20))))))
      ∧ (el = 5 → exec (.domainSleepExit el) s = .next (s.block c1.voteCheck))
      ∧ (el = 0x40 → s.eng.n ≤ 32 → exec (.domainSleepExit el) s = .next (s.block (Chip.voteCheck (c1.e Eng.swapNext))))))
  ∧ (∀ (s : State) (l : LevelCh), let c := s.toChip
    c.pwr.level = some l →
    (l.raise = true → l.half = true → exec .levelSwitch s = .next (s.block ((c.set PWR_LEVEL_NOW 0 l.target).levelEnd).advance))
    ∧ (l.raise = false → l.half = false → exec .levelSwitch s = .next (s.block
        (Chip.ask ((c.set PWR_LEVEL_NOW 0 l.target).p fun p => { p with level := some { l with half := true } }) 2 l.target).advance)))
  ∧ (∀ s : State, s.toChip.pwr.hpWait = true → s.toChip.pwr.hpAt + 20000 ≤ s.toChip.pwr.aon →
    exec .aonregHpSettled s = .next (s.block (Chip.advance ((s.toChip.p fun p => { p with hpWait := false }).set PWR_AONREG_HP 0 1))))
  ∧ (∀ (s : State) (w : World),
    (∀ v, s.toChip.accepts w [⟨PWR_LEVEL, 0, v⟩] = true → exec (.pwrLevel w v) s = .next (s.committed w fun c => (c.setLevel (OWr.mk PWR_LEVEL 0 v).v).advance))
    ∧ (∀ v, s.toChip.accepts w [⟨PWR_KEEPER_CLK, 0, v⟩] = true → exec (.pwrKeeperClk w v) s = .next (s.committed w fun c => c.set PWR_KEEPER_CLK 0 (OWr.mk PWR_KEEPER_CLK 0 v).v))
    ∧ (∀ el on, el < 0x41 → s.toChip.accepts w [⟨voteOb w, el, b2n on⟩] = true → exec (.pwrVote w el on) s = .next (s.committed w fun c => c.set (voteOb w) el (b2n on)))
    ∧ (∀ el, s.toChip.accepts w [⟨PWR_FORCE_WAKE, 0, el⟩] = true → exec (.pwrForceWake w el) s = .next (s.committed w fun c => c.forceWake el)))

/-- Asserting a reset clears everything but the retained objects and the carrier's DRAM and holds the block: rs_por_n and a brown-out,
rs_warm_n, which keeps the rails' settings and under rs_por_n is only noted, and a supply reset, which keeps the rails' settings and the
withheld DRAM tags. A release with no other reset asserted records its cause and one more reset, asks for the core rail, and the start-up
goes on. Losing the always-on supply clears the retained objects too, and the supply applied again leaves the block held in reset at the
defaults (R56, R320, R328, R329, R330, R331, R356). -/
def Obligations.ResetsAndStartUp : Prop :=
  ∀ s : State,
    let c := s.toChip
    let begun (c : Chip) (cause : Nat) : Chip := Chip.advance (Chip.ask ((c.resetCause cause).p fun p => { p with run := .vco }) 0 1)
    exec .powerOnReset s = .next (s.block ((c.clear false false false).p fun p => { p with por := true }))
    ∧ (c.pwr.por = false → exec .warmReset s = .next (s.block ((c.clear true false false).p fun p => { p with warm := true })))
    ∧ (c.pwr.por = true → exec .warmReset s = .next (s.block (c.p fun p => { p with warm := true })))
    ∧ (c.pwr.run ≠ .dead → exec .brownOut s = .next (s.block ((c.clear false false false).p fun p => { p with brown := true }))
      ∧ exec .supplyReset s = .next (s.block ((c.clear true false true).p fun p => { p with supply := true })))
    ∧ (c.pwr.run = .held →
      (c.pwr.por = true → c.pwr.warm = false → c.pwr.brown = false → c.pwr.supply = false → exec .powerOnResetRelease s = .next (s.block (begun (c.p fun p => { p with por := false }) 1)))
      ∧ (c.pwr.por = false → c.pwr.warm = true → c.pwr.brown = false → c.pwr.supply = false → exec .warmResetRelease s = .next (s.block (begun (c.p fun p => { p with warm := false }) 2)))
      ∧ (c.pwr.por = false → c.pwr.warm = false → c.pwr.brown = true → c.pwr.supply = false → exec .brownOutRecovery s = .next (s.block (begun (c.p fun p => { p with brown := false }) 3)))
      ∧ (c.pwr.por = false → c.pwr.warm = false → c.pwr.brown = false → c.pwr.supply = true → exec .supplyResetRecovery s = .next (s.block (begun (c.p fun p => { p with supply := false }) 4))))
    ∧ (c.pwr.por = true → c.pwr.warm = true → exec .powerOnResetRelease s = .next (s.block (c.p fun p => { p with por := false })))
    ∧ exec .alwaysOnSupplyLoss s = .next (s.block (Chip.p { c.clear false false false with eng := eng0 (c.clear false false false).eng.fz (c.clear false false false).eng.fresh [] } fun p => { p with run := .dead, aon := 0 }))
    ∧ (c.pwr.run = .dead → exec .alwaysOnSupplyApplied s = .next (s.block ((c.e fun e => e.loadKey).p fun p => { p with run := .held })))

/-- Brace is entered with PWR_BRACE 1 and interrupt 0, and ends with PWR_BRACE 0, one dip, its time added, the dip event, and the held
work going on; a dip while the block is in block Eclipse or block Extinguished (block state 2 or 3) is only counted (state 3 is the
model's reading, log entry 61). A commit of PWR_BLOCK_SLEEP 1 or 2 that passes every check starts the entry, unless an asserted level
source abandons it, and 0 wakes the block. Once nothing is open outside Brace the entry arms the wake sampler. An enabled wake while the
entry quiesces abandons it, an edge wake of a sleeping block starts the exit; the wake timer acts as source 2 (R321, R322, R323, R324,
R325, R326, R327, R328, R358). -/
def Obligations.BraceSleepAndWake : Prop :=
  (∀ s : State,
    let c := s.toChip
    (c.pwr.run ≠ .dead → c.pwr.run ≠ .held → c.eng.brace = false → c.pwr.low = false → c.ob PWR_BLOCK_STATE ≠ 2 → c.ob PWR_BLOCK_STATE ≠ 3 →
      exec .braceEntry s = .next (s.block ((c.e fun e => Eng.irq (Eng.set { e with brace := true } PWR_BRACE 0 1) 0).p fun p => { p with braceAt := c.eng.ts })))
    ∧ (c.pwr.run ≠ .dead → c.pwr.run ≠ .held → c.eng.brace = false → c.pwr.low = false → (c.ob PWR_BLOCK_STATE = 2 ∨ c.ob PWR_BLOCK_STATE = 3) →
      exec .braceEntry s = .next (s.block (c.p fun p => { p with low := true })))
    ∧ (c.pwr.low = true → exec .braceExit s = .next (s.block (Chip.advance ((c.e fun e => e.dip).p fun p => { p with low := false }))))
    ∧ (c.pwr.low = false → c.eng.brace = true → exec .braceExit s = .next (s.block (Chip.advance (c.e fun e =>
        let d := c.eng.ts - c.pwr.braceAt
        let e1 := (Eng.addObj ((Eng.set { e with brace := false } PWR_BRACE 0 0).dip) PWR_BRACE_TIME 0 d).event 0x0F (evArgs [(0, d % 2 ^ 64)])
        Eng.pump ((e1.leasesLater d).remoorLater d).presentAll))))
    ∧ (c.pwr.slp = .quiescing → c.eng.ctxs = [] → c.eng.seqs = [] → c.eng.spill = [] → c.eng.dcmds = [] → c.eng.dopen = [] → c.eng.brace = false →
      exec .blockSleepQuiesced s = .next (s.block ((c.e fun e => { e with svc := [] }).p fun p => { p with slp := .arming, armEnd := c.eng.ts + 1500 })))
    ∧ (∀ n, (n = 1 ∨ n = 3) → c.pwr.run = .up → c.wakeOn n = true →
      (c.pwr.slp = .quiescing → exec (.wakeSource n) s = .next (s.block (c.abandon (n + 1) false)))
      ∧ (c.pwr.slp = .asleep → exec (.wakeSource n) s = .next (s.block (c.exitStart (n + 1) false).advance)))
    ∧ (∀ n, (n = 0 ∨ n = 4) → c.pwr.run = .up → c.pwr.slp = .asleep → (c.p fun p => { p with levels := insertNat n p.levels }).wakeOn n = true →
      exec (.wakeSource n) s = .next (s.block (c.p fun p => { p with levels := insertNat n p.levels }).advance))
    ∧ (c.pwr.slp = .asleep → c.ob PWR_WAKE_TIMER ≠ 0 → c.pwr.sleptAt + c.ob PWR_WAKE_TIMER * 1000 ≤ c.pwr.aon → exec .wakeTimerExpiry s = .next (s.block (c.wakeSrc 2))))
  ∧ (∀ (s : State) (w : World),
    (s.toChip.accepts w [⟨PWR_BLOCK_SLEEP, 0, 1⟩] = true → exec (.blockEclipseRequest w) s = .next (s.committed w fun c => (c.set PWR_BLOCK_SLEEP 0 1).sleepStart 1))
    ∧ (s.toChip.accepts w [⟨PWR_BLOCK_SLEEP, 0, 2⟩] = true → exec (.blockExtinguishRequest w) s = .next (s.committed w fun c => (c.set PWR_BLOCK_SLEEP 0 2).sleepStart 2))
    ∧ (s.toChip.accepts w [⟨PWR_BLOCK_SLEEP, 0, 0⟩] = true → exec (.blockWakeCommit w) s = .next (s.committed w fun c => (c.set PWR_BLOCK_SLEEP 0 0).softWake)))
  ∧ (∀ (c : Chip) (v : Nat),
    let c1 := (c.set PWR_BLOCK_STATE 0 1).p fun p => { p with slp := .quiescing, slpTo := v, wake := none, levels := p.levels.filter (· == 2) }
    (c1.pwr.levels.find? (fun n => c1.wakeOn n) = none → c.sleepStart v = c1)
    ∧ (∀ n, c1.pwr.levels.find? (fun n => c1.wakeOn n) = some n → c.sleepStart v = c1.abandon (n + 1) true))

/-- An ecall in N-M, an enabled pending secure line and a trap the normal world cannot take enter the secure world: the normal pc is
saved, the secure cause and value written, the pc at kwentry in S-M. An mret to the normal world clears ret, keeps x10 to x13 as given
with every other register 0, and goes to kwnepc in the mode npp names. An attached debug module's halt request is held until a world
permits it. A pet in S-M zeroes the watchdog; once its count stands at WDT_WARN percent of the period source 8 is raised, and once it
stands at the period the block resets with cause 5 and rs_chip_req. WDT_ENABLE and WDT_PERIOD commits take effect (R337, R338, R347, R348,
R349, R358; what Keeper's programs have put into its registers is an operand, log entry 31; cause 11 and 0x8000000B are the Privileged
Architecture's). -/
def Obligations.WorldSwitches : Prop :=
  (∀ (s : State) (pc : BitVec 32),
    let c := s.toChip
    let entered (c : Chip) (cause tval : BitVec 32) : Chip :=
      (c.k fun k => { k with kwnepc := pc, world := .secure, mmode := true, pc := k.kwentry, sb := { k.sb with mcause := cause, mtval := tval } }).haltCheck
    (c.inWorld .normal = true →
      (c.kpr.mmode = true → exec (.ecallSecure pc) s = .next (s.block (entered c 11 0)))
      ∧ (∀ n, n < 16 → c.kpr.sb.mie.getLsbD 11 = true → c.normalLine n = false → c.linePending n = true → exec (.secureInterrupt pc) s = .next (s.block (entered c 0x8000000B 0)))
      ∧ (∀ mtvec cause tval, c.fetchClosed (mtvec.toNat / 4 * 4) = true →
        exec (.untakeableNormalTrap pc mtvec cause tval) s = .next (s.block (entered (c.k fun k => { k with nb := { k.nb with mtvec := mtvec } }) cause tval)))))
  ∧ (∀ (s : State) (npp : Bool) (nepc entry mie : BitVec 32) (a : List (BitVec 32)), let c := s.toChip
    c.inWorld .secure = true → c.kpr.mmode = true →
    exec (.mretToNormal npp nepc entry mie a) s = .next (s.block (c.k fun k => { k with world := .normal, mmode := npp, npp := npp, ret := false, pc := nepc, kwnepc := nepc, kwentry := entry &&& 0xFFFFFFFC#32, sb := { k.sb with mie := mie }, regs := scrubbed a }).haltCheck))
  ∧ (∀ s : State, let c := s.toChip
    (c.pm.attached = true → c.kpr.halted = none → exec (.debugHalt none) s = .next (s.block (c.k fun k => { k with haltReq := true }).haltCheck))
    ∧ (c.keeperUp = true → c.kpr.world = .secure → c.kpr.mmode = true → exec .watchdogPet s = .next (s.block { c with pwr := { c.pwr with wdtCnt := 0, wdtWarned := false } }))
    ∧ (c.wdtCounts = true → c.ob WDT_WARN ≠ 0 → c.pwr.wdtWarned = false → c.wdtPeriod * c.ob WDT_WARN / 100 ≤ c.pwr.wdtCnt →
      exec .watchdogWarning s = .next (s.block (Chip.e { c with pwr := { c.pwr with wdtWarned := true } } fun e => e.irq 8)))
    ∧ (c.wdtCounts = true → c.wdtPeriod ≤ c.pwr.wdtCnt → exec .secureWatchdogExpiry s = .next (s.block (((c.clear true true true).p fun p => { p with chipReq := true }).startUp 5))))
  ∧ (∀ (s : State) (w : World),
    (s.toChip.accepts w [⟨WDT_ENABLE, 0, 1⟩] = true → exec (.wdtEnable w) s = .next (s.committed w fun c =>
      let c1 := c.e fun e => e.set WDT_ENABLE 0 1
      if c1.pwr.wdtOn then c1 else { c1 with pwr := { c1.pwr with wdtCnt := 0, wdtWarned := false, wdtOn := true } }))
    ∧ (∀ v, s.toChip.accepts w [⟨WDT_PERIOD, 0, v⟩] = true → exec (.wdtPeriod w v) s = .next (s.committed w fun c =>
      let c1 := c.set WDT_PERIOD 0 (OWr.mk WDT_PERIOD 0 v).v
      { c1 with pwr := { c1.pwr with wdtCnt := 0, wdtWarned := false } })))

/-- A commit that passes every check takes effect: WORLD_HO_REQ leaves the unit requested, tells its owner and remembers the requester;
WORLD_HO_RELEASE lets it be reset once it may; WORLD_HO_REFUSE returns it to owned reading refused and tells the requester. A normal-owned
unit the secure world asked for is released after WORLD_HO_WAIT; once reset the requester owns it and is told. FW_ACTIVATE whose staged
range the Guard refuses or whose image is bad reads rejected, else quiescing with source 9; the quiesce's end swaps the image in, awaiting
ready; FW_READY ends the update; a timeout or an access fault brings the rollback image back. Where the Guard refuses one of the update's
own accesses the swap does not happen; where it refuses none and no word read is beyond correction, they change nothing but the error
state of the SRAM words they cover. A world that serves clears the pending bits of its own sources, and a write of the normal world that
names another's is refused (R340, R341, R342, R343, R351, R358). -/
def Obligations.HandOverAndLiveUpdate : Prop :=
  (∀ (s : State) (w : World) (u : Nat),
    (s.toChip.accepts w [⟨WORLD_HO_REQ, 0, u⟩] = true → exec (.worldHoReq w u) s = .next (s.committed w fun c =>
      (c.e fun e => (e.setUnit u (e.unitOwner u) 1).irq (hoIrq (e.unitOwner u))).k fun k => { k with hoBy := kput u w k.hoBy, hoAt := kput u c.eng.ts k.hoAt }))
    ∧ (s.toChip.accepts w [⟨WORLD_HO_RELEASE, 0, u⟩] = true → exec (.worldHoRelease w u) s = .next (s.committed w fun c => (c.k fun k => { k with hoRel := insertNat u k.hoRel }).hoStep))
    ∧ (s.toChip.accepts w [⟨WORLD_HO_REFUSE, 0, u⟩] = true → exec (.worldHoRefuse w u) s = .next (s.committed w fun c => c.e fun e => (e.setUnit u .secure 3).irq (hoIrq (c.hoWorld u)))))
  ∧ (∀ (s : State) (u : Nat), let c := s.toChip
    (isUnit u = true → c.eng.unitStep u = 1 → c.eng.unitOwner u = .normal → c.hoWorld u = .secure → c.kpr.hoRel.contains u = false →
      kget 0 u c.kpr.hoAt + c.ob WORLD_HO_WAIT * 1000 ≤ c.eng.ts → exec (.worldHoWaitExpiry u) s = .next (s.block (c.k fun k => { k with hoRel := insertNat u k.hoRel }).hoStep))
    ∧ (c.eng.unitStep u = 2 → kget 0 u c.kpr.hoAt ≤ c.eng.ts → u < 0x20 → exec (.handoverResetDone u) s = .next (s.block (c.e fun e => (e.setUnit u (c.hoWorld u) 0).irq (hoIrq (c.hoWorld u)))))
    ∧ (c.eng.unitStep u = 2 → kget 0 u c.kpr.hoAt ≤ c.eng.ts → 0x20 ≤ u → exec (.handoverResetDone u) s = .next (s.block (c.e fun e =>
        let e1 := (e.setUnit u (c.hoWorld u) 0).irq (hoIrq (c.hoWorld u))
        e1.set WORLD_LINE_OWNER 0 (match c.hoWorld u with
          | .normal => setBit (e1.ob WORLD_LINE_OWNER) (u - 0x20)
          | .secure => clearBit (e1.ob WORLD_LINE_OWNER) (u - 0x20)))))
    ∧ (∀ w v, c.serves w = true →
      let foreign := (List.range 16).any fun i => bit v i && decide (c.eng.obj WORLD_IRQ_ROUTE i < 16) && !c.ownsSrc .normal i
      let own := (List.range 16).foldl (fun m i => if bit v i = true ∧ c.ownsSrc w i = true then setBit m i else m) 0
      (w = .normal → foreign = true → exec (.worldIrqPending w v) s = .next s)
      ∧ (w = .secure ∨ foreign = false → exec (.worldIrqPending w v) s = .next (s.block (c.set WORLD_IRQ_PENDING 0 (maskOff (c.ob WORLD_IRQ_PENDING) own 32))))))
  ∧ (∀ (s : State) (w : World), s.toChip.accepts w [⟨FW_ACTIVATE, 0, 1⟩] = true → exec (.fwActivate w) s = .next (s.committed w fun c => c.fwActivate))
  ∧ (∀ c : Chip,
    let img := readCells c.kpr.dram (c.ob FW_STAGE_BASE) (c.ob FW_STAGE_LEN)
    let a := c.fwAccess .directory false (c.ob FW_STAGE_BASE) (c.ob FW_STAGE_LEN)
    (a.2 = false → c.fwActivate = a.1.e fun e => e.fwEvent 6 0)
    ∧ (a.2 = true → a.1 = c ∧ c.fwActivate = if c.eng.imageStatus img 1 ≠ 0 then c.e fun e => e.fwEvent 6 (imgOf img).version
      else (c.e fun e => (e.fwEvent 2 (imgOf img).version).irq 9).k fun k =>
        { k with upd := some { old := c.kpr.nimg, new := imgOf img, ends := c.eng.ts + c.ob FW_QUIESCE_MAX * 1000 } }))
  ∧ (∀ (s : State) (u : FwUpd), let c := s.toChip
    c.kpr.upd = some u →
    (∀ b, c.ob FW_STATUS = 2 → c.keeperUp = true → (b = true → c.kpr.world = .normal) → (b = false → u.ends ≤ c.eng.ts) →
      let base := c.ob FW_STAGE_BASE
      let old := match u.old with | some o => readCells c.kpr.sram o.load o.len | none => []
      let save := match u.old with | some o => [(.keeper, false, o.load, o.len), (.directory, true, base + 2 ^ 20, o.len)] | none => []
      let a := c.fwAccesses (save ++ [(.directory, false, base, 512 + u.new.len), (.keeper, true, u.new.load, u.new.len)])
      (a.2 = false → exec (.fwQuiesceDone b) s = .next (s.block a.1))
      ∧ (a.2 = true → a.1 = { c with eng := a.1.eng } ∧ exec (.fwQuiesceDone b) s = .next (s.block (Chip.swapIn (a.1.k fun k => { k with dram := putBytes (c.ob FW_STAGE_BASE + 2 ^ 20) old k.dram }) u.new
        ((readCells c.kpr.dram (c.ob FW_STAGE_BASE) (512 + u.new.len)).drop 512) (match u.old with | some o => o.version | none => 0) 4 (a.1.eng.ts + a.1.ob FW_READY_MAX * 1000000)))))
    ∧ (∀ b, c.ob FW_STATUS = 4 → (b = true ∨ u.ends ≤ c.eng.ts) →
      let o := u.old.getD { load := 0, len := 0, entry := 0, version := 0 }
      let a := c.fwAccesses [(.directory, false, c.ob FW_STAGE_BASE + 2 ^ 20, o.len), (.keeper, true, o.load, o.len)]
      (a.2 = false → exec (.fwReadyTimeout b) s = .next (s.block a.1))
      ∧ (a.2 = true → a.1 = { c with eng := a.1.eng } ∧ exec (.fwReadyTimeout b) s = .next (s.block ((a.1.swapIn o (readCells c.kpr.dram (c.ob FW_STAGE_BASE + 2 ^ 20) o.len) u.new.version 7 0).k fun k => { k with upd := none, nimg := u.old }))))
    ∧ (∀ w, c.accepts w [⟨FW_READY, 0, 1⟩] = true → exec (.fwReady w) s = .next (s.committed w fun c =>
        (c.k fun k => { k with upd := none }).e fun e => (e.set FW_VERSION 1 u.new.version).fwEvent 5 u.new.version)))

/-- An operation of the port of the world in which Keeper works, the port not busy, keeps OAP_OBJ and ends with a status: a read places an
existing object's value from byte 0 of OAP_DATA and clears it where its right is RC, a write-only object answers 0x0A and an unlisted one
0x07; a stage answers the first failing check of R392 and changes nothing else, or replaces an earlier write of the same object and
element, or answers 0x09 where the area has no room for one more; a commit takes the whole area with the world's next number and leaves
the port busy; an abort empties the area. A read of an RC object clears it; a W1C write is applied at once (R353, R355, R357, R358, R362,
R363, R392; where in 1 to 4 TSCLK cycles a commit arrives is a free value). -/
def Obligations.AccessPort : Prop :=
  ∀ (s : State) (w : World), let c := s.toChip
    let port (c : Chip) (p : Oap) : Chip := { c with dic := c.dic.setOap w p }
    (c.oapReady w = true →
      (∀ idx el len, (objRow idx el = none ∨ c.eng.exists_ idx el = false →
          exec (.oapRead w idx el len) s = .next (s.block (port c { obj := oapObj idx el len, status := 7, busy := false, data := (c.dic.oap w).data })))
        ∧ (∀ r, objRow idx el = some r → c.eng.exists_ idx el = true →
          (r.acc = .wo → exec (.oapRead w idx el len) s = .next (s.block (port c { obj := oapObj idx el len, status := 0xA, busy := false, data := (c.dic.oap w).data })))
          ∧ (r.acc ≠ .wo → exec (.oapRead w idx el len) s = .next (s.block (port (if r.acc = .rc then c.set idx el 0 else c)
              { obj := oapObj idx el len, status := 0, busy := false, data := placeLow (c.dic.oap w).data (valueLen r (c.value idx el)) (c.value idx el) })))))
      ∧ (∀ idx el len (data : Data), let o : OWr := { idx := idx, el := el, val := data.toNat % 2 ^ (8 * len) }
        let ans (c : Chip) (st : Nat) : Chip := port c { obj := oapObj idx el len, status := st, busy := false, data := data }
        (c.eng.checkStatus w o len ≠ 0 → exec (.oapStage w idx el len data) s = .next (s.block (ans c (c.eng.checkStatus w o len))))
        ∧ (c.eng.checkStatus w o len = 0 → isW1C o = false → o.idx ≠ DICT_COMMIT → o.idx ≠ DICT_ABORT →
          (areaFull o (c.dic.area w) = true → exec (.oapStage w idx el len data) s = .next (s.block (ans c 9)))
          ∧ (areaFull o (c.dic.area w) = false → exec (.oapStage w idx el len data) s = .next (s.block (ans { c with dic := c.dic.setArea w (putWr o (c.dic.area w)) } 0)))))
      ∧ (let n := nextNum (c.dic.num w)
        let cm : Cmt := { world := w, arrival := c.eng.ts + 1 + Config.choice c.eng.fresh % 4, lead := none, num := n, ws := c.dic.area w }
        exec (.oapCommit w) s = .next (s.block (Chip.e { c with dic :=
          (match w with
            | .secure => { c.dic with stS := [], numS := n, commits := c.dic.commits ++ [cm], oapS := { c.dic.oapS with busy := true } }
            | .normal => { c.dic with stN := [], numN := n, commits := c.dic.commits ++ [cm], oapN := { c.dic.oapN with busy := true } }) }
          fun e => { e with fresh := e.fresh + 1 })))
      ∧ exec (.oapAbort w) s = .next (s.block { c with dic :=
          (match w with
            | .secure => { c.dic with stS := [], oapS := { c.dic.oapS with status := 0, busy := false } }
            | .normal => { c.dic with stN := [], oapN := { c.dic.oapN with status := 0, busy := false } }) }))
    ∧ (c.serves w = true →
      (∀ idx el r, objRow idx el = some r → r.acc = .rc → c.eng.exists_ idx el = true → exec (.rcRead w idx el) s = .next (s.block (c.set idx el 0)))
      ∧ (∀ idx el v r, objRow idx el = some r → r.acc = .w1c → c.eng.checkStatus w ⟨idx, el, v⟩ r.len = 0 → idx ≠ WORLD_IRQ_PENDING →
        exec (.w1cWrite w idx el v) s = .next (s.block (c.set idx el (maskOff (c.eng.obj idx el) v 64)))))

/-- Where the firmware that serves a world takes up the request at the head of its queue: READ of 1 to 64 elements that fit 1,100 bytes
answers success with each element's status and value; STAGE answers the port's status of the write; COMMIT commits the area and leaves the
request waiting for the outcome; ABORT empties the area; COMMIT_STATUS answers the last outcome; W1C of an object of another right answers
0x01, of a W1C object applies it; FW_BEGIN opens an image of 1 byte to 1 MiB; FW_DATA writes the bytes at their offset to SRAM under the
boot ROM, to DRAM at FW_STAGE_BASE under secure firmware, and answers 0x02 where the Guard refuses the access (log entry 55); FW_END
closes the image and answers FW_BOOT_STATUS, after the checks where the boot ROM runs; an unlisted command answers 0x0B and is counted and
logged as the block's unsupported commands are (log entry 59). Each answered request leaves its queue. A refusal of secure firmware's
policy answers 0x05 and does nothing else (R357, R358, R363, R365, R366, R367, R336; which commands are one message each is the model's
(log entries 2 and 18)). -/
def Obligations.DictionaryMessages : Prop :=
  ∀ (s : State) (w : World) (q : DReqQ), let c := s.toChip
    c.nextReq w = some q →
    (∀ i : Instr, (q.cmd, i) ∈ [(1, Instr.dictRead w true), (2, .dictStage w true), (3, .dictCommit w true), (4, .dictAbort w true), (5, .dictCommitStatus w true), (6, .dictW1c w true), (0x20, .fwBegin w true), (0x21, .fwData w true), (0x22, .fwEnd w true)] →
      w = .secure → c.kpr.booted = true → exec i s = .next (s.block (c.finish q 5 [])))
    ∧ (q.cmd = 1 → 4 ≤ q.body.length → let n := at8 q.body 3
        let els := (List.range n).map (at8 q.body 2 + ·)
        1 ≤ n → n ≤ 64 → 8 + (els.map fun el => 1 + c.readLen (leNat (q.body.take 2)) el).sum ≤ 1100 →
        exec (.dictRead w false) s = .next (s.block ((c.readEls q.world (leNat (q.body.take 2)) els).1.finish q 0 (c.readEls q.world (leNat (q.body.take 2)) els).2)))
    ∧ (∀ idx el n v, bodyWr q.body = some (idx, el, n, v) →
        (q.cmd = 2 → (c.romRefuses idx = true → exec (.dictStage w false) s = .next (s.block (c.finish q 0xD [])))
          ∧ (c.romRefuses idx = false → let c1 := c.oapStage q.world idx el n (BitVec.ofNat 512 v)
            exec (.dictStage w false) s = .next (s.block (c1.finish q (c1.dic.oap q.world).status []))))
        ∧ (q.cmd = 6 → ∀ r, objRow idx el = some r → c.eng.exists_ idx el = true → c.romRefuses idx = false → c.eng.absent idx el = false → lenOk r n = true →
          (r.acc ≠ .w1c → exec (.dictW1c w false) s = .next (s.block (c.finish q 1 [])))
          ∧ (r.acc = .w1c → let c1 := c.oapStage q.world idx el n (BitVec.ofNat 512 v)
            exec (.dictW1c w false) s = .next (s.block (c1.finish q (c1.dic.oap q.world).status [])))))
    ∧ (q.cmd = 3 → exec (.dictCommit w false) s = .next (s.block
        ((c.oapCommit q.world).dc fun d => { d with reqs := updFirst (fun r => r == q) (fun r => { r with cmt := some (d.num q.world) }) d.reqs })))
    ∧ (q.cmd = 4 → exec (.dictAbort w false) s = .next (s.block ((c.oapAbort q.world).finish q 0 [])))
    ∧ (q.cmd = 5 → exec (.dictCommitStatus w false) s = .next (s.block (c.finish q (c.outcomeCc q.world) (c.outcomeBody q.world))))
    ∧ (q.cmd = 0x20 → 4 ≤ q.body.length → let n := leNat (q.body.take 4)
        (n = 0 ∨ 2 ^ 20 < n → exec (.fwBegin w false) s = .next (s.block (c.finish q 1 [])))
        ∧ (1 ≤ n → n ≤ 2 ^ 20 → exec (.fwBegin w false) s = .next (s.block ((c.k fun k => { k with imgLen := some n }).finish q 0 []))))
    ∧ (q.cmd = 0x21 → 5 ≤ q.body.length → q.body.length ≤ 1028 → ∀ n, c.kpr.imgLen = some n → let off := leNat (q.body.take 4)
        let d := q.body.drop 4
        off + d.length ≤ n →
        (c.kpr.booted = true → let a := c.fwAccess .directory true (c.ob FW_STAGE_BASE + off) d.length
          (a.2 = false → exec (.fwData w false) s = .next (s.block (a.1.finish q 2 [])))
          ∧ (a.2 = true → a.1 = c ∧
              exec (.fwData w false) s = .next (s.block ((c.k fun k => { k with dram := putBytes (c.ob FW_STAGE_BASE + off) d k.dram }).finish q 0 []))))
        ∧ (c.kpr.booted = false → let a := c.fwAccess .keeper true off d.length
          (a.2 = false → exec (.fwData w false) s = .next (s.block (a.1.finish q 2 [])))
          ∧ (a.2 = true → a.1 = { c with eng := a.1.eng } ∧ exec (.fwData w false) s = .next (s.block ((a.1.k fun k => { k with sram := putBytes off d k.sram }).finish q 0 [])))))
    ∧ (q.cmd = 0x22 → ∀ n, c.kpr.imgLen = some n → let c1 := c.k fun k => { k with imgLen := none }
        (c.kpr.booted = true → exec (.fwEnd w false) s = .next (s.block (c1.finish q 0 [b8 (c1.ob FW_BOOT_STATUS)])))
        ∧ (c.kpr.booted = false → let c2 := c1.bootImage (readCells c.kpr.sram 0 n)
          exec (.fwEnd w false) s = .next (s.block (c2.finish q 0 [b8 (c2.ob FW_BOOT_STATUS)]))))
    ∧ (listedCmd q.cmd = false → exec (.unsupportedDictCommand w false) s = .next (s.block (Chip.finish (c.e fun e => e.unitErr 43 q.cmd) q 0xB [])))

/-- The earliest commit is handled once its time T has come: it leaves the port, takes effect or is refused whole, and its world's port
ends. An acknowledgement of the outstanding record's number takes it from the head of the event queue, and the carrier chip's own takes a
region-map notice; an unsent record is not acknowledged. A record not acknowledged within DICT_EVT_RETRY is sent again, and leaves after 8
sends; a region-map notice is resent without limit. A request that has waited DICT_REQ_WAIT is answered 0x0D and removed (R358, R362,
R367, R370, R371; one record outstanding at a time is the model's, log entry 33). -/
def Obligations.CommitEdgeAndEvents : Prop :=
  ∀ s : State, let c := s.toChip
    (∀ m lead, c.coreWorks = true → earliest c.dic.commits = some m → m.lead = some lead → c.cmtTime m lead ≤ c.eng.ts →
      let c1 : Chip := { c with dic := { c.dic with commits := c.dic.commits.erase m, lastT := some (c.cmtTime m lead) } }
      exec .commitEdge s = .next (s.effect ((match c.firstBad m.world m.ws with
        | none => (c1.setOutcome m.world m.num 0 0 0 (c.cmtTime m lead)).applyCmt m.world m.ws
        | some (o, st) => (if c.eng.foghorn then c1 else c1.denyLog m.world m.ws).setOutcome m.world m.num st o.idx o.el (c.cmtTime m lead)).oapEnd m.world)))
    ∧ (∀ r t, c.eng.evq = r :: t →
      (∀ num, 0 < r.sends → r.num = num → exec (.eventAck num false) s = .next (s.block (c.e fun e => { e with evq := t }).evPump))
      ∧ (∀ num, c.eng.notices = [] → r.sends = 0 ∨ r.num ≠ num → ∀ b, exec (.eventAck num b) s = .next (s.block c.evPump))
      ∧ (c.evSends = true → 0 < r.sends → r.at_ + c.ob DICT_EVT_RETRY * 1000 ≤ c.eng.ts →
        (r.sends < 8 → exec .eventRetryExpiry s = .next (s.block
          (Chip.sendEvent (c.e fun e => { e with evq := { r with sends := r.sends + 1, at_ := e.ts } :: t }) (c.dic.route (c.ob DICT_FM_EID)) (c.ob DICT_FM_EID) r).evPump))
        ∧ (8 ≤ r.sends → exec .eventRetryExpiry s = .next (s.block (c.e fun e => { e with evq := t }).evPump))))
    ∧ (∀ r t, c.eng.notices = r :: t → 0 < r.sends →
      exec (.eventAck r.num true) s = .next (s.block (c.e fun e => { e with notices := t }).evPump)
      ∧ (c.kpr.on = true → r.at_ + c.ob DICT_EVT_RETRY * 1000 ≤ c.eng.ts → exec .mapNoticeRetry s = .next (s.block
          (Chip.sendEvent (c.e fun e => { e with notices := { r with sends := r.sends + 1, at_ := e.ts } :: t }) (.mailbox 0) 0 r).evPump)))
    ∧ (∀ q, c.kpr.on = true → (c.dic.reqs.find? fun q => q.cmt.isNone && decide (q.at_ + c.ob DICT_REQ_WAIT * 1000000 ≤ c.eng.ts)) = some q →
      exec .dictReqWaitExpiry s = .next (s.block (Chip.respond (c.dc fun d => { d with reqs := d.reqs.erase q }) q 0xD [])))

/-- With Keeper powered, each control request is answered on its transport to its source, with the same tag and tag owner 0: Set Endpoint
ID takes an assignable EID, which DICT_EID then reads, and refuses another operation, EID 0 or 0xFF with code 2 and a short request with
code 3; Get Endpoint ID, Get Endpoint UUID and Get Message Type Support (0x00 and 0x7F) answer success with their data; Get MCTP Version
Support answers for the base protocol, control messages and type 0x7F, and code 0x80 for another type; Get Vendor Defined Message Support
reports the one set, IANA format, the enterprise number and command set version 1, and code 2 for a further set; any other command is
counted and logged as the block's unsupported commands are and gets completion code 5. A mailbox packet whose word count is not 1 + n/4
rounded up, or whose n is not 5 to 252, is discarded and counted; any other reaches the endpoint with its route cookie. A word taken
leaves the mailbox, the next packet's words following (R53, R364, R369; the version bytes, codes 2, 3 and 0x80 are DSP0236's, log entry
32; the version of type 0x7F is a free value, log entry 5; the count of an unsupported command is the model's, log entry 59). -/
def Obligations.ControlMessages : Prop :=
  ∀ s : State, let c := s.toChip
    (c.kpr.on = true →
      (∀ q : Ctl, let a : MAddr := { via := if q.i3c then .i3c else .mailbox q.cookie, eid := q.eid, tag := q.tag, owner := false }
        let answer (c : Chip) (cmd cc : Nat) (data : List B8) : Chip := c.send a ([b8 0, b8 (q.inst % 32), b8 cmd, b8 cc] ++ data)
        let v := c.ob DEV_MCTP_VENDOR
        (∀ data : List B8, 2 ≤ data.length → at8 data 0 % 4 ≤ 1 → at8 data 1 ≠ 0 → at8 data 1 ≠ 0xFF →
          exec (.setEndpointId q data) s = .next (s.block (answer (c.set DICT_EID 0 (at8 data 1)) 1 0 [b8 0, b8 (at8 data 1), b8 0])))
        ∧ exec (.getEndpointId q) s = .next (s.block (answer c 2 0 [b8 (c.ob DICT_EID), b8 0, b8 0]))
        ∧ exec (.getEndpointUuid q) s = .next (s.block (answer c 3 0 (natBytes c.eng.fz.uuid 16)))
        ∧ (∀ data : List B8, data.length < 2 → exec (.setEndpointId q data) s = .next (s.block (answer c 1 3 [])))
        ∧ (∀ data : List B8, 2 ≤ data.length → 1 < at8 data 0 % 4 ∨ at8 data 1 = 0 ∨ at8 data 1 = 0xFF → exec (.setEndpointId q data) s = .next (s.block (answer c 1 2 [])))
        ∧ (∀ data, (at8 data 0 = 0xFF ∨ at8 data 0 = 0 → exec (.getMctpVersionSupport q data) s = .next (s.block (answer c 4 0 [b8 1, b8 0xF1, b8 0xF3, b8 0xFF, b8 0])))
          ∧ (at8 data 0 = 0x7F → exec (.getMctpVersionSupport q data) s = .next (s.block (answer c 4 0 Config.mctpVersion)))
          ∧ (at8 data 0 ≠ 0xFF → at8 data 0 ≠ 0 → at8 data 0 ≠ 0x7F → exec (.getMctpVersionSupport q data) s = .next (s.block (answer c 4 0x80 []))))
        ∧ exec (.getMessageTypeSupport q) s = .next (s.block (answer c 5 0 [b8 2, b8 0, b8 0x7F]))
        ∧ (∀ data, at8 data 0 = 0 → exec (.getVendorDefinedMessageSupport q data) s =
            .next (s.block (answer c 6 0 [b8 0xFF, b8 1, b8 (v / 2 ^ 24), b8 (v / 2 ^ 16), b8 (v / 2 ^ 8), b8 v, b8 0, b8 1])))
        ∧ (∀ data, at8 data 0 ≠ 0 → exec (.getVendorDefinedMessageSupport q data) s = .next (s.block (answer c 6 2 [])))
        ∧ (∀ cmd, cmd = 0 ∨ 6 < cmd → exec (.unsupportedControlCmd q cmd) s = .next (s.block (answer (c.e fun e => e.unitErr 43 cmd) cmd 5 []))))
      ∧ (∀ (w0 : BitVec 32) (ws : List (BitVec 32)), let n := w0.toNat % 256
        (ws.length ≠ (n + 3) / 4 ∨ n < 5 ∨ 252 < n → exec (.mailboxPacket (w0 :: ws)) s = .next (s.block (c.e fun e => e.inc DICT_REQ_DROPPED)))
        ∧ (ws.length = (n + 3) / 4 → 5 ≤ n → n ≤ 252 →
          exec (.mailboxPacket (w0 :: ws)) s = .next (s.block (c.packet (.mailbox (bits w0.toNat 15 8)) ((ws.flatMap fun w => natBytes w.toNat 4).take n))))))
    ∧ (∀ w t, c.dic.mbOut = w :: t →
      (t ≠ [] ∨ c.dic.mbQ = [] → exec .mailboxOutWordTaken s = .next (s.block (c.dc fun d => { d with mbOut := t })))
      ∧ (∀ p k ps, t = [] → c.dic.mbQ = { via := .mailbox k, bytes := p } :: ps →
        exec .mailboxOutWordTaken s = .next (s.block (c.dc fun d => { d with mbOut := mailWords k p, mbQ := ps }))))

/-- With the always-on region up: a private write to the dynamic address with a good PEC and no more than 68 bytes nor than SETMWL gives
is a packet of the endpoint, and a bad or longer one is discarded and counted; a private read answers the packet that waits with its PEC,
and is not acknowledged where none waits; ENTDAA, and SETDASA to the static address, give a dynamic address to a target without one, and
RSTDAA takes it; SETMWL and SETMRL set the lengths that GETMWL and GETMRL answer, most significant byte first; GETPID answers DEV_I3C_PID;
GETBCR, GETDCR and GETSTATUS their values; ENEC and DISEC enable and disable In-Band Interrupts; an unsupported direct CCC and a
controller-role offer are refused, an unsupported broadcast has no other effect than the count and log that an unsupported direct one also
leaves; HDR entry makes the target wait for the exit (R52, R368; the PEC's polynomial, BCR and DCR are the standards', log entry 32,
GETSTATUS' pending field a free value, log entry 5; the count of an unsupported CCC is the model's, log entry 59; the HDR wait ends with
the next SDR command, log entry 6). -/
def Obligations.I3cTarget : Prop :=
  ∀ s : State, let c := s.toChip
    let bus (g : I3c → I3c) : Chip := c.dc fun d => { d with i3c := g { d.i3c with hdr := false, answer := [], nack := false } }
    c.i3cUp = true →
    (∀ a, c.dic.i3c.dyn = some a →
      (∀ data ok, c.kpr.on = true →
        (ok = false ∨ 68 < data.length ∨ c.dic.i3c.mwl < data.length → exec (.i3cPrivateWrite a data ok) s = .next (s.block ((bus id).e fun e => e.inc DICT_REQ_DROPPED)))
        ∧ (ok = true → data.length ≤ 68 → data.length ≤ c.dic.i3c.mwl → exec (.i3cPrivateWrite a data ok) s = .next (s.block ((bus id).packet .i3c data))))
      ∧ (c.dic.i3cQ = [] → exec (.i3cPrivateRead a) s = .next (s.block (bus fun i => { i with nack := true })))
      ∧ (∀ p t, c.dic.i3cQ = p :: t → exec (.i3cPrivateRead a) s = .next (s.block
          ((bus fun i => { i with answer := (p ++ [pec (b8 (2 * a + 1) :: p)]).take (i.mrl + 1) }).dc fun d => { d with i3cQ := t })))
      ∧ (∀ (i : Instr) (ans : List B8), (i, ans) ∈ [(Instr.getmwl a, (natBytes c.dic.i3c.mwl 2).reverse), (.getmrl a, (natBytes c.dic.i3c.mrl 2).reverse), (.getpid a, (natBytes c.eng.fz.i3cPid 6).reverse),
            (.getbcr a, [b8 0x06]), (.getdcr a, [b8 0xCC]), (.getstatus a, (natBytes (if c.dic.i3cQ = [] then 0 else (Config.i3cPending c.dic.i3cQ.length).toNat) 2).reverse)] →
          exec i s = .next (s.block (bus fun i => { i with answer := ans })))
      ∧ (∀ v, exec (.setmwl (some a) v) s = .next (s.block (bus fun i => { i with mwl := v })) ∧ exec (.setmrl (some a) v) s = .next (s.block (bus fun i => { i with mrl := v })))
      ∧ exec (.unsupportedCcc (some a)) s = .next (s.block ((bus fun i => { i with nack := true }).e fun e => e.unitErr 43 0x100))
      ∧ exec (.controllerRoleOffer a) s = .next (s.block (bus fun i => { i with nack := true })))
    ∧ (∀ a, a < 128 → c.dic.i3c.dyn = none →
      exec (.entdaa a true) s = .next (s.block (bus fun i => { i with dyn := some a }))
      ∧ exec (.entdaa a false) s = .next (s.block (bus id))
      ∧ exec (.setdasa (c.ob DICT_I3C_STATIC) a) s = .next (s.block (bus fun i => { i with dyn := some a })))
    ∧ (∀ v, exec (.setmwl none v) s = .next (s.block (bus fun i => { i with mwl := v })) ∧ exec (.setmrl none v) s = .next (s.block (bus fun i => { i with mrl := v })))
    ∧ exec .enec s = .next (s.block (bus fun i => { i with ibi := true }))
    ∧ exec .disec s = .next (s.block (bus fun i => { i with ibi := false }))
    ∧ exec .rstdaa s = .next (s.block (bus fun i => { i with dyn := none }))
    ∧ exec (.unsupportedCcc none) s = .next (s.block ((bus id).e fun e => e.unitErr 43 0x100))
    ∧ exec .hdrEntry s = .next (s.block (bus fun i => { i with hdr := true }))

/-- PM_SNAP sets S to the commit time plus the lead, makes every present block outstanding and gives the Gallery a class 7 message from
stop 46 for each block on the ring; a broadcast that reaches a block before S arms it, one at S makes every armed block copy with it, one
after S makes it copy at once and marks it late, or on time where its domain sleeps. PM_CTR_CLEAR clears the blocks of its mask. A sampler
record joins the buffer, or is counted where 16,384 are buffered; a ring write that has ended puts its record at RING_BASE + 64 (trace:
32) times HEAD modulo SIZE, raises HEAD and drops the record from its buffer, and a refused or failed write counts it lost and raises HEAD
too. PM_SMP_FLUSH takes the records buffered now. Outside Foghorn a merge buffer is sent whole and an increment is added to its bin,
saturating at 56 bits; an increment that stop 46 cannot take, or in Foghorn, is counted; PM_HIST_CLEAR empties bins, buffers and
increments. The trace unit queues a control-flow record, the oldest event marker or a loss marker, or counts the record lost where its
FIFO has no room (R374, R375, R378, R380, R384; the trace FIFO's depth and the layout of a trace record are free values, log entry 6; a
broadcast is one event, log entry 2). -/
def Obligations.PerformanceMonitor : Prop :=
  (∀ (s : State) (w : World),
    (s.toChip.accepts w [⟨PM_SNAP, 0, 1⟩] = true → exec (.pmSnap w) s = .next (s.committed w fun c =>
      (((c.set PM_SNAP_TIME 0 (c.eng.ts + c.ob PM_SNAP_LEAD)).set PM_SNAP_LATE 0 0).e fun e =>
        ((bitList (c.ob PM_BLOCKS) 48).filter fun b => e.onRing b).foldl (fun e b => e.galSend .snapshot 7 46 b) e).q fun p =>
          { p with snapLeft := bitList (c.ob PM_BLOCKS) 48, snapArmed := [] }))
    ∧ (∀ v, s.toChip.accepts w [⟨PM_CTR_CLEAR, 0, v⟩] = true → exec (.pmCtrClear w v) s = .next (s.committed w fun c =>
        c.e fun e => (bitList v 48).foldl (fun e b => (List.range 16).foldl (fun e i => e.set (PM_CTR + b) i 0) e) e))
    ∧ (s.toChip.accepts w [⟨PM_SMP_FLUSH, 0, 1⟩] = true → exec (.pmSmpFlush w) s = .next (s.committed w fun c => c.q fun p => { p with flush := some p.smpBuf.length }))
    ∧ (s.toChip.accepts w [⟨PM_HIST_CLEAR, 0, 1⟩] = true → exec (.pmHistClear w) s = .next (s.committed w fun c => c.q fun p => { p with bins := [], merges := [], histWay := [] })))
  ∧ (∀ (s : State) (b : Nat), let c := s.toChip
    let copied (c : Chip) (b : Nat) := (c.e fun e => (List.range 16).foldl (fun e i => e.set (PM_SNAP_CTR + b) i (e.obj (PM_CTR + b) i)) e).q fun p =>
      { p with snapLeft := dropNat b p.snapLeft, snapArmed := dropNat b p.snapArmed }
    let armed := c.q fun p => { p with snapArmed := insertNat b p.snapArmed }
    (c.pm.snapLeft.contains b = false ∨ c.pm.snapArmed.contains b = true → exec (.snapBroadcast b) s = .next s)
    ∧ (c.pm.snapLeft.contains b = true → c.pm.snapArmed.contains b = false →
      (c.eng.ts < c.ob PM_SNAP_TIME → exec (.snapBroadcast b) s = .next (s.block armed))
      ∧ (c.ob PM_SNAP_TIME = c.eng.ts ∨ (c.ob PM_SNAP_TIME < c.eng.ts ∧ c.blockSleeps b = true) →
        exec (.snapBroadcast b) s = .next (s.block (armed.pm.snapArmed.foldl copied armed)))
      ∧ (c.ob PM_SNAP_TIME < c.eng.ts → c.blockSleeps b = false →
        exec (.snapBroadcast b) s = .next (s.block ((copied c b).set PM_SNAP_LATE 0 (setBit (c.ob PM_SNAP_LATE) b))))))
  ∧ (∀ s : State, let c := s.toChip
    (∀ w ws, c.pm.smpWay = w :: ws →
      (c.pm.smpBuf.length < 16384 → exec .samplerRecord s = .next (s.block (Chip.rings (c.q fun p => { p with smpWay := ws, smpBuf := p.smpBuf ++ [w], flush := if p.flush = some 0 then none else p.flush }))))
      ∧ (16384 ≤ c.pm.smpBuf.length → exec .samplerRecord s = .next (s.block (Chip.rings ((c.e fun e => e.inc PM_SMP_DROPPED).q fun p => { p with smpWay := ws, flush := if p.flush = some 0 then none else p.flush })))))
    ∧ (∀ trc q, let r := if trc then trcR else smpR
      let idle (q : DSeq) : Bool := q.kind == r.kind && q.locked && q.out == 0 && !q.pend && q.stages.isEmpty && decide (0 < q.ph)
      let bytes := if trc then natBytes (Config.traceRecord q.id).toNat 32 else natBytes (c.pm.smpBuf.headD 0).toNat 64
      let off (c : Chip) : Chip := c.q fun p => if trc then { p with trc := p.trc.drop 1 } else { p with smpBuf := p.smpBuf.drop 1, flush := p.flush.map fun n => n - 1 }
      c.eng.seqs.find? idle = some q →
      (q.refused = false → q.wbad = false →
        let c1 := (c.k fun k => { k with dram := putBytes (c.ob r.base + r.bytes * (c.ob r.head % c.ob r.size)) bytes k.dram }).e fun e => Eng.endSeq { e with fresh := e.fresh + 1 } q.id
        exec (.ringWriteComplete trc) s = .next (s.block (off (c1.set r.head 0 ((c1.ob r.head + 1) % 2 ^ 32))).rings))
      ∧ (q.refused = true ∨ q.wbad = true →
        let c1 := c.e fun e => (e.inc r.dropped).endSeq q.id
        exec (.ringWriteComplete trc) s = .next (s.block (off (c1.set r.head 0 ((c1.ob r.head + 1) % 2 ^ 32))).rings)))
    ∧ (∀ k, c.eng.foghorn = true ∨ c.eng.ts < kget 0 k c.pm.mergeAt + 10000 → exec (.histMergeFlush k) s = .next s)
    ∧ (∀ k, c.eng.foghorn = false → kget 0 k c.pm.mergeAt + 10000 ≤ c.eng.ts → exec (.histMergeFlush k) s = .next (s.block (c.q fun p =>
        { p with mergeAt := kput k c.eng.ts p.mergeAt, histWay := p.histWay ++ ((p.merges.filter fun m => m.slice == k).map fun m => (m.key, m.count)), merges := p.merges.filter fun m => m.slice != k })))
    ∧ (∀ k n t, c.pm.histWay = (k, n) :: t →
      (c.pmOn = true → c.eng.foghorn = false → exec (.histIncrement true) s = .next (s.block (c.q fun p => { p with histWay := t, bins := kput k.pos (min (2 ^ 56 - 1) (kget 0 k.pos p.bins + n)) p.bins })))
      ∧ (∀ b, b = false ∨ c.pmOn = false ∨ c.eng.foghorn = true →
        exec (.histIncrement b) s = .next (s.block ((c.q fun p => { p with histWay := t }).e fun e => e.addObj PM_HIST_DROPPED 0 n))))
    ∧ (c.ob TRC_ENABLE = 1 → Config.traceDepth < c.pm.trc.length →
      let lost (c : Chip) : Chip := (c.e fun e => e.inc TRC_DROPPED).q fun p => { p with trcLost := p.trcLost + 1 }
      (∀ kind w, kind ≤ 3 → bit (c.ob TRC_SOURCES) (flowSrc w) = true → c.dbgOn (nonInvasive w) = true → c.keeperUp = true →
        exec (.traceRecord (.flow kind w)) s = .next (s.block (lost c).rings))
      ∧ (∀ b k t, c.eng.marks = (b, k) :: t → exec (.traceRecord .event) s = .next (s.block (lost (c.e fun e => { e with marks := t })).rings))
      ∧ exec (.traceRecord .loss) s = .next s)
    ∧ (c.ob TRC_ENABLE = 1 → c.pm.trc.length ≤ Config.traceDepth →
      let push (c : Chip) (k : TrcK) : Chip := c.q fun p => { p with trc := p.trc ++ [({ kind := k, time := c.eng.t48 } : TrcRec)] }
      (∀ kind w, kind ≤ 3 → bit (c.ob TRC_SOURCES) (flowSrc w) = true → c.dbgOn (nonInvasive w) = true → c.keeperUp = true →
        exec (.traceRecord (.flow kind w)) s = .next (s.block (push c (.flow kind w)).rings))
      ∧ (∀ b k t, c.eng.marks = (b, k) :: t → exec (.traceRecord .event) s = .next (s.block (push (c.e fun e => { e with marks := t }) (.event b k)).rings))
      ∧ (c.pm.trcLost ≠ 0 → exec (.traceRecord .loss) s = .next (s.block ((push c (.loss c.pm.trcLost)).q fun p => { p with trcLost := 0 }).rings))))

/-- Test-Logic-Reset loads IDCODE and leaves every segment out; IDCODE selects the 32-bit identity, IJTAG the network, every other code a
bypass of one bit. With IJTAG selected, Keeper powered and the instrument's segment inserted, an operation that its enable or the Guard
forbids sets the instrument's status bit and has no other effect than the Guard's log and interrupt where the Guard refused a memory
access; a permitted one clears the bit and has its effect: segments are inserted, the debug module attached (source 14), resumed or
detached, breakpoints set and removed, registers and the CSRs that the running world may use read and written and single steps taken while
halted, memory read and written through Keeper's address map (a word of SRAM beyond correction is not captured and sets the status bit),
counters and sampler records read, and TRC_ENABLE set (R349, R382, R383; what an operation of a debug module is, and its codes, are the
model's, log entry 34). -/
def Obligations.DebugPort : Prop :=
  ∀ s : State, let c := s.toChip
    exec .tapReset s = .next (s.block (c.q fun p => { p with ir := 1, sib := 0 }))
    ∧ exec .idcode s = .next (s.block (c.q fun p => { p with ir := 1, dr := c.ob TAP_IDCODE }))
    ∧ exec .ijtag s = .next (s.block (c.q fun p => { p with ir := 2, dr := 0 }))
    ∧ (∀ code, code ≠ 1 → code ≠ 2 → exec (.bypass code) s = .next (s.block (c.q fun p => { p with ir := code, dr := 0 })))
    ∧ (c.pm.ir = 2 → c.kpr.on = true → ∀ op, let i := tapInst op
      4 ≤ i ∨ bit c.pm.sib i = true →
      let ok := c.q fun p => { p with stat := clearBit p.stat i }
      (c.tapAllowed op = false →
        let noted (c : Chip) : Chip := c.q fun p => { p with stat := setBit p.stat i }
        ((∀ a, op ≠ .readMem a) → (∀ a v, op ≠ .writeMem a v) → exec (.tapInstrumentOperation op) s = .next (s.block (noted c)))
        ∧ (∀ wr a, op = .readMem a ∧ wr = false ∨ (∃ v, op = .writeMem a v) ∧ wr = true →
          (c.pm.attached = false ∨ c.dbgOn (invasive c.kpr.world) = false ∨ c.kRefused c.kpr.world wr a = none → exec (.tapInstrumentOperation op) s = .next (s.block (noted c)))
          ∧ (∀ x pg, c.pm.attached = true → c.dbgOn (invasive c.kpr.world) = true → c.kRefused c.kpr.world wr a = some (x, pg) →
            exec (.tapInstrumentOperation op) s = .next (s.block (noted (c.e fun e => e.guardFault x (kprInit c.kpr.world) wr pg))))))
      ∧ (c.tapAllowed op = true →
        (∀ m, op = .sib m → exec (.tapInstrumentOperation op) s = .next (s.block (ok.q fun p => { p with sib := m % 16 })))
        ∧ (op = .attach → exec (.tapInstrumentOperation op) s = .next (s.block ((ok.q fun p => { p with attached := true }).e fun e => e.irq 14)))
        ∧ (op = .detach → c.kpr.halted = none → exec (.tapInstrumentOperation op) s = .next (s.block (ok.q fun p => { p with attached := false })))
        ∧ (op = .resume → c.kpr.halted.isSome = true → exec (.tapInstrumentOperation op) s =
            .next (s.block ((ok.k fun k => { k with halted := none, haltReq := false }).set DBG_STATE 0 0)))
        ∧ (op = .halt → exec (.tapInstrumentOperation op) s = .next (s.block ok.debugHalt))
        ∧ (∀ a, op = .breakpoint a true → exec (.tapInstrumentOperation op) s = .next (s.block (ok.k fun k => { k with bps := insertNat a k.bps })))
        ∧ (∀ a, op = .breakpoint a false → exec (.tapInstrumentOperation op) s = .next (s.block (ok.k fun k => { k with bps := dropNat a k.bps })))
        ∧ (c.kpr.halted.isSome = true →
          (∀ pc, op = .step pc → exec (.tapInstrumentOperation op) s = .next (s.block (ok.k fun k => { k with pc := pc })))
          ∧ (∀ r, op = .readReg r → r < 0x1000 → exec (.tapInstrumentOperation op) s = .next (s.block (ok.q fun p => { p with dr := (c.kpr.reg r).toNat })))
          ∧ (∀ r v, op = .writeReg r v → r < 0x1000 → exec (.tapInstrumentOperation op) s = .next (s.block (ok.k fun k => k.setReg r v)))
          ∧ (∀ r, op = .readReg (0x1000 + r) →
            (∀ v, c.csr c.kpr.world r = some v → exec (.tapInstrumentOperation op) s = .next (s.block (ok.q fun p => { p with dr := v.toNat })))
            ∧ (c.csr c.kpr.world r = none → exec (.tapInstrumentOperation op) s = .next (s.block (ok.q fun p => { p with stat := setBit p.stat i }))))
          ∧ (∀ r v, op = .writeReg (0x1000 + r) v →
            (∀ t, ok.csrSet c.kpr.world r v = some t → exec (.tapInstrumentOperation op) s = .next (s.block t))
            ∧ (ok.csrSet c.kpr.world r v = none → exec (.tapInstrumentOperation op) s = .next (s.block (ok.q fun p => { p with stat := setBit p.stat i })))))
        ∧ (∀ a o, op = .readMem a → c.kaddr c.kpr.world false a = some (.sram o) → let r := c.eng.sramRead o 4
          (r.2 = none → exec (.tapInstrumentOperation op) s = .next (s.block ((ok.e fun _ => r.1).q fun p => { p with dr := c.kread c.kpr.world (.sram o) })))
          ∧ (∀ w, r.2 = some w → exec (.tapInstrumentOperation op) s = .next (s.block ((ok.e fun _ => r.1).q fun p => { p with stat := setBit p.stat i }))))
        ∧ (∀ a x, op = .readMem a → c.kaddr c.kpr.world false a = some x → (∀ o, x ≠ .sram o) → exec (.tapInstrumentOperation op) s = .next (s.block (ok.q fun p => { p with dr := c.kread c.kpr.world x })))
        ∧ (∀ a x v, op = .writeMem a v → c.kaddr c.kpr.world true a = some x → exec (.tapInstrumentOperation op) s = .next (s.block (ok.kwrite c.kpr.world x v)))
        ∧ (∀ a o v, op = .writeMem a v → c.kaddr c.kpr.world true a = some (.sram o) →
          exec (.tapInstrumentOperation op) s = .next (s.block ((ok.e fun e => e.sramWrite o 4).k fun k => { k with sram := putBytes o (natBytes v.toNat 4) k.sram })))
        ∧ (∀ b i snap, op = .counter b i snap → b < 48 → i < 16 →
          exec (.tapInstrumentOperation op) s = .next (s.block (ok.q fun p => { p with dr := c.eng.obj ((if snap then PM_SNAP_CTR else PM_CTR) + b) i })))
        ∧ (∀ n, op = .sample n → exec (.tapInstrumentOperation op) s = .next (s.block (ok.q fun p => { p with dr := (c.pm.smpBuf.getD n 0).toNat })))
        ∧ (∀ b, op = .traceEnable b → exec (.tapInstrumentOperation op) s = .next (s.block (ok.set TRC_ENABLE 0 (b2n b)).voteCheck))))

/-- A write that passes the checks of R392, staged by a world whose area is in ascending order and holds at most 256 writes: where the
area has fewer than 256 or holds one of the same object and element, the write is in the area afterwards in place of any earlier one of
the same object and element, every other entry stays, and the status is success; where it would need a 257th entry, the status is
staging-full and the area is unchanged. The other world's area never changes. A read answers the same value whatever is staged, but for
DICT_STAGED, which counts the entries. A write of 1 to DICT_ABORT empties the area of the world that writes it, and only that one (R357).
-/
def Obligations.StagedWrites : Prop :=
  (∀ (s : State) (w : World) (idx el len : Nat) (data : Data), let c := s.toChip
    let o : OWr := { idx := idx, el := el, val := data.toNat % 2 ^ (8 * len) }
    c.oapReady w = true → c.eng.checkStatus w o len = 0 → isW1C o = false → idx ≠ DICT_COMMIT → idx ≠ DICT_ABORT → areaOk (c.dic.area w) = true →
    ∃ t : State, exec (.oapStage w idx el len data) s = .next t ∧ (∀ v, v ≠ w → t.dic.area v = c.dic.area v)
      ∧ ((c.dic.area w).length < 256 ∨ (∃ a ∈ c.dic.area w, o.same a = true) →
        (t.dic.oap w).status = 0 ∧ (∀ a, a ∈ t.dic.area w ↔ a = o ∨ (a ∈ c.dic.area w ∧ o.same a = false)))
      ∧ (256 ≤ (c.dic.area w).length → (∀ a ∈ c.dic.area w, o.same a = false) →
        (t.dic.oap w).status = 9 ∧ t.dic.area w = c.dic.area w))
  ∧ (∀ (s : State) (w : World) (idx el len : Nat) (stS stN : List OWr), s.toChip.oapReady w = true → idx ≠ DICT_STAGED →
    ∃ t t' : State, exec (.oapRead w idx el len) s = .next t
      ∧ exec (.oapRead w idx el len) (s.block { s.toChip with dic := { s.toChip.dic with stS := stS, stN := stN } }) = .next t'
      ∧ (t'.dic.oap w).status = (t.dic.oap w).status ∧ (t'.dic.oap w).data = (t.dic.oap w).data)
  ∧ (∀ (s : State) (w : World), s.toChip.oapReady w = true →
    ∃ t : State, exec (.oapStage w DICT_ABORT 0 1 1) s = .next t ∧ t.dic.area w = [] ∧ (∀ v, v ≠ w → t.dic.area v = s.toChip.dic.area v))

/-- For every 38-bit sector number and every key, the set is the number's low 13 bits XOR the tag's low 13 bits XOR the tag's high 12 bits
shifted left by 1 XOR the key's low 13 bits, and is below 8,192; the low 13 bits are recovered from the set by the same XOR, so that two
sectors with one tag and one set are one sector (R134). -/
def Obligations.SnoopFilterIndex : Prop :=
  ∀ key psn : Nat, psn < 2 ^ 38 →
    let hi := psn / 2 ^ 13
    let set := sfaSet key psn
    hi < 2 ^ 25
    ∧ set = psn % 2 ^ 13 ^^^ hi % 2 ^ 13 ^^^ (hi / 2 ^ 13) <<< 1 ^^^ key % 2 ^ 13
    ∧ set < 2 ^ 13
    ∧ psn % 2 ^ 13 = set ^^^ hi % 2 ^ 13 ^^^ (hi / 2 ^ 13) <<< 1 ^^^ key % 2 ^ 13
    ∧ (∀ psn', psn' / 2 ^ 13 = hi → sfaSet key psn' = set → psn' = psn)

/-- A line of a present pool whose tile-map index is below 2^25 has the sector number whose bits 37 to 13 are the index and whose bits 12
to 0 are bits 20 to 8 of its byte offset in the tile; the next sector of the same tile has the next number, and a tile holds 8,192 of them
(R132). -/
def Obligations.SectorNumbers : Prop :=
  ∀ (e : Eng) (p line : Nat), e.poolOf line = some p → e.obj POOL_TMBASE p + (line - e.poolBase p) / 2 ^ 15 < 2 ^ 25 →
    let i := e.obj POOL_TMBASE p + (line - e.poolBase p) / 2 ^ 15
    let o := (64 * (line - e.poolBase p)) % 2 ^ 21
    e.psn line / 2 ^ 13 = i ∧ e.psn line % 2 ^ 13 = o / 2 ^ 8 ∧ e.psn line < 2 ^ 38
    ∧ (o / 2 ^ 8 + 1 < 8192 → e.poolOf (line + 4) = some p → e.psn (line + 4) = e.psn line + 1)

/-- Two lines of one 256-byte sector have the same steering bucket, and so the same owning slice, whatever the bucket table holds; a
bucket is below 256, and a bucket changes exactly with the XOR of the eight-bit fields of HPA[51:8] taken from bit 8 up, the last of four
bits (R20, R45). -/
def Obligations.SectorsStayTogether : Prop :=
  (∀ a b : Nat, a / 4 = b / 4 → bucketOf a = bucketOf b ∧ ∀ e : Eng, e.owner a = e.owner b)
  ∧ (∀ a : Nat, bucketOf a < 256)
  ∧ (∀ (a i : Nat), i < 8 → a < 2 ^ 46 →
    (bucketOf a).testBit i = (a.testBit (2 + i) ^^ a.testBit (10 + i) ^^ a.testBit (18 + i) ^^ a.testBit (26 + i) ^^ a.testBit (34 + i) ^^ a.testBit (42 + i)))

/-- A longer latency never falls in a lower bin; bins 0 to 7 hold 2 ns each, and bin 63 holds exactly the latencies of 229,376 ns or more.
A stamp of a time below 16,384 ns holds m in bits 6 to 0 and e in bits 9 to 7 with m x 2^e at most the time, less than 2^e below it, and e
the smallest for which m is at most 127; from 16,384 ns on it is 0x3FF (R377, R379). -/
def Obligations.BinsAndStamps : Prop :=
  (∀ a b, a ≤ b → histBin a ≤ histBin b)
  ∧ (∀ l, histBin l ≤ 63)
  ∧ (∀ l, l < 16 → histBin l = l / 2)
  ∧ (∀ l, histBin l = 63 ↔ 229376 ≤ l)
  ∧ (∀ t, t < 16384 → let e := stamp t / 128
      let m := stamp t % 128
      e ≤ 7 ∧ m * 2 ^ e ≤ t ∧ t < m * 2 ^ e + 2 ^ e ∧ (∀ e', e' < e → 127 < t / 2 ^ e'))
  ∧ (∀ t, 16384 ≤ t → stamp t = 0x3FF)

/-- In every store under SEC-DED, an error of one data or check bit is corrected at its position and an error of two bits is
uncorrectable; in every store under the main data-path or the entry code, an error within one 4-bit symbol is corrected at that symbol,
and an error of two bits in two symbols is uncorrectable. Bits of a word are numbered data first, then check bits; an error pattern holds
data from bit 0 and check bits from bit 128 (R291, R292, R294; the columns from h_17 on, which the search of R293 does not give, are free
values, log entry 35). -/
def Obligations.CodesCorrectAndDetect : Prop :=
  (∀ store, store ∈ [0, 1, 2, 3, 5, 0xC, 0xD, 0xE, 0xF, 0x10] → let k := (storeBits store).1
    let r := (storeBits store).2
    let at_ (i : Nat) : Nat := if i < k then 2 ^ i else 2 ^ (128 + (i - k))
    ∀ i, i < k + r → (∃ syn, storeRead store (at_ i) = .corr i syn) ∧ (∀ j, j < i → ∃ syn, storeRead store (at_ i + at_ j) = .bad syn))
  ∧ (∀ store n, (store, n) ∈ [(4, 32), (6, 32), (7, 32), (8, 29), (0xA, 29)] →
    let at_ (i : Nat) : Nat := if i < 4 * n then 2 ^ i else 2 ^ (128 + (i - 4 * n))
    (∀ i v, i < n + 3 → 0 < v → v < 16 → ∃ syn, storeRead store (v * at_ (4 * i)) = .corr i syn)
    ∧ (∀ i j, i < 4 * (n + 3) → j < 4 * (n + 3) → i / 4 ≠ j / 4 → ∃ syn, storeRead store (at_ i + at_ j) = .bad syn))

/-- Where Keeper can commit, no stored word is in error and every write passes its stage checks, a commit whose first failing write, in
ascending order, fails with a status st takes no effect: every object reads as before but DICT_COMMIT_STATUS, which holds the world's next
number, st, and the object and element of that write, and, for a commit of the normal world that R345 denies, the counter, log and
interrupt of the denial. Under Foghorn every commit of at least one write is refused with the busy status on its first write (R345, R346,
R358, R359; the commit is one command, log entry 18). -/
def Obligations.RefusedCommits : Prop :=
  (∀ (s : State) (w : World) (ws : List OWr) (o : OWr) (st : Nat), let c := s.toChip
    c.coreWorks = true → c.keeperUp = true → c.stageable w ws = true → c.firstBad w ws = some (o, st) →
    ∃ c' : Chip, s.commit w ws = .next (s.effect c')
      ∧ c'.eng.obj DICT_COMMIT_STATUS (match w with | .secure => 0 | .normal => 1)
          = nextNum (c.dic.num w) + st * 2 ^ 16 + o.idx * 2 ^ 24 + o.el * 2 ^ 40 + c.soloTime % 2 ^ 64 * 2 ^ 48
      ∧ (∀ idx el, idx < 2 ^ 16 → el < 256 → idx ≠ DICT_COMMIT_STATUS → w = .secure ∨ (idx ≠ WORLD_DENY_COUNT ∧ idx ≠ WORLD_IRQ_PENDING) →
          c'.eng.obj idx el = c.eng.obj idx el)
      ∧ c'.d = c.d ∧ c'.mir = c.mir ∧ c'.pwr = c.pwr ∧ c'.kpr = c.kpr ∧ c'.pm = c.pm
      ∧ c'.dic.stS = c.dic.stS ∧ c'.dic.stN = c.dic.stN)
  ∧ (∀ (c : Chip) (w : World) (o : OWr) (ws : List OWr), c.eng.foghorn = true → c.firstBad w (o :: ws) = some (o, 2))

/-- No dictionary operation of the normal world, through the port or by a message, changes the secure world's staged writes, port or
commit number, Keeper's banks, mode, program counter or memories, or the power state; and a stage by the normal world of an existing RWS
object in this configuration ends with access-denied, whatever its length and value, and stages nothing (R355, R357, R362, R366, R392). -/
def Obligations.NormalWorldOperations : Prop :=
  (∀ (s t : State) (i : Instr), (∃ idx el len data deny v, i ∈ [Instr.oapRead .normal idx el len, .oapStage .normal idx el len data, .oapCommit .normal, .oapAbort .normal, .rcRead .normal idx el, .w1cWrite .normal idx el v,
        .dictRead .normal deny, .dictStage .normal deny, .dictCommit .normal deny, .dictAbort .normal deny, .dictCommitStatus .normal deny, .dictW1c .normal deny]) →
      exec i s = .next t → t.dic.stS = s.dic.stS ∧ t.dic.oapS = s.dic.oapS ∧ t.dic.numS = s.dic.numS ∧ t.kpr = s.kpr ∧ t.pwr = s.pwr)
  ∧ (∀ (s : State) (idx el len : Nat) (data : Data) (r : ObjRow), s.toChip.oapReady .normal = true → objRow idx el = some r → r.acc = .rws →
      s.eng.exists_ idx el = true → s.eng.absent idx el = false →
      exec (.oapStage .normal idx el len data) s = .next (s.block { s.toChip with dic := { s.dic with oapN := { obj := oapObj idx el len, status := 5, busy := false, data := data } } }))

/-- While the block serves, the own effect of every command of the coherence side depends on the coherence side alone: for every such
command there is one function of it, and in whatever state Keeper, its firmware, the dictionary's paths, the monitor, the link and the
mirror are, the command answers a next state with that effect, where words it reads are in error after their readers' outcomes (R297).
While no stored word is in error, the same holds of every command of the Mirror Engine and the Hierarchy Agent over the fabric side, and
of every command of the Draix link over the link (R21, R297). -/
def Obligations.CoherenceWithoutKeeper : Prop :=
  (∀ i, isCoherence i = true → ∃ g : Eng → Eng, ∀ s : State, s.toChip.live = true →
      exec i s = .next (s.eff (match s.eng.readWords (g s.eng) with | [] => g s.eng | ws => g (ws.foldl (fun e b => e.readWord b) s.eng))))
  ∧ (∀ i, isFabric i = true → ∃ g : Fab → Fab, ∀ s : State, s.toChip.works = true → exec i s = .next (s.effFab (g s.toChip.fab)))
  ∧ (∀ i, isLink i = true → ∃ g : Lnk → Lnk, ∀ s : State, s.toChip.works = true → exec i s = .next (s.effLink (g s.lnk)))

/-- In reset, before start-up has ended and while CORE has no power, every command of the coherence side, of the Mirror Engine and the
Hierarchy Agent, and of the Draix link leaves the whole machine as it is; and while CORE has no power, no time passes but AONCLK's (R33,
R323, R324, R329; that an event whose condition does not hold changes nothing is the model's, log entry 2). -/
def Obligations.NothingWhileOutOfService : Prop :=
  ∀ s : State, (s.toChip.live = false → ∀ i, isCoherence i = true ∨ isFabric i = true ∨ isLink i = true → exec i s = .next s)
    ∧ (s.toChip.coreOn = false → s.pending = [] → step s = .next { s with pwr := { s.pwr with aon := if s.pwr.run = .dead then s.pwr.aon else s.pwr.aon + 1 } })

/-- The watchdog counts where it is enabled, the block is not in block Extinguished, and no halt in the secure world with WDT_PAUSE_DEBUG
at 1 pauses it, and whether it counts depends on these alone, so neither block Eclipse nor Brace stops it. Its part of a nanosecond raises
the count by one exactly where it counts and the time is a multiple of 250 ns, one AONCLK cycle, and leaves it otherwise; while CORE has
no power an idle step leaves the count and the objects as they are. Where the watchdog counts and its count has reached the period, no
reset input is asserted and the block is not without its supply, its expiry asserts rs_chip_req, disables the watchdog with its count at
0, records cause 5 in PWR_RESET_CAUSE[2:0] and one more reset in [18:3], keeps the DRAM and starts the block up; where it does not count,
or the period has not passed, the expiry changes nothing (R347, R348, R330, R331; the tick of a nanosecond is the model's, log entry 1).
-/
def Obligations.WatchdogRule : Prop :=
  (∀ c : Chip, c.wdtCounts = true ↔ c.pwr.wdtOn = true ∧ c.eng.obj PWR_BLOCK_STATE 0 ≠ 3 ∧ ¬(c.kpr.halted = some .secure ∧ c.eng.obj WDT_PAUSE_DEBUG 0 = 1))
  ∧ (∀ c : Chip, c.wdtTick.pwr.wdtCnt = c.pwr.wdtCnt + (if c.wdtCounts = true ∧ c.eng.ts % 250 = 0 then 1 else 0))
  ∧ (∀ (c c' : Chip), c'.pwr.wdtOn = c.pwr.wdtOn → c'.kpr.halted = c.kpr.halted → c'.eng.obj WDT_PAUSE_DEBUG 0 = c.eng.obj WDT_PAUSE_DEBUG 0 → c'.eng.obj PWR_BLOCK_STATE 0 = c.eng.obj PWR_BLOCK_STATE 0 → c'.wdtCounts = c.wdtCounts)
  ∧ (∀ s : State, s.pending = [] → s.toChip.coreOn = false → ∃ t : State, step s = .next t ∧ t.pwr.wdtCnt = s.pwr.wdtCnt ∧ t.eng = s.eng)
  ∧ (∀ s : State, let c := s.toChip
    c.wdtCounts = true → c.wdtPeriod ≤ c.pwr.wdtCnt → c.isHeld = false → c.pwr.run ≠ .dead →
    ∃ t : State, exec .secureWatchdogExpiry s = .next t ∧ t.pwr.chipReq = true ∧ t.pwr.wdtOn = false ∧ t.pwr.wdtCnt = 0 ∧ t.pwr.run ≠ .held
      ∧ t.eng.obj PWR_RESET_CAUSE 0 % 8 = 5
      ∧ bits (t.eng.obj PWR_RESET_CAUSE 0) 18 3 = (bits (c.eng.obj PWR_RESET_CAUSE 0) 18 3 + 1) % 65536
      ∧ t.kpr.dram = c.kpr.dram)
  ∧ (∀ s : State, s.toChip.wdtCounts = false ∨ s.pwr.wdtCnt < s.toChip.wdtPeriod → exec .secureWatchdogExpiry s = .next s)

/-- An assertion of rs_por_n, and of rs_warm_n where rs_por_n is not asserted, leaves every element of the retained objects of Table 15.3
as it was and every element of every other object at its default, but for SF_INDEX_KEY, which the reset loads from SF_INDEX_KEY_NEXT where
that is not 0xFFFF; the carrier's DRAM stays, no commit waits, nothing is staged, and no SFA entry, DBS sector or hot-line copy is left
(R356, R135, R136, R330; the element index runs to 255). -/
def Obligations.ResetDefaults : Prop :=
  ∀ (s : State) (i : Instr), (i = .powerOnReset ∨ (i = .warmReset ∧ s.pwr.por = false)) →
    ∃ t : State, exec i s = .next t
      ∧ (∀ idx el, el < 256 → (retained idx = true → t.eng.obj idx el = s.eng.obj idx el)
        ∧ (retained idx = false → idx ≠ SF_INDEX_KEY → t.eng.obj idx el = objDefault s.eng.fz idx el))
      ∧ (s.eng.obj SF_INDEX_KEY_NEXT 0 ≠ 0xFFFF → t.eng.obj SF_INDEX_KEY 0 = s.eng.obj SF_INDEX_KEY_NEXT 0)
      ∧ t.kpr.dram = s.kpr.dram ∧ t.dic.commits = [] ∧ t.dic.stS = [] ∧ t.dic.stN = []
      ∧ t.eng.sfa = [] ∧ t.eng.dbs = [] ∧ t.eng.hdc = [] ∧ t.pending = s.pending

/-- After reset no command waits, rs_por_n is asserted and nothing is in service; Keeper is not running, in S-M in the secure world, its
SRAM and the DRAM listing nothing; every element of every object reads its default; the SFA, the hot-line copies, the DBS sectors, the
leases, the logs and the contexts are empty; Foghorn and Brace are off; the instruction register of the TAP holds IDCODE; no address is
assigned on the I3C bus; nothing is staged and no commit waits; the link holds no flit and has its credits whole (R33, R136, R330, R336,
R356, R382; that unlisted bytes read as 0 is the model's, log entry 7). -/
def Obligations.ResetState : Prop :=
  let s := State.reset
  s.pending = [] ∧ s.pwr.por = true ∧ s.pwr.run = .held ∧ s.toChip.live = false ∧ s.toChip.coreOn = false
    ∧ s.kpr.on = false ∧ s.kpr.world = .secure ∧ s.kpr.mmode = true ∧ s.kpr.sram = [] ∧ s.kpr.dram = []
    ∧ (∀ idx el, s.eng.obj idx el = objDefault s.eng.fz idx el)
    ∧ s.eng.sfa = [] ∧ s.eng.hdc = [] ∧ s.eng.dbs = [] ∧ s.eng.leases = [] ∧ s.eng.logs = [] ∧ s.eng.ctxs = []
    ∧ s.eng.foghorn = false ∧ s.eng.brace = false ∧ s.pm.ir = 1 ∧ s.dic.i3c.dyn = none ∧ s.dic.stS = [] ∧ s.dic.stN = [] ∧ s.dic.commits = []
    ∧ s.d.res = [64, 64, 64, 64] ∧ s.d.shr = 768 ∧ s.d.held = []

/-- In the state after reset Keeper's SRAM and the carrier's DRAM are in their one form, and the staging areas and the commits on their
way are as R357 keeps them (R357, R332). -/
def Obligations.InvariantsAtReset : Prop := State.reset.toChip.memOk ∧ State.reset.toChip.stagingOk

/-- From every state in which Keeper's SRAM and the carrier's DRAM are in their one form, addresses strictly rising and no cell equal to
what an unlisted address reads as, a step, whatever the command at the front of the queue or the passing of a nanosecond, ends in a state
in which they are. Equal memories are therefore equal data in every state a run reaches (R332, R336, R365). -/
def Obligations.StepKeepsMemory : Prop := ∀ s t : State, s.toChip.memOk → step s = .next t → t.toChip.memOk

/-- From every state in which each world's staging area and the writes of every commit on its way are at most 256 and in strictly
ascending order of object and element, a step, whatever the command or the passing of a nanosecond, ends in a state in which they are: so
no area ever holds two writes of the same object and element, nor a 257th (R357, R358). -/
def Obligations.StepKeepsStaging : Prop := ∀ s t : State, s.toChip.stagingOk → step s = .next t → t.toChip.stagingOk

/-- With the stores in their one form: a chunk of FW_DATA taken up from the head of its world's queue, of at most 1,024 bytes, inside the
announced length and allowed by the Guard (a chunk into SRAM clears the errors of the words it covers), is stored from its offset on in
SRAM before an image has booted, and from FW_STAGE_BASE plus its offset in DRAM after it; every byte of it then reads as it was sent, and
every byte outside it, and of the other store, as before. A permitted memory write by a debugger to an address of SRAM or of DRAM the
Guard admits stores the four bytes of the word from that offset on, little end first, and every other byte of both stores reads as before.
No such command changes a register of Keeper (R332, R336, R349, R365; the stores are byte maps of the model, log entry 7). -/
def Obligations.MemoryWrites : Prop :=
  (∀ (s : State) (w : World) (q : DReqQ) (n : Nat), let c := s.toChip
    let off := leNat (q.body.take 4)
    let d := q.body.drop 4
    let base := if c.kpr.booted = true then c.ob FW_STAGE_BASE + off else off
    c.nextReq w = some q → q.cmd = 0x21 → 5 ≤ q.body.length → d.length ≤ 1024 → c.kpr.imgLen = some n → off + d.length ≤ n → c.memOk →
    (c.fwAccess (if c.kpr.booted = true then .directory else .keeper) true base d.length).2 = true →
    ∃ t : State, exec (.fwData w false) s = .next t ∧ t.toChip.memOk
      ∧ t.kpr.regs = c.kpr.regs ∧ t.kpr.pc = c.kpr.pc
      ∧ (∀ a, base ≤ a → a < base + d.length →
          readCells (if c.kpr.booted = true then t.kpr.dram else t.kpr.sram) a 1 = [d.getD (a - base) 0])
      ∧ (∀ a, a < base ∨ base + d.length ≤ a →
          readCells t.kpr.sram a 1 = readCells c.kpr.sram a 1 ∧ readCells t.kpr.dram a 1 = readCells c.kpr.dram a 1)
      ∧ (c.kpr.booted = true → t.kpr.sram = c.kpr.sram) ∧ (c.kpr.booted = false → t.kpr.dram = c.kpr.dram))
  ∧ (∀ (s : State) (a b : Nat) (v : BitVec 32), let c := s.toChip
    let op := TapOp.writeMem a v
    c.pm.ir = 2 → c.kpr.on = true → (4 ≤ tapInst op ∨ bit c.pm.sib (tapInst op) = true) → c.tapAllowed op = true → c.memOk →
    (c.kaddr c.kpr.world true a = some (.sram b) ∨ c.kaddr c.kpr.world true a = some (.dram b)) →
    ∃ t : State, exec (.tapInstrumentOperation op) s = .next t ∧ t.toChip.memOk
      ∧ t.kpr.regs = c.kpr.regs ∧ t.kpr.pc = c.kpr.pc
      ∧ (∀ x, (readCells t.kpr.sram x 1 = if c.kaddr c.kpr.world true a = some (.sram b) ∧ b ≤ x ∧ x < b + 4 then [BitVec.ofNat 8 (v.toNat / 2 ^ (8 * (x - b)))] else readCells c.kpr.sram x 1)
        ∧ (readCells t.kpr.dram x 1 = if c.kaddr c.kpr.world true a = some (.dram b) ∧ b ≤ x ∧ x < b + 4 then [BitVec.ofNat 8 (v.toNat / 2 ^ (8 * (x - b)))] else readCells c.kpr.dram x 1)))
end

