-- ==== Sys2Proof/Laws/Lift.lean ====
section
/-! SUPPORT. Sys2Proof/Laws/Lift.lean: what the operation of a unit does to the machine, said once for each kind of unit. -/
namespace Sys2Proof.Machine

/-- Where no word is in error, no reader's outcome comes before an operation. -/
theorem reads_clean (c : Chip) (g : Chip → Chip) (h : c.eng.errs.isEmpty = true) : c.reads g = g c := by
  simp [Chip.reads, Eng.readWords, List.isEmpty_iff.1 h]

theorem works_live {c : Chip} (h : c.works = true) : c.live = true := (Bool.and_eq_true _ _ ▸ h : _ ∧ _).1

theorem works_clean {c : Chip} (h : c.works = true) : c.eng.errs.isEmpty = true := (Bool.and_eq_true _ _ ▸ h : _ ∧ _).2

theorem coreWorks_on {c : Chip} (h : c.coreWorks = true) : c.coreOn = true := (Bool.and_eq_true _ _ ▸ h : _ ∧ _).1

theorem coreWorks_clean {c : Chip} (h : c.coreWorks = true) : c.eng.errs.isEmpty = true := (Bool.and_eq_true _ _ ▸ h : _ ∧ _).2

/-- While the block serves, an operation of the coherence side has its effect, after the outcomes of the words in error that it reads. -/
theorem engine_live (s : State) (g : Eng → Eng) (h : s.toChip.live = true) : s.engine g = .next (s.effect (s.toChip.reads fun c => c.e g)) := by
  simp only [State.engine, State.chip, Chip.runE, h, if_true, Chip.run, State.effect]

/-- While the block serves and no word is in error, an operation of the coherence side has its effect. -/
theorem engine_works (s : State) (g : Eng → Eng) (h : s.toChip.works = true) : s.engine g = .next (s.eff (g s.eng)) := by
  rw [engine_live _ _ (works_live h), reads_clean _ _ (works_clean h)]; rfl

/-- While the block does not serve, nothing happens on the coherence side. -/
theorem engine_off (s : State) (g : Eng → Eng) (h : s.toChip.live = false) : s.engine g = .next s := by
  simp [State.engine, State.chip, Chip.runE, h]

/-- While the block serves and no word is in error, an operation of the fabric side has its effect. -/
theorem fabric_works (s : State) (g : Fab → Fab) (h : s.toChip.works = true) : s.fabric g = .next (s.effFab (g s.toChip.fab)) := by
  simp only [State.fabric, State.chip, Chip.runF, works_live h, if_true, Chip.run, reads_clean _ _ (works_clean h), State.effFab, State.effect]

/-- While the block does not serve, nothing happens on the fabric side. -/
theorem fabric_off (s : State) (g : Fab → Fab) (h : s.toChip.live = false) : s.fabric g = .next s := by
  simp [State.fabric, State.chip, Chip.runF, h]

/-- While the block serves and no word is in error, an operation of the link has its effect, with all it indicates. -/
theorem link_works (s : State) (g : Lnk → Lnk) (h : s.toChip.works = true) : s.link g = .next (s.effLink (g s.lnk)) := by
  simp only [State.link, State.chip, Chip.runL, works_live h, if_true, Chip.run, reads_clean _ _ (works_clean h), State.effLink, State.effFab, State.effect, Fab.link, State.lnk, Chip.fab]

/-- While the block does not serve, nothing happens on the link. -/
theorem link_off (s : State) (g : Lnk → Lnk) (h : s.toChip.live = false) : s.link g = .next s := by
  simp [State.link, State.chip, Chip.runL, h]

/-- Operations of the coherence side that agree on its state have one effect on the fabric side. -/
theorem fab_congr (s : State) (f : Fab) (g g' : Eng → Eng) (h : g f.eng = g' f.eng) :
    (Host.Outcome.next (s.effFab (f.e g)) : Host.Outcome State Fault Refusal) = .next (s.effFab (f.e g')) := by
  simp only [Fab.e, h]

/-- A new hierarchy message has its own effect, once its beats have been taken. -/
theorem hin_new (f : Fab) (h : Hdr) (typ : Nat) (act : Fab → Fab) (hn : f.isNew h = true) : f.hin h typ act = act (f.arrived h) := by
  simp only [Fab.isNew, Bool.and_eq_true, Bool.or_eq_true, Bool.not_eq_true', decide_eq_true_eq, Option.isNone_iff_eq_none] at hn
  obtain ⟨⟨⟨⟨h0, hw⟩, h1⟩, h2, h3⟩, h4⟩ := hn
  have hr : ¬(h.xport ≠ linkPort ∧ (!f.eng.rdy h.xport 3) = true) := by
    rintro ⟨a, b⟩; rcases h0 with h0 | h0
    · exact a h0
    · simp [h0] at b
  unfold Fab.hin
  rw [if_neg hr]
  simp [h1, hw, h2, h3, h4]

/-- While CORE has its power and no word is in error, an operation of a unit in it has its effect. -/
theorem core_works (s : State) (g : Chip → Chip) (h : s.toChip.coreWorks = true) : s.core g = .next (s.effect (g s.toChip)) := by
  simp only [State.core, State.chip, Chip.runC, coreWorks_on h, if_true, Chip.run, reads_clean _ _ (coreWorks_clean h), State.effect]

/-- While CORE has no power, nothing happens in it. -/
theorem core_off (s : State) (g : Chip → Chip) (h : s.toChip.coreOn = false) : s.core g = .next s := by
  simp [State.core, State.chip, Chip.runC, h]

/-- Every command of the coherence side is an operation of it. -/
theorem exec_coherence (i : Instr) (h : isCoherence i = true) : ∃ g : Eng → Eng, ∀ s : State, exec i s = s.engine g := by
  cases i <;> first | (simp [isCoherence] at h; done) | exact ⟨_, fun _ => rfl⟩

/-- Every command of the Mirror Engine and the Hierarchy Agent is an operation of the fabric side. -/
theorem exec_fabric (i : Instr) (h : isFabric i = true) : ∃ g : Fab → Fab, ∀ s : State, exec i s = s.fabric g := by
  cases i <;> first | (simp [isFabric] at h; done) | exact ⟨_, fun _ => rfl⟩

/-- Every command of the Draix link is an operation of the link. -/
theorem exec_link (i : Instr) (h : isLink i = true) : ∃ g : Lnk → Lnk, ∀ s : State, exec i s = s.link g := by
  cases i <;> first | (simp [isLink] at h; done) | exact ⟨_, fun _ => rfl⟩

/-- A unit outside CORE acts on its block directly, and nothing follows. -/
theorem chip_next (s : State) (g : Chip → Chip) : s.chip g = .next (s.block (g s.toChip)) := rfl

end Sys2Proof.Machine
end

