-- ==== Sys2Proof/Laws/Commit.lean ====
section
/-! SUPPORT. Sys2Proof/Laws/Commit.lean: what a commit of its own row does, said once (R358, log entry 18). -/
namespace Sys2Proof.Machine
open Ob

/-- The checks of a commit do not read the commit numbers. -/
theorem firstBad_setNum (c : Chip) (w v : World) (n : Nat) (ws : List OWr) : (c.setNum v n).firstBad w ws = c.firstBad w ws := by
  cases v <;> rfl

/-- A commit that passes every check takes effect, and what follows follows. -/
theorem commit_accepted (s : State) (w : World) (ws : List OWr) (h : s.toChip.accepts w ws = true) :
    s.commit w ws = .next (s.effect ((s.toChip.passed w).applyCmt w ws)) := by
  simp only [Chip.accepts, Bool.and_eq_true, Option.isNone_iff_eq_none] at h
  obtain ⟨⟨⟨⟨hc, he⟩, hk⟩, hs⟩, hb⟩ := h
  have hb' : (s.toChip.setNum w (nextNum (s.toChip.dic.num w))).firstBad w ws = none := by rw [firstBad_setNum, hb]
  simp only [State.commit, State.core, State.chip, Chip.runC, hc, hk, if_true, Chip.run, reads_clean _ _ he, Chip.solo, hs, Chip.doCommit, soloCmt, hb', State.effect, Chip.passed]

/-- A commit of one value. -/
theorem applyCmt_value (c : Chip) (w : World) (o : OWr) (h : isWO o = false) : c.applyCmt w [o] = (c.applyWr o).voteCheck := by
  simp [Chip.applyCmt, h]

/-- A commit of one command. -/
theorem applyCmt_command (c : Chip) (w : World) (o : OWr) (h : isWO o = true) : c.applyCmt w [o] = (c.startWr w o).voteCheck := by
  simp [Chip.applyCmt, h]

/-- Whether a write is a command does not depend on its value. -/
theorem isWO_val (i e v : Nat) : isWO ⟨i, e, v⟩ = isWO ⟨i, e, 0⟩ := rfl

end Sys2Proof.Machine
end

