-- ==== Sys2Proof/Laws/Dict.lean ====
section
/-! SUPPORT. Sys2Proof/Laws/Dict.lean: the staging areas and the access ports of the two worlds, what staging does to an area
(R357, R362), and firmware's accesses past the Guard (R82). -/
namespace Sys2Proof.Machine

/-- A port's change leaves every area as it is. -/
@[simp] theorem area_setOap (d : Dic) (w v : World) (p : Oap) : (d.setOap w p).area v = d.area v := by cases w <;> cases v <;> rfl

/-- An area's change leaves every port as it is. -/
@[simp] theorem oap_setArea (d : Dic) (w v : World) (l : List OWr) : (d.setArea w l).oap v = d.oap v := by cases w <;> cases v <;> rfl

/-- A world's port reads as it was set. -/
@[simp] theorem oap_setOap_same (d : Dic) (w : World) (p : Oap) : (d.setOap w p).oap w = p := by cases w <;> rfl

/-- The other world's port reads as before. -/
theorem oap_setOap_ne (d : Dic) (w v : World) (p : Oap) (h : v ≠ w) : (d.setOap w p).oap v = d.oap v := by
  cases w <;> cases v <;> first | exact absurd rfl h | rfl

/-- A world's area reads as it was set. -/
@[simp] theorem area_setArea_same (d : Dic) (w : World) (l : List OWr) : (d.setArea w l).area w = l := by cases w <;> rfl

/-- The other world's area reads as before. -/
theorem area_setArea_ne (d : Dic) (w v : World) (l : List OWr) (h : v ≠ w) : (d.setArea w l).area v = d.area v := by
  cases w <;> cases v <;> first | exact absurd rfl h | rfl

/-- Two writes are of the same object and element. -/
theorem same_iff (a b : OWr) : a.same b = true ↔ a.idx = b.idx ∧ a.el = b.el := by simp [OWr.same]

/-- The tail of an ascending area is ascending. -/
theorem ascending_tail {x : OWr} {t : List OWr} (h : ascending (x :: t) = true) : ascending t = true := by
  cases t with
  | nil => rfl
  | cons y t => simp only [ascending, Bool.and_eq_true] at h; exact h.2

/-- The first write of an ascending area lies below every other. -/
theorem ascending_head {x : OWr} {t : List OWr} (h : ascending (x :: t) = true) : ∀ y ∈ t, x.idx < y.idx ∨ (x.idx = y.idx ∧ x.el < y.el) := by
  induction t generalizing x with
  | nil => simp
  | cons y t ih =>
    intro z hz
    have h' := h
    simp only [ascending, Bool.and_eq_true, Bool.or_eq_true, decide_eq_true_eq, beq_iff_eq] at h
    rcases List.mem_cons.1 hz with rfl | hz
    · exact h.1
    · have := ih (ascending_tail h') z hz; omega

/-- A write below every other goes in front. -/
theorem ascending_cons {x : OWr} {l : List OWr} (h : ascending l = true) (hx : ∀ y ∈ l, x.idx < y.idx ∨ (x.idx = y.idx ∧ x.el < y.el)) :
    ascending (x :: l) = true := by
  cases l with
  | nil => rfl
  | cons y t =>
    simp only [ascending, Bool.and_eq_true, Bool.or_eq_true, decide_eq_true_eq, beq_iff_eq]
    exact ⟨hx y (List.mem_cons_self ..), h⟩

/-- A write put into an area is there, with what was there before. -/
theorem mem_putWr {o y : OWr} {l : List OWr} (h : y ∈ putWr o l) : y = o ∨ y ∈ l := by
  induction l with
  | nil => exact .inl (by simpa [putWr] using h)
  | cons a t ih =>
    simp only [putWr] at h
    split at h
    · exact List.mem_cons.1 h
    · split at h
      · rcases List.mem_cons.1 h with h | h
        · exact .inl h
        · exact .inr (List.mem_cons_of_mem _ h)
      · rcases List.mem_cons.1 h with h | h
        · exact .inr (h ▸ List.mem_cons_self ..)
        · rcases ih h with h | h
          · exact .inl h
          · exact .inr (List.mem_cons_of_mem _ h)

/-- Staging keeps the order of an area (R357). -/
theorem ascending_putWr (o : OWr) (l : List OWr) (h : ascending l = true) : ascending (putWr o l) = true := by
  induction l with
  | nil => rfl
  | cons a t ih =>
    simp only [putWr]
    split
    · rename_i hlt
      refine ascending_cons h ?_
      intro y hy
      rcases List.mem_cons.1 hy with rfl | hy
      · exact hlt
      · have := ascending_head h y hy; omega
    · split
      · rename_i _ hs
        rw [same_iff] at hs
        refine ascending_cons (ascending_tail h) ?_
        intro y hy; have := ascending_head h y hy; omega
      · rename_i hlt hs
        rw [same_iff] at hs
        refine ascending_cons (ih (ascending_tail h)) ?_
        intro y hy
        rcases mem_putWr hy with rfl | hy
        · omega
        · exact ascending_head h y hy

/-- A write of a new object and element makes an area longer by one, one of a staged object and element by none. -/
theorem length_putWr (o : OWr) (l : List OWr) (h : ascending l = true) :
    (putWr o l).length = if (l.any fun a => o.same a) = true then l.length else l.length + 1 := by
  induction l with
  | nil => simp [putWr]
  | cons a t ih =>
    simp only [putWr]
    split
    · rename_i hlt
      rw [if_neg]
      · simp
      · simp only [List.any_eq_true, same_iff]
        rintro ⟨b, hb, h1⟩
        rcases List.mem_cons.1 hb with rfl | hb
        · omega
        · have := ascending_head h b hb; omega
    · split
      · rename_i _ hs; rw [if_pos (by simp [hs])]; simp
      · rename_i _ hs
        have hs' : o.same a = false := by simpa using hs
        simp only [List.length_cons, ih (ascending_tail h), List.any_cons, hs', Bool.false_or]
        split <;> rfl

/-- Staging keeps an area with room in form (R357). -/
theorem areaOk_putWr (o : OWr) (l : List OWr) (h : areaOk l = true) (hf : areaFull o l = false) : areaOk (putWr o l) = true := by
  simp only [areaOk, Bool.and_eq_true, decide_eq_true_eq] at h ⊢
  refine ⟨?_, ascending_putWr o l h.2⟩
  rw [length_putWr o l h.2]
  split
  · exact h.1
  · rename_i hn
    simp only [areaFull, Bool.and_eq_false_iff, decide_eq_false_iff_not, Bool.not_eq_false'] at hf
    rcases hf with hf | hf
    · exact Nat.not_le.1 hf
    · exact absurd hf hn

/-- A write that clears bits changes objects alone (R358). -/
theorem w1c_eng (c : Chip) (w : World) (o : OWr) : ∃ e, (c.w1c w o).1 = { c with eng := e } := by
  have hs : ∀ i el v, c.set i el v = { c with eng := c.eng.set i el v } := fun _ _ _ => rfl
  unfold Chip.w1c
  generalize maskOff (c.eng.obj o.idx o.el) = f
  split
  · split
    · exact ⟨c.eng, rfl⟩
    · generalize List.foldl _ _ _ = m
      exact ⟨_, hs _ _ _⟩
  · exact ⟨_, hs _ _ _⟩

/-- A stage leaves the machine as it is, changes objects, starts a commit, or changes its world's area (R357, R392). -/
theorem stage_form (c : Chip) (w : World) (o : OWr) (len : Nat) :
    (c.stage w o len).1 = c ∨ (∃ e, (c.stage w o len).1 = { c with eng := e }) ∨ (c.stage w o len).1 = c.commit w
      ∨ ∃ l, (c.stage w o len).1 = { c with dic := c.dic.setArea w l } := by
  have hw := w1c_eng c w o
  unfold Chip.stage
  generalize c.eng.checkStatus w o len = st
  generalize c.w1c w o = r at hw ⊢
  dsimp only
  split
  · exact .inl rfl
  · split
    · exact .inr (.inl hw)
    · split
      · split
        · exact .inr (.inr (.inl rfl))
        · exact .inl rfl
      · split
        · dsimp only; split
          · exact .inr (.inr (.inr ⟨_, rfl⟩))
          · exact .inl rfl
        · generalize areaFull o _ = b; generalize putWr o _ = l
          cases b
          · exact .inr (.inr (.inr ⟨_, rfl⟩))
          · exact .inl rfl

/-- A read of an element changes objects alone (R355). -/
theorem read_form (c : Chip) (idx el : Nat) : ∃ e, (c.read idx el).2.2 = { c with eng := e } := by
  have hs : ∀ i el v, c.set i el v = { c with eng := c.eng.set i el v } := fun _ _ _ => rfl
  unfold Chip.read
  generalize c.value idx el = v
  split
  · exact ⟨_, rfl⟩
  · split
    · exact ⟨_, rfl⟩
    · split
      · exact ⟨_, rfl⟩
      · dsimp only
        split
        · exact ⟨_, hs _ _ _⟩
        · exact ⟨_, rfl⟩

/-- A port's read changes objects and the port alone (R362). -/
theorem oapRead_form (c : Chip) (w : World) (idx el len : Nat) :
    ∃ e p, c.oapRead w idx el len = { c with eng := e, dic := c.dic.setOap w p } := by
  obtain ⟨e, h⟩ := read_form c idx el
  unfold Chip.oapRead
  generalize c.read idx el = r at h ⊢
  obtain ⟨a, b, d⟩ := r
  dsimp only at h
  subst h
  exact ⟨e, _, rfl⟩

/-- A port's stage is a stage and the port's answer (R362, R392). -/
theorem oapStage_form (c : Chip) (w : World) (idx el len : Nat) (data : BitVec 512) :
    ∃ o p, c.oapStage w idx el len data =
      { (c.stage w o len).1 with dic := (c.stage w o len).1.dic.setOap w p } := by
  unfold Chip.oapStage
  generalize ({ idx := idx, el := el, val := data.toNat % 2 ^ (8 * len) } : OWr) = o
  generalize hr : c.stage w o len = r
  exact ⟨o, _, by rw [hr]⟩

/-- A firmware access that ends well changes nothing but the error state of the SRAM words it covers (R81, R82, R304). -/
theorem fwAccess_ok (c : Chip) (p : GPath) (w : Bool) (a n : Nat) (h : (c.fwAccess p w a n).2 = true) :
    (c.fwAccess p w a n).1 = { c with eng := (c.fwAccess p w a n).1.eng } := by
  revert h; unfold Chip.fwAccess; split
  · intro; rfl
  · split
    · split
      · split
        · intro; rfl
        · intro h; exact absurd h (by simp)
      · intro; rfl
    · intro h; exact absurd h (by simp)

/-- A firmware access of the DRAM that ends well changes nothing (R81, R82). -/
theorem fwAccess_dram (c : Chip) (w : Bool) (a n : Nat) (h : (c.fwAccess .directory w a n).2 = true) :
    (c.fwAccess .directory w a n).1 = c := by
  revert h; unfold Chip.fwAccess; split
  · intro; rfl
  · split
    · rw [if_neg (by decide)]; intro; rfl
    · intro h; exact absurd h (by simp)

/-- Firmware accesses that all end well change nothing but the error state of the SRAM words they cover (R81, R82, R304). -/
theorem fwAccesses_ok (c : Chip) (l : List (GPath × Bool × Nat × Nat)) (h : (c.fwAccesses l).2 = true) :
    (c.fwAccesses l).1 = { c with eng := (c.fwAccesses l).1.eng } := by
  induction l generalizing c with
  | nil => rfl
  | cons x t ih =>
    obtain ⟨p, w, a, n⟩ := x
    have hk := fwAccess_ok c p w a n
    unfold Chip.fwAccesses at h ⊢
    generalize he : c.fwAccess p w a n = r at *
    obtain ⟨c1, b⟩ := r
    cases b
    · simp at h
    · have h1 := hk rfl
      have h2 := ih _ h
      simp only at h1 h2 ⊢
      rw [h2, h1]

end Sys2Proof.Machine
end

