-- ==== Sys2Proof/Laws/Memory.lean ====
section
/-! SUPPORT. Sys2Proof/Laws/Memory.lean: the stores of bytes keep their one form, and what a write of bytes reads as (log entry 7). -/
namespace Sys2Proof.Machine

/-- A cell below which nothing is listed goes in front. -/
theorem wf_cons (x : Host.Cell) (l : List Host.Cell) (h : Memory.wf l = true) (hx : x.2 ≠ 0) (hl : ∀ y ∈ l, x.1 < y.1) : Memory.wf (x :: l) = true := by
  cases l with
  | nil => simpa only [Memory.wf, bne_iff_ne] using hx
  | cons y t =>
    simp only [Memory.wf, Bool.and_eq_true, bne_iff_ne, decide_eq_true_eq]
    exact ⟨⟨hx, hl y (List.mem_cons_self ..)⟩, h⟩

/-- The cells after the first are in form. -/
theorem wf_tail {x : Host.Cell} {l : List Host.Cell} (h : Memory.wf (x :: l) = true) : Memory.wf l = true := by
  cases l with
  | nil => rfl
  | cons y t => simp only [Memory.wf, Bool.and_eq_true] at h; exact h.2

/-- The first cell holds no 0. -/
theorem wf_ne {x : Host.Cell} {l : List Host.Cell} (h : Memory.wf (x :: l) = true) : x.2 ≠ 0 := by
  cases l with
  | nil => simpa [Memory.wf] using h
  | cons y t => simp only [Memory.wf, Bool.and_eq_true, bne_iff_ne] at h; exact h.1.1

/-- The first cell lies below every other. -/
theorem wf_head {x : Host.Cell} {l : List Host.Cell} (h : Memory.wf (x :: l) = true) : ∀ y ∈ l, x.1 < y.1 := by
  induction l generalizing x with
  | nil => simp
  | cons y t ih =>
    have h' := h
    simp only [Memory.wf, Bool.and_eq_true, decide_eq_true_eq] at h
    intro z hz
    rcases List.mem_cons.1 hz with rfl | hz
    · exact h.1.2
    · exact Nat.lt_trans h.1.2 (ih (wf_tail h') z hz)

/-- What a write of a byte lists was listed, or is that byte. -/
theorem mem_putCell {a : Nat} {b : BitVec 8} {l : List Host.Cell} {y : Host.Cell} (h : y ∈ putCell a b l) : y.1 = a ∨ y ∈ l := by
  induction l with
  | nil =>
    simp only [putCell] at h
    split at h
    · simp at h
    · simp at h; exact .inl (by rw [h])
  | cons x t ih =>
    simp only [putCell] at h
    split at h
    · split at h
      · exact .inr h
      · rcases List.mem_cons.1 h with rfl | h
        · exact .inl rfl
        · exact .inr h
    · split at h
      · split at h
        · exact .inr (List.mem_cons_of_mem _ h)
        · rcases List.mem_cons.1 h with rfl | h
          · exact .inl rfl
          · exact .inr (List.mem_cons_of_mem _ h)
      · rcases List.mem_cons.1 h with rfl | h
        · exact .inr (List.mem_cons_self ..)
        · rcases ih h with h | h
          · exact .inl h
          · exact .inr (List.mem_cons_of_mem _ h)

/-- A write of a byte keeps the form. -/
theorem putCell_wf (a : Nat) (b : BitVec 8) (l : List Host.Cell) (h : Memory.wf l = true) : Memory.wf (putCell a b l) = true := by
  induction l with
  | nil =>
    simp only [putCell]
    split
    · rfl
    · rename_i hb; simpa only [Memory.wf, bne_iff_ne] using hb
  | cons x t ih =>
    simp only [putCell]
    split
    · rename_i hlt
      split
      · exact h
      · rename_i hb
        refine wf_cons (a, b) (x :: t) h hb ?_
        intro y hy
        rcases List.mem_cons.1 hy with rfl | hy
        · exact hlt
        · exact Nat.lt_trans hlt (wf_head h y hy)
    · split
      · rename_i _ he
        split
        · exact wf_tail h
        · rename_i hb
          refine wf_cons (a, b) t (wf_tail h) hb ?_
          intro y hy; rw [he]; exact wf_head h y hy
      · rename_i hn he
        refine wf_cons x _ (ih (wf_tail h)) (wf_ne h) ?_
        intro y hy
        rcases mem_putCell hy with hy | hy
        · omega
        · exact wf_head h y hy

/-- A write of bytes keeps the form. -/
theorem putBytes_wf (a : Nat) (bs : List (BitVec 8)) (l : List Host.Cell) (h : Memory.wf l = true) : Memory.wf (putBytes a bs l) = true := by
  induction bs generalizing a l with
  | nil => exact h
  | cons b t ih => exact ih (a + 1) _ (putCell_wf a b l h)

/-- Cells taken out leave the form. -/
theorem wf_filter (p : Host.Cell → Bool) (l : List Host.Cell) (h : Memory.wf l = true) : Memory.wf (l.filter p) = true := by
  induction l with
  | nil => rfl
  | cons x t ih =>
    rw [List.filter_cons]
    split
    · refine wf_cons x _ (ih (wf_tail h)) (wf_ne h) ?_
      intro y hy; exact wf_head h y (List.mem_filter.1 hy).1
    · exact ih (wf_tail h)

/-- The byte at an address: the first cell that lists it, or 0. -/
def byteAt : List Host.Cell → Nat → BitVec 8
  | [], _ => 0
  | x :: t, k => if x.1 = k then x.2 else byteAt t k

/-- A read of one byte. -/
theorem readCells_one (m : List Host.Cell) (k : Nat) : readCells m k 1 = [byteAt m k] := by
  show [match m.find? fun x => x.1 == k with | some x => x.2 | none => 0] = _
  congr 1
  induction m with
  | nil => rfl
  | cons x t ih =>
    simp only [List.find?_cons, byteAt]
    by_cases h : x.1 = k
    · simp [h]
    · simp only [beq_eq_false_iff_ne.2 h, h, if_false]; exact ih

/-- An address below every cell is not listed. -/
theorem byteAt_lt {m : List Host.Cell} {k : Nat} (h : ∀ y ∈ m, k < y.1) : byteAt m k = 0 := by
  induction m with
  | nil => rfl
  | cons x t ih =>
    rw [byteAt, if_neg (Nat.ne_of_gt (h x (List.mem_cons_self ..)))]
    exact ih fun y hy => h y (List.mem_cons_of_mem _ hy)

/-- A byte that was written reads as written, every other as before. -/
theorem byteAt_putCell (a k : Nat) (b : BitVec 8) (l : List Host.Cell) (h : Memory.wf l = true) : byteAt (putCell a b l) k = if k = a then b else byteAt l k := by
  induction l with
  | nil =>
    simp only [putCell]
    by_cases hb : b = 0
    · simp only [hb, if_true, byteAt, ite_self]
    · simp only [hb, if_false, byteAt, eq_comm (a := a)]
  | cons x t ih =>
    have iht := ih (wf_tail h)
    simp only [putCell]
    by_cases h1 : a < x.1
    · rw [if_pos h1]
      have hz : byteAt (x :: t) a = 0 := byteAt_lt fun y hy => by
        rcases List.mem_cons.1 hy with rfl | hy
        · exact h1
        · exact Nat.lt_trans h1 (wf_head h y hy)
      by_cases hb : b = 0
      · rw [if_pos hb]
        by_cases hk : k = a
        · rw [if_pos hk, hk, hz, hb]
        · rw [if_neg hk]
      · rw [if_neg hb, byteAt]
        simp only [eq_comm (a := a)]
    · rw [if_neg h1]
      by_cases h2 : a = x.1
      · rw [if_pos h2]
        have hz : byteAt t a = 0 := byteAt_lt fun y hy => by rw [h2]; exact wf_head h y hy
        by_cases hb : b = 0
        · rw [if_pos hb]
          by_cases hk : k = a
          · rw [if_pos hk, hk, hz, hb]
          · rw [if_neg hk, byteAt, if_neg (by rw [← h2]; exact Ne.symm hk)]
        · rw [if_neg hb]
          simp only [byteAt, ← h2, eq_comm (a := a)]
          by_cases hk : k = a <;> simp only [hk, if_true, if_false]
      · rw [if_neg h2, byteAt, byteAt, iht]
        by_cases hx : x.1 = k
        · rw [if_pos hx, if_pos hx, if_neg (by rw [← hx]; exact Ne.symm h2)]
        · rw [if_neg hx, if_neg hx]

/-- A byte that was written reads as written, every other address as before. -/
theorem readCells_putCell (a k : Nat) (b : BitVec 8) (l : List Host.Cell) (h : Memory.wf l = true) :
    readCells (putCell a b l) k 1 = if k = a then [b] else readCells l k 1 := by
  rw [readCells_one, readCells_one, byteAt_putCell a k b l h]; split <;> rfl

/-- Bytes written read as written, every other address as before. -/
theorem readCells_putBytes (a : Nat) (bs : List (BitVec 8)) (l : List Host.Cell) (h : Memory.wf l = true) (k : Nat) :
    readCells (putBytes a bs l) k 1 = if a ≤ k ∧ k < a + bs.length then [bs.getD (k - a) 0] else readCells l k 1 := by
  induction bs generalizing a l with
  | nil => rw [putBytes, if_neg (by simp only [List.length_nil]; omega)]
  | cons b t ih =>
    rw [putBytes, ih (a + 1) _ (putCell_wf a b l h), readCells_putCell a k b l h]
    simp only [List.length_cons]
    by_cases h1 : a + 1 ≤ k ∧ k < a + 1 + t.length
    · rw [if_pos h1, if_pos (by omega)]
      obtain ⟨n, rfl⟩ : ∃ n, k = a + 1 + n := ⟨k - (a + 1), by omega⟩
      have e1 : a + 1 + n - (a + 1) = n := by omega
      have e2 : a + 1 + n - a = n + 1 := by omega
      rw [e1, e2]; rfl
    · rw [if_neg h1]
      by_cases hk : k = a
      · subst hk; rw [if_pos rfl, if_pos (by omega)]; simp
      · rw [if_neg hk, if_neg (by omega)]

end Sys2Proof.Machine
end

