-- ==== Sys2Proof/Laws/Keeps.lean ====
section
/-! SUPPORT. Sys2Proof/Laws/Keeps.lean: what the operations of Keeper, power, the monitor, the dictionary and time do to the stores of
bytes and the staged writes: they keep both in form, and most leave both alone. -/
namespace Sys2Proof.Machine
open Ob

/-- From one block to another, the stores and the staged writes stay in form. -/
def Keeps (c c' : Chip) : Prop := (c.memOk → c'.memOk) ∧ (c.stagingOk → c'.stagingOk)

/-- One after another. -/
theorem Keeps.trans {a b c : Chip} (h : Keeps a b) (g : Keeps b c) : Keeps a c := ⟨g.1 ∘ h.1, g.2 ∘ h.2⟩

/-- A block keeps what it has. -/
theorem Keeps.refl (c : Chip) : Keeps c c := ⟨id, id⟩

/-- A change of nothing but other parts. -/
theorem Keeps.of {c c' : Chip} (h1 : c'.kpr.sram = c.kpr.sram) (h2 : c'.kpr.dram = c.kpr.dram) (h3 : c'.dic.stS = c.dic.stS)
    (h4 : c'.dic.stN = c.dic.stN) (h5 : c'.dic.commits = c.dic.commits) : Keeps c c' := by
  unfold Keeps Chip.memOk Chip.stagingOk; rw [h1, h2, h3, h4, h5]; exact ⟨id, id⟩

/-- A change of the coherence side. -/
theorem keeps_e (c : Chip) (g : Eng → Eng) : Keeps c (c.e g) := Keeps.of rfl rfl rfl rfl rfl

/-- A change of the fabric side. -/
theorem keeps_fab (c : Chip) (f : Fab) : Keeps c (c.setFab f) := Keeps.of rfl rfl rfl rfl rfl

/-- A change of the Power and Clock Controller. -/
theorem keeps_p (c : Chip) (g : Pwr → Pwr) : Keeps c (c.p g) := Keeps.of rfl rfl rfl rfl rfl

/-- A change of the monitor. -/
theorem keeps_q (c : Chip) (g : Pm → Pm) : Keeps c (c.q g) := Keeps.of rfl rfl rfl rfl rfl

/-- An object set. -/
theorem keeps_set (c : Chip) (i e v : Nat) : Keeps c (c.set i e v) := keeps_e _ _

/-- A change of Keeper that leaves its stores alone. -/
theorem keeps_k (c : Chip) (g : Kpr → Kpr) (h1 : (g c.kpr).sram = c.kpr.sram) (h2 : (g c.kpr).dram = c.kpr.dram) : Keeps c (c.k g) :=
  Keeps.of h1 h2 rfl rfl rfl

/-- A change of the dictionary's paths that leaves staging alone. -/
theorem keeps_dc (c : Chip) (g : Dic → Dic) (h1 : (g c.dic).stS = c.dic.stS) (h2 : (g c.dic).stN = c.dic.stN) (h3 : (g c.dic).commits = c.dic.commits) :
    Keeps c (c.dc g) := Keeps.of rfl rfl h1 h2 h3

/-- A choice. -/
theorem Keeps.ite {c a b : Chip} {p : Prop} [Decidable p] (h1 : p → Keeps c a) (h2 : ¬p → Keeps c b) : Keeps c (if p then a else b) := by
  split
  · exact h1 ‹_›
  · exact h2 ‹_›

/-- An operation that also answers whether it was let through. -/
theorem Keeps.pair {c c' : Chip} {b : Bool} {x : Chip × Bool} (he : x = (c', b)) (h : Keeps c x.1) : Keeps c c' := by rw [he] at h; exact h

/-- A run over a list. -/
theorem keeps_fold {α : Type} (f : Chip → α → Chip) (h : ∀ c a, Keeps c (f c a)) (l : List α) (c : Chip) : Keeps c (l.foldl f c) := by
  induction l generalizing c with
  | nil => exact Keeps.refl c
  | cons a t ih => exact (h c a).trans (ih _)

/-! ## Keeper -/

theorem keeps_haltCheck (c : Chip) : Keeps c c.haltCheck := by
  unfold Chip.haltCheck
  split
  · exact .ite (fun _ => .refl c) fun _ => (keeps_k c _ rfl rfl).trans (keeps_e _ _)
  · exact .ite (fun _ => (keeps_k c _ rfl rfl).trans (keeps_e _ _)) fun _ => .refl c

theorem keeps_debugHalt (c : Chip) : Keeps c c.debugHalt :=
  .ite (fun _ => .refl c) fun _ => (keeps_k c _ rfl rfl).trans (keeps_haltCheck _)

theorem keeps_enterSecure (c : Chip) (pc cause tval : BitVec 32) : Keeps c (c.enterSecure pc cause tval) :=
  (keeps_k c _ rfl rfl).trans (keeps_haltCheck _)

theorem keeps_ecall (c : Chip) (pc : BitVec 32) : Keeps c (c.ecall pc) := .ite (fun _ => keeps_enterSecure ..) fun _ => .refl c

theorem keeps_secureIrq (c : Chip) (pc : BitVec 32) : Keeps c (c.secureIrq pc) := .ite (fun _ => keeps_enterSecure ..) fun _ => .refl c

theorem keeps_untakeable (c : Chip) (pc a b d : BitVec 32) : Keeps c (c.untakeable pc a b d) :=
  .ite (fun _ => (keeps_k c _ rfl rfl).trans (keeps_enterSecure ..)) fun _ => .refl c

theorem keeps_mret (c : Chip) (r : MretRegs) : Keeps c (c.mret r) := .ite (fun _ => (keeps_k c _ rfl rfl).trans (keeps_haltCheck _)) fun _ => .refl c

/-- Bytes put into SRAM, whatever else of Keeper changes. -/
theorem keeps_sram (c : Chip) (g : Kpr → Kpr) (a : Nat) (bs : List (BitVec 8)) (m : List Host.Cell) (h1 : (g c.kpr).sram = putBytes a bs m)
    (hm : Memory.wf c.kpr.sram = true → Memory.wf m = true) (h2 : (g c.kpr).dram = c.kpr.dram) : Keeps c (c.k g) := by
  refine ⟨fun h => ⟨?_, ?_⟩, id⟩
  · show Memory.wf (g c.kpr).sram = true
    rw [h1]; exact putBytes_wf _ _ _ (hm h.1)
  · show Memory.wf (g c.kpr).dram = true
    rw [h2]; exact h.2

/-- Bytes put into DRAM. -/
theorem keeps_dram (c : Chip) (g : Kpr → Kpr) (a : Nat) (bs : List (BitVec 8)) (h1 : (g c.kpr).sram = c.kpr.sram)
    (h2 : (g c.kpr).dram = putBytes a bs c.kpr.dram) : Keeps c (c.k g) := by
  refine ⟨fun h => ⟨?_, ?_⟩, id⟩
  · show Memory.wf (g c.kpr).sram = true
    rw [h1]; exact h.1
  · show Memory.wf (g c.kpr).dram = true
    rw [h2]; exact putBytes_wf _ _ _ h.2

theorem keeps_trap (c : Chip) (cause tval : BitVec 32) : Keeps c (c.trap cause tval) := by
  have h : ∀ k : Kpr, k = c.kpr → Keeps c (c.trap cause tval) := by
    intro k hk
    cases hw : c.kpr.world <;> exact .of (by simp [Chip.trap, Chip.k, hw]) (by simp [Chip.trap, Chip.k, hw]) rfl rfl rfl
  exact h _ rfl

theorem keeps_fwAccess (c : Chip) (p : GPath) (wr : Bool) (a n : Nat) : Keeps c (c.fwAccess p wr a n).1 := by
  unfold Chip.fwAccess
  split
  · exact .refl c
  · split
    · split
      · split
        · exact keeps_e _ _
        · exact (keeps_e _ _).trans (keeps_trap ..)
      · exact .refl c
    · exact (keeps_e _ _).trans (keeps_trap ..)

theorem keeps_fwAccesses (l : List (GPath × Bool × Nat × Nat)) (c : Chip) : Keeps c (c.fwAccesses l).1 := by
  induction l generalizing c with
  | nil => exact .refl c
  | cons x t ih =>
    obtain ⟨p, wr, a, n⟩ := x
    have h := keeps_fwAccess c p wr a n
    unfold Chip.fwAccesses
    split <;> rename_i c' he <;> rw [he] at h
    · exact h.trans (ih c')
    · exact h

theorem keeps_bootImage (c : Chip) (img : List (BitVec 8)) : Keeps c (c.bootImage img) := by
  unfold Chip.bootImage
  refine .ite (fun _ => keeps_e _ _) fun _ => ?_
  dsimp only
  generalize he : (c.e fun e => e.set FW_BOOT_STATUS 0 (c.eng.imageStatus img 0)).fwAccess .keeper true (imgOf img).load (imgOf img).len = x
  obtain ⟨c', ok⟩ := x
  refine (Keeps.pair he ((keeps_e _ _).trans (keeps_fwAccess ..))).trans ?_
  exact .ite (fun _ => keeps_e _ _) fun _ => (keeps_e _ _).trans (keeps_sram _ _ _ _ _ rfl id rfl)

theorem keeps_bootKeeper (c : Chip) : Keeps c c.bootKeeper := by
  unfold Chip.bootKeeper
  dsimp only
  generalize hd : (c.k fun k => { k with on := true, booted := false, world := .secure, mmode := true, pc := 0 }) = d
  have h0 : Keeps c d := hd ▸ keeps_k c _ rfl rfl
  refine .ite (fun _ => h0) fun _ => ?_
  generalize hg : d.e _ = g
  have h1 : Keeps c g := h0.trans (hg ▸ keeps_e ..)
  generalize he : g.fwAccess .directory false _ _ = x
  obtain ⟨c', ok⟩ := x
  refine (Keeps.pair he (h1.trans (keeps_fwAccess ..))).trans ?_
  exact .ite (fun _ => keeps_bootImage ..) fun _ => keeps_e _ _

theorem keeps_unitReset (c : Chip) (u : Nat) : Keeps c (c.unitReset u) :=
  .ite (fun _ => keeps_e _ _) fun _ => .ite (fun _ => .of rfl rfl rfl rfl rfl) fun _ => .ite (fun _ => .of rfl rfl rfl rfl rfl) fun _ => keeps_e _ _

theorem keeps_unitStart (c : Chip) (u : Nat) : Keeps c (c.unitStart u) :=
  .ite (fun _ => .refl c) fun _ => ((keeps_k c _ rfl rfl).trans (keeps_unitReset _ _)).trans (keeps_e _ _)

theorem keeps_hoStep (c : Chip) : Keeps c c.hoStep := keeps_fold _ keeps_unitStart _ c

theorem keeps_hoReq (c : Chip) (w : World) (u : Nat) : Keeps c (c.hoReq w u) := (keeps_e _ _).trans (keeps_k _ _ rfl rfl)

theorem keeps_hoRelease (c : Chip) (u : Nat) : Keeps c (c.hoRelease u) := (keeps_k _ _ rfl rfl).trans (keeps_hoStep _)

theorem keeps_hoExpiry (c : Chip) (u : Nat) : Keeps c (c.hoExpiry u) := .ite (fun _ => keeps_hoRelease ..) fun _ => .refl c

theorem keeps_hoDone (c : Chip) (u : Nat) : Keeps c (c.hoDone u) := .ite (fun _ => .refl c) fun _ => keeps_e _ _

theorem keeps_wdtZero (c : Chip) : Keeps c c.wdtZero := .of rfl rfl rfl rfl rfl

theorem keeps_pet (c : Chip) : Keeps c c.pet := .ite (fun _ => keeps_wdtZero c) fun _ => .refl c

theorem keeps_wdtWarn (c : Chip) : Keeps c c.wdtWarn := .ite (fun _ => .refl c) fun _ => .of rfl rfl rfl rfl rfl

theorem keeps_wdtEnable (c : Chip) (v : Nat) : Keeps c (c.wdtEnable v) := .ite (fun _ => .of rfl rfl rfl rfl rfl) fun _ => keeps_e _ _

theorem keeps_fwActivate (c : Chip) : Keeps c c.fwActivate := by
  unfold Chip.fwActivate
  dsimp only
  refine (keeps_fwAccess c .directory false (c.ob FW_STAGE_BASE) (c.ob FW_STAGE_LEN)).trans ?_
  exact .ite (fun _ => keeps_e _ _) fun _ => .ite (fun _ => keeps_e _ _) fun _ => (keeps_e _ _).trans (keeps_k _ _ rfl rfl)

theorem keeps_swapIn (c : Chip) (i : Img) (body : List (BitVec 8)) (ver st ends : Nat) : Keeps c (c.swapIn i body ver st ends) := by
  refine ((keeps_e c _).trans (keeps_sram _ _ i.load body _ rfl (wf_filter _ _) rfl)).trans ⟨id, fun h => ⟨h.1, rfl, h.2.2⟩⟩

theorem keeps_fwQuiesced (c : Chip) (b : Bool) : Keeps c (c.fwQuiesced b) := by
  unfold Chip.fwQuiesced
  split
  · exact .refl c
  · refine .ite (fun _ => .refl c) fun _ => ?_
    dsimp only
    split <;> rename_i c' he <;> refine (Keeps.pair he (keeps_fwAccesses _ c)).trans ?_
    · exact .refl c'
    · exact (keeps_dram c' _ _ _ rfl rfl).trans (keeps_swapIn ..)

theorem keeps_fwReady (c : Chip) : Keeps c c.fwReady := by
  unfold Chip.fwReady
  split
  · exact .refl c
  · exact (keeps_k _ _ rfl rfl).trans (keeps_e _ _)

theorem keeps_fwTimeout (c : Chip) (b : Bool) : Keeps c (c.fwTimeout b) := by
  unfold Chip.fwTimeout
  split
  · exact .refl c
  · refine .ite (fun _ => .refl c) fun _ => ?_
    dsimp only
    split <;> rename_i c' he <;> refine (Keeps.pair he (keeps_fwAccesses _ c)).trans ?_
    · exact .refl c'
    · exact (keeps_swapIn ..).trans (keeps_k _ _ rfl rfl)

/-! ## Power -/

theorem keeps_ask (c : Chip) (k v : Nat) : Keeps c (c.ask k v) := keeps_p _ _

theorem keeps_startRail (c : Chip) (k : Nat) : Keeps c (c.startRail k) := by
  unfold Chip.startRail
  dsimp only
  refine .ite (fun _ => keeps_p _ _) fun _ => ?_
  split
  · exact .refl c
  · exact .ite (fun _ => .refl c) fun _ => .ite (fun _ => keeps_p _ _) fun _ => .ite (fun _ => .refl c) fun _ => keeps_p _ _

theorem keeps_lastWake (c : Chip) (a b : Nat) (l : Bool) : Keeps c (c.lastWake a b l) := keeps_set ..

theorem keeps_startHp (c : Chip) : Keeps c c.startHp := .ite (fun _ => .refl c) fun _ => keeps_p _ _

theorem keeps_losePm (c : Chip) : Keeps c c.losePm := keeps_e _ _

theorem keeps_domRun (c : Chip) (el st ns : Nat) : Keeps c (c.domRun el st ns) := (keeps_set ..).trans (keeps_p _ _)

theorem keeps_beginExit (c : Chip) (el : Nat) : Keeps c (c.beginExit el) :=
  (keeps_domRun c el 5 _).trans (.ite (fun _ => keeps_ask ..) fun _ => .ite (fun _ => keeps_losePm _) fun _ => .refl _)

theorem keeps_voteOne (c : Chip) (el : Nat) : Keeps c (c.voteOne el) :=
  .ite
    (fun _ => (keeps_p c _).trans
      (.ite (fun _ => keeps_set ..) fun _ => .ite (fun _ => keeps_beginExit ..) fun _ => .ite (fun _ => (keeps_beginExit ..).trans (keeps_startHp _)) fun _ => .refl _))
    fun _ => .ite (fun _ => keeps_domRun ..) fun _ => .refl c

theorem keeps_voteCheck (c : Chip) : Keeps c c.voteCheck :=
  .ite (fun _ => keeps_set ..) fun _ => (keeps_set ..).trans (keeps_fold _ keeps_voteOne _ _)

theorem keeps_drxOff (c : Chip) : Keeps c c.drxOff := keeps_fab _ _

theorem keeps_domainEntry (c : Chip) (el : Nat) : Keeps c (c.domainEntry el) :=
  .ite (fun _ => .refl c) fun _ => (keeps_set ..).trans
    (.ite (fun _ => .ite (fun _ => (keeps_drxOff _).trans (keeps_ask ..)) fun _ => keeps_drxOff _) fun _ => .refl _)

theorem keeps_domainExit (c : Chip) (el : Nat) : Keeps c (c.domainExit el) :=
  .ite (fun _ => .refl c) fun _ => ((keeps_set ..).trans (keeps_lastWake ..)).trans
    ((Keeps.ite (fun _ => keeps_fab _ _) fun _ => .ite (fun _ => keeps_e _ _) fun _ => .ite (fun _ => keeps_e _ _) fun _ => .refl _).trans (keeps_voteCheck _))

theorem keeps_levelStart (c : Chip) (v : Nat) : Keeps c (c.levelStart v) :=
  .ite (fun _ => .refl c) fun _ => .ite (fun _ => (keeps_p _ _).trans (keeps_ask ..)) fun _ => keeps_p _ _

theorem keeps_levelEnd (c : Chip) : Keeps c c.levelEnd := by
  unfold Chip.levelEnd
  dsimp only
  split
  · exact (keeps_p _ _).trans (keeps_levelStart ..)
  · exact keeps_p _ _

theorem keeps_setLevel (c : Chip) (v : Nat) : Keeps c (c.setLevel v) :=
  (keeps_set c PWR_LEVEL 0 v).trans (.ite (fun _ => keeps_p _ _) fun _ => keeps_levelStart ..)

theorem keeps_levelSwitch (c : Chip) : Keeps c c.levelSwitch := by
  unfold Chip.levelSwitch
  split
  · exact .refl c
  · exact .ite (fun _ => .ite (fun _ => (keeps_set ..).trans (keeps_levelEnd _)) fun _ => .refl c)
      fun _ => .ite (fun _ => .refl c) fun _ => ((keeps_set ..).trans (keeps_p _ _)).trans (keeps_ask ..)

theorem keeps_levelRail (c : Chip) : Keeps c c.levelRail := by
  unfold Chip.levelRail
  split
  · exact .refl c
  · exact .ite (fun _ => .refl c) fun _ => .ite
      (fun _ => .ite (fun _ => .refl c) fun _ => .ite (fun _ => keeps_p _ _) fun _ => keeps_levelEnd c)
      fun _ => .ite (fun _ => keeps_levelEnd c) fun _ => .refl c

theorem keeps_service (c : Chip) : Keeps c c.service := by
  unfold Chip.service
  refine Keeps.trans ?_ (keeps_voteCheck _)
  exact .ite (fun _ => (keeps_p _ _).trans (keeps_e _ _)) fun _ => ((keeps_p _ _).trans (keeps_e _ _)).trans (keeps_lastWake ..)

theorem keeps_coreIsOn (c : Chip) : Keeps c c.coreIsOn := ((keeps_p _ _).trans (keeps_bootKeeper _)).trans (keeps_ask ..)

/-- SRAM and the staged writes are gone, and DRAM stays. -/
theorem keeps_lost {c c' : Chip} (h1 : c'.kpr.sram = []) (h2 : c'.kpr.dram = c.kpr.dram) (h3 : c'.dic.stS = []) (h4 : c'.dic.stN = []) (h5 : c'.dic.commits = []) :
    Keeps c c' := by
  refine ⟨fun h => ⟨by rw [h1]; rfl, by rw [h2]; exact h.2⟩, fun _ => ⟨by rw [h3]; rfl, by rw [h4]; rfl, by rw [h5]; simp⟩⟩

theorem keeps_coreLost (c : Chip) : Keeps c c.coreLost := keeps_lost rfl rfl rfl rfl rfl

theorem keeps_reached (c : Chip) : Keeps c c.reached :=
  ((keeps_p _ _).trans (keeps_set ..)).trans (.ite (fun _ => .refl _) fun _ => keeps_set ..)

theorem keeps_exitStart (c : Chip) (a : Nat) (l : Bool) : Keeps c (c.exitStart a l) :=
  .ite (fun _ => keeps_p _ _) fun _ => (((keeps_lastWake ..).trans (keeps_set ..)).trans (keeps_p _ _)).trans (keeps_startHp _)

theorem keeps_sampler (c : Chip) : Keeps c c.sampler := by
  refine .ite (fun _ => .refl c) fun _ => ?_
  split
  · exact .ite (fun _ => .refl c) fun _ => keeps_exitStart ..
  · split
    · exact keeps_exitStart ..
    · exact .refl c

theorem keeps_clampAll (c : Chip) : Keeps c c.clampAll := by
  unfold Chip.clampAll
  refine Keeps.trans ?_ (keeps_ask ..)
  refine Keeps.trans ?_ (keeps_p _ _)
  refine Keeps.trans ?_ (keeps_set ..)
  exact (keeps_drxOff c).trans (keeps_fold _ (fun c el => .ite (fun _ => .refl c) fun _ => keeps_set ..) _ _)

theorem keeps_abandon (c : Chip) (a : Nat) (l : Bool) : Keeps c (c.abandon a l) := ((keeps_set ..).trans (keeps_p _ _)).trans (keeps_lastWake ..)

theorem keeps_eclipseEnd (c : Chip) : Keeps c c.eclipseEnd := by
  unfold Chip.eclipseEnd
  refine Keeps.trans ?_ (keeps_voteCheck _)
  refine Keeps.trans ?_ (keeps_fab _ _)
  refine Keeps.trans ?_ (keeps_e _ _)
  refine Keeps.trans ?_ (keeps_set ..)
  refine Keeps.trans ?_ (keeps_set ..)
  refine Keeps.trans ?_ (keeps_fold _ (fun c el => .ite (fun _ => Keeps.trans (.ite (fun _ => keeps_losePm c) fun _ => .refl c) (keeps_set ..)) fun _ => .refl c) _ _)
  exact (keeps_p c _).trans (keeps_fold _ (fun c el => keeps_set ..) _ _)

theorem keeps_quiesced (c : Chip) : Keeps c c.quiesced := .ite (fun _ => .refl c) fun _ => (keeps_e _ _).trans (keeps_p _ _)

theorem keeps_powStep (c : Chip) : Keeps c c.powStep := by
  refine .ite (fun _ => .refl c) fun _ => ?_
  refine (keeps_fold (fun c k => c.startRail k) keeps_startRail (List.range 4) c).trans ?_
  generalize (List.range 4).foldl (fun c k => c.startRail k) c = c
  dsimp only
  split
  · exact .ite (fun _ => keeps_coreIsOn c) fun _ => .refl c
  · exact .ite (fun _ => (keeps_p _ _).trans (keeps_ask ..)) fun _ => .refl c
  · exact .ite (fun _ => keeps_service c) fun _ => .refl c
  · exact keeps_levelRail c
  · exact .ite (fun _ => (keeps_p _ _).trans (keeps_ask ..)) fun _ => .refl c
  · exact .ite (fun _ => .refl c) fun _ => .ite (fun _ => keeps_reached c) fun _ => ((keeps_p _ _).trans (keeps_ask ..)).trans (keeps_ask ..)
  · exact .ite (fun _ => ((keeps_coreLost c).trans (keeps_p _ _)).trans (keeps_ask ..)) fun _ => .refl c
  · exact .ite (fun _ => keeps_reached c) fun _ => .refl c
  · exact keeps_sampler c
  · exact .ite (fun _ => .refl c) fun _ => .ite (fun _ => (keeps_p _ _).trans (keeps_ask ..)) fun _ => (keeps_p _ _).trans (keeps_ask ..)
  · exact .ite (fun _ => (keeps_p _ _).trans (keeps_coreIsOn _)) fun _ => .refl c
  · exact .ite (fun _ => (keeps_p _ _).trans (keeps_ask ..)) fun _ => .refl c
  · exact .ite (fun _ => keeps_eclipseEnd c) fun _ => .refl c
  · exact .refl c

theorem keeps_advance (c : Chip) : Keeps c c.advance := keeps_fold _ (fun c _ => keeps_powStep c) _ c

theorem keeps_railTimeout (c : Chip) (k : Nat) : Keeps c (c.railTimeout k) :=
  .ite (fun _ => .refl c) fun _ => ((keeps_p _ _).trans (keeps_e _ _)).trans (keeps_advance _)

theorem keeps_railAck (c : Chip) (k : Nat) (b : Bool) : Keeps c (c.railAck k b) := by
  unfold Chip.railAck
  dsimp only
  refine .ite (fun _ => .refl c) fun _ => (keeps_railTimeout c k).trans ?_
  generalize c.railTimeout k = c
  refine (show Keeps c (c.setRail k { c.rail k with ack := b }) from keeps_p _ _).trans ?_
  refine Keeps.trans (.ite (fun _ => keeps_p _ _) fun _ => .refl _) (.ite (fun _ => .refl _) fun _ => keeps_advance _)

theorem keeps_clear (c : Chip) (a b d : Bool) : Keeps c (c.clear a b d) := keeps_lost rfl rfl rfl rfl rfl

theorem keeps_startUp (c : Chip) (n : Nat) : Keeps c (c.startUp n) :=
  .ite (fun _ => .refl c) fun _ => (((keeps_set ..).trans (keeps_p _ _)).trans (keeps_ask ..)).trans (keeps_advance _)

theorem keeps_porAssert (c : Chip) : Keeps c c.porAssert := (keeps_clear ..).trans (keeps_p _ _)

theorem keeps_porRelease (c : Chip) : Keeps c c.porRelease := .ite (fun _ => (keeps_p _ _).trans (keeps_startUp ..)) fun _ => .refl c

theorem keeps_warmAssert (c : Chip) : Keeps c c.warmAssert :=
  (Keeps.ite (fun _ => .refl c) fun _ => keeps_clear c true false false).trans (keeps_p _ _)

theorem keeps_warmRelease (c : Chip) : Keeps c c.warmRelease := .ite (fun _ => (keeps_p _ _).trans (keeps_startUp ..)) fun _ => .refl c

theorem keeps_brownOut (c : Chip) : Keeps c c.brownOut := .ite (fun _ => .refl c) fun _ => (keeps_clear ..).trans (keeps_p _ _)

theorem keeps_brownRecovery (c : Chip) : Keeps c c.brownRecovery := .ite (fun _ => (keeps_p _ _).trans (keeps_startUp ..)) fun _ => .refl c

theorem keeps_supplyReset (c : Chip) : Keeps c c.supplyReset := .ite (fun _ => .refl c) fun _ => (keeps_clear ..).trans (keeps_p _ _)

theorem keeps_supplyRecovery (c : Chip) : Keeps c c.supplyRecovery := .ite (fun _ => (keeps_p _ _).trans (keeps_startUp ..)) fun _ => .refl c

theorem keeps_wdtExpiry (c : Chip) : Keeps c c.wdtExpiry := .ite (fun _ => ((keeps_clear ..).trans (keeps_p _ _)).trans (keeps_startUp ..)) fun _ => .refl c

theorem keeps_supplyLoss (c : Chip) : Keeps c c.supplyLoss := keeps_lost rfl rfl rfl rfl rfl

theorem keeps_supplyOn (c : Chip) : Keeps c c.supplyOn := .ite (fun _ => (keeps_e _ _).trans (keeps_p _ _)) fun _ => .refl c

theorem keeps_braceIn (c : Chip) : Keeps c c.braceIn :=
  .ite (fun _ => .refl c) fun _ => .ite (fun _ => keeps_p _ _) fun _ => (keeps_e _ _).trans (keeps_p _ _)

theorem keeps_braceOut (c : Chip) : Keeps c c.braceOut :=
  .ite (fun _ => ((keeps_e _ _).trans (keeps_p _ _)).trans (keeps_advance _)) fun _ => .ite (fun _ => .refl c) fun _ => (keeps_e _ _).trans (keeps_advance _)

theorem keeps_wakeSrc (c : Chip) (n : Nat) : Keeps c (c.wakeSrc n) := by
  unfold Chip.wakeSrc
  dsimp only
  refine .ite (fun _ => .refl c) fun _ => ?_
  generalize hl : (n == 0 || n == 4 || (n == 2 && c.ob PWR_WAKE_TIMER_MODE == 0)) = level
  have h1 : Keeps c (if level = true then c.p fun p => { p with levels := insertNat n p.levels } else c) := .ite (fun _ => keeps_p _ _) fun _ => .refl c
  refine h1.trans ?_
  generalize (if level = true then c.p fun p => { p with levels := insertNat n p.levels } else c) = d
  refine .ite (fun _ => .refl d) fun _ => ?_
  split
  · exact keeps_abandon ..
  · exact Keeps.trans (.ite (fun _ => .refl d) fun _ => keeps_exitStart ..) (keeps_advance _)
  all_goals first | exact .ite (fun _ => .refl d) fun _ => keeps_p _ _ | exact .refl d

theorem keeps_wakeSource (c : Chip) (n : Nat) : Keeps c (c.wakeSource n) := .ite (fun _ => keeps_wakeSrc ..) fun _ => .refl c

theorem keeps_wakeTimer (c : Chip) : Keeps c c.wakeTimer := .ite (fun _ => keeps_wakeSrc ..) fun _ => .refl c

theorem keeps_softWake (c : Chip) : Keeps c c.softWake := by
  unfold Chip.softWake
  split
  · exact keeps_abandon ..
  · exact (keeps_exitStart ..).trans (keeps_advance _)
  all_goals first | exact .refl c | exact .ite (fun _ => .refl c) fun _ => keeps_p _ _

theorem keeps_forceWake (c : Chip) (el : Nat) : Keeps c (c.forceWake el) :=
  .ite (fun _ => .ite (fun _ => keeps_brownOut c) fun _ => keeps_softWake c) fun _ => .ite (fun _ => .refl c) fun _ =>
    .ite (fun _ => (keeps_p _ _).trans (keeps_set ..)) fun _ => .ite (fun _ => .refl c) fun _ => .ite (fun _ => keeps_brownOut c) fun _ =>
      ((keeps_p _ _).trans (keeps_beginExit ..)).trans (keeps_advance _)

theorem keeps_aonMode (c : Chip) (v : Nat) : Keeps c (c.aonMode v) :=
  (keeps_set c PWR_AONREG_MODE 0 v).trans (.ite (fun _ => keeps_startHp _) fun _ => .ite (fun _ => (keeps_set ..).trans (keeps_p _ _)) fun _ =>
    .ite (fun _ => (keeps_set ..).trans (keeps_p _ _)) fun _ => keeps_startHp _)

theorem keeps_hpSettled (c : Chip) : Keeps c c.hpSettled := .ite (fun _ => ((keeps_p _ _).trans (keeps_set ..)).trans (keeps_advance _)) fun _ => .refl c

theorem keeps_sleepStart (c : Chip) (v : Nat) : Keeps c (c.sleepStart v) := by
  unfold Chip.sleepStart
  dsimp only
  split
  · exact ((keeps_set ..).trans (keeps_p _ _)).trans (keeps_abandon ..)
  · exact (keeps_set ..).trans (keeps_p _ _)

theorem keeps_pwrApply (c : Chip) (o : OWr) : Keeps c (c.pwrApply o) :=
  .ite (fun _ => (keeps_setLevel ..).trans (keeps_advance _)) fun _ =>
    .ite (fun _ => .ite (fun _ => (keeps_set ..).trans (keeps_softWake _)) fun _ => (keeps_set ..).trans (keeps_sleepStart ..)) fun _ =>
      .ite (fun _ => (keeps_aonMode ..).trans (keeps_advance _)) fun _ => .ite (fun _ => (keeps_set ..).trans (keeps_p _ _)) fun _ => keeps_set ..

/-! ## The monitor and the TAP -/

theorem keeps_snap (c : Chip) : Keeps c c.snap := (((keeps_set ..).trans (keeps_set ..)).trans (keeps_e _ _)).trans (keeps_q _ _)

theorem keeps_snapCopy (c : Chip) (b : Nat) : Keeps c (c.snapCopy b) := (keeps_e _ _).trans (keeps_q _ _)

theorem keeps_snapDue (c : Chip) : Keeps c c.snapDue := .ite (fun _ => keeps_fold _ keeps_snapCopy _ c) fun _ => .refl c

theorem keeps_snapBroadcast (c : Chip) (b : Nat) : Keeps c (c.snapBroadcast b) :=
  .ite (fun _ => .refl c) fun _ => .ite (fun _ => (keeps_snapCopy ..).trans (keeps_set ..)) fun _ => (keeps_q _ _).trans (keeps_snapDue _)

theorem keeps_ringStart (c : Chip) (r : Ring) (b : Bool) : Keeps c (c.ringStart r b) := .ite (fun _ => .refl c) fun _ => keeps_e _ _

theorem keeps_rings (c : Chip) : Keeps c c.rings := (keeps_ringStart ..).trans (keeps_ringStart ..)

theorem keeps_ringEnd (c : Chip) (r : Ring) (s : DSeq) : Keeps c (c.ringEnd r s) := (keeps_e _ _).trans (keeps_set ..)

theorem keeps_ringPut (c : Chip) (r : Ring) (s : DSeq) (bs : List (BitVec 8)) : Keeps c (c.ringPut r s bs) :=
  .ite (fun _ => .refl c) fun _ => (keeps_dram c _ _ _ rfl rfl).trans (keeps_e _ _)

theorem keeps_ringDone (c : Chip) (b : Bool) : Keeps c (c.ringDone b) := by
  unfold Chip.ringDone
  dsimp only
  split
  · exact .refl c
  · exact (((keeps_ringPut ..).trans (keeps_ringEnd ..)).trans (keeps_q _ _)).trans (keeps_rings _)

theorem keeps_smpArrive (c : Chip) : Keeps c c.smpArrive := by
  unfold Chip.smpArrive
  split
  · exact .refl c
  · exact ((Keeps.ite (fun _ => keeps_e _ _) fun _ => .refl c).trans (keeps_q _ _)).trans (keeps_rings _)

theorem keeps_histArrive (c : Chip) (b : Bool) : Keeps c (c.histArrive b) := by
  unfold Chip.histArrive
  split
  · exact .refl c
  · exact .ite (fun _ => (keeps_q _ _).trans (keeps_q _ _)) fun _ => (keeps_q _ _).trans (keeps_e _ _)

theorem keeps_trcPush (c : Chip) (k : TrcK) : Keeps c (c.trcPush k) := .ite (fun _ => (keeps_e _ _).trans (keeps_q _ _)) fun _ => keeps_q _ _

theorem keeps_trace (c : Chip) (s : TrcSrc) : Keeps c (c.trace s) := by
  refine .ite (fun _ => .refl c) fun _ => ?_
  split
  · exact .ite (fun _ => (keeps_trcPush ..).trans (keeps_rings _)) fun _ => .refl c
  · split
    · exact .refl c
    · exact ((keeps_e _ _).trans (keeps_trcPush ..)).trans (keeps_rings _)
  · exact .ite (fun _ => .refl c) fun _ => ((keeps_trcPush ..).trans (keeps_q _ _)).trans (keeps_rings _)

theorem keeps_pmTake (c : Chip) : Keeps c c.pmTake := by
  refine .ite (fun _ => .refl c) fun _ => ?_
  have h : Keeps c { c with eng := { c.eng with smps := [], hists := [] } } := .of rfl rfl rfl rfl rfl
  exact .ite (fun _ => h) fun _ => h.trans (keeps_q _ _)

/-! ## The dictionary -/

theorem keeps_read (c : Chip) (i e : Nat) : Keeps c (c.read i e).2.2 := by
  unfold Chip.read
  split
  · exact .refl c
  · split
    · exact .refl c
    · split
      · exact .refl c
      · exact .ite (fun _ => keeps_set ..) fun _ => .refl c

/-- A port's change. -/
theorem keeps_setOap (c : Chip) (d : Dic) (w : World) (p : Oap) (h : Keeps c { c with dic := d }) : Keeps c { c with dic := d.setOap w p } := by
  cases w <;> exact h

/-- An area emptied. -/
theorem keeps_emptied (c : Chip) (w : World) : Keeps c { c with dic := c.dic.setArea w [] } := by
  cases w
  · exact ⟨id, fun h => ⟨h.1, rfl, h.2.2⟩⟩
  · exact ⟨id, fun h => ⟨rfl, h.2.1, h.2.2⟩⟩

/-- A write put into an area in form that has room leaves it in form. -/
theorem keeps_put (c : Chip) (w : World) (o : OWr) (h : areaFull o (c.dic.area w) = false) :
    Keeps c { c with dic := c.dic.setArea w (putWr o (c.dic.area w)) } := by
  cases w
  · exact ⟨id, fun g => ⟨g.1, areaOk_putWr o _ g.2.1 h, g.2.2⟩⟩
  · exact ⟨id, fun g => ⟨areaOk_putWr o _ g.1 h, g.2.1, g.2.2⟩⟩

theorem keeps_commit (c : Chip) (w : World) : Keeps c (c.commit w) := by
  cases w
  · exact ⟨id, fun g => ⟨g.1, rfl, fun m hm => by
      rcases List.mem_append.1 hm with hm | hm
      · exact g.2.2 m hm
      · rw [List.mem_singleton.1 hm]; exact g.2.1⟩⟩
  · exact ⟨id, fun g => ⟨rfl, g.2.1, fun m hm => by
      rcases List.mem_append.1 hm with hm | hm
      · exact g.2.2 m hm
      · rw [List.mem_singleton.1 hm]; exact g.1⟩⟩

theorem keeps_w1c (c : Chip) (w : World) (o : OWr) : Keeps c (c.w1c w o).1 := by
  unfold Chip.w1c
  dsimp only
  split
  · split
    · exact .refl c
    · exact keeps_set ..
  · exact keeps_set ..

/-- What a stage does to the block: nothing, a W1C write, a commit, an abort, or one write more in an area with room (R355, R357). -/
theorem stage_cases (c : Chip) (w : World) (o : OWr) (len : Nat) :
    (c.stage w o len).1 = c ∨ (c.stage w o len).1 = (c.w1c w o).1 ∨ (c.stage w o len).1 = c.commit w
      ∨ (c.stage w o len).1 = { c with dic := c.dic.setArea w [] }
      ∨ (areaFull o (c.dic.area w) = false ∧ (c.stage w o len).1 = { c with dic := c.dic.setArea w (putWr o (c.dic.area w)) }) := by
  unfold Chip.stage
  dsimp only
  split
  · exact .inl rfl
  · split
    · exact .inr (.inl rfl)
    · split
      · split
        · exact .inr (.inr (.inl rfl))
        · exact .inl rfl
      · split
        · split
          · exact .inr (.inr (.inr (.inl rfl)))
          · exact .inl rfl
        · split
          · exact .inl rfl
          · rename_i h; exact .inr (.inr (.inr (.inr ⟨by simpa using h, rfl⟩)))

theorem keeps_stage (c : Chip) (w : World) (o : OWr) (len : Nat) : Keeps c (c.stage w o len).1 := by
  rcases stage_cases c w o len with h | h | h | h | ⟨h', h⟩ <;> rw [h]
  · exact .refl c
  · exact keeps_w1c ..
  · exact keeps_commit ..
  · exact keeps_emptied ..
  · exact keeps_put c w o h'

theorem keeps_oapRead (c : Chip) (w : World) (i e l : Nat) : Keeps c (c.oapRead w i e l) := (keeps_read c i e).trans (keeps_setOap _ _ _ _ (.refl _))

theorem keeps_oapStage (c : Chip) (w : World) (i e l : Nat) (d : BitVec 512) : Keeps c (c.oapStage w i e l d) :=
  (keeps_stage c w _ l).trans (keeps_setOap _ _ _ _ (.refl _))

theorem keeps_oapCommit (c : Chip) (w : World) : Keeps c (c.oapCommit w) := (keeps_commit c w).trans (keeps_setOap _ _ _ _ (.refl _))

theorem keeps_oapAbort (c : Chip) (w : World) : Keeps c (c.oapAbort w) := keeps_setOap _ _ _ _ (keeps_emptied c w)

theorem keeps_ctrClear (c : Chip) (m : Nat) : Keeps c (c.ctrClear m) := keeps_e ..

theorem keeps_smpFlush (c : Chip) : Keeps c c.smpFlush := keeps_q ..

theorem keeps_histClear (c : Chip) : Keeps c c.histClear := keeps_q ..

theorem keeps_hoRefuse (c : Chip) (u : Nat) : Keeps c (c.hoRefuse u) := keeps_e ..

theorem keeps_applyWr (c : Chip) (o : OWr) : Keeps c (c.applyWr o) := by
  refine .ite (fun _ => keeps_pwrApply ..) fun _ => .ite (fun _ => keeps_fab ..) fun _ => .ite (fun _ => ?_) fun _ => .ite (fun _ => ?_) fun _ => ?_
  · exact (keeps_set c o.idx o.el o.v).trans (.ite (fun _ => keeps_set ..) fun _ => .refl _)
  · exact (keeps_e c _).trans (keeps_fab ..)
  · exact .ite (fun _ => keeps_wdtEnable ..) fun _ => .ite (fun _ => (keeps_set ..).trans (keeps_wdtZero _)) fun _ =>
      .ite (fun _ => (keeps_set ..).trans (keeps_haltCheck _)) fun _ => keeps_e ..

theorem keeps_startWr (c : Chip) (w : World) (o : OWr) : Keeps c (c.startWr w o) := by
  unfold Chip.startWr
  dsimp only
  repeat' with_reducible first
    | refine Keeps.ite (fun _ => ?_) fun _ => ?_
    | exact .refl c | exact keeps_forceWake .. | exact keeps_snap c | exact keeps_hoReq .. | exact keeps_hoRelease .. | exact keeps_fwActivate c
    | exact keeps_fwReady c | exact keeps_ctrClear .. | exact keeps_smpFlush c | exact keeps_histClear c | exact keeps_hoRefuse .. | exact keeps_e .. | exact keeps_fab ..

theorem keeps_applyCmt (c : Chip) (w : World) (ws : List OWr) : Keeps c (c.applyCmt w ws) := by
  unfold Chip.applyCmt
  refine Keeps.trans ?_ (keeps_voteCheck _)
  exact (keeps_fold _ keeps_applyWr _ c).trans (keeps_fold _ (fun c o => keeps_startWr c w o) _ _)

theorem keeps_setOutcome (c : Chip) (w : World) (n a b d t : Nat) : Keeps c (c.setOutcome w n a b d t) := keeps_set ..

theorem keeps_denyLog (c : Chip) (w : World) (ws : List OWr) : Keeps c (c.denyLog w ws) := by
  refine .ite (fun _ => .refl c) fun _ => ?_
  split
  · exact .refl c
  · exact keeps_e ..

theorem keeps_doCommit (c : Chip) (m : Cmt) (t : Nat) : Keeps c (c.doCommit m t) := by
  have h : Keeps c { c with dic := { c.dic with lastT := some t } } := .of rfl rfl rfl rfl rfl
  unfold Chip.doCommit
  dsimp only
  split
  · refine Keeps.trans ?_ (keeps_setOutcome ..)
    exact .ite (fun _ => h) fun _ => h.trans (keeps_denyLog ..)
  · exact (h.trans (keeps_setOutcome ..)).trans (keeps_applyCmt ..)

theorem keeps_setNum (c : Chip) (w : World) (n : Nat) : Keeps c (c.setNum w n) := by cases w <;> exact .of rfl rfl rfl rfl rfl

theorem keeps_solo (c : Chip) (w : World) (ws : List OWr) : Keeps c (c.solo w ws) :=
  .ite (fun _ => (keeps_setNum ..).trans (keeps_doCommit ..)) fun _ => .refl c

theorem keeps_arrivals (c : Chip) : Keeps c c.arrivals := by
  refine ⟨id, fun g => ⟨g.1, g.2.1, fun m hm => ?_⟩⟩
  obtain ⟨n, hn, rfl⟩ := List.mem_map.1 hm
  have := g.2.2 n hn
  split <;> exact this

theorem keeps_oapEnd (c : Chip) (w : World) : Keeps c (c.oapEnd w) := .ite (fun _ => keeps_setOap _ _ _ _ (.refl c)) fun _ => .refl c

theorem keeps_commitEdge (c : Chip) : Keeps c c.commitEdge := by
  unfold Chip.commitEdge
  split
  · exact .refl c
  · split
    · exact .refl c
    · refine .ite (fun _ => .refl c) fun _ => ?_
      refine Keeps.trans ?_ (keeps_oapEnd ..)
      refine Keeps.trans ?_ (keeps_doCommit ..)
      exact ⟨id, fun g => ⟨g.1, g.2.1, fun m hm => g.2.2 m (List.mem_of_mem_erase hm)⟩⟩

/-! ## Messages -/

theorem keeps_mbLoad (d : Dic) : d.mbLoad.stS = d.stS ∧ d.mbLoad.stN = d.stN ∧ d.mbLoad.commits = d.commits := by
  unfold Dic.mbLoad; split <;> exact ⟨rfl, rfl, rfl⟩

theorem keeps_send (c : Chip) (a : MAddr) (m : List B8) : Keeps c (c.send a m) := by
  obtain ⟨via, eid, tag, owner⟩ := a
  cases via with
  | i3c => exact keeps_dc c _ rfl rfl rfl
  | mailbox k => exact keeps_dc c _ (keeps_mbLoad _).1 (keeps_mbLoad _).2.1 (keeps_mbLoad _).2.2

theorem keeps_respond (c : Chip) (q : DReqQ) (n : Nat) (b : List B8) : Keeps c (c.respond q n b) := keeps_send ..

theorem keeps_finish (c : Chip) (q : DReqQ) (n : Nat) (b : List B8) : Keeps c (c.finish q n b) := (keeps_dc c _ rfl rfl rfl).trans (keeps_respond ..)

theorem keeps_ctlAnswer (c : Chip) (a : MAddr) (i j k : Nat) (d : List B8) : Keeps c (c.ctlAnswer a i j k d) := keeps_send ..

theorem keeps_setEid (c : Chip) (a : MAddr) (i : Nat) (d : List B8) : Keeps c (c.setEid a i d) :=
  .ite (fun _ => keeps_ctlAnswer ..) fun _ => .ite (fun _ => keeps_ctlAnswer ..) fun _ => (keeps_set ..).trans (keeps_ctlAnswer ..)

theorem keeps_unsup (c : Chip) (n : Nat) : Keeps c (c.unsup n) := keeps_e ..

theorem keeps_control (c : Chip) (a : MAddr) (i n : Nat) (d : List B8) : Keeps c (c.control a i n d) := by
  unfold Chip.control
  dsimp only
  repeat' with_reducible first
    | refine Keeps.ite (fun _ => ?_) fun _ => ?_
    | exact keeps_setEid .. | exact keeps_ctlAnswer .. | exact (keeps_unsup ..).trans (keeps_ctlAnswer ..)

theorem keeps_ctl (c : Chip) (q : Ctl) (n : Nat) (d : List B8) : Keeps c (c.ctl q n d) := .ite (fun _ => .refl c) fun _ => keeps_control ..

theorem keeps_sendEvent (c : Chip) (v : Via) (n : Nat) (r : EvRec) : Keeps c (c.sendEvent v n r) := (keeps_send ..).trans (keeps_dc _ _ rfl rfl rfl)

theorem keeps_evSend (c : Chip) : Keeps c c.evSend := by
  unfold Chip.evSend
  split
  · exact .refl c
  · exact (keeps_e ..).trans (keeps_sendEvent ..)

theorem keeps_noticeSend (c : Chip) : Keeps c c.noticeSend := by
  unfold Chip.noticeSend
  split
  · exact .refl c
  · exact (keeps_e ..).trans (keeps_sendEvent ..)

theorem keeps_evPump (c : Chip) : Keeps c c.evPump := by
  unfold Chip.evPump
  dsimp only
  have h : Keeps c (if c.evSends = true ∧ unsentHead c.eng.evq = true then c.evSend else c) := .ite (fun _ => keeps_evSend c) fun _ => .refl c
  refine h.trans ?_
  exact .ite (fun _ => keeps_noticeSend _) fun _ => .refl _

theorem keeps_evRetry (c : Chip) : Keeps c c.evRetry := by
  unfold Chip.evRetry
  split
  · exact .refl c
  · exact .ite (fun _ => .refl c) fun _ => .ite (fun _ => keeps_e ..) fun _ => keeps_evSend c

theorem keeps_noticeRetry (c : Chip) : Keeps c c.noticeRetry := by
  unfold Chip.noticeRetry
  split
  · exact .refl c
  · exact .ite (fun _ => keeps_noticeSend c) fun _ => .refl c

theorem keeps_evAck (c : Chip) (n : Nat) (b : Bool) : Keeps c (c.evAck n b) :=
  .ite (fun _ => keeps_e ..) fun _ => .ite (fun _ => keeps_e ..) fun _ => .refl c

theorem keeps_request (c : Chip) (q : DReqQ) : Keeps c (c.request q) :=
  .ite (fun _ => keeps_respond ..) fun _ => .ite (fun _ => (keeps_dc c _ rfl rfl rfl).trans (keeps_e ..)) fun _ => keeps_dc c _ rfl rfl rfl

theorem keeps_drop (c : Chip) : Keeps c c.drop := keeps_e ..

theorem keeps_message (c : Chip) (a : MAddr) (m : List B8) : Keeps c (c.message a m) :=
  .ite (fun _ => .ite (fun _ => keeps_drop c) fun _ => keeps_control ..) fun _ => .ite (fun _ => (keeps_e ..).trans (keeps_drop _)) fun _ => .ite (fun _ => keeps_drop c) fun _ =>
    .ite (fun _ => .ite (fun _ => keeps_evAck ..) fun _ => keeps_drop c) fun _ => .ite (fun _ => keeps_respond ..) fun _ => keeps_request ..

theorem keeps_assemble (c : Chip) (s : Asm) (p : List B8) (b : Bool) : Keeps c (c.assemble s p b) :=
  .ite (fun _ => keeps_drop c) fun _ => .ite (fun _ => keeps_message ..) fun _ => keeps_dc c _ rfl rfl rfl

theorem keeps_dropIf (c : Chip) (b : Bool) : Keeps c (c.dropIf b) := .ite (fun _ => keeps_drop c) fun _ => .refl c

theorem keeps_firstPacket (c : Chip) (a : MAddr) (b : Bool) (f : Nat) (p : List B8) : Keeps c (c.firstPacket a b f p) :=
  (keeps_dropIf c b).trans (.ite (fun _ => keeps_drop _) fun _ => keeps_assemble ..)

theorem keeps_packet (c : Chip) (v : Via) (p : List B8) : Keeps c (c.packet v p) := by
  unfold Chip.packet
  dsimp only
  refine .ite (fun _ => keeps_drop c) fun _ => ?_
  refine Keeps.trans ((keeps_dc c (fun d => { d with routes := kput (at8 p 2) v d.routes }) rfl rfl rfl).trans (keeps_dc _ (fun d => { d with asms := d.asms.filter fun (s : Asm) => !s.of { via := v, eid := at8 p 2, tag := at8 p 3 % 8, owner := bit (at8 p 3) 3 } }) rfl rfl rfl)) ?_
  split
  · exact keeps_firstPacket ..
  · split
    · exact keeps_drop _
    · exact .ite (fun _ => keeps_assemble ..) fun _ => keeps_drop _

theorem keeps_mailbox (c : Chip) (ws : List (BitVec 32)) : Keeps c (c.mailbox ws) :=
  .ite (fun _ => .refl c) fun _ => .ite (fun _ => keeps_drop c) fun _ => keeps_packet ..

theorem keeps_readEls (c : Chip) (w : World) (i : Nat) (l : List Nat) : Keeps c (c.readEls w i l).1 := by
  induction l generalizing c with
  | nil => exact .refl c
  | cons a t ih =>
    unfold Chip.readEls
    split
    · exact ih c
    · exact (keeps_oapRead ..).trans (ih _)

theorem keeps_mRead (c : Chip) (q : DReqQ) : Keeps c (c.mRead q) :=
  .ite (fun _ => keeps_finish ..) fun _ => .ite (fun _ => keeps_finish ..) fun _ => (keeps_readEls ..).trans (keeps_finish ..)

theorem keeps_mStage (c : Chip) (q : DReqQ) : Keeps c (c.mStage q) := by
  unfold Chip.mStage
  split
  · exact keeps_finish ..
  · exact .ite (fun _ => keeps_finish ..) fun _ => (keeps_oapStage ..).trans (keeps_finish ..)

theorem keeps_mW1c (c : Chip) (q : DReqQ) : Keeps c (c.mW1c q) := by
  unfold Chip.mW1c
  split
  · exact keeps_finish ..
  · split
    · exact keeps_finish ..
    · dsimp only
      repeat' with_reducible first
        | refine Keeps.ite (fun _ => ?_) fun _ => ?_
        | exact keeps_finish .. | exact (keeps_oapStage ..).trans (keeps_finish ..)

theorem keeps_mCommit (c : Chip) (q : DReqQ) : Keeps c (c.mCommit q) := (keeps_oapCommit ..).trans (keeps_dc _ _ rfl rfl rfl)

theorem keeps_mAnswer (c : Chip) : Keeps c c.mAnswer := by
  refine keeps_fold _ (fun c q => ?_) _ c
  split
  · exact .refl c
  · exact .ite (fun _ => keeps_finish ..) fun _ => .refl c

theorem keeps_mAbort (c : Chip) (q : DReqQ) : Keeps c (c.mAbort q) := (keeps_oapAbort ..).trans (keeps_finish ..)

theorem keeps_mFwBegin (c : Chip) (q : DReqQ) : Keeps c (c.mFwBegin q) :=
  .ite (fun _ => keeps_finish ..) fun _ => .ite (fun _ => keeps_finish ..) fun _ => (keeps_k c _ rfl rfl).trans (keeps_finish ..)

theorem keeps_mFwData (c : Chip) (q : DReqQ) : Keeps c (c.mFwData q) := by
  unfold Chip.mFwData
  dsimp only
  refine .ite (fun _ => keeps_finish ..) fun _ => ?_
  split
  · exact keeps_finish ..
  · refine .ite (fun _ => keeps_finish ..) fun _ => ?_
    split <;> rename_i c' he <;> refine (Keeps.pair he (keeps_fwAccess ..)).trans ?_
    · exact keeps_finish ..
    · exact .ite (fun _ => (keeps_dram c' _ _ _ rfl rfl).trans (keeps_finish ..)) fun _ => (keeps_sram c' _ _ _ _ rfl id rfl).trans (keeps_finish ..)

theorem keeps_mFwEnd (c : Chip) (q : DReqQ) : Keeps c (c.mFwEnd q) := by
  unfold Chip.mFwEnd
  split
  · exact keeps_finish ..
  · refine Keeps.trans ?_ (keeps_finish ..)
    exact .ite (fun _ => (keeps_k c _ rfl rfl).trans (keeps_bootImage ..)) fun _ => keeps_k c _ rfl rfl

theorem keeps_serve (c : Chip) (w : World) (b : Bool) (p : Nat → Bool) (act : Chip → DReqQ → Chip) (h : ∀ q, Keeps c (act c q)) : Keeps c (c.serve w b p act) := by
  unfold Chip.serve
  split
  · exact .refl c
  · exact .ite (fun _ => .refl c) fun _ => .ite (fun _ => keeps_finish ..) fun _ => h _

theorem keeps_reqExpiry (c : Chip) : Keeps c c.reqExpiry := by
  unfold Chip.reqExpiry
  split
  · exact .ite (fun _ => keeps_finish ..) fun _ => .refl c
  · exact .refl c

theorem keeps_i3 (c : Chip) (g : I3c → I3c) : Keeps c (c.i3 g) := .ite (fun _ => keeps_dc c _ rfl rfl rfl) fun _ => .refl c

theorem keeps_i3cWrite (c : Chip) (n : Nat) (p : List B8) (b : Bool) : Keeps c (c.i3cWrite n p b) :=
  (keeps_i3 c id).trans (.ite (fun _ => .refl _) fun _ => .ite (fun _ => keeps_drop _) fun _ => keeps_packet ..)

theorem keeps_i3cRead (c : Chip) (n : Nat) : Keeps c (c.i3cRead n) := by
  unfold Chip.i3cRead
  refine (keeps_i3 c id).trans ?_
  refine .ite (fun _ => .refl _) fun _ => ?_
  split
  · exact keeps_i3 ..
  · exact (keeps_dc _ _ rfl rfl rfl).trans (keeps_i3 ..)

theorem keeps_mStatus (c : Chip) (q : DReqQ) : Keeps c (c.mStatus q) := keeps_finish ..

theorem keeps_i3cGet (c : Chip) (n : Nat) (l : List B8) : Keeps c (c.i3cGet n l) := keeps_i3 ..

theorem keeps_mbTaken (c : Chip) : Keeps c (c.dc Dic.mbTaken) := keeps_dc c _ (keeps_mbLoad _).1 (keeps_mbLoad _).2.1 (keeps_mbLoad _).2.2

/-! ## The TAP -/

theorem keeps_tapIr (c : Chip) (n : Nat) : Keeps c (c.tapIr n) := keeps_q ..

theorem keeps_oapCmd (c : Chip) (w : World) (n : Nat) : Keeps c (c.oapCmd w n) :=
  .ite (fun _ => .refl c) fun _ => .ite (fun _ => keeps_oapRead ..) fun _ => .ite (fun _ => keeps_oapStage ..) fun _ => .ite (fun _ => keeps_oapCommit ..) fun _ =>
    .ite (fun _ => keeps_oapAbort ..) fun _ => .refl c

theorem keeps_kwrite (c : Chip) (w : World) (x : KWhere) (v : BitVec 32) : Keeps c (c.kwrite w x v) := by
  unfold Chip.kwrite
  split
  · exact .refl c
  · dsimp only
    split
    · exact .refl c
    · cases w <;> exact keeps_k c _ rfl rfl
  · exact (keeps_e _ _).trans (keeps_sram _ _ _ _ _ rfl id rfl)
  · exact .ite (fun _ => keeps_setOap _ _ _ _ (.refl c)) fun _ => .ite (fun _ => keeps_oapCmd ..) fun _ => .ite (fun _ => keeps_setOap _ _ _ _ (.refl c)) fun _ => .refl c
  · exact keeps_dram c _ _ _ rfl rfl

theorem keeps_resume (c : Chip) : Keeps c c.resume := .ite (fun _ => (keeps_k c _ rfl rfl).trans (keeps_set ..)) fun _ => .refl c

theorem setReg_mem (k : Kpr) (r : Nat) (v : BitVec 32) : (k.setReg r v).sram = k.sram ∧ (k.setReg r v).dram = k.dram := by
  unfold Kpr.setReg
  split
  · exact ⟨rfl, rfl⟩
  · split <;> exact ⟨rfl, rfl⟩

theorem keeps_setBank (c : Chip) (w : World) (g : Bank → Bank) : Keeps c (c.k fun k => k.setBank w g) := by
  cases w <;> exact keeps_k c _ rfl rfl

theorem keeps_pick {c t : Chip} {p : Prop} [Decidable p] {a b : Option Chip} (h : (if p then a else b) = some t) (ha : a = some t → Keeps c t) (hb : b = some t → Keeps c t) :
    Keeps c t := by
  split at h
  · exact ha h
  · exact hb h

theorem keeps_csrSet (c t : Chip) (w : World) (a : Nat) (v : BitVec 32) (h : c.csrSet w a v = some t) : Keeps c t := by
  unfold Chip.csrSet at h
  dsimp only at h
  repeat' (refine keeps_pick h ?_ ?_ <;> clear h <;> intro h)
  all_goals cases h
  all_goals first
    | exact keeps_setBank ..
    | exact .refl c
    | exact (keeps_k c _ rfl rfl).trans (.ite (fun _ => keeps_wdtZero _) fun _ => .refl _)
    | exact keeps_k c _ rfl rfl

theorem keeps_tapGet (c : Chip) (r i : Nat) : Keeps c (c.tapGet r i) := by
  unfold Chip.tapGet
  refine .ite (fun _ => keeps_q ..) fun _ => ?_
  split <;> exact keeps_q ..

theorem keeps_tapSet (c : Chip) (r i : Nat) (v : BitVec 32) : Keeps c (c.tapSet r i v) := by
  unfold Chip.tapSet
  refine .ite (fun _ => keeps_k c _ (setReg_mem ..).1 (setReg_mem ..).2) fun _ => ?_
  split
  · exact keeps_csrSet _ _ _ _ _ ‹_›
  · exact keeps_q ..

theorem keeps_tapDo (c : Chip) (op : TapOp) : Keeps c (c.tapDo op) := by
  cases op with
  | sib m => exact keeps_q ..
  | attach => exact (keeps_q ..).trans (keeps_e ..)
  | detach => exact (keeps_q ..).trans (keeps_resume _)
  | halt => exact keeps_debugHalt c
  | resume => exact keeps_resume c
  | step pc => exact .ite (fun _ => keeps_k c _ rfl rfl) fun _ => .refl c
  | breakpoint a on => exact keeps_k c _ rfl rfl
  | readReg r => exact .ite (fun _ => keeps_tapGet ..) fun _ => .refl c
  | writeReg r v => exact .ite (fun _ => keeps_tapSet ..) fun _ => .refl c
  | readMem a =>
    unfold Chip.tapDo; dsimp only; split
    · unfold Chip.tapSram; split
      · exact (keeps_e _ _).trans (keeps_q ..)
      · exact (keeps_e _ _).trans (keeps_q ..)
    · exact keeps_q ..
    · exact .refl c
  | writeMem a v => unfold Chip.tapDo; dsimp only; split; · exact keeps_kwrite ..
                    · exact .refl c
  | counter b i s => exact keeps_q ..
  | sample n => exact keeps_q ..
  | traceEnable on => exact (keeps_set ..).trans (keeps_voteCheck _)

theorem keeps_tapRefused (c : Chip) (op : TapOp) : Keeps c (c.tapRefused op) := by
  have h : ∀ wr a, Keeps c (if (c.pm.attached && c.dbgOn (invasive c.kpr.world)) = true then
      (match c.kRefused c.kpr.world wr a with
       | some (p, pg) => c.e fun e => e.guardFault p (kprInit c.kpr.world) wr pg
       | none => c) else c) := by
    intro wr a
    refine .ite (fun _ => ?_) fun _ => .refl c
    split
    · exact keeps_e ..
    · exact .refl c
  cases op <;> first | exact h .. | exact .refl c

theorem keeps_tapOp (c : Chip) (op : TapOp) : Keeps c (c.tapOp op) :=
  .ite (fun _ => .refl c) fun _ => .ite (fun _ => (keeps_q ..).trans (keeps_tapDo ..)) fun _ => (keeps_tapRefused c op).trans (keeps_q ..)

theorem keeps_haltEvent (c : Chip) (b : Option (BitVec 32)) : Keeps c (c.haltEvent b) := by
  cases b with
  | none => exact keeps_debugHalt c
  | some pc => exact .ite (fun _ => (keeps_k c _ rfl rfl).trans (keeps_haltCheck _)) fun _ => .refl c

/-! ## Time, and what follows a command -/

theorem keeps_cycleCounts (c : Chip) : Keeps c c.cycleCounts :=
  .ite (fun _ => .refl c) fun _ => keeps_fold _ (fun c _ => .ite (fun _ => .refl c) fun _ => keeps_e ..) _ c

theorem keeps_wdtTick (c : Chip) : Keeps c c.wdtTick := .ite (fun _ => keeps_p ..) fun _ => .refl c

theorem keeps_armTick (c : Chip) : Keeps c c.armTick := .ite (fun _ => (keeps_clampAll c).trans (keeps_advance _)) fun _ => .refl c

theorem keeps_hartTick (c : Chip) : Keeps c c.hartTick := by
  unfold Chip.hartTick
  dsimp only
  refine .ite (fun _ => .refl c) fun _ => ?_
  cases hw : c.kpr.world <;> exact .of (by simp [Chip.k, hw]) (by simp [Chip.k, hw]) rfl rfl rfl

theorem keeps_aonTick (c : Chip) : Keeps c c.aonTick := .ite (fun _ => .refl c) fun _ => keeps_p ..

theorem keeps_tick (c : Chip) : Keeps c c.tick := by
  have h0 : Keeps c c.aonTick := keeps_aonTick c
  have h1 (c : Chip) : Keeps c c.clockTick := keeps_e ..
  have h2 (c : Chip) : Keeps c c.journalTick := .ite (fun _ => keeps_fab ..) fun _ => .refl c
  have h3 (c : Chip) : Keeps c c.linkTick := .ite (fun _ => keeps_fab ..) fun _ => .refl c
  have h4 (c : Chip) : Keeps c c.sliceTick := .ite (fun _ => keeps_e ..) fun _ => .refl c
  have h5 (c : Chip) : Keeps c c.clockTick.journalTick.linkTick.sliceTick := (((h1 _).trans (h2 _)).trans (h3 _)).trans (h4 _)
  exact ((((((h0.trans (h5 _)).trans (keeps_cycleCounts _)).trans (keeps_snapDue _)).trans (keeps_arrivals _)).trans (keeps_wdtTick _)).trans (keeps_hartTick _)).trans (keeps_armTick _)

theorem keeps_after (old c : Chip) : Keeps c (Chip.after old c) := (keeps_e ..).trans (keeps_fab ..)

theorem keeps_follow (c : Chip) : Keeps c c.follow :=
  (((((keeps_pmTake c).trans (keeps_rings _)).trans (keeps_hoStep _)).trans (keeps_advance _)).trans (keeps_mAnswer _)).trans (keeps_evPump _)

theorem keeps_reads (c : Chip) (g : Chip → Chip) (h : ∀ c, Keeps c (g c)) : Keeps c (c.reads g) := by
  unfold Chip.reads
  split
  · exact h c
  · exact (keeps_e ..).trans (h _)

theorem keeps_run (c : Chip) (g : Chip → Chip) (h : ∀ c, Keeps c (g c)) : Keeps c (c.run g) := ((keeps_reads c g h).trans (keeps_after ..)).trans (keeps_follow _)

theorem keeps_idle (c : Chip) : Keeps c c.idle := .ite (fun _ => keeps_run _ _ keeps_tick) fun _ => keeps_aonTick c

end Sys2Proof.Machine
end

