-- ==== Sys2Proof/Laws/Maps.lean ====
section
/-! SUPPORT. Sys2Proof/Laws/Maps.lean: reading a sorted map after a write, and the objects of the dictionary through it. -/
namespace Sys2Proof.Machine

/-- A key reads as it was written. -/
theorem kget_kput_same {α : Type} (d : α) (k : Nat) (v : α) (l : List (Nat × α)) : kget d k (kput k v l) = v := by
  induction l with
  | nil => simp [kput, kget]
  | cons a t ih =>
    obtain ⟨k', v'⟩ := a
    simp only [kput]
    split
    · simp [kget]
    · split
      · simp [kget]
      · rename_i h; simp [kget, Ne.symm h, ih]

/-- Another key reads as before. -/
theorem kget_kput_ne {α : Type} (d : α) (k j : Nat) (v : α) (l : List (Nat × α)) (h : j ≠ k) : kget d j (kput k v l) = kget d j l := by
  induction l with
  | nil => simp [kput, kget, Ne.symm h]
  | cons a t ih =>
    obtain ⟨k', v'⟩ := a
    simp only [kput]
    split
    · simp [kget, Ne.symm h]
    · split
      · rename_i hk; subst hk; simp [kget, Ne.symm h]
      · simp [kget, ih]

/-- A deleted key of a map that lists it once reads as the default. -/
theorem kget_kdel_ne {α : Type} (d : α) (k j : Nat) (l : List (Nat × α)) (h : j ≠ k) : kget d j (kdel k l) = kget d j l := by
  induction l with
  | nil => rfl
  | cons a t ih =>
    obtain ⟨k', v'⟩ := a
    simp only [kdel]
    split
    · rename_i hk; subst hk; simp [kget, Ne.symm h]
    · simp [kget, ih]

/-- An element set reads as it was set. -/
@[simp] theorem obj_set_same (e : Eng) (idx el v : Nat) : (e.set idx el v).obj idx el = v := kget_kput_same _ _ _ _

/-- Every other element reads as before. -/
theorem obj_set_ne (e : Eng) (idx el v i j : Nat) (h : i * 256 + j ≠ idx * 256 + el) : (e.set idx el v).obj i j = e.obj i j :=
  kget_kput_ne _ _ _ _ _ h

/-- Element 0 of another object reads as before. -/
theorem ob_set_ne (e : Eng) (idx el v i : Nat) (he : el < 256) (h : i ≠ idx) : (e.set idx el v).ob i = e.ob i :=
  obj_set_ne _ _ _ _ _ _ (by omega)

/-- A counter raised reads its old value and the amount, at 64 bits. -/
@[simp] theorem obj_addObj_same (e : Eng) (idx el v : Nat) : (e.addObj idx el v).obj idx el = (e.obj idx el + v) % 2 ^ 64 := obj_set_same _ _ _ _

/-- Element 0 of another object reads as before a counter was raised. -/
theorem ob_inc_ne (e : Eng) (idx el i : Nat) (he : el < 256) (h : i ≠ idx) : (e.inc idx el).ob i = e.ob i := ob_set_ne _ _ _ _ _ he h

/-- A message on the Gallery moves the arbiters of its stops and nothing else (R168, R179). -/
theorem galSend_eq (e : Eng) (t : GTraffic) (k a b : Nat) : ∃ l, e.galSend t k a b = { e with arbs := l } := by
  simp only [Eng.galSend, Eng.galInject]
  split
  · exact ⟨e.arbs, rfl⟩
  · simp only [Eng.runArb, Eng.arbitrate]
    split
    · rename_i h
      split at h
      · cases h
      · obtain ⟨-, rfl⟩ : _ = _ ∧ _ = _ := by simpa using h
        split
        · exact ⟨e.arbs, rfl⟩
        · exact ⟨_, rfl⟩
    · exact ⟨e.arbs, rfl⟩

end Sys2Proof.Machine
end

