-- ==== Sys2Proof/Laws/State.lean ====
section
/-! SUPPORT. Sys2Proof/Laws/State.lean: what each update of a part of the machine leaves in each part, so that no proof unfolds a
record update. -/
namespace Sys2Proof.Machine

/-! ## A change of the coherence side -/

@[simp] theorem chip_e_eng (c : Chip) (g : Eng → Eng) : (c.e g).eng = g c.eng := rfl
@[simp] theorem chip_e_d (c : Chip) (g : Eng → Eng) : (c.e g).d = c.d := rfl
@[simp] theorem chip_e_mir (c : Chip) (g : Eng → Eng) : (c.e g).mir = c.mir := rfl
@[simp] theorem chip_e_pwr (c : Chip) (g : Eng → Eng) : (c.e g).pwr = c.pwr := rfl
@[simp] theorem chip_e_kpr (c : Chip) (g : Eng → Eng) : (c.e g).kpr = c.kpr := rfl
@[simp] theorem chip_e_dic (c : Chip) (g : Eng → Eng) : (c.e g).dic = c.dic := rfl
@[simp] theorem chip_e_pm (c : Chip) (g : Eng → Eng) : (c.e g).pm = c.pm := rfl

/-! ## A change of the power controller -/

@[simp] theorem chip_p_eng (c : Chip) (g : Pwr → Pwr) : (c.p g).eng = c.eng := rfl
@[simp] theorem chip_p_d (c : Chip) (g : Pwr → Pwr) : (c.p g).d = c.d := rfl
@[simp] theorem chip_p_mir (c : Chip) (g : Pwr → Pwr) : (c.p g).mir = c.mir := rfl
@[simp] theorem chip_p_pwr (c : Chip) (g : Pwr → Pwr) : (c.p g).pwr = g c.pwr := rfl
@[simp] theorem chip_p_kpr (c : Chip) (g : Pwr → Pwr) : (c.p g).kpr = c.kpr := rfl
@[simp] theorem chip_p_dic (c : Chip) (g : Pwr → Pwr) : (c.p g).dic = c.dic := rfl
@[simp] theorem chip_p_pm (c : Chip) (g : Pwr → Pwr) : (c.p g).pm = c.pm := rfl

/-! ## A change of Keeper -/

@[simp] theorem chip_k_eng (c : Chip) (g : Kpr → Kpr) : (c.k g).eng = c.eng := rfl
@[simp] theorem chip_k_d (c : Chip) (g : Kpr → Kpr) : (c.k g).d = c.d := rfl
@[simp] theorem chip_k_mir (c : Chip) (g : Kpr → Kpr) : (c.k g).mir = c.mir := rfl
@[simp] theorem chip_k_pwr (c : Chip) (g : Kpr → Kpr) : (c.k g).pwr = c.pwr := rfl
@[simp] theorem chip_k_kpr (c : Chip) (g : Kpr → Kpr) : (c.k g).kpr = g c.kpr := rfl
@[simp] theorem chip_k_dic (c : Chip) (g : Kpr → Kpr) : (c.k g).dic = c.dic := rfl
@[simp] theorem chip_k_pm (c : Chip) (g : Kpr → Kpr) : (c.k g).pm = c.pm := rfl

/-! ## A change of the monitor -/

@[simp] theorem chip_q_eng (c : Chip) (g : Pm → Pm) : (c.q g).eng = c.eng := rfl
@[simp] theorem chip_q_d (c : Chip) (g : Pm → Pm) : (c.q g).d = c.d := rfl
@[simp] theorem chip_q_mir (c : Chip) (g : Pm → Pm) : (c.q g).mir = c.mir := rfl
@[simp] theorem chip_q_pwr (c : Chip) (g : Pm → Pm) : (c.q g).pwr = c.pwr := rfl
@[simp] theorem chip_q_kpr (c : Chip) (g : Pm → Pm) : (c.q g).kpr = c.kpr := rfl
@[simp] theorem chip_q_dic (c : Chip) (g : Pm → Pm) : (c.q g).dic = c.dic := rfl
@[simp] theorem chip_q_pm (c : Chip) (g : Pm → Pm) : (c.q g).pm = g c.pm := rfl

/-! ## A change of the dictionary's paths -/

@[simp] theorem chip_dc_eng (c : Chip) (g : Dic → Dic) : (c.dc g).eng = c.eng := rfl
@[simp] theorem chip_dc_d (c : Chip) (g : Dic → Dic) : (c.dc g).d = c.d := rfl
@[simp] theorem chip_dc_mir (c : Chip) (g : Dic → Dic) : (c.dc g).mir = c.mir := rfl
@[simp] theorem chip_dc_pwr (c : Chip) (g : Dic → Dic) : (c.dc g).pwr = c.pwr := rfl
@[simp] theorem chip_dc_kpr (c : Chip) (g : Dic → Dic) : (c.dc g).kpr = c.kpr := rfl
@[simp] theorem chip_dc_dic (c : Chip) (g : Dic → Dic) : (c.dc g).dic = g c.dic := rfl
@[simp] theorem chip_dc_pm (c : Chip) (g : Dic → Dic) : (c.dc g).pm = c.pm := rfl

/-! ## The fabric side replaced -/

@[simp] theorem setFab_eng (c : Chip) (f : Fab) : (c.setFab f).eng = f.eng := rfl
@[simp] theorem setFab_d (c : Chip) (f : Fab) : (c.setFab f).d = f.d := rfl
@[simp] theorem setFab_mir (c : Chip) (f : Fab) : (c.setFab f).mir = f.mir := rfl
@[simp] theorem setFab_pwr (c : Chip) (f : Fab) : (c.setFab f).pwr = c.pwr := rfl
@[simp] theorem setFab_kpr (c : Chip) (f : Fab) : (c.setFab f).kpr = c.kpr := rfl
@[simp] theorem setFab_dic (c : Chip) (f : Fab) : (c.setFab f).dic = c.dic := rfl
@[simp] theorem setFab_pm (c : Chip) (f : Fab) : (c.setFab f).pm = c.pm := rfl
@[simp] theorem fab_eng (c : Chip) : c.fab.eng = c.eng := rfl
@[simp] theorem fab_d (c : Chip) : c.fab.d = c.d := rfl
@[simp] theorem fab_mir (c : Chip) : c.fab.mir = c.mir := rfl

/-! ## The fabric side changed in one part -/

@[simp] theorem fab_e_eng (f : Fab) (g : Eng → Eng) : (f.e g).eng = g f.eng := rfl
@[simp] theorem fab_e_d (f : Fab) (g : Eng → Eng) : (f.e g).d = f.d := rfl
@[simp] theorem fab_e_mir (f : Fab) (g : Eng → Eng) : (f.e g).mir = f.mir := rfl

/-! ## The block replaced -/

@[simp] theorem block_toChip (s : State) (c : Chip) : (s.block c).toChip = c := rfl
@[simp] theorem block_eng (s : State) (c : Chip) : (s.block c).eng = c.eng := rfl
@[simp] theorem block_d (s : State) (c : Chip) : (s.block c).d = c.d := rfl
@[simp] theorem block_mir (s : State) (c : Chip) : (s.block c).mir = c.mir := rfl
@[simp] theorem block_pwr (s : State) (c : Chip) : (s.block c).pwr = c.pwr := rfl
@[simp] theorem block_kpr (s : State) (c : Chip) : (s.block c).kpr = c.kpr := rfl
@[simp] theorem block_dic (s : State) (c : Chip) : (s.block c).dic = c.dic := rfl
@[simp] theorem block_pm (s : State) (c : Chip) : (s.block c).pm = c.pm := rfl
@[simp] theorem block_pending (s : State) (c : Chip) : (s.block c).pending = s.pending := rfl
@[simp] theorem effect_pending (s : State) (c : Chip) : (s.effect c).pending = s.pending := by simp only [State.effect]

/-! ## An object set -/

@[simp] theorem chip_set_d (c : Chip) (idx el v : Nat) : (c.set idx el v).d = c.d := rfl
@[simp] theorem chip_set_mir (c : Chip) (idx el v : Nat) : (c.set idx el v).mir = c.mir := rfl
@[simp] theorem chip_set_pwr (c : Chip) (idx el v : Nat) : (c.set idx el v).pwr = c.pwr := rfl
@[simp] theorem chip_set_kpr (c : Chip) (idx el v : Nat) : (c.set idx el v).kpr = c.kpr := rfl
@[simp] theorem chip_set_dic (c : Chip) (idx el v : Nat) : (c.set idx el v).dic = c.dic := rfl
@[simp] theorem chip_set_pm (c : Chip) (idx el v : Nat) : (c.set idx el v).pm = c.pm := rfl
@[simp] theorem chip_set_eng (c : Chip) (idx el v : Nat) : (c.set idx el v).eng = c.eng.set idx el v := rfl
@[simp] theorem set_fz (e : Eng) (idx el v : Nat) : (e.set idx el v).fz = e.fz := rfl
@[simp] theorem set_ts (e : Eng) (idx el v : Nat) : (e.set idx el v).ts = e.ts := rfl
@[simp] theorem set_fresh (e : Eng) (idx el v : Nat) : (e.set idx el v).fresh = e.fresh := rfl
@[simp] theorem set_logs (e : Eng) (idx el v : Nat) : (e.set idx el v).logs = e.logs := rfl
@[simp] theorem set_svc (e : Eng) (idx el v : Nat) : (e.set idx el v).svc = e.svc := rfl
@[simp] theorem set_portUp (e : Eng) (idx el v : Nat) : (e.set idx el v).portUp = e.portUp := rfl
@[simp] theorem set_retry (e : Eng) (idx el v : Nat) : (e.set idx el v).retry = e.retry := rfl
@[simp] theorem set_outq (e : Eng) (idx el v : Nat) : (e.set idx el v).outq = e.outq := rfl
@[simp] theorem set_stages (e : Eng) (idx el v : Nat) : (e.set idx el v).stages = e.stages := rfl
@[simp] theorem set_bktOut (e : Eng) (idx el v : Nat) : (e.set idx el v).bktOut = e.bktOut := rfl
@[simp] theorem set_brace (e : Eng) (idx el v : Nat) : (e.set idx el v).brace = e.brace := rfl
@[simp] theorem set_foghorn (e : Eng) (idx el v : Nat) : (e.set idx el v).foghorn = e.foghorn := rfl
@[simp] theorem set_devLoad (e : Eng) (idx el v : Nat) : (e.set idx el v).devLoad = e.devLoad := rfl
@[simp] theorem set_moor (e : Eng) (idx el v : Nat) : (e.set idx el v).moor = e.moor := rfl
@[simp] theorem set_purges (e : Eng) (idx el v : Nat) : (e.set idx el v).purges = e.purges := rfl
@[simp] theorem set_sweeps (e : Eng) (idx el v : Nat) : (e.set idx el v).sweeps = e.sweeps := rfl
@[simp] theorem set_stranger (e : Eng) (idx el v : Nat) : (e.set idx el v).stranger = e.stranger := rfl
@[simp] theorem set_qf (e : Eng) (idx el v : Nat) : (e.set idx el v).qf = e.qf := rfl
@[simp] theorem set_lineq (e : Eng) (idx el v : Nat) : (e.set idx el v).lineq = e.lineq := rfl
@[simp] theorem set_slots (e : Eng) (idx el v : Nat) : (e.set idx el v).slots = e.slots := rfl
@[simp] theorem set_arbs (e : Eng) (idx el v : Nat) : (e.set idx el v).arbs = e.arbs := rfl
@[simp] theorem set_drainEff (e : Eng) (idx el v : Nat) : (e.set idx el v).drainEff = e.drainEff := rfl
@[simp] theorem set_ctxs (e : Eng) (idx el v : Nat) : (e.set idx el v).ctxs = e.ctxs := rfl
@[simp] theorem set_quar (e : Eng) (idx el v : Nat) : (e.set idx el v).quar = e.quar := rfl
@[simp] theorem set_snps (e : Eng) (idx el v : Nat) : (e.set idx el v).snps = e.snps := rfl
@[simp] theorem set_hold (e : Eng) (idx el v : Nat) : (e.set idx el v).hold = e.hold := rfl
@[simp] theorem set_sfa (e : Eng) (idx el v : Nat) : (e.set idx el v).sfa = e.sfa := rfl
@[simp] theorem set_spill (e : Eng) (idx el v : Nat) : (e.set idx el v).spill = e.spill := rfl
@[simp] theorem set_waiters (e : Eng) (idx el v : Nat) : (e.set idx el v).waiters = e.waiters := rfl
@[simp] theorem set_pressure (e : Eng) (idx el v : Nat) : (e.set idx el v).pressure = e.pressure := rfl
@[simp] theorem set_fills (e : Eng) (idx el v : Nat) : (e.set idx el v).fills = e.fills := rfl
@[simp] theorem set_dbs (e : Eng) (idx el v : Nat) : (e.set idx el v).dbs = e.dbs := rfl
@[simp] theorem set_overflows (e : Eng) (idx el v : Nat) : (e.set idx el v).overflows = e.overflows := rfl
@[simp] theorem set_evicts (e : Eng) (idx el v : Nat) : (e.set idx el v).evicts = e.evicts := rfl
@[simp] theorem set_taint (e : Eng) (idx el v : Nat) : (e.set idx el v).taint = e.taint := rfl
@[simp] theorem set_hdc (e : Eng) (idx el v : Nat) : (e.set idx el v).hdc = e.hdc := rfl
@[simp] theorem set_evb (e : Eng) (idx el v : Nat) : (e.set idx el v).evb = e.evb := rfl
@[simp] theorem set_streams (e : Eng) (idx el v : Nat) : (e.set idx el v).streams = e.streams := rfl
@[simp] theorem set_preload (e : Eng) (idx el v : Nat) : (e.set idx el v).preload = e.preload := rfl
@[simp] theorem set_hdcLeft (e : Eng) (idx el v : Nat) : (e.set idx el v).hdcLeft = e.hdcLeft := rfl
@[simp] theorem set_pred (e : Eng) (idx el v : Nat) : (e.set idx el v).pred = e.pred := rfl
@[simp] theorem set_echo (e : Eng) (idx el v : Nat) : (e.set idx el v).echo = e.echo := rfl
@[simp] theorem set_hIdle (e : Eng) (idx el v : Nat) : (e.set idx el v).hIdle = e.hIdle := rfl
@[simp] theorem set_leases (e : Eng) (idx el v : Nat) : (e.set idx el v).leases = e.leases := rfl
@[simp] theorem set_leaseReqs (e : Eng) (idx el v : Nat) : (e.set idx el v).leaseReqs = e.leaseReqs := rfl
@[simp] theorem set_breaks (e : Eng) (idx el v : Nat) : (e.set idx el v).breaks = e.breaks := rfl
@[simp] theorem set_tmap (e : Eng) (idx el v : Nat) : (e.set idx el v).tmap = e.tmap := rfl
@[simp] theorem set_written (e : Eng) (idx el v : Nat) : (e.set idx el v).written = e.written := rfl
@[simp] theorem set_tcache (e : Eng) (idx el v : Nat) : (e.set idx el v).tcache = e.tcache := rfl
@[simp] theorem set_walks (e : Eng) (idx el v : Nat) : (e.set idx el v).walks = e.walks := rfl
@[simp] theorem set_tileWrs (e : Eng) (idx el v : Nat) : (e.set idx el v).tileWrs = e.tileWrs := rfl
@[simp] theorem set_seqs (e : Eng) (idx el v : Nat) : (e.set idx el v).seqs = e.seqs := rfl
@[simp] theorem set_dcmds (e : Eng) (idx el v : Nat) : (e.set idx el v).dcmds = e.dcmds := rfl
@[simp] theorem set_dopen (e : Eng) (idx el v : Nat) : (e.set idx el v).dopen = e.dopen := rfl
@[simp] theorem set_withheld (e : Eng) (idx el v : Nat) : (e.set idx el v).withheld = e.withheld := rfl
@[simp] theorem set_remap (e : Eng) (idx el v : Nat) : (e.set idx el v).remap = e.remap := rfl
@[simp] theorem set_heatBuf (e : Eng) (idx el v : Nat) : (e.set idx el v).heatBuf = e.heatBuf := rfl
@[simp] theorem set_heatPass (e : Eng) (idx el v : Nat) : (e.set idx el v).heatPass = e.heatPass := rfl
@[simp] theorem set_heatLeft (e : Eng) (idx el v : Nat) : (e.set idx el v).heatLeft = e.heatLeft := rfl
@[simp] theorem set_unitHeat (e : Eng) (idx el v : Nat) : (e.set idx el v).unitHeat = e.unitHeat := rfl
@[simp] theorem set_unitDbs (e : Eng) (idx el v : Nat) : (e.set idx el v).unitDbs = e.unitDbs := rfl
@[simp] theorem set_heatMsgs (e : Eng) (idx el v : Nat) : (e.set idx el v).heatMsgs = e.heatMsgs := rfl
@[simp] theorem set_heatDue (e : Eng) (idx el v : Nat) : (e.set idx el v).heatDue = e.heatDue := rfl
@[simp] theorem set_heatWait (e : Eng) (idx el v : Nat) : (e.set idx el v).heatWait = e.heatWait := rfl
@[simp] theorem set_chans (e : Eng) (idx el v : Nat) : (e.set idx el v).chans = e.chans := rfl
@[simp] theorem set_halted (e : Eng) (idx el v : Nat) : (e.set idx el v).halted = e.halted := rfl
@[simp] theorem set_remoor (e : Eng) (idx el v : Nat) : (e.set idx el v).remoor = e.remoor := rfl
@[simp] theorem set_installs (e : Eng) (idx el v : Nat) : (e.set idx el v).installs = e.installs := rfl
@[simp] theorem set_mapLog (e : Eng) (idx el v : Nat) : (e.set idx el v).mapLog = e.mapLog := rfl
@[simp] theorem set_rmgr (e : Eng) (idx el v : Nat) : (e.set idx el v).rmgr = e.rmgr := rfl
@[simp] theorem set_fwds (e : Eng) (idx el v : Nat) : (e.set idx el v).fwds = e.fwds := rfl
@[simp] theorem set_handoff (e : Eng) (idx el v : Nat) : (e.set idx el v).handoff = e.handoff := rfl
@[simp] theorem set_swap (e : Eng) (idx el v : Nat) : (e.set idx el v).swap = e.swap := rfl
@[simp] theorem set_spareBkt (e : Eng) (idx el v : Nat) : (e.set idx el v).spareBkt = e.spareBkt := rfl
@[simp] theorem set_mrecs (e : Eng) (idx el v : Nat) : (e.set idx el v).mrecs = e.mrecs := rfl
@[simp] theorem set_mirHold (e : Eng) (idx el v : Nat) : (e.set idx el v).mirHold = e.mirHold := rfl
@[simp] theorem set_fenced (e : Eng) (idx el v : Nat) : (e.set idx el v).fenced = e.fenced := rfl
@[simp] theorem set_deltas (e : Eng) (idx el v : Nat) : (e.set idx el v).deltas = e.deltas := rfl
@[simp] theorem set_survivor (e : Eng) (idx el v : Nat) : (e.set idx el v).survivor = e.survivor := rfl
@[simp] theorem set_mswap (e : Eng) (idx el v : Nat) : (e.set idx el v).mswap = e.mswap := rfl
@[simp] theorem set_hmsgs (e : Eng) (idx el v : Nat) : (e.set idx el v).hmsgs = e.hmsgs := rfl
@[simp] theorem set_smps (e : Eng) (idx el v : Nat) : (e.set idx el v).smps = e.smps := rfl
@[simp] theorem set_smpGap (e : Eng) (idx el v : Nat) : (e.set idx el v).smpGap = e.smpGap := rfl
@[simp] theorem set_smpSeq (e : Eng) (idx el v : Nat) : (e.set idx el v).smpSeq = e.smpSeq := rfl
@[simp] theorem set_hists (e : Eng) (idx el v : Nat) : (e.set idx el v).hists = e.hists := rfl
@[simp] theorem set_marks (e : Eng) (idx el v : Nat) : (e.set idx el v).marks = e.marks := rfl
@[simp] theorem set_errs (e : Eng) (idx el v : Nat) : (e.set idx el v).errs = e.errs := rfl
@[simp] theorem set_ras (e : Eng) (idx el v : Nat) : (e.set idx el v).ras = e.ras := rfl
@[simp] theorem set_wayOff (e : Eng) (idx el v : Nat) : (e.set idx el v).wayOff = e.wayOff := rfl
@[simp] theorem set_rwlDone (e : Eng) (idx el v : Nat) : (e.set idx el v).rwlDone = e.rwlDone := rfl
@[simp] theorem set_evq (e : Eng) (idx el v : Nat) : (e.set idx el v).evq = e.evq := rfl
@[simp] theorem set_evNum (e : Eng) (idx el v : Nat) : (e.set idx el v).evNum = e.evNum := rfl
@[simp] theorem set_evLost (e : Eng) (idx el v : Nat) : (e.set idx el v).evLost = e.evLost := rfl
@[simp] theorem set_notices (e : Eng) (idx el v : Nat) : (e.set idx el v).notices = e.notices := rfl
@[simp] theorem set_portLow (e : Eng) (idx el v : Nat) : (e.set idx el v).portLow = e.portLow := rfl
@[simp] theorem set_uerrN (e : Eng) (idx el v : Nat) : (e.set idx el v).uerrN = e.uerrN := rfl
@[simp] theorem set_uerr (e : Eng) (idx el v : Nat) : (e.set idx el v).uerr = e.uerr := rfl
@[simp] theorem set_uscans (e : Eng) (idx el v : Nat) : (e.set idx el v).uscans = e.uscans := rfl
@[simp] theorem set_rfound (e : Eng) (idx el v : Nat) : (e.set idx el v).rfound = e.rfound := rfl
@[simp] theorem set_undo (e : Eng) (idx el v : Nat) : (e.set idx el v).undo = e.undo := rfl
@[simp] theorem set_rx (e : Eng) (idx el v : Nat) : (e.set idx el v).rx = e.rx := rfl
@[simp] theorem set_gal (e : Eng) (idx el v : Nat) : (e.set idx el v).gal = e.gal := rfl
@[simp] theorem set_islots (e : Eng) (idx el v : Nat) : (e.set idx el v).islots = e.islots := rfl
@[simp] theorem set_hdrGap (e : Eng) (idx el v : Nat) : (e.set idx el v).hdrGap = e.hdrGap := rfl

end Sys2Proof.Machine
end

