-- ==== Sys2Proof/Machine/Boundary.lean ====
section
/-! DEFINITION. Sys2Proof/Machine/Boundary.lean: the level of every output of the block's boundary, as a function of its state, with the reset
and clamp values of Tables 02.1, 02.5, 02.6 and 02.8 (R33 to R36, R40, R42, R43, R46 to R48, R51, R60). -/
namespace Sys2Proof.Machine
open Ob

/-! ## Crossbar ports (Table 02.1) -/

/-- The outputs of a crossbar port at an edge. -/
structure PortOut where
  /-- `xb_rx_rdy`, bits 0 to 3. -/
  rxRdy : List Bool
  /-- `xb_tx_vld`, bits 0 to 3. -/
  txVld : List Bool
  txData : Nat
  txChk : Nat
  svc : Bool
  deriving DecidableEq, Repr

/-- A port under reset or clamped (R33, R34). -/
def portOut0 : PortOut := { rxRdy := [false, false, false, false], txVld := [false, false, false, false], txData := 0, txChk := 0, svc := false }

/-- The masks of injections on a chunk of a beat: its data and its check bits (R305; the word address names the chunk, log entry 58). -/
def OEnt.masks (o : OEnt) (chunk : Nat) : Nat := (o.inj.filter fun b => b.word % 8 == chunk).foldl (fun a b => a ^^^ b.mask) 0

/-- `xb_tx_data` and `xb_tx_chk` of an entry's beat: the packed beat and its check bits, with the injections it carries. -/
def OEnt.lines (o : OEnt) : Nat × Nat :=
  let d := o.word
  (d ^^^ stack 128 ((List.range 8).map fun i => o.masks i % 2 ^ 128), beatCheck d ^^^ stack 12 ((List.range 8).map fun i => o.masks i / 2 ^ 128 % 2 ^ 12))

/-- The beats a port may present, one of each group at most. A beat keeps its group's place until it is taken. -/
def Eng.shown (e : Eng) (port : Nat) : List OEnt := e.outq.filter fun o => o.at_ == port && o.presented

/-- The outputs of port k at an edge of XBCLK. At most one bit of `xb_tx_vld` is 1; a port with beats of several groups may present any of
them at an edge (R36; log entry 6), and the command that takes a beat names the group. -/
def Chip.portOut (c : Chip) (k edge : Nat) : PortOut :=
  let e := c.eng
  if !c.live || e.portClamped k then portOut0
  else
    let ob := (let l := e.shown k; l[Config.txGroup k edge % l.length]?)
    { rxRdy := (List.range 4).map fun g => e.rdy k g, svc := e.svc.contains k,
      txVld := (List.range 4).map fun g => match ob with | some o => o.grp == g | none => false,
      txData := match ob with | some o => o.lines.1 | none => 0,
      txChk := match ob with | some o => o.lines.2 | none => 0 }

/-! ## Shared crossbar lines (Table 02.5) -/

/-- `xb_bkt_vld`, `xb_bkt_idx` and `xb_bkt_slice`: none while Brace holds or under Foghorn (Table 02.11). -/
def Chip.bktOut (c : Chip) : Bool × Nat × Nat :=
  match c.eng.bktOut with
  | (b, s) :: _ => if c.live && !c.eng.brace && !c.eng.foghorn then (true, b, s) else (false, 0, 0)
  | [] => (false, 0, 0)

/-! ## DRAM channels (Table 02.6) -/

/-- The outputs of a DRAM channel. -/
structure DramOut where
  vld : Bool
  op : Nat
  addr : Nat
  tag : Nat
  /-- `dr_cmd_data`, of a write: a read's is not stated. -/
  data : Option Nat
  /-- `dr_cmd_be`, of a masked write. -/
  be : Option Nat
  deriving DecidableEq, Repr

/-- Masks of injections on a burst: an entry's data and check bits, or 16 bytes of a page (R305). -/
def DCmd.masks (d : DCmd) : Nat :=
  d.inj.foldl (fun a b => a ^^^ (b.mask % 2 ^ 128 ^^^ (if b.store = 8 ∨ b.store = 0xA then b.mask / 2 ^ 128 % 2 ^ 12 * 2 ^ 116 else 0)) * 2 ^ (8 * (b.word % 64))) 0

/-- The write data of a command: of a ring's writer, the record that is written (R378, R384). -/
def Chip.cmdData (c : Chip) (d : DCmd) : Nat :=
  match c.eng.seqs.find? fun s => s.id == d.seq with
  | none => 0
  | some s =>
    match s.kind with
    | .smpRing => (c.pm.smpBuf.headD 0).toNat
    | .trcRing => (Config.traceRecord s.id).toNat * 2 ^ (8 * (c.slotAddr trcR % 64))
    | _ => (c.eng.writeData s d.a.addr).toNat ^^^ d.masks % 2 ^ 512

/-- The outputs of channel ch: the command it presents (R47, R48). -/
def Chip.dramOut (c : Chip) (ch : Nat) : DramOut :=
  match c.eng.dcmds.find? fun d => d.ch == ch && d.tag.isSome with
  | some d =>
    if c.coreOn then
      { vld := true, op := (match d.a.op with | .rd => 0 | .wr => 1 | .mwr => 2), addr := d.a.addr, tag := d.tag.getD 0,
        data := if d.a.op = .rd then none else some (c.cmdData d),
        be := if d.a.op = .mwr then some ((2 ^ 32 - 1) * 2 ^ (c.slotAddr trcR % 64)) else none }
    else { vld := false, op := 0, addr := 0, tag := 0, data := some 0, be := some 0 }
  | none => { vld := false, op := 0, addr := 0, tag := 0, data := some 0, be := some 0 }

/-! ## Management, Draix, reset, power and event signals (Table 02.8) -/

/-- A Draix transmit lane: floating (`z`), in electrical idle, or sending the blocks of the last nanosecond (R236). -/
inductive LanePad where
  | float
  | idle
  | sends (blocks : List (BitVec 66))
  deriving DecidableEq, Repr

/-- The level of each symbol a lane sends (Table 10.1). -/
def LanePad.levels : LanePad → List Nat
  | .sends l => l.flatMap pam4
  | _ => []

/-- `ml_tx_p/n` of a physical lane: in near-end loopback the pads are in electrical idle (R54, R236, R262). -/
def Chip.mlTx (c : Chip) (lane : Nat) : LanePad :=
  if !c.live || !c.eng.isH32 || c.dom 4 != 0 then .float
  else
    let bs := (c.d.wire.filter fun b => b.1 == lane).map fun b => b.2
    if bs.isEmpty ∨ (c.ob DRX_STATE = 7 ∧ c.ob DRX_LOOPBACK ≠ 3) then .idle else .sends bs

/-- The other outputs. Between commands the I3C bus and the TAP are idle: a transfer is one command, and what the target answers in it is
`I3c.answer`, what a scan shifts out `Pm.dr` (log entry 58). -/
structure MiscOut where
  sdaO : Bool
  sdaOe : Bool
  mbInRdy : Bool
  mbOutVld : Bool
  mbOutData : Nat
  mbOutLast : Bool
  tdo : Bool
  tdoOe : Bool
  mlTx : List LanePad
  chipReq : Bool
  /-- `req` and the field of the rails `vco`, `vsa`, `vsl`, `vml`. -/
  rails : List (Bool × Nat)
  irq : Nat
  foghorn : Bool
  deriving DecidableEq, Repr

/-- The other outputs of the block. The mailbox takes every word while CORE is on (R53). -/
def Chip.miscOut (c : Chip) : MiscOut :=
  let mb := if c.coreOn then c.dic.mbOut else []
  { sdaO := false, sdaOe := false, mbInRdy := c.coreOn, mbOutVld := !mb.isEmpty, mbOutData := (mb.headD 0).toNat, mbOutLast := mb.length == 1,
    tdo := false, tdoOe := false, mlTx := (List.range 16).map c.mlTx, chipReq := c.pwr.chipReq,
    rails := c.pwr.rails.map fun r => (r.req, r.field), irq := if c.coreOn then c.irqLines else 0, foghorn := c.eng.foghorn && !c.eng.fenced }

end Sys2Proof.Machine
end

