-- ==== Sys2Proof/Tests/Slice0.lean ====
section
/-! SUPPORT. Sys2Proof/Tests/Slice0.lean: the model's own tests: ill-formed commands that the check refuses, one step on a small state
with the spec's own figures, and for every statement with hypotheses a state and operands that meet them. -/
namespace Sys2Proof.Tests
set_option Elab.async false
open Sys2Proof Sys2Proof.Machine Sys2Proof.Machine.Ob

/-! ## Small states -/

/-- The coherence side in service at one second, with the objects given. -/
def srvEng (objs : List (Nat × Nat)) : Eng := { eng0 fuses0 0 objs with ts := 1000000000, svc := List.range 34 }

/-- The machine in service with a coherence side. -/
def srv (e : Eng) : State :=
  { State.reset with eng := e, pwr := { pwr0 with por := false, run := .up }, kpr := { kpr0 [] with on := true, booted := true } }

/-- The machine in service with the objects given. -/
def srvO (objs : List (Nat × Nat)) : State := srv (srvEng objs)

/-- The key under which an object's element is held. -/
def at_ (idx el : Nat) : Nat := idx * 256 + el

/-- A commit of one write passes every check in a state. -/
def takes (s : State) (w : World) (ws : List OWr) : Bool := s.toChip.accepts w ws

/-- CAID 5 is Bound at host port 3 to pool 0, one unit at 2^30, and another CAID 6 to nothing; re-mooring is off. -/
def hostObjs : List (Nat × Nat) :=
  [(at_ POOL_BASE 0, 2 ^ 30), (at_ POOL_UNITS 0, 1), (at_ POOL_STATE 0, 1), (at_ CAID_STATE 5, 1), (at_ CAID_STATE 6, 1), (at_ CAID_PORT 5, 3), (at_ CAID_PORT 6, 3),
   (at_ CAID_POOLS 5, 1)]

/-- The machine in service with that CAID, and its one unit moored here. -/
def hostS : State := srv { srvEng hostObjs with moor := [0] }

/-- A host beat to a line of that pool. -/
def hb : HostBeat := { xport := 0, caid := 5, hport := 3, tag := 1, line := 2 ^ 24, chk := .ok }

/-- The fields of a row of Table 04.2. -/
def mta (a : SnpT) (b : MetaF) (c : MetaV) : Meta := { snp := a, mf := b, mv := c }

/-- A request as a context or a queue holds it. -/
def rq0 : Req :=
  { gid := 1, op := .memRd, cls := 0, row := 1, v := 5, caid := 5, port := 3, tag := 1, line := 2 ^ 24, poison := false, be := 0, data := 0, usize := 0, uoff := 0,
    t0 := 0, remote := none, sweep := 0, passed := false }

/-- An open context of slice 0. -/
def cx0 : Ctx :=
  { slice := 0, idx := 0, share := .host, req := rq0, phase := .opened, tc := .open0, start := .I, needFill := false, needWalk := false, tile := none, tileI := 0,
    got := 0, gotBe := 0, fromHdc := false, hdcDirty := false, sslot := none, snp := .cur, want := none, roundDone := false, gone := [], shared := [], wbs := [],
    acc := none, dup := none, needRead := false, readAfter := false, needWrite := false, needUio := false, uioRd := false, uioRes := none, site := .none, toP := false,
    reqGone := false, answered := false, fin := false, stampQ := 0, stampL := 0, stampS := 0, stampM := 0, topen := 0 }

/-- A backing access. -/
def ac0 : Acc := { kind := .rd, why := .read, dev := 3, dpa := 0, data := 0, be := 0, poison := false, deadline := some 5 }

/-- A target of a snoop. -/
def tg0 : Tgt := { caid := 5, bit := true, left := [], taken := true, run := 10, start := 0, restarted := false, conflict := false, value := 10 }

/-! ## Where the hypotheses of the statements are met -/

theorem wit_StepRunsFront : ({ srvO [] with pending := [.leaseQuery] } : State).pending = Instr.leaseQuery :: [] ∧ State.reset.pending = [] ∧ State.reset.toChip.coreOn = false
    ∧ (srvO []).pending = [] ∧ (srvO []).toChip.coreOn = true := by decide +kernel

theorem wit_PortLevels : (srvO []).toChip.works = true ∧ (srvO []).eng.portUp.contains 0 = false ∧ (srvO []).eng.portUp.contains 63 = false
    ∧ (srv { srvEng [] with portUp := [63] }).eng.portUp.contains 63 = true ∧ (srv { srvEng [] with portUp := [63] }).toChip.works = true
    ∧ kget 0 63 (srvEng []).portLow + 3 < 4 ∧ 4 ≤ kget 0 63 ({ srvEng [] with portLow := [(63, 3)] } : Eng).portLow + 1 := by decide +kernel

theorem wit_RequestsAdmitted : hostS.toChip.works = true ∧ hostS.eng.rdy0 hb.xport = true ∧ hostS.eng.foghorn = false ∧ hostS.eng.inLeases hb.line = false
    ∧ rowRd false (mta .data .meta0 .a) ≠ 0 ∧ rowRd true (mta .noOp .noOp .other) ≠ 0 ∧ rowInv (mta .inv .meta0 .a) ≠ 0 ∧ rowCln (mta .noOp .noOp .other) ≠ 0
    ∧ rowWr (mta .inv .meta0 .a) ≠ 0 ∧ hostS.eng.reason hb false = none ∧ hostS.eng.reason hb true = none := by decide +kernel

theorem wit_RequestsAdmitted_check : hostS.eng.takeChk hb = some hostS.eng := rfl

theorem wit_RequestsRefused : hostS.toChip.works = true ∧ hostS.eng.inLeases 0 = false
    ∧ hostS.eng.reason { hb with line := 0 } false = some 5 ∧ hostS.eng.reason { hb with line := 0 } true = some 5
    ∧ hostS.eng.reason { hb with caid := 255 } false = some 2 ∧ hostS.eng.reason { hb with caid := 6 } true = some 6 := by decide +kernel

theorem wit_RequestsRefused_check : hostS.eng.takeChk { hb with line := 0 } = some hostS.eng := rfl

theorem wit_UnsupportedBeats : rowRd false (mta .inv .noOp .other) = 0 ∧ rowWr (mta .cur .meta0 .i) = 0 ∧ hostS.eng.reason hb false = none ∧ hostS.eng.reason hb true = none
    ∧ hostS.toChip.works = true ∧ hostS.eng.rdyG hb.xport 1 = true ∧ hostS.eng.rdyG hb.xport 3 = true ∧ hostS.eng.rdy0 hb.xport = true ∧ hostS.eng.inLeases hb.line = false
    ∧ reservedOpc 0 15 = true ∧ reservedOpc 1 0 = true ∧ reservedOpc 2 3 = true ∧ misplaced 0 15 0 = true ∧ misplaced 3 0 0 = true ∧ misplaced 1 1 2 = true ∧ misplaced 1 1 4 = false := by decide +kernel

theorem wit_AtomicBeats : hostS.eng.foghorn = false ∧ hostS.eng.reason hb false = none ∧ badForm false 1 0 0 0 = false ∧ badForm false 3 2 48 0 = false
    ∧ badForm false 1 2 0 0 = true ∧ badForm false 3 3 0 0 = true ∧ hb.chk ≠ .data ∧ ({ hb with chk := .data } : HostBeat).chk = .data := by decide +kernel

theorem wit_UnsupportedBeats_taken : (∃ e, hostS.eng.takeG hb 1 (hostS.eng.owner hb.line) = some e ∧ e.caidReason hb.caid hb.hport true = none ∧ e.foghorn = false)
    ∧ (∃ e, hostS.eng.takeG hb 3 hb.xport = some e) := ⟨⟨_, rfl, by decide +kernel⟩, _, rfl⟩

/-- Lease 0 lies in the window, which CAID 5 may use. -/
def leaseObjs : List (Nat × Nat) := [(at_ LEASE_BASE 0, 2 ^ 20), (at_ LEASE_ENABLE 0, 1), (at_ LEASE_POOL 0, 0)]

theorem wit_AtomicBeats_lease : (srvO (hostObjs ++ leaseObjs)).eng.inLeases 16384 = true
    ∧ (if (srvO (hostObjs ++ leaseObjs)).eng.inLeases 16384 then (srvO (hostObjs ++ leaseObjs)).eng.caidReason 5 3 false else some 0) = none
    ∧ badForm true 2 1 16 0 = false ∧ badForm true 2 0 0 0 = true := by decide +kernel

theorem wit_AtomicBeats_foghorn : ({ hostS.eng with foghorn := true } : Eng).foghorn = true
    ∧ (srv { hostS.eng with foghorn := true }).eng.rdy0 0 = true ∧ (srv { hostS.eng with foghorn := true }).eng.reason hb false = none := by decide +kernel

theorem wit_AtomicBeats_data : ∃ e, hostS.eng.takeChk { hb with chk := .data } = some e ∧ e.inLeases hb.line = false ∧ e.reason { hb with chk := .data } false = none
    ∧ e.foghorn = false := ⟨_, rfl, by decide +kernel⟩

/-- A target of a block snoop with its first and last line unanswered. -/
def tgB : Tgt := { tg0 with left := [0, 3] }

/-- A slot of the slice that owns the line of `hb`. -/
def sl0 : Slot := { slice := hostS.eng.owner hb.line, slot := 0, ctxs := [(0, 0)], sector := hb.line / 4, snp := .cur, blk := false, tgts := [tg0] }

/-- The coherence side after a group 1 beat of `hb` is taken. -/
def got1 (e : Eng) : Eng := (e.takeG hb 1 (e.owner hb.line)).getD e

theorem wit_BackInvalidateAnswers_taken (e : Eng) : e.takeG hb 1 (e.owner hb.line) = some (got1 e) := rfl

theorem wit_BackInvalidateAnswers :
    let e0 : Eng := { hostS.eng with snps := [sl0] }
    let e := got1 e0
    let b := got1 { hostS.eng with snps := [{ sl0 with blk := true, tgts := [tgB] }] }
    let tag := hostS.eng.owner hb.line * 128
    (srv e0).toChip.works = true ∧ e0.rdyG 0 1 = true ∧ e.caidReason 5 3 true = none ∧ e.foghorn = false
    ∧ tgB.left.contains (hb.line % 4) = true ∧ tgB.caid = 5 ∧ tgB.bit = true
    ∧ e.slotOfTag tag hb.line = some sl0 ∧ sl0.blk = false ∧ sl0.ctxs.any (fun c => c.1 == hb.line % 4) = true ∧ sl0.tgts.any (fun t => t.caid == 5 && t.bit) = true
    ∧ e.slotOfTag (tag + 1) hb.line = none ∧ e.slotOfTag 4095 hb.line = none
    ∧ b.slotOfTag tag hb.line = some { sl0 with blk := true, tgts := [tgB] }
    ∧ (((e.inc BICONFLICT_COUNT).conflictAck hb).slotFor hb.line 5) = some sl0
    ∧ ((((got1 hostS.eng).inc BICONFLICT_COUNT).conflictAck hb).slotFor hb.line 5) = none := by decide +kernel

/-- The machine with one context of slice 0. -/
def ctxS (x : Ctx) : State := srv { hostS.eng with ctxs := [x] }

/-- A backing beat of the context with tag 0, and the coherence side after it is taken. -/
def bb : HostBeat := { hb with tag := 0 }

def got2 (e : Eng) : Eng := (e.takeG bb 2 (e.numbered (bb.tag / 8192))).getD e

theorem wit_BackingAnswers_taken (e : Eng) : e.takeG bb 2 (e.numbered (bb.tag / 8192)) = some (got2 e) := rfl

theorem wit_BackingAnswers :
    let s := ctxS { cx0 with acc := some ac0 }
    s.toChip.works = true ∧ s.eng.rdyG bb.xport 2 = true ∧ (got2 s.eng).foghorn = false
    ∧ ((got2 s.eng).sawLoad 3 1).ctxOfTag bb.tag = some { cx0 with acc := some ac0 } ∧ ac0.kind = .rd ∧ bb.chk.isData = false
    ∧ (Chk.data 0).isData = true
    ∧ ((got2 (ctxS { cx0 with acc := some { ac0 with kind := .wrPtl } }).eng).sawLoad 3 0).ctxOfTag 0 = some { cx0 with acc := some { ac0 with kind := .wrPtl } }
    ∧ (got2 (ctxS { cx0 with acc := some { ac0 with kind := .uio } }).eng).ctxOfTag 0 = some { cx0 with acc := some { ac0 with kind := .uio } } ∧ cx0.uioRd = false
    ∧ (got2 hostS.eng).ctxOfTag 0 = none := by decide +kernel

/-- A beat that waits at port 0. -/
def oe0 : OEnt := { id := 1, at_ := 0, grp := 0, cls := 3, v := 5, beat := beat0, pair := none, presented := true, src := none, grant := false, gid := 1 }

/-- The last slot of the spare's stop. -/
def sl9 : Slot := { sl0 with slice := 33, slot := 127 }

/-- An echo entry of slice 0. -/
def ec0 : Echo := { slice := 0, valid := true, caid := 5, tag := 0, line := 0, op := 1, size := 0, off := 0, status := 0, time := 0, window := 0, result := 0 }

/-- A beat of a round with a second copy to come. -/
def oe1 : OEnt := { oe0 with grp := 1, cls := 5, more := [6] }

theorem wit_BeatsTakenAndFlowTimers :
    let w : Ctx := { cx0 with want := some [5] }
    let late (o : Op) (k : AccK) : Ctx := { cx0 with req := { rq0 with op := o }, acc := some { ac0 with kind := k } }
    let s1 : State := srv { hostS.eng with outq := [oe0], snps := [sl9], echo := [ec0] }
    let s2 : State := srv { hostS.eng with outq := [oe1] }
    s1.toChip.works = true ∧ s1.eng.portClamped 0 = false ∧ (s1.eng.outAt 0 0).find? (fun o => o.presented) = some oe0 ∧ oe0.more = []
    ∧ s2.eng.portClamped 0 = false ∧ (s2.eng.outAt 0 1).find? (fun o => o.presented) = some oe1 ∧ oe1.more ≠ [] ∧ s2.eng.foghorn = false
    ∧ (ctxS w).eng.ctx 0 0 = some w ∧ w.phase = .opened ∧ w.want.isSome = true
    ∧ s1.eng.snps.find? (fun q => q.slice == 33 && q.slot == 127) = some sl9 ∧ sl9.tgts.find? (fun t => t.caid == 5) = some tg0 ∧ tg0.expired s1.eng.ts = true
    ∧ (ctxS (late .wback .wr)).eng.ctx 0 0 = some (late .wback .wr) ∧ (ctxS (late (.drift 15) .wr)).eng.ctx 0 0 = some (late (.drift 15) .wr)
    ∧ (ctxS (late (.drift 0) .rd)).eng.ctx 0 0 = some (late (.drift 0) .rd) ∧ (ctxS (late .memRd .rd)).eng.ctx 0 0 = some (late .memRd .rd)
    ∧ (late .memRd .rd).req.op ≠ .wback ∧ 5 ≤ (ctxS w).eng.ts
    ∧ (s1.eng.echo.filter fun x => x.slice == 0)[0]? = some ec0 ∧ ec0.valid = true ∧ s1.eng.echoFresh ec0 = false := by decide +kernel

theorem wit_BeatsTakenAndFlowTimers_flow : ∀ ch, Op.memRd ≠ .drift ch := nofun

/-- The machine whose hot-line clear has ended. -/
def initObjs : List (Nat × Nat) := hostObjs ++ [(at_ HDC_INIT_DONE 0, 1)]

/-- A request in its per-line queue at a slice. -/
def lq (k : Nat) (r : Req) : QEnt := { slice := k, req := r }

/-- The owner of the line of `rq0`. -/
def ow : Nat := hostS.eng.owner rq0.line

/-- The looking-up slice with the request of `rq0` at the head of its queue. -/
def headS : State := srv { srvEng initObjs with moor := [0], lineq := [lq ow rq0] }

theorem wit_SliceOperations_lookup :
    headS.toChip.works = true ∧ headS.eng.looksUp ow = true ∧ headS.eng.issueHead ow = some (lq ow rq0) ∧ rq0.op ≠ .remoor
    ∧ ((headS.eng.countStall ow).useSlot ow).shareFor ow 0 = some .host ∧ ((headS.eng.countStall ow).useSlot ow).idxFree ow 8191 = true
    ∧ ((headS.eng.countStall ow).useSlot ow).idxFree ow 0 = true := by decide +kernel

/-- A planned visit in the same queue. -/
def visitS : State := srv { headS.eng with lineq := [lq ow { rq0 with op := .visit 5 true, cls := 7 }] }

theorem wit_SliceOperations_visit : visitS.eng.head ow true = some (lq ow { rq0 with op := .visit 5 true, cls := 7 }) ∧ visitS.eng.looksUp ow = true
    ∧ visitS.eng.shareFor ow 7 = some .int ∧ visitS.eng.idxFree ow 8191 = true := by decide +kernel

/-- A transfer operation in the same queue. -/
def moveS : State := srv { headS.eng with lineq := [lq ow { rq0 with op := .remoor, cls := 7 }] }

theorem wit_SliceOperations_move : moveS.eng.looksUp ow = true ∧ (moveS.eng.issueHead ow).any (fun q => q.req.op == .remoor) = true := by decide +kernel

/-- All of a slice's contexts reserved for others: no share is free for a visit. -/
def fullS : State := srv { visitS.eng with objs := (at_ WATCH_MIN_INT 0, 0) :: visitS.eng.objs }

theorem wit_SliceOperations_stall : fullS.eng.looksUp ow = true ∧ fullS.eng.issueHead ow = none ∧ fullS.eng.lineHeads ow ≠ [] := by decide +kernel

theorem wit_SliceOperations_grant : ((srv { hostS.eng with qf := [lq ow rq0], lineq := [] }).eng.pump.grantOne ow none).2 = some (0, 5) := by decide +kernel

/-- A context of slice `ow` that waits for its set. -/
def waitX : Ctx := { cx0 with slice := ow, phase := .waitSet }

/-- That waiter. -/
def wt0 : Waiter := { slice := ow, set := sfaSet 0 (hostS.eng.psn rq0.line), sector := rq0.line / 4, psn := hostS.eng.psn rq0.line, ctx := some 0 }

/-- The machine with that waiter and a free way. -/
def waitS : State := srv { srvEng initObjs with moor := [0], ctxs := [waitX], waiters := [wt0] }

theorem wit_SliceOperations_waiter : waitS.eng.evicting ow wt0.sector = false ∧ waitS.eng.waiters.find? (fun w => w.slice == ow && w.set == wt0.set) = some wt0 ∧ wt0.ctx = some 0
    ∧ waitS.eng.ctx ow 0 = some waitX ∧ (waitS.eng.lookDir waitX true).2.phase ≠ .waitSet := by decide +kernel

/-- A fill that has found its sector, and a walk that has read its entry. -/
def doneEng : Eng :=
  { hostS.eng with ctxs := [{ cx0 with phase := .held }], fills := [{ slice := 0, sector := 4, psn := 0, set := 0, way := 0, res := .absent }],
                   walks := [{ slice := 33, i := 2 ^ 25 - 1, seq := none, res := some none }] }

theorem wit_SliceOperations_done : doneEng.ctx 0 0 = some { cx0 with phase := .held } ∧ ({ doneEng with ctxs := [cx0] } : Eng).ctx 0 0 = some cx0 ∧ cx0.phase = .opened
    ∧ (doneEng.fills.find? (fun f => f.slice == 0 && f.sector == 4)).any (fun f => decide (f.res ≠ .reading)) = true
    ∧ (doneEng.walks.find? (fun w => w.slice == 33 && w.i == 2 ^ 25 - 1)).any (fun w => decide (w.res = some none)) = true := by decide +kernel

/-- A spill entry of a kind. -/
def sp0 (k : SpillK) : Spill := { slice := 0, sector := 4, psn := 0, l := [], kind := k, dbs := false, slot := 0, seq := none, chosen := none, back := false }

/-- The DBS up, with such an entry. -/
def spillE (k : SpillK) : Eng := { srvEng [(at_ GUARD_ARM 0, 1)] with rwlDone := [DBS_BASE], spill := [sp0 k] }

theorem wit_DbsOperations_spill : (srv (spillE .rewrite)).toChip.works = true ∧ (spillE .rewrite).dbsUp = true
    ∧ (spillE .rewrite).spill.find? (fun p => p.slice == 0 && p.kind == .rewrite && (spillE .rewrite).spillMay p) = some (sp0 .rewrite)
    ∧ (spillE .placement).dbsUp = true ∧ (spillE .placement).spill.find? (fun p => p.slice == 0 && p.kind == .placement && (spillE .placement).spillMay p) = some (sp0 .placement)
    ∧ (spillE .release).dbsUp = true ∧ (spillE .release).spill.find? (fun p => p.slice == 0 && p.kind == .release && (spillE .release).spillMay p) = some (sp0 .release) := by
  decide +kernel

/-- A running overflow of page 7. -/
def ov0 (st : OvSt) : Overflow := { id := 3, page := 7, zsector := 4, zslice := 0, st := st, asked := 0, declined := [], shadow := false, kept := false, allDeclined := false, retryAt := 0, lines := 0 }

/-- A burst of that page. -/
def bu0 : Burst := { b := 0, sector := 8, psn := 2, l := [], gens := [] }

/-- That page. -/
def pg0 : DbsPage := { page := 7, bursts := [bu0], cont := [], pgrp := 0, plow := 0, scg := 0, wgen := 0 }

/-- A sequence of accesses. -/
def sq0 (k : SeqK) : DSeq := { id := 3, ch := 0, kind := k, rq := 0, lock := none, locked := true, stages := [], out := 0, ph := 1, bad := [], wbad := false }

/-- The overflow with its page and its sequence. -/
def ovE (st : OvSt) : Eng := { spillE .placement with overflows := [ov0 st], dbs := [pg0], seqs := [sq0 (.overflow 7)] }

theorem wit_DbsOperations_evict : (ovE .evictSent).overflows.find? (fun o => o.page == 7 && decide (o.st = .evictSent)) = some (ov0 .evictSent)
    ∧ (ovE .evictSent).page 7 = some pg0 ∧ pg0.bursts.find? (fun b => b.b == (ov0 .evictSent).asked) = some bu0
    ∧ (ovE .evictSent).evictDeclines ((ovE .evictSent).owner (bu0.sector * 4)) bu0.sector = false
    ∧ ({ ovE .evictSent with fills := [{ slice := (ovE .evictSent).owner 32, sector := 8, psn := 2, set := 0, way := 0, res := .reading }] } : Eng).evictDeclines
        ((ovE .evictSent).owner 32) 8 = true := by decide +kernel

/-- The message of that overflow is sent. -/
theorem wit_DbsOperations_sent : ((ovE .evictSent).galSend .evict 7 (33 + pageCh 7) ((ovE .evictSent).owner 32)).evictDeclines ((ovE .evictSent).owner 32) 8 = false := by decide +kernel

theorem wit_DbsOperations_answers : (ovE .declineSent).overflows.any (fun o => o.page == 7 && o.st == .declineSent) = true
    ∧ (ovE .keptSent).overflows.any (fun o => o.page == 7 && o.st == .keptSent) = true
    ∧ (ovE .retryWait).overflows.find? (fun o => o.page == 7 && decide (o.st = .retryWait)) = some (ov0 .retryWait) ∧ (ov0 .retryWait).retryAt ≤ (ovE .retryWait).ts
    ∧ (ovE .retryWait).seqs.find? (fun q => q.id == 3) = some (sq0 (.overflow 7)) := by
  decide +kernel

theorem wit_DbsOperations_complete :
    let e : Eng := { ovE .completeSent with spill := [{ sp0 .placement with seq := some 3 }] }
    e.overflows.find? (fun o => o.page == 7 && decide (o.st = .completeSent)) = some (ov0 .completeSent)
    ∧ (e.ovClosed (ov0 .completeSent)).seqs.find? (fun q => q.id == 3) = some (sq0 (.overflow 7))
    ∧ (e.ovClosed (ov0 .completeSent)).seqSpill 0 4 3 = some { sp0 .placement with seq := some 3 } ∧ (e.ovClosed (ov0 .completeSent)).page 7 = some pg0
    ∧ (firstFree pg0 (dbsHome 0) ((e.ovClosed (ov0 .completeSent)).avoidOf 7)).isSome = true := by decide +kernel

/-- A planned sweep whose SFA scan has ended. -/
def sw0 : Sweep := { id := 9, caid := 5, pools := 1, planned := true, all := true, sfaDone := true, dbsLeft := none, reading := false, visits := 0, poisoned := 0 }

theorem wit_DbsOperations_sweep : (({ hostS.eng with sweeps := [sw0] } : Eng).sweeps.find? (fun w => w.caid == 5 && w.sfaDone && w.dbsLeft.isNone)) = some sw0 ∧ sw0.sfaDone = true ∧ sw0.dbsLeft = none := by
  decide +kernel

/-- A hot-line way of the line of `rq0`, clean and valid. -/
def hw0 : HWay := { slice := ow, set := 0, way := 0, psn := 0, sector := rq0.line / 4, lv := [true, false, false, false], ld := [false, false, false, false],
                    lh := [false, false, false, false], lp := [false, false, false, false], d := [0, 0, 0, 0], lock := false, rank := 0, resv := [] }

/-- The sector's directory way, its first line in H. -/
def dw0 : SfaWay := { slice := ow, set := 0, way := 0, psn := 0, sector := rq0.line / 4, l := [.H, .I, .I, .I], rank := 0, dbs := false, dirty := false, slot := 0, resv := false }

theorem wit_HdcCommands :
    let e : Eng := { srvEng (hostObjs ++ [(at_ HDC_STATUS 0, 1)]) with hdc := [hw0], sfa := [dw0], hIdle := [⟨rq0.line, 0⟩] }
    let d : Eng := { srvEng [(at_ HDC_STATUS 0, 2)] with hdcLeft := [0, 31] }
    (srv e).toChip.works = true ∧ e.hIdle.find? (fun h => h.line == rq0.line) = some ⟨rq0.line, 0⟩ ∧ 0 + e.ob ATOM_H_IDLE ≤ e.ts ∧ (e.hMove rq0.line).2 = true ∧ e.mirrorsLine rq0.line = false
    ∧ d.ob HDC_STATUS = 2 ∧ d.hdcLeft.contains 0 = true ∧ d.hdcLeft.contains 31 = true ∧ (d.hdcWalk 31).hdcQuiet 31 = true
    ∧ (({ d with evb := [{ slice := 0, line := 0, data := 0, inBuf := true, ctx := some 0 }] } : Eng).hdcWalk 0).hdcQuiet 0 = false := by decide +kernel

theorem wit_HdcCommands_commits : takes (srvO []) .secure [⟨HDC_ENABLE, 0, 0⟩] = true ∧ takes (srvO []) .normal [⟨HDC_ENABLE, 0, 1⟩] = true
    ∧ takes (srvO []) .secure [⟨HDC_UNLOCK_ALL, 0, 1⟩] = true ∧ takes (srvO []) .secure [⟨HDC_PRELOAD, 0, 2 ^ 52⟩] = true := by decide +kernel

/-- A lease command: its operation, size, offset and operand, at lease l. -/
def leaseQ (uop uoff l : Nat) (data : Data) : LeaseReq :=
  { slice := 0, req := { rq0 with op := .atomic, cls := 6, row := uop, line := 16384 + l, usize := 1, uoff := uoff, data := data }, delta := none, status := 0, result := 0 }

/-- The leases enabled for pool 0, CAID 5 asking for lease l, and lease l as given. -/
def leaseE (q : LeaseReq) (l : Nat) (y : Lease) : Eng := { srvEng (hostObjs ++ leaseObjs) with moor := [0], leaseReqs := [q], leases := [(l, y)] }

/-- A lease of an owner in a state. -/
def le0 (st : LeaseSt) (owner : Nat) : Lease := { st := st, owner := owner, cause := 0, gen := 4, term := 10, deadline := 5, since := 0 }

theorem wit_LeaseCommands :
    let q0 := leaseQ 2 0 0 0
    let s (r : LeaseReq) (y : Lease) : State := srv (leaseE { r with status := 8 } 0 y)
    (s q0 (le0 .free 0)).toChip.works = true ∧ (s q0 (le0 .free 0)).eng.leaseHead = some { q0 with status := 8 } ∧ q0.req.leaseCmd = .acquire
    ∧ (leaseQ 2 8 0 0).req.leaseCmd = .renew ∧ (leaseQ 2 16 0 0).req.leaseCmd = .release ∧ (leaseQ 1 24 4095 0).req.leaseCmd = .query
    ∧ (s q0 (le0 .free 0)).eng.breaksNear.foghorn = false ∧ (s q0 (le0 .free 0)).eng.breaksNear.leaseAway = false
    ∧ (s q0 (le0 .free 0)).eng.breaksNear.leaseMirrored = false ∧ (s q0 (le0 .free 0)).eng.breaksNear.mayLease 5 0 = true
    ∧ (s q0 (le0 .free 0)).eng.breaksNear.mayLease 6 0 = false
    ∧ ((s q0 (le0 .free 0)).eng.breaksNear.lease 0).st = .free ∧ ((s q0 (le0 .broken 0)).eng.breaksNear.lease 0).st = .broken
    ∧ ((s q0 (le0 .held 5)).eng.breaksNear.lease 0).owner = 5 ∧ ((s q0 (le0 .held 6)).eng.breaksNear.lease 0).owner ≠ 5
    ∧ ((s q0 (le0 .held 5)).eng.breaksNear.lease 0).st = .held := by decide +kernel

theorem wit_LeaseBreaks :
    let e := leaseE (leaseQ 2 0 0 0) 4095 (le0 .held 5)
    (srv e).toChip.works = true ∧ (e.lease 4095).st = .held ∧ (e.lease 4095).deadline ≤ e.ts ∧ e.brace = false ∧ e.foghorn = false ∧ e.leaseAway = false
    ∧ ({ e with breaks := [⟨some 4095, none, 6, 0⟩] } : Eng).breaks = (⟨some 4095, none, 6, 0⟩ : BreakMsg) :: []
    ∧ ({ e with breaks := [⟨none, some 5, 3, 0⟩] } : Eng).breaks = (⟨none, some 5, 3, 0⟩ : BreakMsg) :: []
    ∧ takes (srvO []) .secure [⟨LEASE_BREAK, 0, 4095⟩] = true ∧ takes (srvO []) .normal [⟨LEASE_BREAK_CAID, 0, 255⟩] = true
    ∧ takes (srvO []) .secure [⟨LEASE_FREE, 0, 0⟩] = true := by decide +kernel

theorem wit_BindingCommits : takes (srvO []) .secure (bindWrs 0 (some 63) (some 7) (some 1)) = true ∧ takes (srvO []) .secure (bindWrs 255 none (some 7) none) = true
    ∧ takes hostS .secure [⟨CAID_UNBIND, 5, 1⟩] = true ∧ takes hostS .secure [⟨CAID_UNBIND, 5, 2⟩] = true
    ∧ takes (srvO [(at_ CAID_STATE 255, 2)]) .normal [⟨CAID_UNBIND, 255, 2⟩] = true := by decide +kernel

/-- The tile-map pages of a unit written. -/
def poolS : State := srv { srvEng [] with written := [0, 1] }

theorem wit_PoolAndTileCommits :
    takes poolS .secure [⟨POOL_BASE, 0, 2 ^ 30⟩, ⟨POOL_UNITS, 0, 1⟩, ⟨POOL_TMBASE, 0, 0⟩] = true ∧ takes poolS .secure [⟨POOL_BASE, 63, 0⟩, ⟨POOL_UNITS, 63, 1⟩, ⟨POOL_TMBASE, 63, 0⟩] = true
    ∧ (OWr.mk POOL_UNITS 63 1).v ≠ 0 ∧ takes (srvO [(at_ POOL_UNITS 0, 1), (at_ POOL_STATE 0, 1)]) .secure [⟨POOL_UNITS, 0, 0⟩] = true ∧ takes hostS .secure [⟨POOL_UNITS, 63, 0⟩] = true
    ∧ takes poolS .secure [⟨TILE_MAP_WRITE, 0, 2 ^ 25 - 1⟩] = true ∧ takes poolS .secure [⟨TILE_MAP_FILL, 0, 2⟩] = true ∧ takes poolS .secure [⟨TILE_MAP_FILL, 0, 2 ^ 32⟩] = true
    ∧ takes poolS .secure [⟨GUARD_ARM, 0, 1⟩] = true ∧ takes poolS .secure [⟨TAINT_CLEAR, 0, 63⟩] = true
    ∧ ({ hostS.eng with purges := [(63, 0, 1, 0)] } : Eng).purges.find? (fun q => q.1 == 63) = some (63, 0, 1, 0)
    ∧ ({ hostS.eng with purges := [(63, 0, 1, 0)] } : Eng).purgeBusy (63, 0, 1, 0) = false := by decide +kernel

/-- An open access of a channel, taken at a time. -/
def do0 (op : DOp) (at' : Nat) : DOpen := { ch := 3, tag := 255, seq := 3, a := ⟨op, 0⟩, taken := at' }

theorem wit_DramPort :
    let e (op : DOp) (at' : Nat) : Eng := { srvEng [] with dopen := [do0 op at'], seqs := [sq0 (.walk 0 0)] }
    (srv (e .rd 999992000)).toChip.works = true ∧ ((e .rd 999992000).dramRsp 3 255 false).2 = some (do0 .rd 999992000) ∧ ((e .rd 999992000).dramRsp 3 255 false).1.foghorn = false
    ∧ ((e .wr 1000000000).dramRsp 3 255 true).2 = some (do0 .wr 1000000000) ∧ ((e .mwr 1000000000).dramRsp 3 255 true).2 = some (do0 .mwr 1000000000)
    ∧ ((e .wr 1000000000).dramRsp 3 255 true).1.foghorn = false
    ∧ (e .wr 999991999).dopen.find? (fun o => o.ch == 3 && o.tag == 255) = some (do0 .wr 999991999) ∧ (do0 .wr 999991999).taken + 8000 < (e .wr 0).ts
    ∧ (e .wr 0).foghorn = false ∧ (do0 .rd 0).a.op = .rd ∧ (do0 .wr 0).a.op ≠ .rd ∧ ({ e .rd 0 with foghorn := true } : Eng).foghorn = true := by decide +kernel

/-- A command of channel 3 that waits. -/
def dc0 : DCmd := { ch := 3, rq := 0, seq := 3, a := ⟨.rd, 0⟩ }

theorem wit_DramPort_taken : ((({ srvEng [] with dcmds := [dc0] } : Eng).dramPresent 3).dcmds.find? fun c => c.ch == 3 && c.tag.isSome).isSome = true := by
  decide +kernel

/-- A channel that copies tile 0. -/
def ch0 (p : DPhase) : Chan :=
  { ch := 15, phase := p, tile := 0, sdev := 0, sframe := 0, ddev := 0, dframe := 1, cursor := 32768, next := 32767, reports := [0, 33], aborted := false, last := none, wait := none }

/-- A Drift of tile 0 of pool 0. -/
def driftE (c : Chan) : Eng :=
  { srvEng (hostObjs ++ [(at_ PLACE_ENABLE 0, 1)]) with moor := [0], tmap := [(0, { tent0 with valid := true, drift := true })], written := [0], chans := [c] }

theorem wit_DriftAndHeat :
    (srv (driftE (ch0 .copy))).toChip.works = true ∧ (driftE (ch0 .copy)).chans.find? (fun c => c.ch == 15) = some (ch0 .copy) ∧ (driftE (ch0 .copy)).driftMay (ch0 .copy) = true
    ∧ (driftE (ch0 .copy)).tileLine 0 32767 = some (2 ^ 24 + 32767) ∧ (ch0 .copy).phase = .copy ∧ 32768 ≤ (ch0 .copy).cursor ∧ (driftE (ch0 .copy)).driftOpen 15 = 0
    ∧ ((driftE (ch0 .drain)).driftDrain 15).chans.find? (fun c => c.ch == 15) = some (ch0 .drain) ∧ (ch0 .drain).reports.contains 33 = true
    ∧ ((driftE (ch0 .drain)).driftDrain 15).driftClear 33 0 = true ∧ (dropNat 33 (ch0 .drain).reports).isEmpty = false
    ∧ (dropNat 33 ({ ch0 .drain with reports := [33] } : Chan).reports).isEmpty = true
    ∧ (srvEng []).heatDue ≤ (srvEng []).ts ∧ (srvEng []).foghorn = false ∧ (srvEng []).heatLeft = none ∧ ({ srvEng [] with heatLeft := some [] } : Eng).heatLeft ≠ none
    ∧ ({ srvEng [] with heatMsgs := [(0, 1)] } : Eng).heatMsgs = (0, 1) :: []
    ∧ takes (srv { driftE (ch0 .copy) with tmap := [(0, { tent0 with valid := true })] }) .secure [⟨DRIFT_START, 0, 2 ^ 40⟩] = true
    ∧ takes (srv (driftE (ch0 .copy))) .normal [⟨DRIFT_ABORT, 0, 15⟩] = true ∧ (List.range 16).find? (driftE (ch0 .copy)).chanFree = some 0 := by decide +kernel

/-- This node is number 1, the manager, and may place. -/
def nodeObjs : List (Nat × Nat) := [(at_ PLACE_ENABLE 0, 1), (at_ HIER_ROLE 0, 1), (at_ HIER_NODE_ID 0, 1), (at_ HIER_MANAGER_NODES 0, 0xFF01), (at_ HDC_INIT_DONE 0, 1)]

/-- The machine at that node. -/
def nodeE : Eng := { srvEng (hostObjs ++ nodeObjs) with moor := [0] }

/-- A hierarchy message to this node from a source. -/
def hd (src : Nat) : Hdr := { xport := 1, src := src, dst := 1, seq := 0, epoch := 0 }

/-- A re-mooring as this node takes part in it. -/
def rm0 (role : RRole) (u step : Nat) : Remoor :=
  { role := role, unit := u, peer := 2, step := step, cursors := [], sent := [8], committed := [], wrote := [], timer := some 5, failed := [] }

/-- The machine with that re-mooring. -/
def rmS (role : RRole) (step : Nat) : State := srv { nodeE with remoor := rm0 role 65535 step }

theorem wit_RemooringAtOwnerAndTarget :
    let o : Eng := { nodeE with objs := kput (at_ REMOOR_CAID_MAP 5) 7 nodeE.objs }
    (srv o).toChip.works = true ∧ (srv o).toChip.fab.isNew (hd 2) = true ∧ (hd 2).src ≠ o.ob HIER_NODE_ID ∧ o.ob HIER_NODE_ID = 1 ∧ o.prepareO 0 = none
    ∧ nodeE.prepareO 0 = some 3 ∧ nodeE.prepareO 65535 = some 1 ∧ nodeE.prepareN 65535 = some 1 ∧ o.ob HIER_NODE_ID ≠ 2
    ∧ ({ nodeE with moor := [], written := [0, 1] } : Eng).prepareN 0 = none
    ∧ (rmS .releasing 1).eng.remoor.role = .releasing ∧ (rmS .releasing 1).eng.remoor.unit = 65535 ∧ (rmS .releasing 1).eng.remoor.step = 1
    ∧ (rmS .receiving 1).eng.remoor.role = .receiving
    ∧ (hd 2).src ≠ (Eng.remoorStep { (rmS .receiving 2).eng with moor := insertNat 65535 (rmS .receiving 2).eng.moor } 3).ob HIER_NODE_ID
    ∧ (rmS .releasing 2).eng.remoor.sent.contains 8 = true ∧ (rmS .releasing 2).eng.remoor.committed.contains 8 = false := by decide +kernel

/-- A re-mooring as the manager runs it, from node 2 to node 3. -/
def mg0 (step : Nat) (preparedO : Bool) : RemoorMgr := { unit := 9, o := 2, n := 3, preparedO := preparedO, preparedN := false, step := step, ends := 5 }

/-- The manager with that re-mooring. -/
def mgS (step : Nat) (p : Bool) : State := srv { nodeE with rmgr := [mg0 step p] }

theorem wit_RemooringAtManager :
    let f (step : Nat) (p : Bool) : Fab := (mgS step p).toChip.fab.arrived (hd 3)
    (mgS 1 false).toChip.works = true ∧ (mgS 1 false).toChip.fab.isNew (hd 3) = true ∧ (f 1 false).eng.asked 3 = some (mg0 1 false)
    ∧ (f 1 true).eng.asked 3 = some (mg0 1 true)
    ∧ ¬ (((mg0 1 false).preparedO || (hd 3).src == (mg0 1 false).o) = true ∧ ((mg0 1 false).preparedN || (hd 3).src == (mg0 1 false).n) = true)
    ∧ ((mg0 1 true).preparedO || (hd 3).src == (mg0 1 true).o) = true ∧ ((mg0 1 true).preparedN || (hd 3).src == (mg0 1 true).n) = true
    ∧ (mg0 1 true).o ≠ (Eng.putMgr (mgS 1 true).eng (mg0 1 true) 2 []).ob HIER_NODE_ID
    ∧ (mg0 1 false).o ≠ ((mgS 1 false).eng.mgrEnd (mg0 1 false)).ob HIER_NODE_ID
    ∧ (mg0 1 false).n ≠ (((mgS 1 false).eng.mgrEnd (mg0 1 false)).hsend 0x1A 2 9 none none none).ob HIER_NODE_ID
    ∧ (f 2 true).eng.mgrAt 9 2 = some (mg0 2 true) ∧ (mg0 2 true).n ≠ ((mgS 2 true).eng.mgrStep (mg0 2 true) 3).ob HIER_NODE_ID
    ∧ (f 3 true).eng.mgrAt 9 3 = some (mg0 3 true) ∧ (f 4 true).eng.mgrAt 9 4 = some (mg0 4 true) := by decide +kernel

/-- A request forwarded to this node, and an answer to one this node forwarded. -/
def fb0 (op : FwdOp) (caid : Nat) : FwdBeat := { op := op, row := 9, caid := caid, port := 3, tag := 1, line := 2 ^ 24, usize := 0, uoff := 0, pl := noPl }

/-- A request this node forwarded. -/
def fw0 : Fwd := { id := 4, slice := 0, req := rq0, mcaid := 7, ends := 5 }

/-- The answer to it: a completion, and a first beat of data. -/
def fa0 : FwdAnsB := { caid := 7, tag := 1, ndr := some 2, drs := 0, uio := none, data := 0, poison := false }

theorem wit_ForwardedRequests :
    let s := srv { nodeE with fwds := [fw0] }
    let ask (op : FwdOp) (caid : Nat) : Req := (s.toChip.fab.arrived (hd 2)).eng.fwdIn (reqOfFwd (fb0 op caid)) 2 0
    let why (r : Req) : Option Nat := Eng.fwdWhy { (s.toChip.fab.arrived (hd 2)).eng with fresh := (s.toChip.fab.arrived (hd 2)).eng.fresh + 1 } r
    let f1 := (s.toChip.fab.arrived (hd 2)).answered fun (m : HMsg) => m.typ == 0x1B && m.dst == 2 && (match m.req with | some r => r.caid == 7 && r.tag == 1 | none => false)
    s.toChip.works = true ∧ s.toChip.fab.isNew (hd 2) = true
    ∧ why (ask .memRd 5) = none ∧ why (ask .memWr 6) = some 6 ∧ why (ask .memRd 6) = some 6 ∧ why (ask .memInv 6) = some 6 ∧ why (ask .atomic 6) = some 6
    ∧ (ask .memWr 6).op = .memWr ∧ (ask .memRd 6).op = .memRd ∧ (ask .memInv 6).op = .memInv ∧ (ask .atomic 6).op = .atomic
    ∧ f1.eng.fwds.find? (fun g => g.mcaid == 7 && g.req.tag == 1) = some fw0 ∧ f1.eng.fwds.find? (fun g => g.mcaid == 7 && g.req.tag == 2) = none
    ∧ fa0.uio = none ∧ fa0.drs ≠ 1 ∧ fw0.req.isWrite = false ∧ Eng.deaf { f1.eng with fwds := [] } fw0.req.caid = false ∧ f1.eng.deaf fw0.req.caid = false
    ∧ Eng.deaf { f1.eng with fwds := [] } 255 = true := by decide +kernel

theorem wit_RemooringTimersAndTransfer :
    takes (srv nodeE) .secure [⟨REMOOR_REQUEST, 0, 65535 + 3 * 2 ^ 16⟩] = true ∧ bits (nodeE.mapEntry 65535) 7 0 ≠ nodeE.ob HIER_NODE_ID ∧ bits (65535 + 3 * 2 ^ 16) 23 16 ≠ nodeE.ob HIER_NODE_ID
    ∧ (rmS .releasing 2).eng.transferMay 0 = true ∧ (rmS .releasing 2).eng.transferMay 31 = true
    ∧ (mgS 1 false).eng.rmgr.reverse.find? (fun m => m.step == 1 && decide (m.ends ≤ (mgS 1 false).eng.ts)) = some (mg0 1 false)
    ∧ (rmS .releasing 4).eng.mswap = none ∧ (rmS .releasing 4).eng.remoor.timer = some 5 ∧ (rmS .releasing 4).eng.remoor.role = .releasing ∧ 5 ≤ (rmS .releasing 4).eng.ts
    ∧ (rmS .releasing 4).eng.remoor.step = 4 ∧ (rmS .releasing 3).eng.remoor.step = 3
    ∧ ({ nodeE with fwds := [fw0] } : Eng).fwds.find? (fun f => f.id == 4) = some fw0 ∧ fw0.ends ≤ nodeE.ts ∧ nodeE.deaf 5 = false ∧ nodeE.deaf 255 = true
    ∧ fw0.req.isWrite = false := by decide +kernel

/-- A write this node forwarded, to a line of a tile it holds. -/
def fwW : Fwd := { fw0 with req := { rq0 with op := .memWr, cls := 1 } }

theorem wit_RemooringTimersAndTransfer_write :
    let e : Eng := { nodeE with tmap := [(0, { tent0 with valid := true })], fwds := [fwW] }
    fwW.req.isWrite = true
    ∧ (Eng.fwdWrite (Eng.rasEntry { e with fwds := e.fwds.filter fun (g : Fwd) => g.id != 4 } 7 2 (e.portOf fwW.slice) (fwW.req.line % 2 ^ 40) 0xFF 0) fwW).2 = true := by
  decide +kernel

theorem wit_RemooringTimersAndTransfer_own :
    let e : Eng := { nodeE with objs := kput (at_ HIER_MAP 3) 1 nodeE.objs }
    bits (e.mapEntry 3) 7 0 = e.ob HIER_NODE_ID ∧ bits (3 + 2 * 2 ^ 16) 23 16 ≠ e.ob HIER_NODE_ID
    ∧ bits (e.mapEntry 4) 7 0 ≠ e.ob HIER_NODE_ID ∧ bits (4 + 1 * 2 ^ 16) 23 16 = e.ob HIER_NODE_ID := by decide +kernel

/-- A handoff of bucket 255 from slice 31 to slice 0. -/
def ho0 (p : Bool) : Handoff := { bucket := 255, a := 31, b := 0, passing := p }

/-- A directory way of that bucket at slice 31. -/
def hoWay : SfaWay := { dw0 with slice := 31, set := 0, sector := 255, psn := 0 }

theorem wit_HandoffAndSpare :
    let e : Eng := { nodeE with handoff := some (ho0 false) }
    takes (srv nodeE) .secure [⟨BUCKET_MOVE, 0, 255 + 0 * 2 ^ 8⟩] = true ∧ takes (srv nodeE) .secure [⟨BUCKET_MOVE, 0, 0 + 31 * 2 ^ 8⟩] = true
    ∧ takes (srv nodeE) .secure [⟨SLICE_PARK, 0, 2⟩] = true ∧ takes (srv nodeE) .secure [⟨SPARE_SWAP, 0, 31⟩] = true
    ∧ (srv e).toChip.works = true ∧ e.handoff = some (ho0 false) ∧ (ho0 false).passing = false ∧ e.brace = false ∧ e.foghorn = false
    ∧ (e.bucketWalk (ho0 false)).bucketQuiet (ho0 false) = true
    ∧ ((Eng.moveWays 0 ((e.bucketWalk (ho0 false)).bucketWays (ho0 false)) (e.bucketWalk (ho0 false))).bucketWays (ho0 false)).isEmpty = true
    ∧ (Eng.bucketWalk { e with ctxs := [{ cx0 with slice := 31, req := { rq0 with line := 1020 } }] } (ho0 false)).bucketQuiet (ho0 false) = false
    ∧ (ho0 true).passing = true := by decide +kernel

theorem wit_HandoffAndSpare_dark :
    let e : Eng := srvEng ((at_ SLICE_PARK 0, 2 ^ 31) :: (List.range 256).map fun b => (at_ BUCKET_TABLE b, 0))
    31 < e.n ∧ bit (e.ob SLICE_PARK) 31 = true ∧ bit (e.ob SLICE_LIT) 31 = true ∧ e.owns 31 = false ∧ e.sliceEmpty 31 = true
    ∧ (srvEng [(at_ DICT_DRAIN_PENDING 0, 2 ^ 31)]).draining = some 31 ∧ (srvEng []).ctxs = [] ∧ (srvEng []).qf = [] ∧ (srvEng []).lineq = []
    ∧ bit ((srvEng [(at_ SLICE_LIT 0, 1)]).ob SLICE_LIT) 31 = false := by decide +kernel

/-- Every way of that set at slice 0 reserved, so that nothing can move there. -/
def hoFull : Eng := { nodeE with handoff := some (ho0 false), sfa := hoWay :: (List.range 16).map fun k => { dw0 with slice := 0, set := 0, way := k, sector := k, psn := k, resv := true } }

theorem wit_HandoffAndSpare_stuck : bucketOf (hoWay.sector * 4) = 255 ∧ (hoFull.bucketWalk (ho0 false)).bucketQuiet (ho0 false) = true
    ∧ ((Eng.moveWays 0 ((hoFull.bucketWalk (ho0 false)).bucketWays (ho0 false)) (hoFull.bucketWalk (ho0 false))).bucketWays (ho0 false)).isEmpty = false := by decide +kernel

/-- The link's region in service at node 1, with a link state. -/
def lkObjs (st : Nat) : List (Nat × Nat) := [(at_ PWR_DOMAIN_STATE 4, 0), (at_ DRX_STATE 0, st), (at_ HIER_NODE_ID 0, 1), (at_ DRX_ENABLE 0, 1)]

/-- The machine with a link state and an end of the link. -/
def lkS (st : Nat) (d : Drx) : State := { srvO (lkObjs st) with d := d }

theorem wit_DraixFlits :
    let l (d : Drx) := (lkS 4 d).lnk
    let l1 (d : Drx) := ((l d).good []).applyAck 0 0
    (lkS 4 drx0).toChip.works = true ∧ (l drx0).hears = true ∧ (lkS 3 drx0).lnk.hears = true ∧ (((lkS 3 drx0).lnk.good [15]).applyAck 0 0).st ≠ 4
    ∧ (((lkS 3 drx0).lnk.good []).applyAck 0 0).loops = false ∧ (l1 drx0).st = 4
    ∧ (0 % 4096 + 4096 - (l1 drx0).d.e) % 4096 = 0 ∧ decide ((l1 drx0).d.used.getD 3 0 < 64) = true ∧ decide ((l1 drx0).d.usedSh < 768) = true
    ∧ decide ((l1 { drx0 with usedSh := 768 }).d.usedSh < 768) = false ∧ decide ((l1 { drx0 with used := [64, 0, 0, 0] }).d.used.getD 0 0 < 64) = false
    ∧ (2047 % 4096 + 4096 - (l1 drx0).d.e) % 4096 = 2047 ∧ (l1 { drx0 with nakOpen := true }).d.nakOpen = true ∧ (l1 drx0).d.nakOpen = false
    ∧ (2048 % 4096 + 4096 - (l1 drx0).d.e) % 4096 = 2048 := by decide +kernel

/-- A TS1 of node 2 on every lane, and a TS2 that agrees on no width. -/
def ts0 : TsBody := { node := 2, locked := 0xFFFF, txmask := 0xFFFF, rate := 0, cap := 2, resume := false, epoch := 0, loop := 0 }

/-- The fields a TS2 adds. -/
def ts2 (w : Nat) (final : Bool) : Ts2Body := { width := w, map := [], e := 0, n := 0, o := 0, resok := false, req := false, excl := 0, final := final }

/-- A lane lock on lane k. -/
def lk0 (k : Nat) : LaneLock := { lane := k, plane := k, inverted := false }

/-- Sixteen locks. -/
def locks16 : List LaneLock := (List.range 16).map lk0

/-- An end in Configure that has agreed sixteen times. -/
def cfgD : Drx := { drx0 with locks := locks16, agree := 16, final := true, partner2 := some (ts2 2 true) }

theorem wit_DraixTraining :
    (lkS 1 drx0).toChip.works = true ∧ (lkS 1 drx0).lnk.regionOn = true ∧ (lkS 1 drx0).lnk.st = 1
    ∧ (lkS 2 { drx0 with locks := [lk0 15] }).lnk.d.locks.find? (fun k => k.lane == 15) = some (lk0 15)
    ∧ (lkS 4 drx0).lnk.st = 4 ∧ (lkS 4 drx0).lnk.d.partner2 = none ∧ ({ ts0 with node := 1 } : TsBody).node = (lkS 1 drx0).lnk.node ∧ ts0.node ≠ (lkS 1 drx0).lnk.node ∧ ts0.loop = 0
    ∧ (lkS 2 cfgD).lnk.st = 2 ∧ (ts2 2 true).req = false
    ∧ 4 ≤ (bitList 0xF 16).length ∧ (lkS 5 drx0).lnk.st = 5 ∧ (lkS 6 drx0).lnk.st = 6 ∧ (lkS 6 drx0).lnk.d.told = false
    ∧ (lkS 4 { drx0 with held := [⟨0, false, ⟨0, 0, []⟩⟩] }).lnk.d.held ≠ [] ∧ 0 + (lkS 4 drx0).lnk.eng.ob DRX_REPLAY_TIMER ≤ (lkS 4 drx0).lnk.eng.ts
    ∧ (lkS 4 drx0).lnk.hears = true ∧ 0 + (lkS 4 drx0).lnk.eng.ob DRX_NAK_TIMER ≤ (lkS 4 drx0).lnk.eng.ts ∧ 0 + (lkS 4 drx0).lnk.eng.ob DRX_ACK_TIMER ≤ (lkS 4 drx0).lnk.eng.ts
    ∧ 0 + 200 ≤ (lkS 4 drx0).lnk.eng.ts ∧ (lkS 3 { drx0 with good := 16 }).lnk.st = 3 ∧ 16 ≤ (lkS 3 { drx0 with good := 16 }).lnk.d.good ∧ drx0.held = []
    ∧ 7 ≤ ((lkS 1 drx0).lnk.trainLog 1).eng.ob DRX_ATTEMPTS + 7 ∧ ((lkS 1 drx0).lnk.trainLog 1).eng.ob DRX_ATTEMPTS < 7
    ∧ 7 ≤ (({ srvO ((at_ DRX_ATTEMPTS 0, 7) :: lkObjs 3) with d := drx0 } : State).lnk.trainLog 4).eng.ob DRX_ATTEMPTS
    ∧ (srvO [(at_ DRX_CORR_THRESHOLD 0, 0)]).lnk.eng.ob DRX_CORR_THRESHOLD = 0 ∧ (lkS 8 drx0).lnk.st = 8
    ∧ (srvO ((at_ DRX_CORR_THRESHOLD 0, 3) :: lkObjs 4)).lnk.eng.ob DRX_CORR_THRESHOLD ≠ 0 ∧ (srvO ((at_ DRX_CORR_THRESHOLD 0, 3) :: lkObjs 4)).lnk.eng.ob DRX_CORR_THRESHOLD < 4 := by
  decide +kernel

theorem wit_DraixTraining_configure :
    let l := (lkS 2 cfgD).lnk
    let l1 := l.upd fun d => { d with partner := some ts0, partner2 := some (ts2 2 true) }
    let agree := (l1.propose ts0).1 == 2 && (l1.propose ts0).1 != 3 && l1.resok ts0 (ts2 2 true) == false
    agree = true ∧ (ts2 2 true).final = true ∧ cfgD.final = true ∧ ((l1.propose ts0).1 == (ts2 0 true).width) = false := by decide +kernel

theorem wit_DraixTraining_events :
    let q := { ts2 2 true with map := [15, 14, 13, 12] }
    let l := (lkS 4 { drx0 with locks := [lk0 15, lk0 0], partner2 := some q }).lnk
    let l1 := l.inc DRX_LANE_LOCK_LOSS 15
    (lkS 0 drx0).lnk.st ≠ 1 ∧ l1.st = 4 ∧ (q.map.take (l1.eng.ob DRX_WIDTH)).contains 15 = false ∧ (q.map.take 4).contains 15 = true ∧ (q.map.take 4).contains 0 = false
    ∧ ({ ts0 with loop := 1 } : TsBody).loop = 1 ∧ (srvO ((at_ DRX_FE_LOOP_ALLOW 0, 1) :: lkObjs 1)).lnk.eng.ob DRX_FE_LOOP_ALLOW = 1
    ∧ (srvO ((at_ DRX_LOOPBACK 0, 3) :: lkObjs 1)).lnk.eng.ob DRX_LOOPBACK = 3 ∧ (lkS 3 drx0).lnk.st = 3
    ∧ (lkS 1 { drx0 with settle := some 5 }).lnk.d.settle = some 5 ∧ (lkS 1 { drx0 with attempt := some 5 }).lnk.d.attempt = some 5
    ∧ (lkS 5 { drx0 with backoff := some 5 }).lnk.d.backoff = some 5 ∧ 5 ≤ (lkS 5 drx0).lnk.eng.ts
    ∧ (lkS 4 { drx0 with unackedAt := some 0, unrepAt := some 0, nakOpen := true }).lnk.hears = true
    ∧ ((lkS 4 { drx0 with corr := [(15, 4)] }).lnk.d.corr.filter fun c => decide (3 < c.2)).isEmpty = false := by decide +kernel

theorem wit_DraixCommits :
    takes (srvO (lkObjs 0)) .secure [⟨DRX_ENABLE, 0, 0⟩] = true ∧ takes (srvO (lkObjs 0)) .secure [⟨DRX_ENABLE, 0, 1⟩] = true ∧ takes (srvO (lkObjs 6)) .secure [⟨DRX_TRAIN, 0, 1⟩] = true
    ∧ takes (srvO (lkObjs 4)) .secure [⟨DRX_RETRAIN, 0, 1⟩] = true ∧ takes (srvO (lkObjs 4)) .secure [⟨DRX_RETRAIN, 0, 2⟩] = true
    ∧ takes (srvO (lkObjs 0)) .secure [⟨DRX_LOOPBACK, 0, 1⟩] = true ∧ takes (srvO (lkObjs 6)) .secure [⟨DRX_LOOPBACK, 0, 2⟩] = true
    ∧ takes (srvO (lkObjs 6)) .secure [⟨DRX_LOOPBACK, 0, 3⟩] = true ∧ takes (srvO (lkObjs 7)) .secure [⟨DRX_LOOPBACK, 0, 0⟩] = true
    ∧ takes (srvO (lkObjs 4)) .secure [⟨DRX_EYE_CTRL, 0, 15 + 40 * 2 ^ 20⟩] = true ∧ takes (srvO (lkObjs 4)) .secure [⟨DRX_ERR_INJECT, 0, 2 ^ 24 - 1⟩] = true
    ∧ (lkS 4 { drx0 with eye := some ⟨15, 40, true⟩ }).lnk.d.eye = some ⟨15, 40, true⟩ ∧ (lkS 0 drx0).lnk.eng.ob DRX_ENABLE = 1 ∧ (lkS 0 drx0).lnk.st = 0
    ∧ (lkS 0 drx0).lnk.regionOn = true ∧ (lkS 0 drx0).lnk.node ≠ 0xFF
    ∧ (srvO ((at_ DRX_LOOPBACK 0, 1) :: lkObjs 7)).lnk.eng.ob DRX_LOOPBACK ≠ 0 := by decide +kernel

/-- A member of a pair, node 1 with partner 2 and witness 3, in a mirror state. -/
def miObjs (st : Nat) : List (Nat × Nat) := [(at_ MIR_PARTNER_NODE 0, 2), (at_ HIER_WITNESS_NODE 0, 3), (at_ MIR_STATE 0, st)]

/-- The machine of that member, with its Mirror Engine. -/
def miS (st : Nat) (m : Mir) : State := { srv { nodeE with objs := miObjs st ++ nodeE.objs } with mir := m }

/-- A record of the receive pool. -/
def ir0 (cls word : Nat) : InRec := { cls := cls, mseq := 0, word := word, fid := 0 }

/-- A record in the sender's buffer since the start. -/
def jr0 : JRec := { cls := 0, mseq := 0, mrec := ⟨0, 0, 0, 0, .I⟩, at_ := 0, t0 := 0, flitted := false, counted := false, acked := false }

/-- One sent again at once. -/
def jrN : JRec := { jr0 with at_ := 1000000000 }

theorem wit_MirrorRecordsAndBeacons :
    let f (st : Nat) (m : Mir) := (miS st m).toChip.fab
    let d : DeltaQ := { mseq := 0, slice := ow, line := rq0.line, st := .S1 5 }
    let e : Eng := { nodeE with deltas := [d], sfa := [dw0] }
    (miS 2 mir0).toChip.works = true ∧ (f 2 { mir0 with packAt := [some 0, none] }).mir.packAt.getD 0 none = some 0 ∧ (f 2 mir0).mayPack = true
    ∧ (f 2 { mir0 with packAt := [none, some 0] }).mir.packAt.getD 1 none = some 0 ∧ 0 + (miS 2 mir0).eng.ob MIR_PACK_WAIT ≤ (miS 2 mir0).eng.ts
    ∧ e.nextDelta ow = some d ∧ e.foghorn = false ∧ e.ob HDC_INIT_DONE = 1 ∧ (e.dirLookup ow (d.line / 4) (e.psn d.line) false).2 = .ready
    ∧ (f 2 { mir0 with inRecs := [ir0 0 2] }).mir.inRecs.find? (fun i => i.cls == 0 && i.word % 16 == 2 && decide (i.mseq ≤ (f 2 mir0).mir.rcv.getD 0 0)) = some (ir0 0 2)
    ∧ (f 2 { mir0 with inRecs := [ir0 1 7] }).mir.inRecs.find? (fun i => i.cls == 1 && decide (i.mseq ≤ (f 2 mir0).mir.rcv.getD 1 0)) = some (ir0 1 7)
    ∧ (Eng.nextDelta { nodeE with deltas := [d] } ow) = some d ∧ (Eng.dirLookup { nodeE with deltas := [d] } ow (d.line / 4) (nodeE.psn d.line) false).2 = .filling
    ∧ (jrN ∈ (f 2 { mir0 with buf := [jrN] }).mir.buf) ∧ (miS 2 mir0).eng.ts < jrN.at_ + (miS 2 mir0).eng.ob MIR_JOURNAL_TIMEOUT * 1000
    ∧ jrN.t0 + 4 * ((miS 2 mir0).eng.ob MIR_JOURNAL_TIMEOUT * 1000) ≤ (miS 2 mir0).eng.ts
    ∧ (ir0 1 2).word % 256 = 2 ∧ (ir0 1 3).word % 256 = 3 ∧ (ir0 1 5).word % 256 = 5 ∧ (nodeE.shedEvict (bits (ir0 1 5).word 51 8)).2 = true ∧ (ir0 1 6).word % 256 = 6
    ∧ (ir0 1 1).word % 256 = 1 ∧ (ir0 1 4).word % 256 = 4 ∧ (ir0 1 7).word % 256 = 7
    ∧ (f 2 mir0).mayBeacon = true ∧ (miS 2 mir0).eng.ob DRX_STATE ≠ 4 ∧ (f 2 mir0).isNew (hd 2) = true ∧ (hd 2).src = (f 2 mir0).peer
    ∧ jr0 ∈ (f 2 { mir0 with buf := [jr0] }).mir.buf ∧ 0 + (miS 2 mir0).eng.ob MIR_JOURNAL_TIMEOUT * 1000 ≤ (miS 2 mir0).eng.ts
    ∧ (f 2 mir0).mir.bdrx + (f 2 mir0).window ≤ (miS 2 mir0).eng.ts ∧ (f 2 { mir0 with bgood := 1000000000 }).leaseHolds = true := by decide +kernel

theorem wit_LeaseClaimAndFailover :
    let f (st : Nat) (m : Mir) := (miS st m).toChip.fab
    (miS 1 mir0).toChip.works = true ∧ (f 1 mir0).st = 1 ∧ (f 2 mir0).st = 2 ∧ (f 2 mir0).leaseHolds = false
    ∧ (f 4 { mir0 with guard := some 1000000000 }).mir.guard = some 1000000000 ∧ 1000000000 ≤ (f 4 mir0).eng.ts ∧ (f 4 mir0).st = 4
    ∧ (f 4 { mir0 with drain := true }).mir.drain = true ∧ (f 4 mir0).mir.inRecs = [] ∧ (f 4 mir0).eng.deltas = []
    ∧ (f 0 mir0).isNew (hd 2) = true ∧ (f 0 mir0).mir.claims.find? (fun c => c.1 == min (hd 2).src 4) = none
    ∧ (f 0 { mir0 with claims := [(2, 4, 0)] }).mir.claims.find? (fun c => c.1 == min (hd 2).src 4) = some (2, 4, 0) ∧ (2, 4, 0).2.1 ≠ (hd 2).src
    ∧ (f 0 { mir0 with claims := [(2, 2, 0)] }).mir.claims.find? (fun c => c.1 == min (hd 2).src 254) = some (2, 2, 0) ∧ (2, 2, 0).2.1 = (hd 2).src
    ∧ (hd 3).src = (f 4 mir0).eng.ob HIER_WITNESS_NODE ∧ (f 4 mir0).mir.granted = false ∧ (f 4 mir0).isNew (hd 3) = true
    ∧ takes (miS 4 mir0) .secure [⟨MIR_FORCE_SOLO, 0, 1⟩] = true := by decide +kernel

/-- A sent message that waits for its answer. -/
def om0 (sends : Nat) : HOut := { seq := 9, msg := { typ := 0x10, dst := 2, body := 0, req := none, ans := none, re := none, epoch := 0 }, sends := sends, at_ := 0 }

theorem wit_RejoinSwapAndMap :
    let f (st : Nat) (m : Mir) := (miS st m).toChip.fab
    takes (miS 0 mir0) .secure [⟨MIR_REJOIN, 0, 1⟩] = true ∧ takes (srvO [(at_ MIR_STATE 0, 2), (at_ HIER_NODE_ID 0, 255)]) .secure [⟨MIR_SWAP, 0, 65535⟩] = true
    ∧ takes (miS 0 mir0) .secure [⟨MIR_UNIT_SETTLE, 0, 65535⟩] = true ∧ takes (miS 0 mir0) .secure [⟨HIER_MAP_SET, 0, 65535 + 1 * 2 ^ 16⟩] = true
    ∧ takes (miS 0 mir0) .secure [⟨HIER_WITNESS_CLEAR, 0, 255⟩] = true
    ∧ (f 1 { mir0 with scan := some [8] }).mir.scan = some (8 :: []) ∧ (f 1 mir0).mayResync 0 = true
    ∧ (f 0 { mir0 with hout := [om0 15] }).mir.hout.find? (fun o => o.seq == 9) = some (om0 15) ∧ (om0 15).at_ + (f 0 mir0).eng.ob HIER_RETRY * 1000 ≤ (f 0 mir0).eng.ts
    ∧ (om0 15).sends < 16 ∧ (om0 16).sends = 16 ∧ (om0 16).msg.typ ≠ 0x02 ∧ (f 0 mir0).eng.rdy (hd 2).xport 3 = true ∧ msgWhole (hd 2) = true ∧ (((f 0 mir0).arrived (hd 2)).eng.foghorn) = false ∧ (f 0 mir0).eng.foghorn = false ∧ (hd 0xFF).src = 0xFF ∧ (hd 2).src ≠ 0xFF ∧ (hd 2).dst = (f 0 mir0).me ∧ (0xFF : Nat) ∉ [0x01, 0x22] ∧ (f 0 mir0).isNew (hd 2) = true
    ∧ (hd 2).src = (f 0 mir0).peer ∧ (f 0 mir0).mayJoin = true ∧ (f 1 mir0).mayJoin = false ∧ ((f 0 mir0).eng.ob HIER_MAP_EPOCH + 1) % 2 ^ 32 ≠ (hd 2).epoch
    ∧ ({ hd 2 with epoch := 1 } : Hdr).epoch = ((f 0 mir0).eng.ob HIER_MAP_EPOCH + 1) % 2 ^ 32 ∧ (f 0 mir0).eng.isManager = true
    ∧ (srvO []).toChip.fab.eng.isManager = false := by decide +kernel

/-- Two failing words of the slice stores, a word of the repeat table about to be rewritten, and two written pages. -/
def rasE : Eng :=
  { srvEng [] with errs := [⟨0x10, 33, 2 ^ 40 - 1, 1⟩, ⟨0, 0, 0, 3⟩], dbs := [{ pg0 with page := 9 }, { pg0 with page := 0 }]
                   ras := { (srvEng []).ras with repeats := [⟨5, 33, 7, 255, false, 0, true⟩], bank := some ⟨0, 256⟩, stuck := [(0, 2, 7), (33, 3, 9), (0, 8, 2 ^ 20 - 1)] } }

theorem wit_ScrubRepairAndRelocation :
    (srv { rasE with errs := [] }).toChip.works = true ∧ (srv rasE).toChip.live = true ∧ rasE.foghorn = false ∧ rasE.nextErr = some ⟨0, 0, 0, 3⟩ ∧ (srvEng []).nextErr = none ∧ rasE.seqs = []
    ∧ (ascend (rasE.dbs.map fun q => q.page)).find? (fun p => decide (kget 0 1 rasE.ras.scrub ≤ p)) = some 0
    ∧ (ascend ((srvEng []).dbs.map fun q => q.page)).find? (fun p => decide (kget 0 1 (srvEng []).ras.scrub ≤ p)) = none
    ∧ rasE.repeatOf 5 33 7 = some ⟨5, 33, 7, 255, false, 0, true⟩ ∧ rasE.ob RAS_REWRITE_AT ≤ 255 ∧ rasE.ras.bank = some ⟨0, 256⟩
    ∧ ({ rasE with ras := { rasE.ras with repeats := [⟨8, 0, rasE.ob DBS_BASE + 9 * 4096, 255, false, 0, true⟩] } } : Eng).repeatOf 8 0 (rasE.ob DBS_BASE + 9 * 4096) = some ⟨8, 0, rasE.ob DBS_BASE + 9 * 4096, 255, false, 0, true⟩
    ∧ (rasE.page ((rasE.ob DBS_BASE + 9 * 4096 - rasE.ob DBS_BASE) / 4096)).isNone = false ∧ (rasE.page ((rasE.ob DBS_BASE + 2 * 4096 - rasE.ob DBS_BASE) / 4096)).isNone = true
    ∧ rasE.ras.stuck.contains (33, 3, 9) = true ∧ rasE.ras.stuck.contains (0, 8, 2 ^ 20 - 1) = true
    ∧ ({ srvEng [] with dcmds := [{ ch := 7, rq := 0, seq := 0, a := ⟨.rd, 0⟩, since := some 0 }] } : Eng).starving 4 7 = true ∧ (srvEng []).starving 6 0 = true
    ∧ (srvEng []).starving 4 7 = false ∧ bit ((srvEng []).obj ARB_STARVE_FLAG 6) 0 = false := by decide +kernel

/-- A machine one of whose words of a store is out of service, with a directory way and a hot-line copy. -/
def stuckE (store word : Nat) : Eng :=
  { srvEng [] with sfa := [{ dw0 with slice := 0, set := 0, way := 15, resv := false }], hdc := [{ hw0 with slice := 0, set := 0, way := 15 }],
                   ras := { (srvEng []).ras with stuck := [(0, store, word)] } }

theorem stuck_contains (store word : Nat) : (stuckE store word).ras.stuck.contains (0, store, word) = true := by simp [stuckE]

theorem wit_Relocation_sfa : (stuckE 0 (sfaWord 0 15)).sfaAt 0 (sfaWord 0 15) = some { dw0 with slice := 0, set := 0, way := 15, resv := false } := by
  have h : (stuckE 0 (sfaWord 0 15)).sliceNum 0 = 0 := by decide +kernel
  simp [Eng.sfaAt, stuckE] at h ⊢
  exact h

theorem wit_Scrub_heals :
    let e1 := Eng.healWord { rasE with ras := { rasE.ras with scrub := kput 0 (wordKey ⟨0, 0, 0, 3⟩ + 1) rasE.ras.scrub } } ⟨0, 0, 0, 3⟩
    (rasE.readWords e1).isEmpty = true := by decide +kernel

theorem wit_Relocation_data : ((stuckE 4 (hdcDataWord 0 15 0 0)).dataAt 0 (hdcDataWord 0 15 0 0)).isSome = true := by
  have h : (stuckE 4 (hdcDataWord 0 15 0 0)).sliceNum 0 = 0 := by decide +kernel
  simp only [Eng.dataAt, stuckE] at h ⊢
  simp [h, List.range_succ]

theorem wit_Relocation_unused (word : Nat) (e : Eng) (h : e = { stuckE 4 word with sfa := [], hdc := [] }) :
    e.ras.stuck.contains (0, 4, word) = true ∧ e.dataAt 0 word = none ∧ e.sfaAt 0 word = none ∧ e.tagAt 0 word = none := by
  subst h; exact ⟨stuck_contains 4 word, rfl, rfl, rfl⟩

theorem wit_Relocation_hdc : (stuckE 5 (hdcTagWord 0 15)).tagAt 0 (hdcTagWord 0 15) = some { hw0 with slice := 0, set := 0, way := 15 } := by
  have h : (stuckE 5 (hdcTagWord 0 15)).sliceNum 0 = 0 := by decide +kernel
  simp [Eng.tagAt, stuckE] at h ⊢
  exact h

theorem wit_Relocation_context : ∃ i, (List.range 8192).find? (fun i => ctxWord i 0 == ctxWord 8191 1 || ctxWord i 1 == ctxWord 8191 1) = some i := by
  cases h : (List.range 8192).find? (fun i => ctxWord i 0 == ctxWord 8191 1 || ctxWord i 1 == ctxWord 8191 1) with
  | some i => exact ⟨i, rfl⟩
  | none =>
    have := List.find?_eq_none.mp h 8191 (List.mem_range.mpr (by decide))
    simp at this

theorem wit_Relocation_withheld : ∃ k, (stuckE 0xE (Config.place 0xE 16383)).offKind 0xE 0 (Config.place 0xE 16383) = some k := by
  have h : stgHolds 0 (Config.place 0xE 16383) = true := List.any_eq_true.mpr ⟨16383, List.mem_range.mpr (by decide), by simp⟩
  show ∃ k, (List.range 16).find? (fun ch => stgHolds ch (Config.place 0xE 16383)) = some k
  cases hf : (List.range 16).find? (fun ch => stgHolds ch (Config.place 0xE 16383)) with
  | some k => exact ⟨k, rfl⟩
  | none => exact absurd h (by simpa using List.find?_eq_none.mp hf 0 (List.mem_range.mpr (by decide)))

theorem wit_Relocation_kept : (stuckE 3 0x10000000).ras.stuck.contains (0, 3, 0x10000000) = true ∧ (stuckE 3 0x10000000).offKind 3 0 0x10000000 = none :=
  ⟨stuck_contains 3 _, rfl⟩

theorem wit_RasCommits :
    let s := srvO [(at_ RAS_TEST_ENABLE 0, 1), (at_ RAS_SPARE_BASE 0, 0x100000)]
    takes s .secure [⟨RAS_PAGE_RETIRE, 0, 1⟩] = true ∧ s.eng.sparePage (bits 1 20 1) = some 0 ∧ s.eng.sparePage 3 = some 3
    ∧ takes s .secure [⟨RAS_BANK_RETIRE, 0, 1⟩] = true ∧ s.eng.spareBank ≠ none
    ∧ takes s .secure [⟨RAS_INJECT, 0, 2 ^ 50 * 3⟩] = true ∧ takes s .secure [⟨RAS_RAW_READ, 0, 0⟩] = true
    ∧ takes s .secure [⟨RAS_FOGHORN_TEST, 0, 1⟩] = true := by decide +kernel

/-- A rail with a request open, and with its ack standing. -/
def rlReq : Rail := { field := 1, req := true, ack := false, old := 0, want := none }

/-- A power state in service with some fields. -/
def up0 : Pwr := { pwr0 with por := false, run := .up }

/-- The machine in service with a power state. -/
def pw (p : Pwr) (objs : List (Nat × Nat)) : State := { srvO objs with pwr := p }

theorem wit_RailsAndDomains_rails :
    (pw { up0 with rails := [railAt 0, railAt 0, railAt 0, rlReq] } []).toChip.rail 3 = rlReq ∧ (pw { up0 with rails := [rlReq] } []).toChip.rail 0 = rlReq
    ∧ (pw { up0 with rails := [{ rlReq with ack := true }] } []).toChip.rail 0 = { rlReq with ack := true } ∧ rlReq.req = true ∧ rlReq.ack = false
    ∧ (pw { up0 with rails := [rlReq], aon := 200000 } []).toChip.railLate 0 = false ∧ rlReq.since + 200000 < 200001 ∧ (pw { up0 with aon := 200001 } []).toChip.isHeld = false
    ∧ (pw { pwr0 with run := .held } []).toChip.isHeld = true ∧ rlReq.holds 1 = false ∧ ({ rlReq with req := false } : Rail).holds 1 = true
    ∧ (srvO [(at_ PWR_DOMAIN_STATE 4, 5)]).toChip.dom 4 = 5 := by decide +kernel

theorem wit_RailsAndDomains_domains :
    let d (el st tgt : Nat) := (srvO [(at_ PWR_DOMAIN_STATE el, st), (at_ PWR_SLEEP_TARGET el, tgt)]).toChip
    (d 3 4 1).domDue 3 = true ∧ (pw { up0 with domEnds := [(4, 0)] } []).toChip.domDue 4 = true ∧ (d 4 4 3).eng.obj PWR_SLEEP_TARGET 4 = 3
    ∧ (d 0x3F 5 0).eng.n ≤ 32 ∧ (d 0x40 5 0).dom 0x40 = 5 ∧ (d 4 5 0).dom 4 = 5
    ∧ (d 3 4 1).dom 3 = 4 ∧ (d 5 4 2).dom 5 = 4 ∧ (d 5 4 2).eng.obj PWR_SLEEP_TARGET 5 = 2 ∧ (d 5 4 1).eng.obj PWR_SLEEP_TARGET 5 ≠ 2 ∧ (d 4 4 1).dom 4 = 4
    ∧ (d 4 4 1).eng.obj PWR_SLEEP_TARGET 4 ≠ 3 ∧ (d 0x20 5 0).dom 0x20 = 5 ∧ (d 0x20 5 0).ob PWR_AONREG_HP = 1 ∧ (d 0x3F 5 0).dom 0x3F = 5 ∧ 0x3F < 0x20 + (d 0x3F 5 0).eng.n
    ∧ (d 5 5 0).dom 5 = 5 ∧ (pw { up0 with hpWait := true } []).toChip.pwr.hpWait = true ∧ (pw { up0 with hpWait := true, aon := 20000 } []).toChip.pwr.hpAt + 20000 ≤ 20000
    ∧ (pw { up0 with level := some ⟨3, true, true⟩ } []).toChip.pwr.level = some ⟨3, true, true⟩ ∧ (pw { up0 with level := some ⟨0, false, false⟩ } []).toChip.pwr.level = some ⟨0, false, false⟩ := by
  decide +kernel

theorem wit_RailsAndDomains_commits :
    takes (srvO []) .secure [⟨PWR_LEVEL, 0, 0⟩] = true ∧ takes (srvO []) .secure [⟨PWR_LEVEL, 0, 3⟩] = true ∧ takes (srvO []) .secure [⟨PWR_KEEPER_CLK, 0, 1⟩] = true
    ∧ takes (srvO []) .secure [⟨voteOb .secure, 4, b2n true⟩] = true ∧ takes (srvO []) .normal [⟨voteOb .normal, 0x20, b2n false⟩] = true ∧ takes (srvO []) .secure [⟨PWR_FORCE_WAKE, 0, 0x20⟩] = true := by decide +kernel

/-- A held power state. -/
def hd0 (por warm brown supply : Bool) : Pwr := { pwr0 with por := por, warm := warm, brown := brown, supply := supply }

theorem wit_ResetsAndStartUp :
    (srvO []).toChip.pwr.por = false ∧ State.reset.toChip.pwr.por = true ∧ (srvO []).toChip.pwr.run ≠ .dead ∧ (hd0 true false false false).run = .held
    ∧ (pw (hd0 true false false false) []).toChip.pwr = hd0 true false false false ∧ (pw (hd0 false true false false) []).toChip.pwr.warm = true
    ∧ (pw (hd0 false false true false) []).toChip.pwr.brown = true ∧ (pw (hd0 false false false true) []).toChip.pwr.supply = true
    ∧ (pw (hd0 true true false false) []).toChip.pwr.warm = true ∧ (pw { pwr0 with run := .dead } []).toChip.pwr.run = .dead := by decide +kernel

theorem wit_BraceSleepAndWake :
    let p (p : Pwr) (objs : List (Nat × Nat)) := (pw p objs).toChip
    let we := [(at_ PWR_WAKE_ENABLE 0, 0x1F)]
    (p up0 []).pwr.run ≠ .dead ∧ (p up0 []).pwr.run ≠ .held ∧ (p up0 []).eng.brace = false ∧ (p up0 []).pwr.low = false ∧ (p up0 []).ob PWR_BLOCK_STATE ≠ 2
    ∧ (p up0 []).ob PWR_BLOCK_STATE ≠ 3 ∧ (p up0 [(at_ PWR_BLOCK_STATE 0, 3)]).ob PWR_BLOCK_STATE = 3 ∧ (p up0 []).eng.dcmds = [] ∧ (p up0 []).eng.dopen = []
    ∧ (p { up0 with slp := .asleep, aon := 2 ^ 42 } [(at_ PWR_WAKE_TIMER 0, 2 ^ 32 - 1)]).pwr.sleptAt + (2 ^ 32 - 1) * 1000 ≤ 2 ^ 42
    ∧ (p up0 [(at_ PWR_BLOCK_STATE 0, 2)]).ob PWR_BLOCK_STATE = 2 ∧ (p { up0 with low := true } []).pwr.low = true
    ∧ (srv { srvEng [] with brace := true }).toChip.eng.brace = true ∧ (p { up0 with slp := .quiescing } []).pwr.slp = .quiescing ∧ (p up0 []).eng.ctxs = []
    ∧ (p up0 []).eng.seqs = [] ∧ (p up0 []).eng.spill = []
    ∧ (p { up0 with slp := .quiescing } we).wakeOn 1 = true ∧ (p { up0 with slp := .asleep } we).wakeOn 3 = true ∧ (p { up0 with slp := .asleep } we).pwr.slp = .asleep
    ∧ ((p { up0 with slp := .asleep } we).p fun q => { q with levels := insertNat 0 q.levels }).wakeOn 0 = true
    ∧ ((p { up0 with slp := .asleep, slpTo := 1 } we).p fun q => { q with levels := insertNat 4 q.levels }).wakeOn 4 = true
    ∧ (p { up0 with slp := .asleep } [(at_ PWR_WAKE_TIMER 0, 2 ^ 32 - 1)]).ob PWR_WAKE_TIMER ≠ 0 := by decide +kernel

theorem wit_BraceSleepAndWake_commits :
    takes (srvO []) .secure [⟨PWR_BLOCK_SLEEP, 0, 1⟩] = true ∧ takes (srvO []) .secure [⟨PWR_BLOCK_SLEEP, 0, 2⟩] = true
    ∧ takes (srvO [(at_ PWR_BLOCK_STATE 0, 1)]) .secure [⟨PWR_BLOCK_SLEEP, 0, 0⟩] = true
    ∧ (let c := (pw { up0 with levels := [2] } []).toChip
       let c1 := (c.set PWR_BLOCK_STATE 0 1).p fun p => { p with slp := .quiescing, slpTo := 1, wake := none, levels := p.levels.filter (· == 2) }
       c1.pwr.levels.find? (fun n => c1.wakeOn n) = none)
    ∧ (let c := (pw { up0 with levels := [2, 4] } [(at_ PWR_WAKE_ENABLE 0, 4)]).toChip
       let c1 := (c.set PWR_BLOCK_STATE 0 1).p fun p => { p with slp := .quiescing, slpTo := 2, wake := none, levels := p.levels.filter (· == 2) }
       c1.pwr.levels.find? (fun n => c1.wakeOn n) = some 2) := by decide +kernel

/-- Keeper with an image of secure firmware, in a world and a mode. -/
def kp (w : World) (m : Bool) : Kpr := { kpr0 [] with on := true, booted := true, world := w, mmode := m }

/-- The machine in service with that Keeper. -/
def kw (k : Kpr) (objs : List (Nat × Nat)) : State := { srvO objs with kpr := k }

theorem wit_WorldSwitches :
    let n := (kw { kp .normal true with sb := { bank0 with mie := 0x800 } } [(at_ WORLD_IRQ_PENDING 0, 0x8000), (at_ WORLD_IRQ_ROUTE 15, 3)]).toChip
    n.inWorld .normal = true ∧ n.kpr.mmode = true ∧ n.kpr.sb.mie.getLsbD 11 = true ∧ n.normalLine 3 = false ∧ n.linePending 3 = true
    ∧ n.fetchClosed ((0 : BitVec 32).toNat / 4 * 4) = true ∧ n.fetchClosed ((0xFFFF : BitVec 32).toNat / 4 * 4) = true
    ∧ (kw (kp .secure true) []).toChip.inWorld .secure = true ∧ (kp .secure true).mmode = true
    ∧ (let c := ({ kw (kp .secure true) [] with pm := { pm0 with attached := true } } : State).toChip; c.pm.attached = true ∧ c.kpr.halted = none ∧ c.keeperUp = true)
    ∧ (let c := ({ kw (kp .secure true) [(at_ WDT_WARN 0, 100)] with pwr := { up0 with wdtOn := true } } : State).toChip
       c.wdtCounts = true ∧ c.ob WDT_WARN ≠ 0 ∧ c.pwr.wdtWarned = false ∧ c.isHeld = false ∧ c.pwr.run ≠ .dead)
    ∧ (srvO []).toChip.wdtCounts = false ∧ State.reset.pending = [] ∧ State.reset.toChip.coreOn = false
    ∧ takes (srvO []) .secure [⟨WDT_ENABLE, 0, 1⟩] = true ∧ takes (srvO []) .secure [⟨WDT_PERIOD, 0, 60000⟩] = true := by decide +kernel

theorem wit_HandOverAndLiveUpdate_units :
    takes (srvO []) .normal [⟨WORLD_HO_REQ, 0, 0x20⟩] = true ∧ takes (srvO [(at_ WORLD_UNIT_STATE 0x10, 2)]) .secure [⟨WORLD_HO_RELEASE, 0, 0x10⟩] = true
    ∧ takes (srvO [(at_ WORLD_UNIT_STATE 0x10, 2)]) .secure [⟨WORLD_HO_REFUSE, 0, 0x10⟩] = true
    ∧ (let c := ({ srvO [(at_ WORLD_UNIT_STATE 0, 3), (at_ WORLD_HO_WAIT 0, 1)] with kpr := { kp .secure true with hoBy := [(0, .secure)] } } : State).toChip
       isUnit 0 = true ∧ c.eng.unitStep 0 = 1 ∧ c.eng.unitOwner 0 = .normal ∧ c.hoWorld 0 = .secure ∧ c.kpr.hoRel.contains 0 = false ∧ kget 0 0 c.kpr.hoAt + c.ob WORLD_HO_WAIT * 1000 ≤ c.eng.ts
         ∧ c.serves .secure = true)
    ∧ (srvO [(at_ WORLD_UNIT_STATE 0, 4)]).toChip.eng.unitStep 0 = 2 ∧ (srvO [(at_ WORLD_UNIT_STATE 0x20, 4)]).toChip.eng.unitStep 0x20 = 2
    ∧ (srvO [(at_ WORLD_UNIT_STATE 0x20, 4)]).toChip.hoWorld 0x20 = .normal := by decide +kernel

/-- An update under way from no image to one of a length. -/
def up1 : FwUpd := { old := none, new := { load := 0, len := 4, entry := 0, version := 2 }, ends := 1000000000 }

theorem wit_HandOverAndLiveUpdate_update :
    takes (srvO []) .secure [⟨FW_ACTIVATE, 0, 1⟩] = true
    ∧ (let c := (kw { kp .normal true with upd := some up1 } [(at_ FW_STATUS 0, 2)]).toChip
       c.kpr.upd = some up1 ∧ c.ob FW_STATUS = 2 ∧ c.keeperUp = true ∧ c.kpr.world = .normal ∧ up1.ends ≤ c.eng.ts)
    ∧ (let c := (kw { kp .normal true with upd := some up1 } [(at_ FW_STATUS 0, 4)]).toChip; c.ob FW_STATUS = 4 ∧ up1.ends ≤ c.eng.ts)
    ∧ takes (kw { kp .normal true with upd := some up1 } [(at_ FW_STATUS 0, 4)]) .normal [⟨FW_READY, 0, 1⟩] = true := by decide +kernel

theorem wit_WorldSwitches_watchdog :
    (let c := ({ kw (kp .secure true) [(at_ WDT_WARN 0, 100)] with pwr := { up0 with wdtOn := true, wdtCnt := 2 ^ 40 } } : State).toChip
     c.wdtCounts = true ∧ c.ob WDT_WARN ≠ 0 ∧ c.pwr.wdtWarned = false ∧ c.wdtPeriod * c.ob WDT_WARN / 100 ≤ c.pwr.wdtCnt ∧ c.wdtPeriod ≤ c.pwr.wdtCnt) := by decide +kernel

/-- A Guard region that is open to Keeper for reading and writing, all pages. -/
def openR : Nat := 2 ^ 20 + 7 + (2 ^ 40 - 1) * 2 ^ 72

/-- An armed Guard with that region on the directory path and on Keeper's own. -/
def guardObjs : List (Nat × Nat) := [(at_ GUARD_ARM 0, 1), (at_ GUARD_DIR 0, openR), (at_ GUARD_KPR 0, openR)]

/-- Keeper with that update under way and the image of which it is one before it. -/
def up2 : FwUpd := { up1 with old := some { load := 0, len := 4, entry := 0, version := 1 } }

theorem wit_HandOverAndLiveUpdate_guard :
    (let c := (kw (kp .secure true) ((at_ FW_STAGE_LEN 0, 4096) :: guardObjs)).toChip; (c.fwAccess .directory false (c.ob FW_STAGE_BASE) (c.ob FW_STAGE_LEN)).2 = true)
    ∧ (let c := (kw (kp .secure true) [(at_ FW_STAGE_LEN 0, 4096)]).toChip; (c.fwAccess .directory false (c.ob FW_STAGE_BASE) (c.ob FW_STAGE_LEN)).2 = false)
    ∧ ((kw (kp .secure true) guardObjs).toChip.fwAccesses [(.keeper, false, 0, 4), (.directory, true, 2 ^ 20, 4), (.directory, false, 0, 516), (.keeper, true, 0, 4)]).2 = true
    ∧ ((kw (kp .secure true) []).toChip.fwAccesses [(.keeper, false, 0, 4), (.directory, true, 2 ^ 20, 4), (.directory, false, 0, 516), (.keeper, true, 0, 4)]).2 = false
    ∧ ((kw (kp .secure true) guardObjs).toChip.fwAccesses [(.directory, false, 2 ^ 20, 4), (.keeper, true, 0, 4)]).2 = true
    ∧ ((kw (kp .secure true) []).toChip.fwAccesses [(.directory, false, 2 ^ 20, 4), (.keeper, true, 0, 4)]).2 = false
    ∧ (kw { kp .secure true with upd := some up2 } [(at_ FW_STATUS 0, 2)]).toChip.kpr.upd = some up2 := by decide +kernel

/-- The machine with normal-owned sources 0 and 31 of WORLD_IRQ_PENDING routed, and the secure world's source 1. -/
theorem wit_HandOverAndLiveUpdate_sources :
    let c := (srvO [(at_ WORLD_IRQ_ROUTE 0, 3), (at_ WORLD_IRQ_ROUTE 1, 4), (at_ WORLD_LINE_OWNER 0, 2 ^ 3)]).toChip
    let foreign (v : Nat) := (List.range 16).any fun i => bit v i && decide (c.eng.obj WORLD_IRQ_ROUTE i < 16) && !c.ownsSrc .normal i
    c.serves .normal = true ∧ c.serves .secure = true ∧ foreign 2 = true ∧ foreign 1 = false
    ∧ c.eng.unitStep 0x20 = 0 ∧ (srvO [(at_ WORLD_UNIT_STATE 0x20, 4)]).toChip.kpr.hoAt = [] := by decide +kernel

theorem wit_AccessPort :
    let s := srvO []
    (kw (kp .normal true) []).toChip.oapReady .normal = true ∧ s.toChip.oapReady .secure = true ∧ objRow 0xFFFF 255 = none
    ∧ (objRow RAS_INJECT 0).any (fun r => r.acc == .wo) = true ∧ s.eng.exists_ RAS_INJECT 0 = true ∧ (objRow ARB_STARVE_COUNT 6).any (fun r => r.acc == .rc) = true
    ∧ s.eng.exists_ ARB_STARVE_COUNT 6 = true ∧ s.eng.checkStatus .secure { idx := 0xFFFF, el := 255, val := 0 } 1 ≠ 0
    ∧ s.eng.checkStatus .secure ⟨SLICE_PARK, 0, 1⟩ 4 = 0 ∧ isW1C ⟨SLICE_PARK, 0, 1⟩ = false ∧ SLICE_PARK ≠ DICT_COMMIT ∧ SLICE_PARK ≠ DICT_ABORT
    ∧ areaFull ⟨SLICE_PARK, 0, 1⟩ ((List.range 256).map fun k => ⟨0, k, 0⟩) = true ∧ areaFull ⟨SLICE_PARK, 0, 1⟩ ((List.range 255).map fun k => ⟨0, k, 0⟩) = false
    ∧ areaFull ⟨0, 255, 1⟩ ((List.range 256).map fun k => ⟨0, k, 0⟩) = false ∧ s.toChip.serves .normal = true
    ∧ (objRow ARB_STARVE_FLAG 6).any (fun r => r.acc == .w1c && s.eng.checkStatus .secure ⟨ARB_STARVE_FLAG, 6, 2⟩ r.len == 0) = true ∧ ARB_STARVE_FLAG ≠ WORLD_IRQ_PENDING := by
  decide +kernel

/-- A write of 256 elements' worth of an ascending area. -/
def area256 : List OWr := (List.range 256).map fun k => ⟨0, k, 0⟩

theorem wit_StagedWrites :
    areaOk area256 = true ∧ area256.length = 256 ∧ (area256.any fun a => (⟨SLICE_PARK, 0, 1⟩ : OWr).same a) = false ∧ (area256.any fun a => (⟨0, 255, 9⟩ : OWr).same a) = true
    ∧ areaOk [] = true ∧ (1 : Data).toNat % 2 ^ (8 * 4) = 1 ∧ (srvO []).toChip.oapReady .secure = true ∧ SLICE_PARK ≠ DICT_STAGED := by decide +kernel

/-- A dictionary request in the secure world's queue, with a command and a body. -/
def dq (cmd : Nat) (body : List Nat) : DReqQ :=
  { world := .secure, addr := { via := .i3c, eid := 9, tag := 0, owner := true }, inst := 0, cmd := cmd, body := body.map (BitVec.ofNat 8), at_ := 0, cmt := none }

/-- The machine in service with that request at the head. -/
def dqS (k : Kpr) (cmd : Nat) (body : List Nat) : State := { srvO [] with kpr := k, dic := { dic0 with reqs := [dq cmd body] } }

theorem wit_DictionaryMessages :
    let c (cmd : Nat) (body : List Nat) := (dqS (kp .secure true) cmd body).toChip
    let rom (cmd : Nat) (body : List Nat) := (dqS { kpr0 [] with on := true } cmd body).toChip
    (c 1 [0, 0, 0, 1]).nextReq .secure = some (dq 1 [0, 0, 0, 1]) ∧ (c 1 []).kpr.booted = true ∧ 4 ≤ (dq 1 [0, 0, 0, 1]).body.length
    ∧ (let n := at8 (dq 1 [0, 0, 0, 64]).body 3; n = 64 ∧ 8 + (((List.range n).map (at8 (dq 1 [0, 0, 0, 64]).body 2 + ·)).map fun el => 1 + (c 1 []).readLen (leNat ((dq 1 [0, 0, 0, 64]).body.take 2)) el).sum ≤ 1100)
    ∧ (bodyWr (dq 2 [0, 1, 0, 1, 7]).body).isSome = true ∧ (c 2 []).romRefuses 0x100 = false ∧ (rom 2 []).romRefuses SLICE_PARK = true
    ∧ (objRow ARB_STARVE_FLAG 6).any (fun r => r.acc == .w1c && lenOk r r.len) = true ∧ (c 6 []).eng.exists_ ARB_STARVE_FLAG 6 = true ∧ (c 6 []).romRefuses ARB_STARVE_FLAG = false
    ∧ (c 6 []).eng.absent ARB_STARVE_FLAG 6 = false ∧ (objRow SLICE_PARK 0).any (fun r => r.acc != .w1c && lenOk r r.len) = true ∧ (c 6 []).eng.exists_ SLICE_PARK 0 = true
    ∧ (c 6 []).eng.absent SLICE_PARK 0 = false ∧ (c 3 []).nextReq .secure = some (dq 3 []) ∧ (c 4 []).nextReq .secure = some (dq 4 []) ∧ (c 5 []).nextReq .secure = some (dq 5 [])
    ∧ leNat ((dq 0x20 [1, 0, 0x10, 0]).body.take 4) = 2 ^ 20 + 1 ∧ leNat ((dq 0x20 [0, 0, 0x10, 0]).body.take 4) = 2 ^ 20 ∧ leNat ((dq 0x20 [0, 0, 0, 0]).body.take 4) = 0
    ∧ (rom 0x20 []).kpr.booted = false ∧ (rom 0x20 []).nextReq .secure = some (dq 0x20 []) ∧ listedCmd 0x7F = false ∧ listedCmd 0x23 = false := by decide +kernel

/-- The machine whose image transfer of a length is open, at a chunk of FW_DATA or the end. -/
def fwS (booted : Bool) (n cmd : Nat) (body : List Nat) : State := dqS { kpr0 [] with on := true, booted := booted, imgLen := some n } cmd body

theorem wit_DictionaryMessages_image :
    let q := dq 0x21 [0, 3, 0, 0, 5]
    (fwS false 1024 0x21 [0, 3, 0, 0, 5]).toChip.nextReq .secure ≠ none ∧ q.cmd = 0x21 ∧ 5 ≤ q.body.length ∧ q.body.length ≤ 1028 ∧ (fwS true 1024 0x21 []).toChip.kpr.imgLen = some 1024
    ∧ leNat (q.body.take 4) = 768 ∧ leNat (q.body.take 4) + (q.body.drop 4).length ≤ 1024 ∧ (fwS true 1024 0x21 []).toChip.kpr.booted = true ∧ (fwS false 1024 0x21 []).toChip.kpr.booted = false
    ∧ (fwS false 1024 0x22 []).toChip.nextReq .secure = some (dq 0x22 []) := by decide +kernel

theorem wit_DictionaryMessages_guard :
    ((fwS true 1024 0x21 []).toChip.fwAccess .directory true (768 + (fwS true 1024 0x21 []).toChip.ob FW_STAGE_BASE) 1).2 = false
    ∧ (({ fwS true 1024 0x21 [] with eng := srvEng guardObjs } : State).toChip.fwAccess .directory true 768 1).2 = true
    ∧ ((fwS false 1024 0x21 []).toChip.fwAccess .keeper true 768 1).2 = true
    ∧ (({ fwS false 1024 0x21 [] with eng := srvEng [(at_ GUARD_KPR 0, 0)] } : State).toChip.fwAccess .keeper true 768 1).2 = false := by decide +kernel

/-- An event record sent a number of times. -/
def ev0 (sends : Nat) : EvRec := { num := 2 ^ 32 - 1, code := 7, time := 0, args := 0, sends := sends, at_ := 0 }

/-- A commit whose lead is fixed. -/
def cm0 : Cmt := { world := .secure, arrival := 5, lead := some 64, num := 1, ws := [⟨SLICE_PARK, 0, 1⟩] }

theorem wit_CommitEdgeAndEvents :
    let c := ({ srvO [(at_ DICT_FM_EID 0, 9)] with kpr := kp .secure true, dic := { dic0 with commits := [cm0], reqs := [dq 1 []] } } : State).toChip
    let e (s : Nat) := ({ srv { srvEng [(at_ DICT_FM_EID 0, 9)] with evq := [ev0 s], notices := [ev0 s] } with kpr := kp .secure true } : State).toChip
    c.coreOn = true ∧ earliest c.dic.commits = some cm0 ∧ cm0.lead = some 64 ∧ c.cmtTime cm0 64 ≤ c.eng.ts
    ∧ (e 8).eng.evq = [ev0 8] ∧ 0 < (ev0 8).sends ∧ (e 8).evSends = true ∧ (ev0 8).at_ + (e 8).ob DICT_EVT_RETRY * 1000 ≤ (e 8).eng.ts ∧ (ev0 7).sends < 8 ∧ 8 ≤ (ev0 8).sends
    ∧ (e 1).eng.notices = [ev0 1] ∧ (e 1).kpr.on = true ∧ c.eng.notices = [] ∧ (ev0 0).sends = 0
    ∧ (c.dic.reqs.find? fun q => q.cmt.isNone && decide (q.at_ + c.ob DICT_REQ_WAIT * 1000000 ≤ c.eng.ts)) = some (dq 1 []) := by decide +kernel

theorem wit_ControlMessages :
    (srvO []).toChip.kpr.on = true ∧ at8 [0, 254] 0 % 4 ≤ 1 ∧ at8 [0, 254] 1 ≠ 0 ∧ at8 [0, 254] 1 ≠ 0xFF ∧ at8 [1, 8] 0 % 4 ≤ 1 ∧ at8 [] 0 = 0
    ∧ ([0, 0] : List (BitVec 32)).length = (5 + 3) / 4 ∧ (5 : BitVec 32).toNat % 256 = 5 ∧ (List.replicate 63 (0 : BitVec 32)).length = (252 + 3) / 4 ∧ (252 : BitVec 32).toNat % 256 = 252
    ∧ (253 : BitVec 32).toNat % 256 = 253 ∧ ({ dic0 with mbOut := [7] } : Dic).mbOut = [7] ∧ dic0.mbQ = []
    ∧ ({ dic0 with mbOut := [7], mbQ := [{ via := .mailbox 255, bytes := [1, 2, 3, 4, 5] }] } : Dic).mbQ = [{ via := .mailbox 255, bytes := [1, 2, 3, 4, 5] }] := by decide +kernel

theorem wit_I3cTarget :
    let d (q : List (List (BitVec 8))) : Chip := ({ srvO [] with dic := { dic0 with i3cQ := q, i3c := { dic0.i3c with dyn := some 127 } } } : State).toChip
    (d []).i3cUp = true ∧ (d []).dic.i3c.dyn = some 127 ∧ (d []).kpr.on = true ∧ (List.replicate 68 (0 : BitVec 8)).length ≤ (d []).dic.i3c.mwl
    ∧ 68 < (List.replicate 69 (0 : BitVec 8)).length ∧ (d []).dic.i3cQ = [] ∧ (d [[1]]).dic.i3cQ = [[1]] ∧ (srvO []).toChip.dic.i3c.dyn = none
    ∧ (srvO []).toChip.ob DICT_I3C_STATIC = 0x2A := by decide +kernel

/-- A ring's sequence whose write has ended. -/
def rq1 (r : Ring) (refused : Bool) : DSeq :=
  { id := 3, ch := 0, kind := r.kind, rq := 0, lock := none, locked := true, stages := [], out := 0, ph := 1, bad := [], wbad := false, refused := refused }

theorem wit_PerformanceMonitor :
    let c (p : Pm) (objs : List (Nat × Nat)) : Chip := ({ srvO objs with pm := p } : State).toChip
    takes (srvO []) .secure [⟨PM_SNAP, 0, 1⟩] = true ∧ takes (srvO []) .secure [⟨PM_CTR_CLEAR, 0, 2 ^ 48 - 1⟩] = true ∧ takes (srvO []) .normal [⟨PM_SMP_FLUSH, 0, 1⟩] = true
    ∧ takes (srvO []) .secure [⟨PM_HIST_CLEAR, 0, 1⟩] = true
    ∧ (let s := c { pm0 with snapLeft := [0, 47] } [(at_ PM_SNAP_TIME 0, 1000000001)]; s.pm.snapLeft.contains 47 = true ∧ s.pm.snapArmed.contains 47 = false ∧ s.eng.ts < s.ob PM_SNAP_TIME)
    ∧ (let s := c { pm0 with snapLeft := [0, 47] } [(at_ PM_SNAP_TIME 0, 999999999)]; s.pm.snapLeft.contains 0 = true ∧ s.ob PM_SNAP_TIME < s.eng.ts ∧ s.blockSleeps 0 = false)
    ∧ (c { pm0 with smpWay := [1] } []).pm.smpWay = [1] ∧ (c pm0 []).pm.smpBuf.length < 16384
    ∧ (let q := rq1 smpR false; q.kind == smpR.kind && q.locked && q.out == 0 && !q.pend && q.stages.isEmpty && decide (0 < q.ph)) = true ∧ (rq1 smpR false).refused = false
    ∧ (rq1 trcR true).refused = true ∧ (rq1 smpR false).wbad = false
    ∧ (let q := rq1 trcR true; q.kind == trcR.kind && q.locked && q.out == 0 && !q.pend && q.stages.isEmpty && decide (0 < q.ph)) = true
    ∧ (c { pm0 with histWay := [(⟨65535, 7, 63⟩, 255)] } [(at_ PWR_DOMAIN_STATE 5, 0)]).pmOn = true ∧ (c pm0 []).eng.foghorn = false ∧ (c { pm0 with histWay := [(⟨65535, 7, 63⟩, 255)] } []).pm.histWay ≠ []
    ∧ (c pm0 [(at_ TRC_ENABLE 0, 1)]).ob TRC_ENABLE = 1 ∧ (c { pm0 with trcLost := 1 } []).pm.trcLost ≠ 0
    ∧ (let s := c pm0 [(at_ TRC_SOURCES 0, 2 ^ 32 - 1), (at_ DBG_ENABLE 0, 15)]; bit (s.ob TRC_SOURCES) (flowSrc .secure) = true ∧ s.dbgOn (nonInvasive .secure) = true
        ∧ bit (s.ob TRC_SOURCES) (flowSrc .normal) = true ∧ s.dbgOn (nonInvasive .normal) = true ∧ s.keeperUp = true)
    ∧ (srv { srvEng [] with marks := [(47, 255)] }).eng.marks = [(47, 255)] := by decide +kernel

theorem wit_PerformanceMonitor_depth : pm0.trc.length ≤ Config.traceDepth := Nat.zero_le _

theorem wit_PerformanceMonitor_full : 16384 ≤ ({ pm0 with smpBuf := List.replicate 16384 0 } : Pm).smpBuf.length :=
  Nat.le_of_eq (List.length_replicate ..).symm

/-- The machine whose TAP selects the network with every segment inserted, a debug module attached, Keeper in a state. -/
def tapS (dbg : Nat) (k : Kpr) : State := { srvO [(at_ DBG_ENABLE 0, dbg)] with kpr := k, pm := { pm0 with ir := 2, sib := 15, attached := true } }

theorem wit_DebugPort :
    let c := (tapS 15 { kp .secure true with halted := some .secure }).toChip
    let off := (tapS 0 (kp .normal true)).toChip
    c.pm.ir = 2 ∧ c.kpr.on = true ∧ bit c.pm.sib (tapInst .resume) = true ∧ bit c.pm.sib (tapInst (.counter 47 15 true)) = true ∧ 4 ≤ tapInst (.sib 15)
    ∧ off.tapAllowed (.step 0) = false ∧ off.tapAllowed (.counter 0 0 false) = false ∧ off.tapAllowed (.readMem 0x10000000) = false ∧ c.tapAllowed (.sib 15) = true
    ∧ c.tapAllowed .attach = true ∧ c.tapAllowed .detach = true ∧ off.kpr.halted = none ∧ c.tapAllowed .resume = true ∧ c.kpr.halted.isSome = true ∧ c.tapAllowed .halt = true
    ∧ c.tapAllowed (.breakpoint (2 ^ 32 - 1) true) = true ∧ c.tapAllowed (.step 0) = true ∧ c.tapAllowed (.readReg 32) = true ∧ c.tapAllowed (.writeReg 0 1) = true
    ∧ (c.kaddr .secure false 0x100FFFFC).isSome = true ∧ c.tapAllowed (.readMem 0x100FFFFC) = true ∧ c.kaddr .secure true 0x10000000 = some (.sram 0) ∧ c.tapAllowed (.writeMem 0x10000000 1) = true
    ∧ c.tapAllowed (.counter 47 15 true) = true ∧ c.tapAllowed (.sample 16383) = true ∧ c.tapAllowed (.traceEnable true) = true := by decide +kernel

/-- Two wrong bits of an SRAM word are met by the debugger that reads it, one is corrected, and a write ends them (R304; check "V4" of
chapter 17). -/
theorem test_sram_ecc :
    let e (m : Nat) : Eng := { srvEng [] with errs := [⟨3, 0, 0x100FF000, m⟩] }
    ((e 3).sramRead 0xFF000 4).2 = some 0x100FF000 ∧ ((e 1).sramRead 0xFF000 4).2 = none ∧ ((e 1).sramRead 0xFF000 4).1.obj RAS_CE_COUNT 3 = 1
    ∧ ((e 3).sramRead 0xFF000 4).1.obj RAS_UE_COUNT 3 = 1 ∧ ((e 3).sramWrite 0xFF000 4).errs = [] ∧ ((e 3).sramRead 0xFF004 4).2 = none := by decide +kernel

/-- The CSRs of Table 14.2 as each world sees them, a banked register, and a pending line of the running world (R335, R340). -/
theorem test_csrs :
    let k : Kpr := { kp .secure true with ret := true, kwentry := 0x10000000, nb := { bank0 with mscratch := 7 } }
    let c := (tapS 15 k).toChip
    c.csr .secure 0x7C0 = some 2 ∧ c.csr .normal 0x7C0 = some 1 ∧ c.csr .secure 0x7C1 = some 0x10000000 ∧ c.csr .normal 0x7C1 = none ∧ c.csr .normal 0x7C3 = none
    ∧ c.csr .secure 0x340 = some 0 ∧ c.csr .normal 0x340 = some 7 ∧ c.csrSet .normal 0x7C0 8 = none
    ∧ ((c.csrSet .secure 0x7C1 0x10000007).map fun t => t.kpr.kwentry) = some 0x10000004 ∧ ((c.csrSet .normal 0x7C2 0xFFFFF123).map fun t => t.kpr.nb.kwdwin) = some 0x123
    ∧ (c.mip .normal).getLsbD 11 = false ∧ ((c.set WORLD_IRQ_PENDING 0 1).mip .normal).getLsbD 11 = true ∧ ((c.set WORLD_IRQ_PENDING 0 1).mip .secure).getLsbD 11 = false := by
  decide +kernel

theorem wit_DebugPort_csr :
    let c := (tapS 15 { kp .secure true with halted := some .secure }).toChip
    c.tapAllowed (.readReg 0x1FFF) = true ∧ c.csr c.kpr.world 0x7C3 = some 0 ∧ c.csr c.kpr.world 0xFFF = none ∧ (c.csrSet c.kpr.world 0x7C0 8).isSome = true ∧ c.csrSet c.kpr.world 0xFFF 8 = none := by
  decide +kernel

theorem wit_PerformanceMonitor_period :
    (srvEng []).ts < kget 0 32 ({ pm0 with mergeAt := [(32, 1000000000)] } : Pm).mergeAt + 10000 ∧ kget 0 32 pm0.mergeAt + 10000 ≤ (srvEng []).ts := by decide +kernel

theorem wit_DebugPort_sram :
    let t (m : Nat) := ({ tapS 15 (kp .secure true) with eng := { (tapS 15 (kp .secure true)).eng with errs := [⟨3, 0, 0x100FF000, m⟩] } } : State).toChip
    (t 3).kaddr .secure false 0x100FF000 = some (.sram 0xFF000) ∧ (t 3).tapAllowed (.readMem 0x100FF000) = true ∧ ((t 3).eng.sramRead 0xFF000 4).2 = some 0x100FF000
    ∧ ((t 0).eng.sramRead 0xFF000 4).2 = none ∧ (t 0).kaddr .secure false 0x40000000 = some (.oap 0) := by decide +kernel

theorem wit_MemoryWrites :
    let s := fwS true 1024 0x21 [0, 3, 0, 0, 5]
    let c := ({ srvO [(at_ DBG_ENABLE 0, 15), (at_ GUARD_ARM 0, 1), (at_ GUARD_DIR 0, 7 + 2 ^ 20 + 0xFFFFF * 2 ^ 72)] with kpr := kp .secure true, pm := { pm0 with ir := 2, sib := 15, attached := true } } : State).toChip
    s.toChip.nextReq .secure = some (dq 0x21 [0, 3, 0, 0, 5]) ∧ ((dq 0x21 [0, 3, 0, 0, 5]).body.drop 4).length ≤ 1024 ∧ Memory.wf s.kpr.sram = true ∧ Memory.wf s.kpr.dram = true
    ∧ c.kaddr c.kpr.world true 0x10000000 = some (.sram 0) ∧ c.kaddr c.kpr.world true 0x100FFFFC = some (.sram 0xFFFFC) ∧ c.kaddr c.kpr.world true 0x80000000 = some (.dram 0)
    ∧ c.tapAllowed (.writeMem 0x100FFFFC 0) = true ∧ c.tapAllowed (.writeMem 0x80000000 0) = true ∧ Memory.wf c.kpr.sram = true ∧ Memory.wf c.kpr.dram = true ∧ bit c.pm.sib (tapInst (.writeMem 0 0)) = true ∧ c.pm.ir = 2 ∧ c.kpr.on = true := by
  decide +kernel

theorem wit_SectorNumbers :
    hostS.eng.poolOf (2 ^ 24) = some 0 ∧ hostS.eng.obj POOL_TMBASE 0 + (2 ^ 24 - hostS.eng.poolBase 0) / 2 ^ 15 < 2 ^ 25 ∧ hostS.eng.poolOf (2 ^ 24 + 4) = some 0
    ∧ 0 / 2 ^ 8 + 1 < 8192 ∧ hostS.eng.psn (2 ^ 24 + 4) = hostS.eng.psn (2 ^ 24) + 1 := by decide +kernel

theorem wit_SnoopFilterIndex : (2 ^ 38 - 1 : Nat) < 2 ^ 38 ∧ (0 : Nat) < 2 ^ 38 ∧ sfaSet 0xFFFF (2 ^ 38 - 1) < 2 ^ 13 ∧ (2 ^ 38 - 1) / 2 ^ 13 = (2 ^ 38 - 1) / 2 ^ 13 := by decide +kernel

theorem wit_RefusedCommits :
    let c := (srvO []).toChip
    let f := (srv { srvEng [] with foghorn := true }).toChip
    c.coreOn = true ∧ c.keeperUp = true ∧ f.stageable .secure [⟨SLICE_PARK, 0, 1⟩] = true ∧ f.eng.foghorn = true ∧ f.firstBad .secure [⟨SLICE_PARK, 0, 1⟩] = some (⟨SLICE_PARK, 0, 1⟩, 2)
    ∧ c.stageable .secure [⟨WDT_PERIOD, 0, 9⟩] = true ∧ c.firstBad .secure [⟨WDT_PERIOD, 0, 9⟩] = some (⟨WDT_PERIOD, 0, 9⟩, 1) := by decide +kernel

theorem wit_NormalWorldOperations :
    let s := kw (kp .normal true) []
    s.toChip.oapReady .normal = true ∧ (objRow WDT_PERIOD 0).any (fun r => r.acc == .rws) = true ∧ s.eng.exists_ WDT_PERIOD 0 = true ∧ s.eng.absent WDT_PERIOD 0 = false
    ∧ Instr.oapAbort .normal ∈ [Instr.oapRead .normal 0 0 0, .oapCommit .normal, .oapAbort .normal] := by decide +kernel

theorem wit_NormalWorldOperations_next : ∃ t, exec (.oapAbort .normal) (kw (kp .normal true) []) = .next t := ⟨_, rfl⟩

theorem wit_CoherenceWithoutKeeper :
    isCoherence (.hIdleExit 0) = true ∧ isFabric .beaconSend = true ∧ isLink .replayTimerExpiry = true ∧ (srvO []).toChip.works = true := by decide +kernel

theorem wit_NothingWhileOutOfService : State.reset.toChip.live = false ∧ State.reset.toChip.coreOn = false ∧ State.reset.pending = [] ∧ isLink .linkActive = true := by decide +kernel

theorem wit_WatchdogRule :
    let c := ({ srvO [] with pwr := { up0 with wdtOn := true } } : State).toChip
    c.wdtCounts = true ∧ c.isHeld = false ∧ c.pwr.run ≠ .dead ∧ (srvO []).toChip.wdtCounts = false := by decide +kernel

theorem wit_SectorsStayTogether : (4 * 7 : Nat) / 4 = (4 * 7 + 3) / 4 ∧ bucketOf (4 * 7) = bucketOf (4 * 7 + 3) ∧ (7 : Nat) < 8 ∧ (2 ^ 46 - 1 : Nat) < 2 ^ 46 := by decide +kernel

theorem wit_BinsAndStamps : histBin 229375 = 62 ∧ histBin 229376 = 63 ∧ (16383 : Nat) < 16384 ∧ stamp 16383 = 0x3FF ∧ (7 : Nat) * 2 ≤ 15 := by decide +kernel

theorem wit_CodesCorrectAndDetect : (storeBits 0).1 + (storeBits 0).2 ≥ 2 ∧ (4, 32) ∈ [(4, 32), (6, 32), (7, 32), (8, 29), (0xA, 29)] ∧ (34 : Nat) < 32 + 3 := by decide +kernel

theorem wit_ResetDefaults : (srvO [(at_ SF_INDEX_KEY_NEXT 0, 7)]).pwr.por = false ∧ (srvO [(at_ SF_INDEX_KEY_NEXT 0, 7)]).eng.obj SF_INDEX_KEY_NEXT 0 ≠ 0xFFFF
    ∧ retained SF_INDEX_KEY = false ∧ retained SF_INDEX_KEY_NEXT = true := by decide +kernel

theorem wit_StepKeepsMemoryAndStaging : ∃ t, step State.reset = .next t ∧ State.reset.toChip.memOk ∧ State.reset.toChip.stagingOk := ⟨_, rfl, ⟨rfl, rfl⟩, by constructor <;> decide +kernel⟩

theorem wit_StepRunsFront_bounds : areaOk [⟨0, 0, 0⟩, ⟨0, 1, 0⟩] = true ∧ areaOk [⟨0, 1, 0⟩, ⟨0, 0, 0⟩] = false ∧ areaOk (List.replicate 257 ⟨0, 0, 0⟩) = false := by decide +kernel

theorem wit_ControlMessages_refused :
    ([0] : List (BitVec 8)).length < 2 ∧ 2 ≤ ([0, 0] : List (BitVec 8)).length ∧ 1 < at8 ([3, 8] : List (BitVec 8)) 0 % 4 ∧ at8 ([0, 0xFF] : List (BitVec 8)) 1 = 0xFF
    ∧ at8 ([0xFF] : List (BitVec 8)) 0 = 0xFF ∧ at8 ([0x7F] : List (BitVec 8)) 0 = 0x7F ∧ at8 ([0x7E] : List (BitVec 8)) 0 ≠ 0 ∧ (6 : Nat) < 255 := by decide

theorem wit_PerformanceMonitor_snap :
    let c (p : Pm) (objs : List (Nat × Nat)) : Chip := ({ srvO objs with pm := p } : State).toChip
    (let s := c { pm0 with snapLeft := [47], snapArmed := [47] } []; s.pm.snapArmed.contains 47 = true ∧ s.pm.snapLeft.contains 46 = false)
    ∧ (let s := c { pm0 with snapLeft := [0, 47], snapArmed := [0] } [(at_ PM_SNAP_TIME 0, 1000000000)]; s.pm.snapLeft.contains 47 = true ∧ s.pm.snapArmed.contains 47 = false ∧ s.ob PM_SNAP_TIME = s.eng.ts)
    ∧ (let s := c { pm0 with snapLeft := [46] } ((at_ PM_SNAP_TIME 0, 999999999) :: ((List.range 16).map fun d => (at_ PWR_DOMAIN_STATE d, 2))); s.ob PM_SNAP_TIME < s.eng.ts ∧ s.blockSleeps 46 = true ∧ s.pm.snapLeft.contains 46 = true)
    ∧ (srv { srvEng [] with foghorn := true }).eng.foghorn = true ∧ (c { pm0 with histWay := [(⟨0, 0, 0⟩, 1)] } [(at_ PWR_DOMAIN_STATE 5, 2)]).pmOn = false := by decide +kernel

theorem wit_PerformanceMonitor_lost (r : TrcRec) :
    Config.traceDepth < ({ pm0 with trc := List.replicate (Config.traceDepth + 1) r } : Pm).trc.length := by simp

theorem wit_DebugPort_refused :
    let c := ({ tapS 15 (kp .secure true) with eng := srvEng [(at_ DBG_ENABLE 0, 15), (at_ GUARD_KPR 0, 0)] } : State).toChip
    c.tapAllowed (.readMem 0x100FFFFC) = false ∧ c.tapAllowed (.writeMem 0x80000000 1) = false ∧ c.pm.attached = true ∧ c.dbgOn (invasive c.kpr.world) = true
    ∧ c.kRefused c.kpr.world false 0x100FFFFC = some (.keeper, 255) ∧ c.kRefused c.kpr.world true 0x80000000 = some (.directory, 0) ∧ c.kRefused c.kpr.world true 1 = none := by decide +kernel

theorem wit_I3cTarget_free : (srvO []).toChip.i3cUp = true ∧ (127 : Nat) < 128 ∧ ({ srvO [] with dic := { dic0 with i3c := { dic0.i3c with mwl := 8 } } } : State).dic.i3c.mwl < 9 := by decide +kernel

theorem wit_WatchdogRule_expiry :
    let c := ({ srvO [] with pwr := { up0 with wdtOn := true, wdtCnt := 2 ^ 40 } } : State).toChip
    c.wdtCounts = true ∧ c.wdtPeriod ≤ c.pwr.wdtCnt ∧ c.isHeld = false ∧ c.pwr.run ≠ .dead ∧ (srvO []).pwr.wdtCnt < (srvO []).toChip.wdtPeriod := by decide +kernel

theorem wit_MemoryWrites_guard :
    ((fwS false 1024 0x21 []).toChip.fwAccess .keeper true 768 1).2 = true
    ∧ (({ fwS true 1024 0x21 [] with eng := srvEng guardObjs } : State).toChip.fwAccess .directory true 768 1).2 = true := by decide +kernel

theorem wit_CoherenceWithoutKeeper_errors :
    (srv rasE).toChip.live = true ∧ (rasE.readWords (Eng.wordLost rasE 0 0 0)).length ≤ rasE.errs.length ∧ rasE.errs.length = 2 := by decide +kernel

/-! ## Well-formed commands: fields at their largest are taken, and one past it is refused -/

/-- The largest value of every field of a host beat. -/
def okH : HostBeat := { xport := 32, caid := 255, hport := 63, tag := 262143, line := 2 ^ 46 - 1, chk := .ok }

/-- Any fields of a row of Table 04.2. -/
def okM : Meta := { snp := .noOp, mf := .meta0, mv := .i }

/-- Any payload. -/
def okP : Payload := { data := 0, be := 0, poison := true }

/-- The largest header of a hierarchy message. -/
def okR : Hdr := { xport := 32, src := 255, dst := 255, seq := 2 ^ 32 - 1, epoch := 2 ^ 32 - 1 }

/-- The largest tile-map entry. -/
def okL : TileB := { i := 2 ^ 25 - 1, valid := true, dev := 255, dpa := 2 ^ 31 - 1, gen := 255 }

/-- The largest forwarded request and its answer. -/
def okF : FwdBeat := { op := .atomic, row := 15, caid := 255, port := 63, tag := 262143, line := 2 ^ 46 - 1, usize := 3, uoff := 63, pl := okP }
/-- The largest answer to a forwarded request. -/
def okA : FwdAnsB := { caid := 255, tag := 262143, ndr := some 3, drs := 2, uio := some 7, data := 0, poison := true }

/-- The largest TS1 fields. -/
def okT : TsBody := { node := 255, locked := 65535, txmask := 65535, rate := 1, cap := 3, resume := true, epoch := 255, loop := 3 }

/-- The largest TS2 fields. -/
def okT2 : Ts2Body := { width := 3, map := List.replicate 16 15, e := 4095, n := 4095, o := 4095, resok := true, req := true, excl := 65535, final := true }

/-- The largest Beacon. -/
def okB : BeaconB :=
  { seq := 2 ^ 32 - 1, echo := 2 ^ 32 - 1, dapp := 2 ^ 48 - 1, japp := 2 ^ 48 - 1, dsent := 2 ^ 48 - 1, jsent := 2 ^ 48 - 1, state := 15, shadow := 3, epoch := 255, edge := none }

/-- The largest address of a control request. -/
def okC : Ctl := { i3c := true, cookie := 255, eid := 255, tag := 7, inst := 31 }

theorem wf_host_beat : okH.wf = true ∧ ([{ okH with xport := 33 }, { okH with caid := 256 }, { okH with hport := 64 }, { okH with tag := 262144 }, { okH with line := 2 ^ 46 }, { okH with chk := .corr 0 },
      { okH with chk := .corr 9 }, { okH with chk := .header 8 }, { okH with chk := .data 8 }].all fun h => !h.wf) = true := by decide

theorem wf_hierarchy_header : okR.wf = true ∧ ([{ okR with xport := 33 }, { okR with src := 256 }, { okR with dst := 256 }, { okR with seq := 2 ^ 32 }, { okR with epoch := 2 ^ 32 }, { okR with chk := .corr 9 },
      { okR with chk2 := .corr 9 }].all
    fun h => !h.wf) = true := by decide

theorem wf_tile_and_forwarding : okL.wf = true ∧ okF.wf = true ∧ okA.wf = true
    ∧ ([{ okL with i := 2 ^ 25 }, { okL with dev := 256 }, { okL with dpa := 2 ^ 31 }, { okL with gen := 256 }].all fun t => !t.wf) = true
    ∧ ([{ okF with row := 16 }, { okF with caid := 256 }, { okF with port := 64 }, { okF with tag := 262144 }, { okF with line := 2 ^ 46 }, { okF with usize := 4 },
        { okF with uoff := 64 }].all fun b => !b.wf) = true
    ∧ ([{ okA with caid := 256 }, { okA with tag := 262144 }, { okA with ndr := some 4 }, { okA with drs := 3 }, { okA with uio := some 8 }].all fun b => !b.wf) = true := by decide

theorem wf_training : okT.wf = true ∧ okT2.wf = true
    ∧ ([{ okT with node := 256 }, { okT with locked := 65536 }, { okT with txmask := 65536 }, { okT with rate := 2 }, { okT with cap := 4 }, { okT with epoch := 256 },
        { okT with loop := 4 }].all fun p => !p.wf) = true
    ∧ ([{ okT2 with width := 4 }, { okT2 with map := List.replicate 17 0 }, { okT2 with map := [16] }, { okT2 with e := 4096 }, { okT2 with n := 4096 }, { okT2 with o := 4096 },
        { okT2 with excl := 65536 }].all fun q => !q.wf) = true := by decide

theorem wf_beacon_and_control : okB.wf = true ∧ okC.wf = true
    ∧ ([{ okB with seq := 2 ^ 32 }, { okB with echo := 2 ^ 32 }, { okB with dapp := 2 ^ 48 }, { okB with japp := 2 ^ 48 }, { okB with dsent := 2 ^ 48 }, { okB with jsent := 2 ^ 48 },
        { okB with state := 16 }, { okB with shadow := 4 }, { okB with epoch := 256 }].all fun b => !b.wf) = true
    ∧ ([{ okC with cookie := 256 }, { okC with eid := 256 }, { okC with tag := 8 }, { okC with inst := 32 }].all fun q => !q.wf) = true := by decide

theorem wf_instruments : ([TapOp.sib 15, .breakpoint (2 ^ 32 - 1) true, .readReg 32, .writeReg 32 0, .readReg 0x1000, .writeReg 0x1FFF 0, .readMem (2 ^ 32 - 1), .writeMem (2 ^ 32 - 1) 0, .counter 47 15 true,
      .sample 16383, .attach].all TapOp.wf) = true
    ∧ ([TapOp.sib 16, .breakpoint (2 ^ 32) true, .readReg 33, .writeReg 33 0, .readReg 0xFFF, .writeReg 0x2000 0, .readMem (2 ^ 32), .writeMem (2 ^ 32) 0, .counter 48 0 true, .counter 0 16 true,
        .sample 16384].all fun o => !o.wf) = true
    ∧ TrcSrc.wf (.flow 3 .normal) = true ∧ TrcSrc.wf (.flow 4 .normal) = false ∧ TrcSrc.wf .event = true := by decide

/-- Commands whose fields are all at their largest, part 1. -/
def largest1 : List Instr := [
    .railAck 3 true, .railAckTimeout 3, .pwrLevel .normal 3, .pwrKeeperClk .normal 1, .pwrVote .normal 255 true, .domainSleepEntry 255, .domainSleepExit 255,
    .pwrForceWake .normal 255, .wakeSource 7, .portUp 63, .portDeparture ⟨63, 1⟩, .memRd true okH okM, .memInv true okH okM, .memClnEvct okH okM, .memSpecRd okH okM,
    .memWr okH okM okP, .memWrPtl okH okM okP, .memRdFwd okH, .memWrFwd okH, .unsupportedHostBeat okH 2 15, .invalidKindBeat okH 3 15 15, .biconflict okH,
    .birsp okH 4095 2, .birspBlk okH 4095 2, .atomicOp okH 15 3 63 0, .backingData okH 15 3 okP, .backingCompletion okH 15 3, .backingUioCompletion okH 7 0,
    .staleBackingResponse okH ⟨15, 15⟩ 3, .outboundBeatTaken 32 3, .sliceGrant 32, .lookupIssue 32 8191, .snoopSlotAcquired 32 8191, .setConflictRetry 32 65535,
    .holdWindowEnd 32 8191, .dbsFillComplete 32 (2 ^ 44 - 1), .tileWalkComplete 32 4294967295, .dbsInPlaceRewrite 32, .dbsPlacement 32, .dbsRelease 32, .evict 1048575,
    .decline 1048575, .complete 1048575, .kept 1048575, .dbsEvictRetryExpiry 1048575, .sweepDbsScan 255, .sweepVisit 32 8191, .biTimeout 32 127 255, .memTimeout 32 8191,
    .echoEntryExpiry 32 16383, .watchQuarantineExpiry 32 8191, .hIdleExit (2 ^ 46 - 1), .hdcDisableFinish 32, .hdcPreload .normal (2 ^ 128 - 1), .leaseExpiry 4095,
    .leaseBreak .normal 65535, .leaseBreakCaid .normal 255, .leaseFree .normal 65535, .caidBind .normal 255 (some 255) (some 65535) (some (2 ^ 64 - 1)),
    .caidUnbindPlanned .normal 255]

/-- Commands whose fields are all at their largest, part 2. -/
def largest2 : List Instr := [
    .caidUnbindForced .normal 255, .poolAdd .normal 63 (2 ^ 64 - 1) 4294967295 4294967295, .poolRemove .normal 63, .poolPurgeComplete 63,
    .tileMapWrite .normal (2 ^ 160 - 1), .tileMapFill .normal (2 ^ 128 - 1), .taintClear .normal 255, .dramCommandTaken 3, .dramReadResponse 3 255 ⟨true, 0⟩,
    .dramWriteCompletion 3 255, .dramTimeout 3 255, .driftStart .normal (2 ^ 128 - 1), .driftCopyIssue 15, .driftFlip 15, .driftDrainReport 15 32,
    .driftAbort .normal 255, .remoorRequest .normal 65535 255, .remoorTransferOp 32, .remoorFwdTimeout 4294967295, .prepare okR 65535 255 255 [okL], .prepared okR,
    .refuse okR 255, .start okR 65535, .sector okR (2 ^ 44 - 1) [(7, 65535), (0, 0), (0, 0), (0, 0)], .ack okR (2 ^ 44 - 1), .transferDone okR 65535, .flip okR 65535,
    .flipped okR 65535, .drainDone okR 65535, .abort okR 65535, .fwdReq okR okF, .fwdRsp okR okA, .bucketMove .normal 255 31, .slicePark .normal 4294967295,
    .sliceDark 32, .spareSwap .normal 255, .laneLock 15 15 true true, .laneLockLoss 15, .dataFlit [15] 4095 3 true 4095 3 0, .idleFlit [15] 4095 3,
    .controlFlit [15] 4095 3 [0, 0, 0, 65535] 65535, .retrainRequestFlit [15] 4095 3 255 65535 true, .unknownKindFlit [15], .ts1 okT, .ts2 okT okT2, .laneActivity 65535,
    .drxEyeCtrl .normal (2 ^ 64 - 1), .eyeScanComplete (2 ^ 48 - 1), .drxErrInject .normal (2 ^ 64 - 1), .mirPackWaitExpiry 1, .deltaApply 32, .beacon okR okB,
    .claim okR 255, .grant okR, .deny okR, .release okR 255, .join okR, .resyncCopy 15, .mirSwap .normal 65535, .mirUnitSettle .normal 65535]

/-- Commands whose fields are all at their largest, part 3. -/
def largest3 : List Instr := [
    .hierMapSet .normal 65535 4294967295, .mapUpdate okR 65535 4294967295, .mapAck okR 4294967295, .adopt okR 255, .hierRetryExpiry 4294967295,
    .hierWitnessClear .normal 255, .scrubStep 1, .repeatRewrite 31 31 (2 ^ 40 - 1), .relocateSticky 31 31 (2 ^ 40 - 1), .rasPageRetire .normal (2 ^ 64 - 1),
    .rasBankRetire .normal 65535, .rasInject .normal (2 ^ 192 - 1), .rasRawRead .normal (2 ^ 64 - 1), .arbStarvation 6 63 true, .mretToNormal true 0 0 0 [0, 0, 0, 0],
    .wdtPeriod .normal 4294967295, .worldHoReq .normal 255, .worldHoRelease .normal 255, .worldHoRefuse .normal 255, .worldHoWaitExpiry 255, .handoverResetDone 255,
    .worldIrqPending .normal 4294967295, .oapRead .normal 65535 255 127, .oapStage .normal 65535 255 127 0, .sliceDrain 31, .rcRead .normal 65535 255,
    .w1cWrite .normal 65535 255 (2 ^ 64 - 1), .eventAck 4294967295 true, .setEndpointId okC [], .getEndpointId okC, .getEndpointUuid okC, .getMctpVersionSupport okC [],
    .getMessageTypeSupport okC, .getVendorDefinedMessageSupport okC [], .unsupportedControlCmd okC 255, .i3cPrivateWrite 127 [] true, .i3cPrivateRead 127,
    .entdaa 127 true, .setdasa 127 127, .setmwl (some 127) 65535, .setmrl (some 127) 65535, .getmwl 127, .getmrl 127, .getpid 127, .getbcr 127, .getdcr 127,
    .getstatus 127, .unsupportedCcc (some 127), .controllerRoleOffer 127, .snapBroadcast 47, .pmCtrClear .normal (2 ^ 64 - 1), .histMergeFlush 32,
    .traceRecord (.flow 3 .normal), .bypass 255, .portRetryChange 63 true, .tapInstrumentOperation (.readReg 32), .unknownHierarchyMessage okR 255]

theorem wf_largest : (largest1 ++ largest2 ++ largest3).all Instr.wf = true := by decide +kernel

/-- Commands with one field past its largest, part 1. -/
def illFormed1 : List Instr := [
    .railAck 4 true, .railAckTimeout 4, .pwrLevel .normal 4, .pwrKeeperClk .normal 2, .pwrVote .normal 256 true, .domainSleepEntry 256, .domainSleepExit 256,
    .pwrForceWake .normal 256, .wakeSource 8, .portUp 64, .portDeparture ⟨64, 1⟩, .portDeparture ⟨63, 0⟩, .memRd true ({ okH with line := 2 ^ 46 }) okM,
    .memInv true ({ okH with line := 2 ^ 46 }) okM, .memClnEvct ({ okH with line := 2 ^ 46 }) okM, .memSpecRd ({ okH with line := 2 ^ 46 }) okM,
    .memWr ({ okH with line := 2 ^ 46 }) okM okP, .memWrPtl ({ okH with line := 2 ^ 46 }) okM okP, .memRdFwd ({ okH with line := 2 ^ 46 }),
    .memWrFwd ({ okH with line := 2 ^ 46 }), .unsupportedHostBeat ({ okH with line := 2 ^ 46 }) 2 15, .unsupportedHostBeat okH 3 15, .unsupportedHostBeat okH 2 16,
    .invalidKindBeat ({ okH with line := 2 ^ 46 }) 3 15 15, .invalidKindBeat okH 4 15 15, .invalidKindBeat okH 3 16 15, .invalidKindBeat okH 3 15 16,
    .biconflict ({ okH with line := 2 ^ 46 }), .birsp ({ okH with line := 2 ^ 46 }) 4095 2, .birsp okH 4096 2, .birsp okH 4095 3,
    .birspBlk ({ okH with line := 2 ^ 46 }) 4095 2, .birspBlk okH 4096 2, .birspBlk okH 4095 3, .atomicOp ({ okH with line := 2 ^ 46 }) 15 3 63 0,
    .atomicOp okH 16 3 63 0, .atomicOp okH 15 4 63 0, .atomicOp okH 15 3 64 0, .backingData ({ okH with line := 2 ^ 46 }) 15 3 okP, .backingData okH 16 3 okP,
    .backingData okH 15 4 okP, .backingCompletion ({ okH with line := 2 ^ 46 }) 15 3, .backingCompletion okH 16 3, .backingCompletion okH 15 4,
    .backingUioCompletion ({ okH with line := 2 ^ 46 }) 7 0, .backingUioCompletion okH 8 0, .staleBackingResponse ({ okH with line := 2 ^ 46 }) ⟨15, 15⟩ 3,
    .staleBackingResponse okH ⟨16, 15⟩ 3, .staleBackingResponse okH ⟨15, 16⟩ 3, .staleBackingResponse okH ⟨15, 15⟩ 4, .outboundBeatTaken 33 3, .outboundBeatTaken 32 4, .sliceGrant 33, .lookupIssue 33 8191,
    .lookupIssue 32 8192, .snoopSlotAcquired 33 8191, .snoopSlotAcquired 32 8192, .setConflictRetry 33 65535, .setConflictRetry 32 65536, .holdWindowEnd 33 8191,
    .holdWindowEnd 32 8192, .dbsFillComplete 33 (2 ^ 44 - 1), .dbsFillComplete 32 (2 ^ 44)]

/-- Commands with one field past its largest, part 2. -/
def illFormed2 : List Instr := [
    .tileWalkComplete 33 4294967295, .tileWalkComplete 32 4294967296, .dbsInPlaceRewrite 33, .dbsPlacement 33, .dbsRelease 33, .evict 1048576, .decline 1048576,
    .complete 1048576, .kept 1048576, .dbsEvictRetryExpiry 1048576, .sweepDbsScan 256, .sweepVisit 33 8191, .sweepVisit 32 8192, .biTimeout 33 127 255,
    .biTimeout 32 128 255, .biTimeout 32 127 256, .memTimeout 33 8191, .memTimeout 32 8192, .echoEntryExpiry 33 16383, .echoEntryExpiry 32 16384,
    .watchQuarantineExpiry 33 8191, .watchQuarantineExpiry 32 8192, .hIdleExit (2 ^ 46), .hdcDisableFinish 33, .hdcPreload .normal (2 ^ 128), .leaseExpiry 4096,
    .leaseBreak .normal 65536, .leaseBreakCaid .normal 256, .leaseFree .normal 65536, .caidBind .normal 256 (some 255) (some 65535) (some (2 ^ 64 - 1)),
    .caidBind .normal 255 (some 256) (some 65535) (some (2 ^ 64 - 1)), .caidBind .normal 255 (some 255) (some 65536) (some (2 ^ 64 - 1)),
    .caidBind .normal 255 (some 255) (some 65535) (some (2 ^ 64)), .caidUnbindPlanned .normal 256, .caidUnbindForced .normal 256,
    .poolAdd .normal 64 (2 ^ 64 - 1) 4294967295 4294967295, .poolAdd .normal 63 (2 ^ 64) 4294967295 4294967295, .poolAdd .normal 63 (2 ^ 64 - 1) 4294967296 4294967295,
    .poolAdd .normal 63 (2 ^ 64 - 1) 4294967295 4294967296, .poolRemove .normal 64, .poolPurgeComplete 64, .tileMapWrite .normal (2 ^ 160),
    .tileMapFill .normal (2 ^ 128), .taintClear .normal 256, .dramCommandTaken 4, .dramReadResponse 4 255 ⟨true, 0⟩, .dramReadResponse 3 256 ⟨true, 0⟩,
    .dramWriteCompletion 4 255, .dramWriteCompletion 3 256, .dramTimeout 4 255, .dramTimeout 3 256, .driftStart .normal (2 ^ 128), .driftCopyIssue 16, .driftFlip 16,
    .driftDrainReport 16 32, .driftDrainReport 15 33, .driftAbort .normal 256, .remoorRequest .normal 65536 255, .remoorRequest .normal 65535 256]

/-- Commands with one field past its largest, part 3. -/
def illFormed3 : List Instr := [
    .remoorTransferOp 33, .remoorFwdTimeout 4294967296, .prepare ({ okR with seq := 2 ^ 32 }) 65535 255 255 [okL], .prepare okR 65536 255 255 [okL],
    .prepare okR 65535 256 255 [okL], .prepare okR 65535 255 256 [okL], .prepare okR 65535 255 255 [{ okL with gen := 256 }], .prepared ({ okR with seq := 2 ^ 32 }),
    .refuse ({ okR with seq := 2 ^ 32 }) 255, .refuse okR 256, .start ({ okR with seq := 2 ^ 32 }) 65535, .start okR 65536,
    .sector ({ okR with seq := 2 ^ 32 }) (2 ^ 44 - 1) [(7, 65535), (0, 0), (0, 0), (0, 0)], .sector okR (2 ^ 44) [(7, 65535), (0, 0), (0, 0), (0, 0)],
    .sector okR (2 ^ 44 - 1) [(8, 0), (0, 0), (0, 0), (0, 0)], .sector okR (2 ^ 44 - 1) [(0, 65536), (0, 0), (0, 0), (0, 0)],
    .sector okR (2 ^ 44 - 1) [(0, 0), (0, 0), (0, 0)], .ack ({ okR with seq := 2 ^ 32 }) (2 ^ 44 - 1), .ack okR (2 ^ 44),
    .transferDone ({ okR with seq := 2 ^ 32 }) 65535, .transferDone okR 65536, .flip ({ okR with seq := 2 ^ 32 }) 65535, .flip okR 65536,
    .flipped ({ okR with seq := 2 ^ 32 }) 65535, .flipped okR 65536, .drainDone ({ okR with seq := 2 ^ 32 }) 65535, .drainDone okR 65536,
    .abort ({ okR with seq := 2 ^ 32 }) 65535, .abort okR 65536, .fwdReq ({ okR with seq := 2 ^ 32 }) okF, .fwdReq okR ({ okF with row := 16 }),
    .fwdRsp ({ okR with seq := 2 ^ 32 }) okA, .fwdRsp okR ({ okA with drs := 3 }), .bucketMove .normal 256 31, .bucketMove .normal 255 32, .slicePark .normal 4294967296,
    .sliceDark 33, .spareSwap .normal 256, .laneLock 16 15 true true, .laneLock 15 16 true true, .laneLockLoss 16, .dataFlit [16] 4095 3 true 4095 3 0,
    .dataFlit [15] 4096 3 true 4095 3 0, .dataFlit [15] 4095 4 true 4095 3 0, .dataFlit [15] 4095 3 true 4096 3 0, .dataFlit [15] 4095 3 true 4095 4 0,
    .idleFlit [16] 4095 3, .idleFlit [15] 4096 3, .idleFlit [15] 4095 4, .controlFlit [16] 4095 3 [0, 0, 0, 65535] 65535, .controlFlit [15] 4096 3 [0, 0, 0, 65535] 65535,
    .controlFlit [15] 4095 4 [0, 0, 0, 65535] 65535, .controlFlit [15] 4095 3 [0, 0, 0] 65535, .controlFlit [15] 4095 3 [0, 0, 0, 65536] 65535,
    .controlFlit [15] 4095 3 [0, 0, 0, 65535] 65536, .retrainRequestFlit [16] 4095 3 255 65535 true, .retrainRequestFlit [15] 4096 3 255 65535 true,
    .retrainRequestFlit [15] 4095 4 255 65535 true, .retrainRequestFlit [15] 4095 3 256 65535 true, .retrainRequestFlit [15] 4095 3 255 65536 true]

/-- Commands with one field past its largest, part 4. -/
def illFormed4 : List Instr := [
    .unknownKindFlit [16], .ts1 ({ okT with loop := 4 }), .ts2 ({ okT with loop := 4 }) okT2, .ts2 okT ({ okT2 with width := 4 }), .laneActivity 65536,
    .drxEyeCtrl .normal (2 ^ 64), .eyeScanComplete (2 ^ 48), .drxErrInject .normal (2 ^ 64), .mirPackWaitExpiry 2, .deltaApply 33,
    .beacon ({ okR with seq := 2 ^ 32 }) okB, .beacon okR ({ okB with state := 16 }), .claim ({ okR with seq := 2 ^ 32 }) 255, .claim okR 256,
    .grant ({ okR with seq := 2 ^ 32 }), .deny ({ okR with seq := 2 ^ 32 }), .release ({ okR with seq := 2 ^ 32 }) 255, .release okR 256,
    .join ({ okR with seq := 2 ^ 32 }), .resyncCopy 16, .mirSwap .normal 65536, .mirUnitSettle .normal 65536, .hierMapSet .normal 65536 4294967295,
    .hierMapSet .normal 65535 4294967296, .mapUpdate ({ okR with seq := 2 ^ 32 }) 65535 4294967295, .mapUpdate okR 65536 4294967295, .mapUpdate okR 65535 4294967296,
    .mapAck ({ okR with seq := 2 ^ 32 }) 4294967295, .mapAck okR 4294967296, .adopt ({ okR with seq := 2 ^ 32 }) 255, .adopt okR 256, .hierRetryExpiry 4294967296,
    .hierWitnessClear .normal 256, .scrubStep 2, .repeatRewrite 32 31 (2 ^ 40 - 1), .repeatRewrite 31 32 (2 ^ 40 - 1), .repeatRewrite 31 31 (2 ^ 40),
    .relocateSticky 32 31 (2 ^ 40 - 1), .relocateSticky 31 32 (2 ^ 40 - 1), .relocateSticky 31 31 (2 ^ 40), .rasPageRetire .normal (2 ^ 64), .rasBankRetire .normal 65536,
    .rasInject .normal (2 ^ 192), .rasRawRead .normal (2 ^ 64), .arbStarvation 7 63 true, .arbStarvation 6 64 true, .mretToNormal true 0 0 0 [0, 0, 0],
    .wdtPeriod .normal 4294967296, .worldHoReq .normal 256, .worldHoRelease .normal 256, .worldHoRefuse .normal 256, .worldHoWaitExpiry 256, .handoverResetDone 256,
    .worldIrqPending .normal 4294967296, .oapRead .normal 65536 255 127, .oapRead .normal 65535 256 127, .oapRead .normal 65535 255 128,
    .oapStage .normal 65536 255 127 0, .oapStage .normal 65535 256 127 0, .oapStage .normal 65535 255 128 0]

/-- Commands with one field past its largest, part 5. -/
def illFormed5 : List Instr := [
    .sliceDrain 32, .rcRead .normal 65536 255, .rcRead .normal 65535 256, .w1cWrite .normal 65536 255 (2 ^ 64 - 1), .w1cWrite .normal 65535 256 (2 ^ 64 - 1),
    .w1cWrite .normal 65535 255 (2 ^ 64), .eventAck 4294967296 true, .setEndpointId ({ okC with inst := 32 }) [], .getEndpointId ({ okC with inst := 32 }),
    .getEndpointUuid ({ okC with inst := 32 }), .getMctpVersionSupport ({ okC with inst := 32 }) [], .getMessageTypeSupport ({ okC with inst := 32 }),
    .getVendorDefinedMessageSupport ({ okC with inst := 32 }) [], .unsupportedControlCmd ({ okC with inst := 32 }) 255, .unsupportedControlCmd okC 256,
    .i3cPrivateWrite 128 [] true, .i3cPrivateRead 128, .entdaa 128 true, .setdasa 128 127, .setdasa 127 128, .setmwl (some 128) 65535, .setmwl (some 127) 65536,
    .setmrl (some 128) 65535, .setmrl (some 127) 65536, .getmwl 128, .getmrl 128, .getpid 128, .getbcr 128, .getdcr 128, .getstatus 128, .unsupportedCcc (some 128),
    .controllerRoleOffer 128, .snapBroadcast 48, .pmCtrClear .normal (2 ^ 64), .histMergeFlush 33, .traceRecord (.flow 4 .normal), .bypass 256, .portRetryChange 64 true,
    .tapInstrumentOperation (.readReg 33), .unknownHierarchyMessage ({ okR with seq := 2 ^ 32 }) 255, .unknownHierarchyMessage okR 256]

theorem wf_refuses : (illFormed1 ++ illFormed2 ++ illFormed3 ++ illFormed4 ++ illFormed5).all (fun i => !i.wf) = true := by decide +kernel

/-! ## Figures of the spec -/

/-- The state after a command. -/
def after (i : Instr) (s : State) : State := match exec i s with | .next t => t | _ => s

/-- An element of an object after a command. -/
def gives (i : Instr) (s : State) (idx el : Nat) : Nat := (after i s).eng.obj idx el

/-- Pool 3 of the example of chapter 03, under the key of chapter 06. -/
def exE : Eng := srvEng [(at_ POOL_BASE 3, 0x4123400000000), (at_ POOL_UNITS 3, 64), (at_ POOL_TMBASE 3, 65536), (at_ POOL_STATE 3, 1), (at_ SF_INDEX_KEY 0, 0x0A5C), (at_ DBS_BASE 0, 0),
  (at_ TILEMAP_BASE 0, 0x100000000), (at_ RAS_SPARE_BASE 0, 0x120000000)]

/-- Its line: HPA 0x4_1234_5678_9AC0. -/
def exL : Nat := 0x4123456789AC0 / 64

/-- Chapter 02: bucket 150, slice 22. Chapter 00: the HTID of context 0x1A05 of slice 19. -/
theorem test_steering : bucketOf exL = 150 ∧ exE.owner exL = 22 ∧ exE.htid 19 0x1A05 = 0x27A05 := by decide +kernel

/-- Chapters 03 and 06: unit 129, the sector number, the set, the page and its home burst. -/
theorem test_directory_place :
    exE.lineUnit exL = some 129 ∧ exE.psn exL = 0x2056789A ∧ sfaSet 0x0A5C 0x2056789A = 4197 ∧ exE.pageOf 0x2056789A = 422083 ∧ dbsHome 0x2056789A = 37
    ∧ exE.burstAddr 422083 37 = 0x670C3A40 / 64 ∧ pageCh 422083 = 3 ∧ exE.sparePage 422083 = some 3 ∧ bits 0xCE186 20 1 = 422083 ∧ hdcSet 0x0A5C 0x2056789A = 182 := by decide +kernel

/-- Chapter 03: device 5, frame 0x1A0 gives DPA 0x3418_9AC0. -/
theorem test_dpa : exE.dpaOf { valid := true, drift := false, dev := 5, dpa := 0x1A0, gen := 0, pool := 3, heat := 0 } exL = 0x34189AC0 / 64 := by decide +kernel

/-- Chapter 16: 910 ns stamps 0x1F1, 300 ns e = 2 and m = 75, 913 ns reads 912; 913 ns falls in bin 31. -/
theorem test_stamps : stamp 910 = 0x1F1 ∧ stamp 300 = 2 * 128 + 75 ∧ stamp 913 = 3 * 128 + 114 ∧ histBin 913 = 31 := by decide +kernel

/-- R69: the first reason found refuses: an unbound CAID 0x2, another port 0x4, no pool 0x5, a unit moored elsewhere 0x7. -/
theorem test_refusals :
    let m := mta .noOp .meta0 .i
    gives (.memRd false { hb with caid := 7 } m) hostS STRANGER_COUNT 2 = 1 ∧ gives (.memRd false { hb with hport := 4 } m) hostS STRANGER_COUNT 4 = 1
    ∧ gives (.memRd false { hb with line := 0 } m) hostS STRANGER_COUNT 5 = 1
    ∧ gives (.memRd false hb m) (srv (srvEng hostObjs)) STRANGER_COUNT 7 = 1 ∧ (after (.memRd false hb m) hostS).eng.qf.length + (after (.memRd false hb m) hostS).eng.lineq.length = 1 := by
  decide +kernel

/-- Chapter 15: the bytes of the STAGE of HOLD_WINDOW 256 over I3C, from EID 0x10 to 0x2A. -/
def stagePacket : List (BitVec 8) := [0x01, 0x2A, 0x10, 0xCB, 0x7F, 0x00, 0x00, 0xB7, 0xE2, 0x85, 0x02, 0x00, 0x00, 0x30, 0x00, 0x02, 0x00, 0x01]

/-- The endpoint with EID 0x2A and an I3C address. -/
def exI3c : State := { srvO [(at_ DICT_EID 0, 0x2A)] with kpr := kp .normal true, dic := { dic0 with i3c := { dic0.i3c with dyn := some 8 } } }

/-- The request as it waits. -/
def exReq : DReqQ :=
  { world := .normal, addr := { via := .i3c, eid := 0x10, tag := 3, owner := true }, inst := 5, cmd := 2, body := [0x00, 0x30, 0x00, 0x02, 0x00, 0x01], at_ := 1000000000, cmt := none }

theorem test_stage_request : (after (.i3cPrivateWrite 8 stagePacket true) exI3c).dic.reqs = [exReq] := by decide +kernel

/-- The answer of the same example: header byte 3 0xC3, payload 7F 00 00 B7 E2 05 02 00; the write is staged. -/
theorem test_stage_answer :
    let t := after (.dictStage .normal false) { exI3c with dic := { exI3c.dic with reqs := [exReq] } }
    t.dic.i3cQ = [[0x01, 0x10, 0x2A, 0xC3, 0x7F, 0x00, 0x00, 0xB7, 0xE2, 0x05, 0x02, 0x00]] ∧ t.dic.stN = [⟨HOLD_WINDOW, 0, 256⟩] ∧ t.dic.reqs = [] := by decide +kernel

/-- The same write committed takes effect. -/
theorem test_hold_window : (match State.commit (srvO []) .normal [⟨HOLD_WINDOW, 0, 256⟩] with | .next t => t | _ => State.reset).eng.ob HOLD_WINDOW = 256 := by decide +kernel

/-- R330: the first release of `rs_por_n` records cause 1 and one reset, and asks for the core rail. -/
theorem test_power_on : gives .powerOnResetRelease State.reset PWR_RESET_CAUSE 0 = 1 + 1 * 8 ∧ ((after .powerOnResetRelease State.reset).toChip.rail 0).req = true := by decide +kernel

/-- R338: a return to the normal world keeps x10 to x13 and clears every other register. -/
theorem test_mret :
    let t := after (.mretToNormal false 0x10080000 0 0 [1, 2, 3, 4]) (kw { kp .secure true with regs := Vector.replicate 31 7 } [])
    t.kpr.world = .normal ∧ t.kpr.mmode = false ∧ t.kpr.pc = 0x10080000 ∧ t.kpr.reg 10 = 1 ∧ t.kpr.reg 13 = 4 ∧ t.kpr.reg 9 = 0 ∧ t.kpr.reg 31 = 0 := by decide +kernel

/-- R308, R305: the Foghorn test, and an injection that waits for the word's next write. -/
theorem test_ras :
    let s := srvO [(at_ RAS_TEST_ENABLE 0, 1)]
    (after (.rasFoghornTest .secure) s).eng.foghorn = true ∧ (after (.rasInject .secure (3 + 2 ^ 50)) s).eng.ras.armed = [⟨3, 0, 0, 1⟩] := by decide +kernel

/-- R293: the first two columns of the symbol codes correct their own symbols, and a slice store corrects its one bit. -/
theorem test_codes :
    let sym (e : Ecc) : Option Nat := match e with | .corr i _ => some i | _ => none
    sym (storeRead 4 0xF) = some 0 ∧ sym (storeRead 4 0x90) = some 1 ∧ sym (storeRead 0 1) = some 0 ∧ sym (storeRead 0 3) = none := by decide +kernel

/-- R380: an increment of bin 31 of class 2. -/
theorem test_histogram :
    let s := { srvO [(at_ PWR_DOMAIN_STATE 5, 0)] with pm := { pm0 with histWay := [(⟨0x2C, 2, 31⟩, 3)] } }
    (after (.histIncrement true) s).pm.bins = [((0x2C * 8 + 2) * 64 + 31, 3)] ∧ (after (.histIncrement true) s).pm.histWay = [] := by decide +kernel

/-- R382: the bypass register of an unlisted code, and the network's. -/
theorem test_tap : (after (.bypass 9) (srvO [])).pm.dr = 0 ∧ (after .ijtag (srvO [])).pm.ir = 2 := by decide +kernel

/-- R276: a Beacon takes the next number. -/
theorem test_beacon : (after .beaconSend (miS 2 mir0)).mir.bseq = 1 := by decide +kernel

/-- The published check value of CRC-32C (R243): over the ASCII bytes of 123456789 it is 0xE3069283. -/
theorem test_crc32c : crc32c 0x393837363534333231 72 = 0xE3069283 := by decide +kernel

/-- R242: a codeword is a multiple of (x - 1), so its symbols sum to zero. -/
theorem test_flit_parity_root : ((symParity (2 ^ 2060 - 7)).foldl (· ^^^ ·) 0 ^^^ (List.range 206).foldl (fun a i => a ^^^ (2 ^ 2060 - 7) / 2 ^ (10 * i) % 1024) 0) = 0 := by decide +kernel

/-- Table 10.2: the comma of physical lane 5 as logical lane 3 at x8, the next after 16,384 blocks. -/
theorem test_comma_block : commaBlock 5 3 1 true = (0xCA#8 ++ 0b00000#5 ++ 0b1#1 ++ 0b01#2 ++ 0x3#4 ++ 0x5#4 ++ 0x5CA35CA35C#40 ++ 0b10#2) := by decide +kernel

end Sys2Proof.Tests
end

/-! # Rejoin, swap, settle and the region-home map

What the commands of the mirror and the hierarchy are (R278, R283 to R289): the commits, the messages of Table 11.7, and what a
misaddressed or unlisted message meets. -/

namespace Sys2Proof.Machine
open Ob

/-! ## Effects of commits and of fabric operations -/

/-- A commit of one command that passes every check starts the command (R358). -/
theorem commit_command (s : State) (w : World) (o : OWr) (ho : isWO o = true) (h : s.toChip.accepts w [o] = true) :
    s.commit w [o] = .next (s.committed w fun c => c.startWr w o) := by
  rw [commit_accepted s w [o] h, applyCmt_command _ w o ho, State.committed]

/-- A commit of one command has the effect that starting the command has. -/
theorem commit_starts {s : State} {w : World} {i el v : Nat} {g : Chip → Chip} (ho : isWO ⟨i, el, 0⟩ = true)
    (hg : ∀ c : Chip, c.startWr w ⟨i, el, v⟩ = g c) (h : s.toChip.accepts w [⟨i, el, v⟩] = true) :
    s.commit w [⟨i, el, v⟩] = .next (s.committed w g) := by
  rw [commit_command s w _ ((isWO_val i el v).trans ho) h, funext hg]

/-- While the block works, an operation of the fabric side leaves it as the operation's equation says. -/
theorem fabric_effect {s : State} {g : Fab → Fab} {f : Fab} (hw : s.toChip.works = true) (hf : g s.toChip.fab = f) :
    s.fabric g = .next (s.effFab f) := by
  rw [fabric_works s g hw, hf]

/-- Engine operations that agree on the engine at hand leave one fabric side. -/
theorem fab_e_congr {f : Fab} {g g' : Eng → Eng} (h : g f.eng = g' f.eng) : f.e g = f.e g' := by
  simp only [Fab.e, h]

/-- Ending the wait for answers changes the Mirror Engine's state alone. -/
@[simp] theorem answered_eng (f : Fab) (p : HMsg → Bool) : (f.answered p).eng = f.eng := rfl

/-! ## Commits (R278, R283, R284, R285, R289) -/

theorem startWr_mirRejoin (c : Chip) (w : World) : c.startWr w ⟨MIR_REJOIN, 0, 1⟩ = c.setFab c.fab.rejoin := rfl

theorem startWr_mirSwap (c : Chip) (w : World) (u : Nat) : c.startWr w ⟨MIR_SWAP, 0, u⟩ = c.e fun e => e.swapBegin u := by
  simp +decide only [Chip.startWr, if_true, if_false]

theorem startWr_mirUnitSettle (c : Chip) (w : World) (u : Nat) : c.startWr w ⟨MIR_UNIT_SETTLE, 0, u⟩ = c.e fun e => e.settleUnit u := by
  simp +decide only [Chip.startWr, if_true, if_false]

theorem startWr_hierWitnessClear (c : Chip) (w : World) (n : Nat) : c.startWr w ⟨HIER_WITNESS_CLEAR, 0, n⟩ = c.setFab (c.fab.unclaim n) := by
  simp +decide only [Chip.startWr, if_true, if_false]

/-- The fields of HIER_MAP_SET are the unit and its entry (R289). -/
theorem startWr_hierMapSet (c : Chip) (w : World) (u v : Nat) (hu : u < 2 ^ 16) (hv : v < 2 ^ 32) :
    c.startWr w ⟨HIER_MAP_SET, 0, u + v * 2 ^ 16⟩ = c.e fun e => e.mapChange u v := by
  have hunit : bits (u + v * 2 ^ 16) 15 0 = u := by simp only [bits]; omega
  have hentry : bits (u + v * 2 ^ 16) 47 16 = v := by simp only [bits]; omega
  calc c.startWr w ⟨HIER_MAP_SET, 0, u + v * 2 ^ 16⟩
      = c.e fun e => e.mapChange (bits (u + v * 2 ^ 16) 15 0) (bits (u + v * 2 ^ 16) 47 16) := rfl
    _ = c.e fun e => e.mapChange u v := by rw [hunit, hentry]

/-! ## Resynchronisation and resent messages (R284, R288) -/

/-- A free channel takes the next sector of the scan (R284 step 2). -/
theorem resync_next (f : Fab) (ch sec : Nat) (t : List Nat) (hs : f.mir.scan = some (sec :: t)) (hm : f.mayResync ch = true) :
    f.resync ch = (f.m fun r => { r with scan := some t }).e fun e =>
      ((f.eng.sectorLines (f.eng.owner (sec * 4)) sec).zipIdx.filter fun p => decide (p.1.shadow ≠ .I)).foldl
        (fun e p => e.sendInt (.resync ch) 5 ch (sec * 4 + p.2)) e := by
  simp [Fab.resync, hs, hm]

/-- A message goes out once more under its number. -/
def Fab.resend (f : Fab) (seq : Nat) (m : HMsg) : Fab :=
  (f.put seq m false).m fun r =>
    { r with hout := updFirst (fun (p : HOut) => p.seq == seq) (fun p => { p with sends := p.sends + 1, at_ := (f.put seq m false).eng.ts }) r.hout }

/-- The event that names the node that does not answer, and the type (R288). -/
def Fab.silent (f : Fab) (m : HMsg) : Fab := f.e fun e => e.event 0x10 (evArgs [(0, m.dst), (1, m.typ)])

/-- What HIER_RETRY's expiry does to a message that waits for its answer (R277, R288). -/
theorem retry_due (f : Fab) (seq : Nat) (o : HOut) (ho : f.mir.hout.find? (fun o => o.seq == seq) = some o)
    (hd : o.at_ + f.eng.ob HIER_RETRY * 1000 ≤ f.eng.ts) :
    f.retry seq =
      if o.sends = 16 ∧ o.msg.typ ≠ 0x02 then (f.silent o.msg).m fun r => { r with hout := r.hout.filter fun (p : HOut) => p.seq != seq }
      else (if o.sends = 16 then f.silent o.msg else f).resend seq o.msg := by
  simp only [Fab.retry, ho, if_neg (Nat.not_lt.2 hd)]
  rfl

/-! ## Inbound messages (R17, R287) -/

/-- A message from 0xFF or for another node, whose beats its port takes, is discarded whatever its type (R287). -/
theorem hin_misaddressed (f : Fab) (h : Hdr) (typ : Nat) (act : Fab → Fab) (hp : h.xport = linkPort ∨ f.eng.rdy h.xport 3 = true)
    (hw : msgWhole h = true) (hf : (f.arrived h).eng.foghorn = false) (ha : h.src = 0xFF ∨ h.dst ≠ (f.arrived h).me) :
    f.hin h typ act = (f.arrived h).discard h 2 typ := by
  have hport : ¬(h.xport ≠ linkPort ∧ (!f.eng.rdy h.xport 3) = true) := by
    rintro ⟨hne, hr⟩
    exact hp.elim hne fun hrdy => by simp [hrdy] at hr
  have hread : ¬((f.arrived h).eng.foghorn = true ∨ (!msgWhole h) = true) := by simp [hf, hw]
  simp only [Fab.hin, if_neg hport, if_neg hread, if_pos ha]

/-- A new message of a type that Table 11.7 does not list is discarded. -/
theorem unknownMsg_new (f : Fab) (h : Hdr) (typ : Nat) (hn : f.isNew h = true) (ht : typ ∉ hierTypes) :
    f.unknownMsg h typ = (f.arrived h).discard h 1 typ := by
  rw [Fab.unknownMsg, hin_new f h typ _ hn, if_neg (by simpa using ht)]

/-- JOIN from the partner to a member that may start joining (R284). -/
theorem join_start (f : Fab) (h : Hdr) (hn : f.isNew h = true) (hs : h.src = (f.arrived h).peer) (hj : (f.arrived h).mayJoin = true) :
    f.join h = (f.arrived h).joinStart.e fun e => e.hsend 0x06 h.src 0 none none (some h.seq) := by
  rw [Fab.join, hin_new f h _ _ hn, if_neg (not_not_intro hs), if_pos hj]

/-- JOIN from the partner to a member that has sent its own (R284). -/
theorem join_answer (f : Fab) (h : Hdr) (hn : f.isNew h = true) (hs : h.src = (f.arrived h).peer) (hj : (f.arrived h).mayJoin = false) :
    f.join h = (f.arrived h).answered fun m => m.typ == 0x06 := by
  rw [Fab.join, hin_new f h _ _ hn, if_neg (not_not_intro hs), if_neg (by simp [hj])]

/-- What an arrived MAP_UPDATE of an epoch does to the map: that of the next epoch is applied, at the manager as a change of its own
(R289; log entry 28). -/
def Eng.takeMap (e : Eng) (epoch u v : Nat) : Eng :=
  if e.isManager then (if epoch = (e.ob HIER_MAP_EPOCH + 1) % 2 ^ 32 then e.mapChange u v else e)
  else if epoch = (e.ob HIER_MAP_EPOCH + 1) % 2 ^ 32 then e.mapApply u v
  else e

/-- An update of another epoch leaves the map as it is. -/
theorem takeMap_otherEpoch {e : Eng} {epoch u v : Nat} (he : epoch ≠ (e.ob HIER_MAP_EPOCH + 1) % 2 ^ 32) : e.takeMap epoch u v = e := by
  rw [Eng.takeMap, if_neg he, if_neg he, ite_self]

/-- A new MAP_UPDATE does to the map what its epoch asks, here `g`, and is answered with the epoch then in force (R289). -/
theorem mapUpdate_new {f : Fab} {h : Hdr} {u v : Nat} {g : Eng → Eng} (hn : f.isNew h = true)
    (hg : (f.arrived h).eng.takeMap h.epoch u v = g (f.arrived h).eng) :
    f.mapUpdate h u v = (((f.arrived h).answered fun m => m.typ == 0x22 && m.dst == h.src).e g).e
      fun e => e.hsend 0x21 h.src (e.ob HIER_MAP_EPOCH) none none (some h.seq) := by
  rw [Fab.mapUpdate, hin_new f h _ _ hn]
  exact congrArg (Fab.e · _) (fab_e_congr hg)

/-- A new MAP_ACK to a node that is not the manager ends the wait for it (R288). -/
theorem mapAck_other (f : Fab) (h : Hdr) (k : Nat) (hn : f.isNew h = true) (hm : (f.arrived h).eng.isManager = false) :
    f.mapAck h k = (f.arrived h).answered fun m => m.typ == 0x20 && m.dst == h.src := by
  rw [Fab.mapAck, hin_new f h _ _ hn]
  exact if_pos (by simp [hm])

/-- A new MAP_ACK at the manager brings the updates after the node's epoch again (R289). -/
theorem mapAck_manager (f : Fab) (h : Hdr) (k : Nat) (hn : f.isNew h = true) (hm : (f.arrived h).eng.isManager = true) :
    f.mapAck h k = ((f.arrived h).answered fun m => m.typ == 0x20 && m.dst == h.src).e fun e =>
      (e.mapLog.filter fun c => decide (k < c.1)).foldl (fun e c => e.sendMap h.src c) e := by
  rw [Fab.mapAck, hin_new f h _ _ hn]
  exact if_neg (by simp [hm])

/-- A new ADOPT at the manager gives the survivor the units of the lost node that it mirrors (R289). -/
theorem adoptMsg_new (f : Fab) (h : Hdr) (lost : Nat) (hn : f.isNew h = true) (hm : (f.arrived h).eng.isManager = true) :
    f.adoptMsg h lost = (f.arrived h).e fun e =>
      (e.unitsWith fun v => bits v 7 0 == lost && bits v 15 8 == h.src).foldl (fun e u => e.mapChange u (h.src + 0xFF * 2 ^ 8 + 2 ^ 16)) e := by
  rw [Fab.adoptMsg, hin_new f h _ _ hn]
  exact fab_e_congr (by simp only [Eng.adopt, hm]; rfl)

end Sys2Proof.Machine

section
open Sys2Proof Sys2Proof.Machine Sys2Proof.Machine.Ob

/-- Settles O29: each commit by the command it starts, each message by its rule once `hin` lets it through. -/
theorem rejoinSwapAndMap : Obligations.RejoinSwapAndMap := by
  unfold Obligations.RejoinSwapAndMap
  refine ⟨fun s w => ⟨?rejoin, fun u => ?swap, fun u => ?settle, fun u v hu hv => ?mapSet, fun n => ?witnessClear⟩,
    fun s hw => ⟨fun ch sec t hs hm => ?resync, fun seq o ho hd => ⟨fun hlt => ?again, fun h16 htyp => ?lastSend, fun h16 htyp => ?claim⟩,
      fun h typ hp hwh hf => ⟨fun ha => ?misaddressed, fun hn ht => ?unlisted⟩,
      fun h hn => ⟨fun hs hj => ?joinStart, fun hs hj => ?joinAnswer,
        fun u v => ⟨fun he hm => ?apply, fun he hm => ?change, fun he => ?otherEpoch⟩, fun k => ⟨fun hm => ?ack, fun hm => ?ackManager⟩,
        fun lost hm => ?adopt⟩⟩⟩
  case rejoin => exact commit_starts (by decide) fun c => startWr_mirRejoin c w
  case swap => exact commit_starts (by decide) fun c => startWr_mirSwap c w u
  case settle => exact commit_starts (by decide) fun c => startWr_mirUnitSettle c w u
  case mapSet => exact commit_starts (by decide) fun c => startWr_hierMapSet c w u v hu hv
  case witnessClear => exact commit_starts (by decide) fun c => startWr_hierWitnessClear c w n
  case resync => exact fabric_effect hw (resync_next _ ch sec t hs hm)
  case again =>
    refine fabric_effect hw ((retry_due _ seq o ho hd).trans ?_)
    rw [if_neg (by omega), if_neg (by omega)]; rfl
  case lastSend =>
    refine fabric_effect hw ((retry_due _ seq o ho hd).trans ?_)
    rw [if_pos ⟨h16, htyp⟩]; rfl
  case claim =>
    refine fabric_effect hw ((retry_due _ seq o ho hd).trans ?_)
    rw [if_neg (fun h => h.2 htyp), if_pos h16, Fab.silent, htyp]; rfl
  case misaddressed => exact fabric_effect hw (hin_misaddressed _ h typ _ hp hwh hf ha)
  case unlisted => exact fabric_effect hw (unknownMsg_new _ h typ hn ht)
  case joinStart => exact fabric_effect hw (join_start _ h hn hs hj)
  case joinAnswer => exact fabric_effect hw (join_answer _ h hn hs hj)
  case apply => exact fabric_effect hw (mapUpdate_new (g := (Eng.mapApply · u v)) hn (by simp [Eng.takeMap, he, hm]))
  case change => exact fabric_effect hw (mapUpdate_new (g := (Eng.mapChange · u v)) hn (by simp [Eng.takeMap, he, hm]))
  case otherEpoch => exact fabric_effect hw (mapUpdate_new (g := id) hn (takeMap_otherEpoch he))
  case ack => exact fabric_effect hw (mapAck_other _ h k hn hm)
  case ackManager => exact fabric_effect hw (mapAck_manager _ h k hn hm)
  case adopt => exact fabric_effect hw (adoptMsg_new _ h lost hn hm)

end

/-! # The block's overview: steering, independence of Keeper, and the slice's pipelines

The bits of a steering bucket (R20, R45), the effect of each side's commands (R21, R297), and the cycles of a slice's arbiter and lookup
scheduler with what completes their lookups (R32, R78, R103, R109, R120, R140, R143, R154, R164, R165, R169, R170). -/

namespace Sys2Proof.Machine
open Ob

/-! ## Bit fields and the steering bucket (R10, R45) -/

/-- Bit i of a field is the number's bit i above the field's lowest, inside the field's width. -/
theorem testBit_bits (n hi lo i : Nat) : (bits n hi lo).testBit i = (decide (i < hi + 1 - lo) && n.testBit (lo + i)) := by
  rw [bits, Nat.testBit_mod_two_pow, Nat.testBit_div_two_pow, Nat.add_comm i]

theorem bits_lt (n hi lo : Nat) : bits n hi lo < 2 ^ (hi + 1 - lo) := Nat.mod_lt _ (Nat.two_pow_pos _)

/-- A line's bucket is that of its sector. -/
theorem bucketOf_congr {a b : Nat} (h : a / 4 = b / 4) : bucketOf a = bucketOf b := by
  simp only [bucketOf, h]

theorem owner_congr (e : Eng) {a b : Nat} (h : a / 4 = b / 4) : e.owner a = e.owner b := by
  rw [Eng.owner, Eng.owner, bucketOf_congr h]

theorem bucketOf_lt (a : Nat) : bucketOf a < 256 := by
  have field (hi lo : Nat) (hw : hi + 1 - lo ≤ 8) : bits (a / 4) hi lo < 2 ^ 8 :=
    Nat.lt_of_lt_of_le (bits_lt _ hi lo) (Nat.pow_le_pow_right (by decide) hw)
  exact Nat.xor_lt_two_pow (Nat.xor_lt_two_pow (Nat.xor_lt_two_pow (Nat.xor_lt_two_pow (Nat.xor_lt_two_pow
    (field 7 0 (by decide)) (field 15 8 (by decide))) (field 23 16 (by decide))) (field 31 24 (by decide))) (field 39 32 (by decide)))
    (field 43 40 (by decide))

/-- Bit i of a sector's field is the line's bit two places above it. -/
theorem testBit_sector_field (a hi lo i : Nat) (hw : i < hi + 1 - lo) : (bits (a / 4) hi lo).testBit i = a.testBit (2 + lo + i) := by
  have shift : (a / 4).testBit (lo + i) = a.testBit (lo + i + 2) := Nat.testBit_div_two_pow (n := 2) a (lo + i)
  rw [testBit_bits, decide_eq_true hw, Bool.true_and, shift, Nat.add_comm 2 lo, Nat.add_right_comm]

/-- The last field has four bits, and no line has a bit above it. -/
theorem testBit_last_field (a i : Nat) (ha : a < 2 ^ 46) : (bits (a / 4) 43 40).testBit i = a.testBit (42 + i) := by
  by_cases hi : i < 4
  · exact testBit_sector_field a 43 40 i hi
  · have high : a.testBit (42 + i) = false :=
      Nat.testBit_lt_two_pow (Nat.lt_of_lt_of_le ha (Nat.pow_le_pow_right (by decide) (by omega)))
    rw [testBit_bits, decide_eq_false hi, Bool.false_and, high]

theorem testBit_bucketOf (a i : Nat) (hi : i < 8) (ha : a < 2 ^ 46) :
    (bucketOf a).testBit i = (a.testBit (2 + i) ^^ a.testBit (10 + i) ^^ a.testBit (18 + i) ^^ a.testBit (26 + i) ^^ a.testBit (34 + i) ^^ a.testBit (42 + i)) := by
  simp only [bucketOf, Nat.testBit_xor, testBit_last_field a i ha, testBit_sector_field a 7 0 i hi, testBit_sector_field a 15 8 i hi,
    testBit_sector_field a 23 16 i hi, testBit_sector_field a 31 24 i hi, testBit_sector_field a 39 32 i hi]

/-! ## Operations of the coherence side (R297) -/

/-- An operation on a coherence side: where words that it reads are in error, it acts on what their readers' outcomes leave. -/
def Eng.reads (e : Eng) (g : Eng → Eng) : Eng :=
  match e.readWords (g e) with
  | [] => g e
  | ws => g (ws.foldl (fun e b => e.readWord b) e)

/-- An operation of the coherence side reads the words of that side alone. -/
theorem reads_e (c : Chip) (g : Eng → Eng) : (c.reads fun c => c.e g) = c.e fun e => e.reads g := by
  simp only [Chip.reads, Chip.e, Eng.reads]
  cases c.eng.readWords (g c.eng) <;> rfl

/-- While the block serves, an operation of the coherence side leaves what it makes of that side alone. -/
theorem engine_reads (s : State) (g : Eng → Eng) (h : s.toChip.live = true) : s.engine g = .next (s.eff (s.eng.reads g)) := by
  rw [engine_live s g h, reads_e]; rfl

/-- While the block works, an operation of the coherence side leaves it as the operation's equation says. -/
theorem engine_effect {s : State} {g : Eng → Eng} {e : Eng} (hw : s.toChip.works = true) (hg : g s.eng = e) :
    s.engine g = .next (s.eff e) := by
  rw [engine_works s g hw, hg]

/-! ## Grants (R169) -/

theorem sliceGrant_two {e e1 : Eng} {slice : Nat} {w : Nat × Nat} (h : e.pump.grantOne slice none = (e1, some w)) :
    e.sliceGrant slice = (e1.grantOne slice (some w)).1.pump := by
  simp only [Eng.sliceGrant, h]

/-! ## Lookups (R32, R154, R164, R165, R170) -/

theorem issueOne_remoor {e : Eng} {slice idx : Nat} {q : QEnt} (ho : q.req.op = .remoor) :
    e.issueOne slice idx q = e.remoorOpen slice (q.req.line / 4) := if_pos ho

theorem issueOne_lookup {e : Eng} {slice idx : Nat} {q : QEnt} {sh : Share} (ho : q.req.op ≠ .remoor)
    (hs : e.shareFor slice q.req.cls = some sh) (hi : e.idxFree slice idx = true) :
    e.issueOne slice idx q =
      Eng.lookup { e with lineq := e.lineq.filter fun (p : QEnt) => p.req.gid != q.req.gid } slice idx sh q.req := by
  simp only [Eng.issueOne, if_neg ho, hs, if_pos hi]

theorem lookupIssue_empty {e : Eng} {slice idx : Nat} (hl : e.looksUp slice = true) (hq : e.issueHead slice = none) :
    e.lookupIssue slice idx = (e.countStall slice).useSlot slice := by
  simp [Eng.lookupIssue, hl, hq]

theorem lookupIssue_head {e : Eng} {slice idx : Nat} {q : QEnt} (hl : e.looksUp slice = true) (hq : e.issueHead slice = some q) :
    e.lookupIssue slice idx = ((e.countStall slice).useSlot slice).issueOne slice idx q := by
  simp [Eng.lookupIssue, hl, hq]

theorem sweepVisit_head {e : Eng} {slice idx c : Nat} {q : QEnt} {planned : Bool} (hl : e.looksUp slice = true)
    (hq : e.head slice true = some q) (ho : q.req.op = .visit c planned) : e.sweepVisit slice idx = e.issueOne slice idx q := by
  have hv : e.visitNext slice = true := by simp only [Eng.visitNext, hq, ho]
  simp [Eng.sweepVisit, hl, hv, hq]

/-! ## What waits goes on (R78, R103, R109, R120, R140, R143) -/

theorem setRetry_opens {e e1 : Eng} {slice set idx : Nat} {w : Waiter} {x x1 : Ctx}
    (hw : (e.waiters.find? fun w => w.slice == slice && w.set == set) = some w) (hc : w.ctx = some idx)
    (hv : e.evicting slice w.sector = false) (hx : e.ctx slice idx = some x) (hd : e.lookDir x true = (e1, x1)) (hp : x1.phase ≠ .waitSet) :
    e.setRetry slice set = Eng.tryOpen
      { e1 with waiters := e.waiters.filter fun (v : Waiter) => !(v.slice == slice && v.set == set && v.sector == w.sector && v.ctx == w.ctx) } x1 := by
  simp [Eng.setRetry, hw, hv, hc, hx, hd, hp]

theorem holdEnd_held {e : Eng} {slice idx : Nat} {x : Ctx} (hx : e.ctx slice idx = some x) (hp : x.phase = .held) :
    e.holdEnd slice idx = e.openCtx x := by
  simp only [Eng.holdEnd, hx, if_pos hp]

theorem holdEnd_opened {e : Eng} {slice idx : Nat} {x : Ctx} (hx : e.ctx slice idx = some x) (hp : x.phase = .opened) :
    e.holdEnd slice idx = e.adv x := by
  simp [Eng.holdEnd, hx, hp]

theorem fillComplete_taken {e : Eng} {slice sector : Nat} {f : Fill}
    (hf : (e.fills.find? fun f => f.slice == slice && f.sector == sector) = some f) (hr : f.res ≠ .reading) :
    e.fillComplete slice sector = e.fillTaken f := by
  simp only [Eng.fillComplete, hf, if_neg hr]

theorem walkComplete_taken {e : Eng} {slice i : Nat} {w : Walk} {r : Option Tent}
    (hw : (e.walks.find? fun w => w.slice == slice && w.i == i) = some w) (hr : w.res = some r) :
    e.walkComplete slice i = e.walkTaken slice i (if w.stale then e.tent i else r.getD tent0) := by
  simp only [Eng.walkComplete, hw, hr]

end Sys2Proof.Machine

section
open Sys2Proof Sys2Proof.Machine Sys2Proof.Machine.Ob

/-- Settles O47: a bucket is a function of the sector's number, and each bit of it the XOR of one bit of each field. -/
theorem sectorsStayTogether : Obligations.SectorsStayTogether := by
  unfold Obligations.SectorsStayTogether
  exact ⟨fun _ _ h => ⟨bucketOf_congr h, fun e => owner_congr e h⟩, bucketOf_lt, testBit_bucketOf⟩

/-- Settles O52: each command is an operation of its own side, so its effect is one function of that side. -/
theorem coherenceWithoutKeeper : Obligations.CoherenceWithoutKeeper := by
  unfold Obligations.CoherenceWithoutKeeper
  refine ⟨fun i hi => ?coherence, fun i hi => ?fabric, fun i hi => ?link⟩
  case coherence =>
    obtain ⟨g, hg⟩ := exec_coherence i hi
    exact ⟨g, fun s hs => (hg s).trans (engine_reads s g hs)⟩
  case fabric =>
    obtain ⟨g, hg⟩ := exec_fabric i hi
    exact ⟨g, fun s hs => (hg s).trans (fabric_works s g hs)⟩
  case link =>
    obtain ⟨g, hg⟩ := exec_link i hi
    exact ⟨g, fun s hs => (hg s).trans (link_works s g hs)⟩

/-- Settles O10: each command is an operation of the coherence side, and each clause the operation's equation in its case. Which issue slots
are internal work's is log entry 57's choice (R32), and the stall that a lookup cycle counts is R165's. -/
theorem sliceOperations : Obligations.SliceOperations := by
  unfold Obligations.SliceOperations
  refine fun s hs => ⟨fun slice e1 w h => ?grant,
    fun slice idx hl => ⟨fun hq => ?noHead, fun q hq ho => ?transfer, fun q sh hq ho hsh hi => ?lookup⟩,
    fun slice idx q sh c planned hl hq ho hsh hi => ?visit, fun slice set w idx x e1 x1 hw hc hv hx hd hp => ?retry,
    fun slice idx x hx hp => ?held, fun slice idx x hx hp => ?opened, fun slice sec f hf hr => ?fill, fun slice i w r hw hr => ?walk⟩
  case grant => exact engine_effect hs (sliceGrant_two h)
  case noHead => exact engine_effect hs (lookupIssue_empty hl hq)
  case transfer => exact engine_effect hs ((lookupIssue_head hl hq).trans (issueOne_remoor ho))
  case lookup => exact engine_effect hs ((lookupIssue_head hl hq).trans (issueOne_lookup ho hsh hi))
  case visit => exact engine_effect hs ((sweepVisit_head hl hq ho).trans (issueOne_lookup (by simp [ho]) hsh hi))
  case retry => exact engine_effect hs (setRetry_opens hw hc hv hx hd hp)
  case held => exact engine_effect hs (holdEnd_held hx hp)
  case opened => exact engine_effect hs (holdEnd_opened hx hp)
  case fill => exact engine_effect hs (fillComplete_taken hf hr)
  case walk => exact engine_effect hs (walkComplete_taken hw hr)

end

/-! # The boundary: ports, beats, the DRAM channels, rails, resets, and the management buses

What the commands of the block's boundary do: nothing while it is out of service (R33, R323, R324, R329), port levels (R44, R72, R306),
beats outside Table 04.2 and AtomicOps (R37, R42, R61, R88, R89, R198, R204), backing responses and the timers of a flow (R36, R41, R95,
R98, R104, R105, R114, R115, R127, R166, R203), the DRAM channels (R48, R49, R179, R292), rails, domains and levels (R57, R58, R313,
R315 to R319, R332), resets (R56, R320, R328 to R331, R356), MCTP control and the mailbox (R53, R364, R369), and the I3C target (R52,
R368). -/

namespace Sys2Proof.Machine
open Ob

/-! ## Out of service (R33, R323, R324, R329) -/

/-- While CORE has no power, a nanosecond passes for AONCLK alone, and not for it where the always-on supply is gone. -/
theorem idle_coreOff (c : Chip) (h : c.coreOn = false) :
    c.idle = { c with pwr := { c.pwr with aon := if c.pwr.run = .dead then c.pwr.aon else c.pwr.aon + 1 } } := by
  rw [Chip.idle, h, if_neg Bool.false_ne_true, Chip.aonTick]
  split <;> rfl

/-- With no command waiting, a step is an idle nanosecond. -/
theorem step_idle {s : State} (h : s.pending = []) : step s = .next s.idle := by simp only [step, h]

/-- A command of the coherence side, the fabric or the link changes nothing while the block does not serve. -/
theorem exec_outOfService {s : State} (h : s.toChip.live = false) (i : Instr)
    (hi : isCoherence i = true ∨ isFabric i = true ∨ isLink i = true) : exec i s = .next s := by
  rcases hi with hi | hi | hi
  · obtain ⟨g, hg⟩ := exec_coherence i hi
    exact (hg s).trans (engine_off s g h)
  · obtain ⟨g, hg⟩ := exec_fabric i hi
    exact (hg s).trans (fabric_off s g h)
  · obtain ⟨g, hg⟩ := exec_link i hi
    exact (hg s).trans (link_off s g h)

/-! ## Port levels (R44, R72, R306) -/

theorem portRise_down {e : Eng} {p : Nat} (h : e.portUp.contains p = false) :
    e.portRise p = Eng.event { e with portUp := insertNat p e.portUp } 0x02 (evArgs [(0, p)]) := by
  rw [Eng.portRise, h, if_neg Bool.false_ne_true]

theorem portRise_up {e : Eng} {p : Nat} (h : e.portUp.contains p = true) : e.portRise p = { e with portLow := kdel p e.portLow } := by
  rw [Eng.portRise, if_pos h]

/-- A fall that has not reached 4 edges is only counted. -/
theorem portDepart_short {e : Eng} {p n : Nat} (h : e.portUp.contains p = true) (hn : kget 0 p e.portLow + n < 4) :
    e.portDepart p n = { e with portLow := kput p (kget 0 p e.portLow + n) e.portLow } := by
  simp only [Eng.portDepart, h, Bool.not_true, Bool.false_eq_true, if_false, if_pos hn]

/-- The fourth edge departs the port. -/
theorem portDepart_departs {e : Eng} {p n : Nat} (h : e.portUp.contains p = true) (hn : 4 ≤ kget 0 p e.portLow + n) :
    e.portDepart p n = (e.caidList.filter fun c => e.obj CAID_PORT c == p && (e.caidSt c == 1 || e.caidSt c == 2)).foldl
      (fun e c => e.surprise c 2) { e with portUp := dropNat p e.portUp, portLow := kdel p e.portLow } := by
  simp only [Eng.portDepart, h, Bool.not_true, Bool.false_eq_true, if_false, if_neg (Nat.not_lt.2 hn)]
  rfl

/-! ## Host beats outside Table 04.2 (R37, R61, R88, R89) -/

/-- Counting and logging a beat leaves Foghorn as it is. -/
@[simp] theorem badBeat_foghorn (e : Eng) (h : HostBeat) (cause kind opc : Nat) : (e.badBeat h cause kind opc).foghorn = e.foghorn := rfl

section Request
variable {e e1 : Eng} {h : HostBeat} {kind opc : Nat} {op : Op} {cls row form : Nat} {leaves : Bool} {pl : Payload}
  (h0 : row = 0) (hr : e.rdy0 h.xport = true) (ht : e.takeChk h = some e1) (hl : e1.inLeases h.line = false) (hw : e1.reason h leaves = none)
include h0 hr ht hl hw

/-- An unlisted beat that no reason refuses is logged with its cause, and a sorter answers it; in Foghorn so is one whose opcode, not
its fields, is unlisted (Table 04.3). -/
theorem request_unlisted {cause : Nat} (hf : e1.foghorn = false ∨ cause ≠ 2) :
    e.request h kind opc op cls row form cause leaves pl = (e1.badBeat h cause kind opc).sorterAnswer h form := by
  have hn : ¬(e1.foghorn = true ∧ cause = 2) := by
    rintro ⟨hon, hc⟩
    exact hf.elim (fun hoff => by simp [hoff] at hon) (absurd hc)
  simp [Eng.request, h0, hr, ht, hl, hw, hn]

/-- In Foghorn a message of Table 02.11 with unlisted fields is logged and takes its safe form (R61). -/
theorem request_unlisted_foghorn (hf : e1.foghorn = true) :
    e.request h kind opc op cls row form 2 leaves pl =
      Eng.safeForm { e1.badBeat h 2 kind opc with fresh := (e1.badBeat h 2 kind opc).fresh + 1 } h.xport (mkReq e1 h op cls row pl 0 0)
        (occBand (e1.occ h.xport)) := by
  simp [Eng.request, h0, hr, ht, hl, hw, hf]

end Request

/-- A response with a reserved opcode, of a CAID that may answer, is logged and discarded (Table 04.3). -/
theorem biRspRsvd_logged {e e1 : Eng} {h : HostBeat} {opc : Nat} (hr : e.rdyG h.xport 1 = true)
    (ht : e.takeG h 1 (e.owner h.line) = some e1) (hc : e1.caidReason h.caid h.hport true = none) (hf : e1.foghorn = false) :
    e.biRspRsvd h opc = e1.badBeat h 1 2 opc := by
  simp [Eng.biRspRsvd, hr, ht, hc, hf]

/-- A misplaced beat of group 0 waits in its port's stage, in no class (R37). -/
theorem invalidKind_waits {e e1 : Eng} {h : HostBeat} {kind opc : Nat} (hm : misplaced 0 kind opc = true) (hr : e.rdy0 h.xport = true)
    (ht : e.takeChk h = some e1) :
    e.invalidKind h 0 kind opc = Eng.pump { e1 with fresh := e1.fresh + 1, stages := e1.stages ++ [(h.xport, e1.ts,
      { mkReq e1 h .memRd badCls kind noData (e1.lineSt (e1.owner h.line) h.line).code 0 with v := opc })] } := by
  simp [Eng.invalidKind, hm, Eng.rdy, hr, ht]

/-- A misplaced beat of groups 1 to 3 is logged with cause 6 and discarded (R37). -/
theorem invalidKind_logged {e e1 : Eng} {h : HostBeat} {grp kind opc : Nat} (hm : misplaced grp kind opc = true) (hg : grp ≠ 0)
    (hr : e.rdyG h.xport grp = true) (ht : e.takeG h grp h.xport = some e1) :
    e.invalidKind h grp kind opc = e1.badBeat h 6 kind opc := by
  simp [Eng.invalidKind, hm, Eng.rdy, hg, hr, ht]

/-! ## AtomicOps (R42, R61, R198, R204) -/

section Atomic
variable {e e1 : Eng} {h : HostBeat} {uop usize uoff : Nat} {data : Data}

/-- The reason that refuses an AtomicOp: in the lease window its CAID's alone (R69). -/
def Eng.atomicReason (e : Eng) (h : HostBeat) : Option Nat :=
  if e.inLeases h.line then e.caidReason h.caid h.hport false else e.reason h false

/-- An AtomicOp in its queue form. -/
def atomicReq (e : Eng) (h : HostBeat) (uop usize uoff : Nat) (data : Data) : Req :=
  mkReq e h .atomic 6 uop { data := data, be := 0, poison := false } usize uoff

/-- What a port does with an AtomicOp that no reason refuses (R61, R198, R204). -/
theorem atomicBeat_allowed (hr : e.rdy0 h.xport = true) (ht : e.takeChk h = some e1) (hw : e1.atomicReason h = none) :
    e.atomicBeat h uop usize uoff data =
      if e1.foghorn then Eng.answerFail { e1 with fresh := e1.fresh + 1 } h.xport (atomicReq e1 h uop usize uoff data) 4
      else if uop = 0 ∨ 3 < uop then
        Eng.answerFail { e1.badBeat h 1 6 uop with fresh := e1.fresh + 1 } h.xport (atomicReq e1 h uop usize uoff data) 1
      else if badForm (e1.inLeases h.line) uop usize uoff data then
        Eng.answerFail { e1.badBeat h 2 6 uop with fresh := e1.fresh + 1 } h.xport (atomicReq e1 h uop usize uoff data) 1
      else if h.chk.isData then (Eng.replyUio { e1 with fresh := e1.fresh + 1 } h.xport (atomicReq e1 h uop usize uoff data) 4 0).1
      else e1.intake h (atomicReq e1 h uop usize uoff data) := by
  rw [Eng.atomicReason] at hw
  simp only [Eng.atomicBeat, hr, ht, hw, Bool.not_true, Bool.false_eq_true, if_false]
  rfl

end Atomic

/-- Outside Foghorn an admitted request joins its stage (R167, R173). -/
theorem intake_stages {e : Eng} {h : HostBeat} {r : Req} (hf : e.foghorn = false) :
    e.intake h r = Eng.pump { e with fresh := e.fresh + 1, stages := e.stages ++ [(h.xport, e.ts, r)] } := by
  rw [Eng.intake, hf, if_neg Bool.false_ne_true]

/-! ## Backing responses (R41, R95, R104, R105, R203) -/

/-- Recording a DevLoad changes no context. -/
@[simp] theorem ctxOfTag_sawLoad (e : Eng) (dev dl tag : Nat) : (e.sawLoad dev dl).ctxOfTag tag = e.ctxOfTag tag := rfl

/-- A response that an open context has no use for is logged at its slice. -/
theorem staleRsp_open {e : Eng} {tag cause kind opc : Nat} {x : Ctx} (hx : e.ctxOfTag tag = some x) :
    e.staleRsp tag cause kind opc = e.protoErr x.slice cause kind opc 0 x.start.code x.req.line := by
  simp only [Eng.staleRsp, hx]

/-- A response that names no open context is logged at the slice that its tag names. -/
theorem staleRsp_stale {e : Eng} {tag cause kind opc : Nat} (hx : e.ctxOfTag tag = none) :
    e.staleRsp tag cause kind opc = e.protoErr (e.tagSlice tag) cause kind opc 0 0 0 := by
  simp only [Eng.staleRsp, hx]

/-- What read data, or its failure, does to the context that waits for it (R42, R104; codes A and AP). -/
def Eng.readAnswer (e : Eng) (h : HostBeat) (form : Nat) (pl : Payload) (x : Ctx) : Eng :=
  if form = 1 ∨ pl.poison ∨ h.chk.isData then
    (if h.chk.isData then e else e.uncorrectable 7 h.xport (x.req.line % 2 ^ 40) 0).accFailed x
  else Eng.adv (e.putCtx (x.gotData pl.data)) { x.gotData pl.data with tc := e.code x }

/-- A context whose AtomicOp at memory has succeeded: where its tile is marked for Drift the line is still to be read whole (R203, R220). -/
def Ctx.uioDone (x : Ctx) (d : Data) : Ctx :=
  { x with uioRes := some (0, d), gotBe := if x.uioRd then 0 else x.gotBe, got := if x.uioRd then 0 else x.got }

/-- A context whose AtomicOp at memory has failed: it answers CA. -/
def Ctx.uioFailed (x : Ctx) : Ctx := { x with uioRes := some (4, 0), uioRd := false }

/-- What the completion of an AtomicOp at memory does to the context that waits for it (R203). -/
def Eng.uioAnswer (e : Eng) (h : HostBeat) (status : Nat) (d : Data) (x : Ctx) : Eng :=
  if status = 0 then Eng.adv (e.putCtx (x.uioDone d)) (x.uioDone d)
  else if status = 1 then Eng.adv (((e.inc ATOM_MEM_UR).rasEntry 7 2 h.xport (x.req.line % 2 ^ 40) 0xFF 0).putCtx x.uioFailed) x.uioFailed
  else Eng.adv (e.putCtx { x.uioFailed with toP := true }) { x.uioFailed with toP := true }

section Backing
variable {e e1 : Eng} {h : HostBeat} {dl : Nat} {x : Ctx} {a : Acc}
  (hr : e.rdyG h.xport 2 = true) (ht : e.takeG h 2 (e.numbered (h.tag / 8192)) = some e1) (hf : e1.foghorn = false)
include hr ht hf

/-- A `MemData` or a `MemData-NXM` for an open read closes it. -/
theorem backingData_read {form : Nat} {pl : Payload} (hx : (e1.sawLoad h.hport dl).ctxOfTag h.tag = some x) (ha : x.acc = some a)
    (hk : a.kind = .rd) (hm : form ≤ 1) :
    e.backingData h form dl pl = (e1.sawLoad h.hport dl).readAnswer h form pl
      { x with acc := none, stampM := (e1.sawLoad h.hport dl).ts - x.req.t0 } := by
  simp only [Eng.backingData, hr, ht, hf, hx, ha, hk, Nat.not_lt.2 hm, Bool.not_true, Bool.false_eq_true, if_false, ne_eq, not_true]
  rfl

/-- A kind 0xB opcode that Table 04.3 does not list is logged with cause 5. -/
theorem backingData_unlisted {form : Nat} {pl : Payload} (hx : (e1.sawLoad h.hport dl).ctxOfTag h.tag = some x) (ha : x.acc = some a) (hm : 1 < form) :
    e.backingData h form dl pl = (e1.sawLoad h.hport dl).protoErr x.slice 5 0xB form 0 x.start.code x.req.line := by
  simp only [Eng.backingData, hr, ht, hf, hx, ha, hm, Bool.not_true, Bool.false_eq_true, if_false, if_true, staleRsp_open hx]

/-- A `Cmp` ends the open write that it names. -/
theorem backingCmp_write (hx : (e1.sawLoad h.hport dl).ctxOfTag h.tag = some x) (ha : x.acc = some a) (hk : a.kind = .wr ∨ a.kind = .wrPtl) :
    e.backingCmp h 0 dl = (e1.sawLoad h.hport dl).writeDone x a := by
  simp only [Eng.backingCmp, hr, ht, hf, hx, ha, hk, Bool.not_true, Bool.false_eq_true, if_false, if_true, ne_eq, not_true]

/-- A kind 0xA opcode that Table 04.3 does not list is logged with cause 5. -/
theorem backingCmp_unlisted {opc : Nat} (hx : (e1.sawLoad h.hport dl).ctxOfTag h.tag = some x) (ha : x.acc = some a) (hm : opc ≠ 0) :
    e.backingCmp h opc dl = (e1.sawLoad h.hport dl).protoErr x.slice 5 0xA opc 0 x.start.code x.req.line := by
  simp only [Eng.backingCmp, hr, ht, hf, hx, ha, if_pos hm, Bool.not_true, Bool.false_eq_true, if_false, staleRsp_open hx]

/-- A whole kind 0xD completion closes the AtomicOp that it names. -/
theorem backingUio_atomic {status : Nat} {d : Data} (hx : e1.ctxOfTag h.tag = some x)
    (ha : x.acc = some a) (hk : a.kind = .uio) (hd : h.chk.isData = false) :
    e.backingUio h status d = e1.uioAnswer h status d { x with acc := none, needUio := false, stampM := e1.ts - x.req.t0 } := by
  simp only [Eng.backingUio, hr, ht, hf, hx, ha, hk, hd, Bool.not_true, Bool.false_eq_true, if_false, ne_eq, not_true]
  rfl

/-- A backing beat that names no open context is logged with cause 0x12 or 0x13; one of kind 0xD carries no DevLoad (R41). -/
theorem staleBeat_logged {kind opc : Nat} (hx : e1.ctxOfTag h.tag = none) :
    e.staleBeat h kind opc dl = (if kind = 0xD then e1 else e1.sawLoad h.hport dl).protoErr (e1.tagSlice h.tag)
      (if kind = 0xB then 0x12 else 0x13) kind opc 0 0 0 := by
  have hx' : (if kind = 0xD then e1 else e1.sawLoad h.hport dl).ctxOfTag h.tag = none := by
    split
    · exact hx
    · exact (ctxOfTag_sawLoad e1 _ _ _).trans hx
  simp only [Eng.staleBeat, hr, ht, hf, hx', Bool.not_true, Bool.false_eq_true, if_false, staleRsp_stale hx']
  rfl

end Backing

/-! ## Beats that the carrier takes (R36) -/

/-- Before the beat of a group at a port leaves, no undone arbitration of the group is kept. -/
def Eng.txSettled (e : Eng) (port grp : Nat) : Eng := { e with undo := e.undo.filter fun a => !(a.kind == grp + 2 && a.inst == port) }

theorem beatTaken_last {e : Eng} {port grp : Nat} {o : OEnt} (hp : e.portClamped port = false)
    (ho : (e.outAt port grp).find? (fun o => o.presented) = some o) (hm : o.more = []) :
    e.beatTaken port grp =
      ((Eng.took { e.txSettled port grp with outq := e.outq.filter fun (p : OEnt) => p.id != o.id } o).present port grp).roomAt port := by
  simp only [Eng.beatTaken, hp, Bool.false_eq_true, if_false, ho, hm, List.isEmpty_nil, true_or, if_true]
  rfl

theorem beatTaken_more {e : Eng} {port grp : Nat} {o : OEnt} (hp : e.portClamped port = false)
    (ho : (e.outAt port grp).find? (fun o => o.presented) = some o) (hm : o.more ≠ []) (hf : e.foghorn = false) :
    e.beatTaken port grp =
      ((Eng.setOut (if o.grp = 1 then (e.txSettled port grp).copyTaken o else e.txSettled port grp) ((e.txSettled port grp).nextBeat o)).present
        port grp).roomAt port := by
  have hmore : ¬(o.more.isEmpty = true ∨ e.foghorn = true ∧ grp = 3) := by simp [hm, hf]
  simp only [Eng.beatTaken, hp, Bool.false_eq_true, if_false, ho, if_neg hmore, Eng.txSettled]

/-! ## Timers of a flow (R98, R114, R115, R127) -/

theorem snoopAcquire_waiting {e : Eng} {slice idx : Nat} {x : Ctx} (hx : e.ctx slice idx = some x) (hp : x.phase = .opened)
    (hw : x.want.isSome = true) : e.snoopAcquire slice idx = e.adv x := by
  simp only [Eng.snoopAcquire, hx, if_pos (And.intro hp hw)]

theorem biTimeout_late {e : Eng} {slice slot c : Nat} {sl : Slot} {t : Tgt}
    (hs : e.snps.find? (fun q => q.slice == slice && q.slot == slot) = some sl) (ht : sl.tgts.find? (fun t => t.caid == c) = some t)
    (hx : t.expired e.ts = true) : e.biTimeout slice slot c = e.targetLate sl t := by
  simp only [Eng.biTimeout, hs, ht, if_pos hx]

/-- What a late access means to its flow, by the flow's operation, once it is logged and its index withheld (R115, R122; codes TM and TD). -/
def Eng.lateAccess (e : Eng) (x : Ctx) (a : Acc) : Eng :=
  match x.req.op with
  | .wback => e.wbackLate x
  | .drift ch =>
    if a.kind = .wr ∨ a.kind = .wrPtl then (((((e.inc MEM_TIMEOUT_POISONED).haltChan ch).freeSlots x.req.gid).retire x).abortStep ch)
    else (e.inc MEM_TIMEOUT_POISONED).accFailed x
  | _ => e.flowLate x a

theorem memTimeout_late {e : Eng} {slice idx d : Nat} {x : Ctx} {a : Acc} (hx : e.ctx slice idx = some x) (ha : x.acc = some a)
    (hd : a.deadline = some d) (ht : d ≤ e.ts) : e.memTimeout slice idx = (e.accLate x a).lateAccess { x with acc := none } a := by
  simp only [Eng.memTimeout, hx, ha, hd, if_neg (Nat.not_lt.2 ht)]
  rfl

theorem lateAccess_wback {e : Eng} {x : Ctx} {a : Acc} (ho : x.req.op = .wback) : e.lateAccess x a = e.wbackLate x := by
  simp only [Eng.lateAccess, ho]

theorem lateAccess_drift {e : Eng} {x : Ctx} {a : Acc} {ch : Nat} (ho : x.req.op = .drift ch) :
    e.lateAccess x a =
      if a.kind = .wr ∨ a.kind = .wrPtl then (((((e.inc MEM_TIMEOUT_POISONED).haltChan ch).freeSlots x.req.gid).retire x).abortStep ch)
      else (e.inc MEM_TIMEOUT_POISONED).accFailed x := by
  simp only [Eng.lateAccess, ho]

theorem lateAccess_flow {e : Eng} {x : Ctx} {a : Acc} (hw : x.req.op ≠ .wback) (hd : ∀ ch, x.req.op ≠ .drift ch) :
    e.lateAccess x a = e.flowLate x a := by
  unfold Eng.lateAccess
  split
  · exact absurd ‹_› hw
  · exact absurd ‹_› (hd _)
  · rfl

theorem echoExpire_stale {e : Eng} {slice i : Nat} {x : Echo} (hx : (e.echo.filter fun x => x.slice == slice)[i]? = some x)
    (hv : x.valid = true) (hf : e.echoFresh x = false) :
    e.echoExpire slice i = { e with echo := updFirst (fun (y : Echo) => decide (y = x)) (fun y => { y with valid := false }) e.echo } := by
  simp [Eng.echoExpire, hx, hv, hf]

/-! ## The DRAM channels (R48, R49, R179, R292) -/

theorem dramTaken_presented {e : Eng} {ch : Nat} {c : DCmd} (hc : (e.dramPresent ch).dcmds.find? (fun c => c.ch == ch && c.tag.isSome) = some c) :
    e.dramTaken ch =
      let e1 := (e.dramPresent ch).pm (33 + ch) (if c.a.op = .rd then 0x40 else 0x41) 1
      Eng.dramPresent
        { e1 with dcmds := e1.dcmds.erase c, dopen := e1.dopen ++ [{ ch := ch, tag := c.tag.getD 0, seq := c.seq, a := c.a, taken := e1.ts }] } ch := by
  simp only [Eng.dramTaken, hc]

section DramRead
variable {e e1 : Eng} {ch tag : Nat} {o : DOpen}

/-- The store that an open access reads from: that of its sequence's kind. -/
def Eng.openStore (e : Eng) (o : DOpen) : Nat := match e.seqs.find? fun q => q.id == o.seq with | some q => q.kind.store | none => 8

/-- What an open read's response leaves: with an error mark a failed burst, with the bits as they were written an ended access, and else
what its coded entries decode to (R294, R297). -/
def Eng.readEnd (e : Eng) (ch : Nat) (o : DOpen) (err : Bool) (diff : Data) : Eng :=
  if err then (e.uncorrectable (e.openStore o) ch (o.a.addr * 64) 0).accEnd o fun q => { q with bad := q.bad ++ [(o.a.addr, none)] }
  else if diff = 0 then e.accEnd o id
  else
    let (e1, corr, bad) := e.burstRead (e.openStore o) ch o.a.addr diff
    e1.accEnd o fun q =>
      { q with corr := q.corr || corr, bad := if bad then q.bad ++ [(o.a.addr, some diff)] else q.bad,
               soft := if bad || softPart (e.openStore o) o.a.addr diff == 0 then q.soft
                 else q.soft ++ [(o.a.addr, softPart (e.openStore o) o.a.addr diff)] }

theorem dramRead_open {err : Bool} {diff : Data} (hr : e.dramRsp ch tag false = (e1, some o)) (hf : e1.foghorn = false) :
    e.dramRead ch tag err diff = e1.readEnd ch o err diff := by
  simp only [Eng.dramRead, hr, hf, Bool.false_eq_true, if_false]
  rfl

theorem readEnd_same : e.readEnd ch o false 0 = e.accEnd o id := by
  rw [Eng.readEnd, if_neg Bool.false_ne_true, if_pos rfl]

theorem readEnd_differs {diff : Data} {e1 : Eng} {corr bad : Bool} (hd : diff ≠ 0)
    (hb : e.burstRead (e.openStore o) ch o.a.addr diff = (e1, corr, bad)) :
    e.readEnd ch o false diff = e1.accEnd o fun q =>
      { q with corr := q.corr || corr, bad := if bad then q.bad ++ [(o.a.addr, some diff)] else q.bad,
               soft := if bad || softPart (e.openStore o) o.a.addr diff == 0 then q.soft
                 else q.soft ++ [(o.a.addr, softPart (e.openStore o) o.a.addr diff)] } := by
  rw [Eng.readEnd, if_neg Bool.false_ne_true, if_neg hd, hb]

end DramRead

theorem dramWrite_good {e e1 : Eng} {ch tag : Nat} {o : DOpen} (hr : e.dramRsp ch tag true = (e1, some o)) (hf : e1.foghorn = false) :
    e.dramWrite ch tag = e1.accEnd o id := by
  simp [Eng.dramWrite, hr, hf]

/-- A timed-out access is counted and its tag withheld. -/
def Eng.dramWithheld (e : Eng) (ch : Nat) (o : DOpen) : Eng :=
  { e.inc RAS_DRAM_TIMEOUTS ch with dopen := e.dopen.erase o, withheld := e.withheld ++ [(ch, o.tag)] }

/-- An access without a response after 8,000 cycles is timed out, and outside Foghorn it counts as a failed one (R49). -/
theorem dramTimeout_late {e : Eng} {ch tag : Nat} {o : DOpen} (ho : e.dopen.find? (fun o => o.ch == ch && o.tag == tag) = some o)
    (ht : o.taken + 8000 < e.ts) :
    e.dramTimeout ch tag =
      if e.foghorn then e.dramWithheld ch o
      else if o.a.op = .rd then (e.dramWithheld ch o).accEnd o fun q => { q with bad := q.bad ++ [(o.a.addr, none)] }
      else (e.dramWithheld ch o).accEnd o fun q => { q with wbad := true } := by
  have hin : o.inTime e.ts = false := decide_eq_false (Nat.not_le.2 ht)
  have hch : o.ch = ch := by
    have hof := List.find?_some ho
    rw [Bool.and_eq_true, beq_iff_eq] at hof
    exact hof.1
  simp only [Eng.dramTimeout, ho, hin, Bool.false_eq_true, if_false, Eng.dramLate, hch]
  rfl

/-! ## Commands of units outside CORE -/

/-- Equal blocks make equal machines: a command of a unit outside CORE has the effect that its operation's equation gives. -/
theorem block_congr {s : State} {c c' : Chip} (h : c = c') :
    (Host.Outcome.next (s.block c) : Host.Outcome State Fault Refusal) = .next (s.block c') := by rw [h]

/-- A commit of one value that passes every check gives the object its value (R358). -/
theorem commit_value {s : State} {w : World} {i el v : Nat} {g : Chip → Chip} (ho : isWO ⟨i, el, 0⟩ = false)
    (hg : ∀ c : Chip, c.applyWr ⟨i, el, v⟩ = g c) (h : s.toChip.accepts w [⟨i, el, v⟩] = true) :
    s.commit w [⟨i, el, v⟩] = .next (s.committed w g) := by
  rw [commit_accepted s w _ h, applyCmt_value _ w _ ((isWO_val i el v).trans ho), hg, State.committed]

/-! ## Rails (R57, R58) -/

theorem railTimeout_early {c : Chip} {k : Nat} (hl : c.railLate k = false) : c.railTimeout k = c := by
  rw [Chip.railTimeout, if_pos (.inr (by simp [hl]))]

/-- A request without ack for more than 800 AONCLK cycles of 250 ns is late, unless a reset holds the block. -/
theorem railLate_iff {c : Chip} {k : Nat} :
    c.railLate k = true ↔ (c.rail k).req = true ∧ (c.rail k).ack = false ∧ (c.rail k).since + 200000 < c.pwr.aon ∧ c.isHeld = false := by
  simp [Chip.railLate, and_assoc]

/-- The time of the Draix exit begins once its rail holds its setting (Table 13.3). -/
def Chip.drxRail (c : Chip) (k : Nat) : Chip :=
  if k = 3 ∧ c.dom 4 = 5 ∧ (c.rail 3).holds 1 = true then c.p fun p => { p with domEnds := kput 4 (p.aon + 100000) p.domEnds } else c

/-- A change of ack that is in time is taken; where no reset is held the sequences go on. -/
theorem railAck_inTime {c : Chip} {k : Nat} {up : Bool} (hk : k < 4) (hl : c.railLate k = false) :
    c.railAck k up =
      if ((c.setRail k { c.rail k with ack := up }).drxRail k).isHeld then (c.setRail k { c.rail k with ack := up }).drxRail k
      else ((c.setRail k { c.rail k with ack := up }).drxRail k).advance := by
  rw [Chip.railAck, if_neg (Nat.not_le.2 hk), railTimeout_early hl]
  rfl

theorem railTimeout_late {c : Chip} {k : Nat} (hk : k < 4) (hl : c.railLate k = true) :
    c.railTimeout k = Chip.advance ((c.setRail k { c.rail k with req := false, field := (c.rail k).old }).e fun e =>
      ((e.inc PWR_RAIL_FAULTS).logPush PWR_RAIL_LOG 16
        (k + (c.rail k).field * 4 + b2n (isRaise k (c.rail k).old (c.rail k).field) * 2 ^ 5 + e.t48 * 2 ^ 6)).irq 0) := by
  rw [Chip.railTimeout, if_neg (by simp [hl, hk])]

theorem startRail_acked {c : Chip} {k : Nat} (hr : (c.rail k).req = true) (ha : (c.rail k).ack = true) :
    c.startRail k = c.setRail k { c.rail k with req := false } := by
  rw [Chip.startRail, if_pos ⟨hr, ha⟩]

/-! ## Domains (R313, R315, R316, R319) -/

/-- A domain whose entry has lasted its time is in the state of PWR_SLEEP_TARGET; the Draix link is Off, and its rail low in state 3. -/
theorem domainEntry_due {c : Chip} {el : Nat} (hd : c.domDue el = true) (he : c.dom el = 4) :
    c.domainEntry el =
      if el = 4 then
        (if c.eng.obj PWR_SLEEP_TARGET el = 3 then Chip.ask (c.set PWR_DOMAIN_STATE el (c.eng.obj PWR_SLEEP_TARGET el)).drxOff 3 0
         else (c.set PWR_DOMAIN_STATE el (c.eng.obj PWR_SLEEP_TARGET el)).drxOff)
      else c.set PWR_DOMAIN_STATE el (c.eng.obj PWR_SLEEP_TARGET el) := by
  rw [Chip.domainEntry, if_neg (by simp [hd, he])]

/-- A domain is in service, and why it woke is recorded. -/
def Chip.inService (c : Chip) (el : Nat) : Chip := (c.set PWR_DOMAIN_STATE el 0).lastWake (if c.pwr.forced.contains el then 6 else 7) el false

/-- What a domain that is in service begins: the link, a slice, or the spare's swap. -/
def Chip.takeUp (c : Chip) (el : Nat) : Chip :=
  if el = 4 then c.setFab (c.fab.link Lnk.tryStart)
  else if 0x20 ≤ el ∧ el < 0x20 + c.eng.n then
    c.e fun e => Eng.set { e with svc := insertNat (el - 0x20) e.svc } SLICE_LIT 0 (setBit (e.ob SLICE_LIT) (el - 0x20))
  else if el = 0x40 then c.e Eng.swapNext
  else c

/-- A domain whose exit has lasted its time is in service where the regulator and its rail allow. -/
theorem domainExit_due {c : Chip} {el : Nat} (hd : c.domDue el = true) (he : c.dom el = 5) (hp : c.ob PWR_AONREG_HP = 1)
    (hr : el = 4 → (c.rail 3).holds 1 = true) : c.domainExit el = ((c.inService el).takeUp el).voteCheck := by
  have hmay : ¬(c.dom el ≠ 5 ∨ (!c.domDue el) = true ∨ c.ob PWR_AONREG_HP ≠ 1 ∨ el = 4 ∧ (!(c.rail 3).holds 1) = true) := by
    simpa [hd, he, hp] using hr
  rw [Chip.domainExit, if_neg hmay]
  rfl

@[simp] theorem inService_n (c : Chip) (el : Nat) : (c.inService el).eng.n = c.eng.n := rfl

/-! ## Levels and the regulator (R317, R318, R319) -/

theorem levelSwitch_raise {c : Chip} {l : LevelCh} (hc : c.pwr.level = some l) (hr : l.raise = true) (hh : l.half = true) :
    c.levelSwitch = (c.set PWR_LEVEL_NOW 0 l.target).levelEnd := by
  simp only [Chip.levelSwitch, hc, hr, hh, if_true]

theorem levelSwitch_lower {c : Chip} {l : LevelCh} (hc : c.pwr.level = some l) (hr : l.raise = false) (hh : l.half = false) :
    c.levelSwitch = Chip.ask ((c.set PWR_LEVEL_NOW 0 l.target).p fun p => { p with level := some { l with half := true } }) 2 l.target := by
  simp only [Chip.levelSwitch, hc, hr, hh, Bool.false_eq_true, if_false]

theorem hpSettled_due {c : Chip} (hw : c.pwr.hpWait = true) (ht : c.pwr.hpAt + 20000 ≤ c.pwr.aon) :
    c.hpSettled = Chip.advance ((c.p fun p => { p with hpWait := false }).set PWR_AONREG_HP 0 1) := by
  rw [Chip.hpSettled, if_pos ⟨hw, ht⟩]

/-! ## Commits of power objects (R315, R318, R319, R329, R332) -/

theorem applyWr_pwrLevel (c : Chip) (v : Nat) : c.applyWr ⟨PWR_LEVEL, 0, v⟩ = (c.setLevel (OWr.mk PWR_LEVEL 0 v).v).advance := by
  simp +decide only [Chip.applyWr, Chip.pwrApply, if_true]

theorem applyWr_pwrKeeperClk (c : Chip) (v : Nat) : c.applyWr ⟨PWR_KEEPER_CLK, 0, v⟩ = c.set PWR_KEEPER_CLK 0 (OWr.mk PWR_KEEPER_CLK 0 v).v := by
  simp +decide only [Chip.applyWr, Chip.pwrApply, if_true, if_false]

theorem startWr_pwrForceWake (c : Chip) (w : World) (el : Nat) : c.startWr w ⟨PWR_FORCE_WAKE, 0, el⟩ = c.forceWake el := by
  simp +decide only [Chip.startWr, if_true]

/-- The votes of a world are values of one byte, an element for each domain. -/
theorem objMask_vote (w : World) : ∀ el < 0x41, objMask (voteOb w) el = 0xFF := by cases w <;> decide

/-- A vote is a value, not a command. -/
theorem isWO_vote (w : World) : ∀ el < 0x41, isWO ⟨voteOb w, el, 0⟩ = false := by cases w <;> decide

theorem applyWr_vote (c : Chip) (w : World) {el : Nat} (h : el < 0x41) (on : Bool) :
    c.applyWr ⟨voteOb w, el, b2n on⟩ = c.set (voteOb w) el (b2n on) := by
  have hv : (OWr.mk (voteOb w) el (b2n on)).v = b2n on := by
    simp only [OWr.v, objMask_vote w el h]
    cases on <;> rfl
  calc c.applyWr ⟨voteOb w, el, b2n on⟩
      = c.set (voteOb w) el (OWr.mk (voteOb w) el (b2n on)).v := by
        cases w <;> simp +decide only [Chip.applyWr, Chip.pwrApply, voteOb, if_true, if_false]
    _ = c.set (voteOb w) el (b2n on) := by rw [hv]

/-! ## Resets and the start-up (R33, R56, R329, R330, R331) -/

theorem warmAssert_alone {c : Chip} (h : c.pwr.por = false) : c.warmAssert = (c.clear true false false).p fun p => { p with warm := true } := by
  rw [Chip.warmAssert, h, if_neg Bool.false_ne_true]

theorem warmAssert_por {c : Chip} (h : c.pwr.por = true) : c.warmAssert = c.p fun p => { p with warm := true } := by
  rw [Chip.warmAssert, if_pos h]

/-- The start-up with its cause, once no reset is asserted (Table 13.7). -/
def Chip.begun (c : Chip) (cause : Nat) : Chip := Chip.advance (Chip.ask ((c.resetCause cause).p fun p => { p with run := .vco }) 0 1)

theorem startUp_free {c : Chip} {cause : Nat} (h : c.isHeld = false) (hr : c.pwr.run = .held) : c.startUp cause = c.begun cause := by
  rw [Chip.startUp, if_neg (by simp [h, hr])]
  rfl

theorem startUp_held {c : Chip} {cause : Nat} (h : c.isHeld = true) : c.startUp cause = c := by
  rw [Chip.startUp, if_pos (.inl h)]

/-- No reset is asserted where none of the four is. -/
theorem isHeld_false {c : Chip} (h1 : c.pwr.por = false) (h2 : c.pwr.warm = false) (h3 : c.pwr.brown = false) (h4 : c.pwr.supply = false) :
    c.isHeld = false := by
  simp [Chip.isHeld, h1, h2, h3, h4]

/-! ## MCTP control requests and the mailbox (R53, R364, R369) -/

/-- The peer that sends a control request. -/
def ctlPeer (q : Ctl) : MAddr := { via := if q.i3c then .i3c else .mailbox q.cookie, eid := q.eid, tag := q.tag, owner := true }

/-- With Keeper powered a control request reaches the endpoint. -/
theorem ctl_on {c : Chip} {q : Ctl} {cmd : Nat} {data : List B8} (h : c.kpr.on = true) : c.ctl q cmd data = c.control (ctlPeer q) q.inst cmd data := by
  simp only [Chip.ctl, h, Bool.not_true, Bool.false_eq_true, if_false]
  rfl

section Control
variable {c : Chip} {a : MAddr} {inst : Nat} {data : List B8}

theorem setEid_short (h : data.length < 2) : c.setEid a inst data = c.ctlAnswer a inst 1 3 [] := if_pos h

theorem setEid_refused (h : 2 ≤ data.length) (hv : 1 < at8 data 0 % 4 ∨ at8 data 1 = 0 ∨ at8 data 1 = 0xFF) :
    c.setEid a inst data = c.ctlAnswer a inst 1 2 [] := (if_neg (Nat.not_lt.2 h)).trans (if_pos hv)

theorem setEid_taken (h : 2 ≤ data.length) (ho : at8 data 0 % 4 ≤ 1) (h0 : at8 data 1 ≠ 0) (hF : at8 data 1 ≠ 0xFF) :
    c.setEid a inst data = (c.set DICT_EID 0 (at8 data 1)).ctlAnswer a inst 1 0 [b8 0, b8 (at8 data 1), b8 0] := by
  have hv : ¬(1 < at8 data 0 % 4 ∨ at8 data 1 = 0 ∨ at8 data 1 = 0xFF) := by simp [h0, hF, ho]
  exact (if_neg (Nat.not_lt.2 h)).trans (if_neg hv)

theorem versionAnswer_base {t : Nat} (h : t = 0xFF ∨ t = 0) : versionAnswer t = (0, [b8 1, b8 0xF1, b8 0xF3, b8 0xFF, b8 0]) := if_pos h

theorem versionAnswer_vendor {t : Nat} (h : t = 0x7F) : versionAnswer t = (0, Config.mctpVersion) := by subst h; rfl

theorem versionAnswer_other {t : Nat} (hF : t ≠ 0xFF) (h0 : t ≠ 0) (h7 : t ≠ 0x7F) : versionAnswer t = (0x80, []) := by
  simp [versionAnswer, hF, h0, h7]

theorem control_version {cc : Nat} {body : List B8} (h : versionAnswer (at8 data 0) = (cc, body)) :
    c.control a inst 4 data = c.ctlAnswer a inst 4 cc body := by
  calc c.control a inst 4 data = c.ctlAnswer a inst 4 (versionAnswer (at8 data 0)).1 (versionAnswer (at8 data 0)).2 := rfl
    _ = c.ctlAnswer a inst 4 cc body := by rw [h]

theorem control_vendorSet (h : at8 data 0 = 0) :
    c.control a inst 6 data = c.ctlAnswer a inst 6 0 [b8 0xFF, b8 1, b8 (c.ob DEV_MCTP_VENDOR / 2 ^ 24), b8 (c.ob DEV_MCTP_VENDOR / 2 ^ 16),
      b8 (c.ob DEV_MCTP_VENDOR / 2 ^ 8), b8 (c.ob DEV_MCTP_VENDOR), b8 0, b8 1] := if_neg (not_not_intro h)

theorem control_vendorSet_further (h : at8 data 0 ≠ 0) : c.control a inst 6 data = c.ctlAnswer a inst 6 2 [] := if_pos h

/-- Every control command but 1 to 6 is unsupported (R364). -/
theorem control_unsupported {cmd : Nat} (h : cmd = 0 ∨ 6 < cmd) : c.control a inst cmd data = (c.unsup cmd).ctlAnswer a inst cmd 5 [] := by
  have hne : cmd ≠ 1 ∧ cmd ≠ 2 ∧ cmd ≠ 3 ∧ cmd ≠ 4 ∧ cmd ≠ 5 ∧ cmd ≠ 6 := by omega
  simp only [Chip.control, hne, if_false]

end Control

section Mailbox
variable {c : Chip} {w0 : BitVec 32} {ws : List (BitVec 32)}

theorem mailbox_dropped (h : c.kpr.on = true)
    (hb : ws.length ≠ (w0.toNat % 256 + 3) / 4 ∨ w0.toNat % 256 < 5 ∨ 252 < w0.toNat % 256) : c.mailbox (w0 :: ws) = c.drop := by
  have hbad : (w0 :: ws).length ≠ 1 + (w0.toNat % 256 + 3) / 4 ∨ w0.toNat % 256 < 5 ∨ 252 < w0.toNat % 256 ∨ 64 < (w0 :: ws).length := by
    simp only [List.length_cons]; omega
  rw [Chip.mailbox, if_neg (by simp [h])]
  exact if_pos hbad

/-- A packet of 252 bytes is 64 words long, the mailbox's most. -/
theorem mailbox_packet (h : c.kpr.on = true) (hl : ws.length = (w0.toNat % 256 + 3) / 4) (h5 : 5 ≤ w0.toNat % 256) (hm : w0.toNat % 256 ≤ 252) :
    c.mailbox (w0 :: ws) = c.packet (.mailbox (bits w0.toNat 15 8)) ((ws.flatMap fun w => natBytes w.toNat 4).take (w0.toNat % 256)) := by
  have hgood : ¬((w0 :: ws).length ≠ 1 + (w0.toNat % 256 + 3) / 4 ∨ w0.toNat % 256 < 5 ∨ 252 < w0.toNat % 256 ∨ 64 < (w0 :: ws).length) := by
    simp only [List.length_cons]; omega
  rw [Chip.mailbox, if_neg (by simp [h])]
  exact if_neg hgood

end Mailbox

/-- Words of the packet being presented remain, or no packet waits. -/
theorem mbTaken_word {d : Dic} {w : BitVec 32} {t : List (BitVec 32)} (h : d.mbOut = w :: t) (hr : t ≠ [] ∨ d.mbQ = []) :
    d.mbTaken = { d with mbOut := t } := by
  simp only [Dic.mbTaken, h, List.drop_succ_cons, List.drop_zero, Dic.mbLoad]
  split
  · next hq => exact absurd hr (by simp [hq])
  · rfl

/-- After a packet's last word the next packet's words are presented. -/
theorem mbTaken_last {d : Dic} {w : BitVec 32} {k : Nat} {p : List B8} {ps : List MOut} (h : d.mbOut = [w])
    (hq : d.mbQ = { via := .mailbox k, bytes := p } :: ps) : d.mbTaken = { d with mbOut := mailWords k p, mbQ := ps } := by
  simp only [Dic.mbTaken, h, List.drop_succ_cons, List.drop_zero, Dic.mbLoad, hq]

/-! ## The I3C target (R52, R368) -/

/-- The effect of an SDR transfer on the target's bus state: an HDR wait has ended (log entry 6). -/
def Chip.onBus (c : Chip) (g : I3c → I3c) : Chip := c.dc fun d => { d with i3c := g { d.i3c with hdr := false, answer := [], nack := false } }

section I3cBus
variable {c : Chip} {a : Nat}

@[simp] theorem onBus_i3cUp (g : I3c → I3c) : (c.onBus g).i3cUp = c.i3cUp := rfl
@[simp] theorem onBus_kpr (g : I3c → I3c) : (c.onBus g).kpr = c.kpr := rfl
@[simp] theorem onBus_i3cQ (g : I3c → I3c) : (c.onBus g).dic.i3cQ = c.dic.i3cQ := rfl
@[simp] theorem onBus_id_dyn : (c.onBus id).dic.i3c.dyn = c.dic.i3c.dyn := rfl

theorem i3_up {g : I3c → I3c} (h : c.i3cUp = true) : c.i3 g = c.onBus g := if_pos h

/-- Operations that agree on the target as the bus finds it have one effect. -/
theorem onBus_congr {g g' : I3c → I3c}
    (h : g { c.dic.i3c with hdr := false, answer := [], nack := false } = g' { c.dic.i3c with hdr := false, answer := [], nack := false }) :
    c.onBus g = c.onBus g' := by
  simp only [Chip.onBus, Chip.dc, h]

/-- What the bus asks of the target by its address, the target does. -/
theorem i3_addressed {p : I3c → Prop} [∀ i, Decidable (p i)] {g : I3c → I3c} (h : c.i3cUp = true)
    (hp : p { c.dic.i3c with hdr := false, answer := [], nack := false }) : (c.i3 fun i => if p i then g i else i) = c.onBus g :=
  (i3_up h).trans (onBus_congr (if_pos hp))

/-- A write to the target's address while Keeper has power is a packet, or is dropped for its PEC or its length (R368). -/
theorem i3cWrite_taken {data : List B8} {ok : Bool} (h : c.i3cUp = true) (hd : c.dic.i3c.dyn = some a) (hk : c.kpr.on = true) :
    c.i3cWrite a data ok =
      if !ok ∨ 68 < data.length ∨ c.dic.i3c.mwl < data.length then (c.onBus id).drop else (c.onBus id).packet .i3c data := by
  have htaken : ¬((!(c.onBus id).i3cUp) = true ∨ (!(c.onBus id).kpr.on) = true ∨ (c.onBus id).dic.i3c.dyn ≠ some a) := by
    simp [h, hd, hk]
  rw [Chip.i3cWrite, i3_up h]
  exact if_neg htaken

/-- A read of a target with no packet is not acknowledged. -/
theorem i3cRead_empty (h : c.i3cUp = true) (hd : c.dic.i3c.dyn = some a) (hq : c.dic.i3cQ = []) :
    c.i3cRead a = c.onBus fun i => { i with nack := true } := by
  have htaken : ¬((!(c.onBus id).i3cUp) = true ∨ (c.onBus id).dic.i3c.dyn ≠ some a) := by simp [h, hd]
  rw [Chip.i3cRead, i3_up h]
  refine (if_neg htaken).trans ?_
  rw [onBus_i3cQ, hq]
  exact i3_up h

theorem i3cRead_packet {p : List B8} {t : List (List B8)} (h : c.i3cUp = true) (hd : c.dic.i3c.dyn = some a) (hq : c.dic.i3cQ = p :: t) :
    c.i3cRead a = (c.onBus fun i => { i with answer := (p ++ [pec (b8 (2 * a + 1) :: p)]).take (i.mrl + 1) }).dc fun d => { d with i3cQ := t } := by
  have htaken : ¬((!(c.onBus id).i3cUp) = true ∨ (c.onBus id).dic.i3c.dyn ≠ some a) := by simp [h, hd]
  rw [Chip.i3cRead, i3_up h]
  refine (if_neg htaken).trans ?_
  rw [onBus_i3cQ, hq]
  exact i3_up h

/-- A GET of the target's address is answered. -/
theorem i3cGet_answered {ans : List B8} (h : c.i3cUp = true) (hd : c.dic.i3c.dyn = some a) :
    c.i3cGet a ans = c.onBus fun i => { i with answer := ans } := i3_addressed h hd

/-- GETSTATUS shows whether packets wait. -/
theorem i3cStatus_length (l : List (List B8)) : i3cStatus l.length = if l = [] then 0 else (Config.i3cPending l.length).toNat := by
  cases l with
  | nil => rfl
  | cons p t => exact if_neg (Nat.succ_ne_zero t.length)

/-- A target without an address takes the one that it is given. -/
theorem i3_assign (h : c.i3cUp = true) (hd : c.dic.i3c.dyn = none) (ha : a < 128) :
    (c.i3 fun i => i.assign a) = c.onBus fun i => { i with dyn := some a } :=
  i3_addressed h ⟨by simp [hd], ha⟩

end I3cBus

end Sys2Proof.Machine

section
open Sys2Proof Sys2Proof.Machine Sys2Proof.Machine.Ob

/-- Settles O53: each command is an operation of its side, which acts only while the block serves. -/
theorem nothingWhileOutOfService : Obligations.NothingWhileOutOfService := by
  unfold Obligations.NothingWhileOutOfService
  refine fun s => ⟨fun h i hi => exec_outOfService h i hi, fun h hp => ?idle⟩
  case idle => rw [step_idle hp, State.idle, idle_coreOff _ h]

/-- Settles O2: a rise by whether the port is down, a fall by whether it reaches 4 edges, a retry change as it comes. -/
theorem portLevels : Obligations.PortLevels := by
  unfold Obligations.PortLevels
  refine fun s hs => ⟨fun p h => ?rise, fun p h => ?shortFallEnds, fun p n h hn => ?shortFall, fun p n h hn => ?departure,
    fun p => ?retrySet, fun p => ?retryCleared⟩
  case rise => exact engine_effect hs (portRise_down h)
  case shortFallEnds => exact engine_effect hs (portRise_up h)
  case shortFall => exact engine_effect hs (portDepart_short h hn)
  case departure => exact engine_effect hs (portDepart_departs h hn)
  case retrySet => exact engine_effect hs rfl
  case retryCleared => exact engine_effect hs rfl

/-- Settles O5: an unlisted beat by what `request` does with it, a misplaced one by what `invalidKind` does. Which opcodes are reserved, and
the numbers logged, are log entry 17's (R40). -/
theorem unsupportedBeats : Obligations.UnsupportedBeats := by
  unfold Obligations.UnsupportedBeats
  refine fun s h hs => ⟨fun e hr ht hl => ⟨fun hw => ?rdFwd, fun hw => ?wrFwd, fun opc ho hw => ?rsvd0, fun opc ho hw => ?rsvd1,
      fun d m hm hf hw => ?rd, fun m pl hm hf hw => ?wrPtl, fun m pl hm hf hw => ?wrFoghorn, fun kind opc hm => ?waits⟩,
    fun e opc ho hr ht hc hf => ?rsvd2, fun e grp kind opc hm hg hr ht => ?logged⟩
  case rdFwd => exact engine_effect hs (request_unlisted rfl hr ht hl hw (.inr (by decide)))
  case wrFwd => exact engine_effect hs (request_unlisted rfl hr ht hl hw (.inr (by decide)))
  case rsvd0 => exact engine_effect hs ((if_neg (by simp [ho])).trans (request_unlisted rfl hr ht hl hw (.inr (by decide))))
  case rsvd1 => exact engine_effect hs ((if_neg (by simp [ho])).trans (request_unlisted rfl hr ht hl hw (.inr (by decide))))
  case rsvd2 => exact engine_effect hs ((if_neg (by simp [ho])).trans (biRspRsvd_logged hr ht hc hf))
  case rd => exact engine_effect hs (request_unlisted hm hr ht hl hw (.inl hf))
  case wrPtl => exact engine_effect hs (request_unlisted hm hr ht hl hw (.inl hf))
  case wrFoghorn => exact engine_effect hs ((request_unlisted_foghorn hm hr ht hl hw hf).trans (by rw [hm]))
  case waits => exact engine_effect hs (invalidKind_waits hm hr ht)
  case logged => exact engine_effect hs (invalidKind_logged hm hg hr ht)

/-- Settles O6: each clause is one branch of what a port does with an AtomicOp that no reason refuses. -/
theorem atomicBeats : Obligations.AtomicBeats := by
  unfold Obligations.AtomicBeats
  intro s h e uop usize uoff data hs hr ht hw
  have allowed := atomicBeat_allowed (uop := uop) (usize := usize) (uoff := uoff) (data := data) hr ht hw
  refine ⟨fun hf h1 h3 hb hd => ?admitted, fun hf ho => ?operation, fun hf h1 h3 hb => ?form, fun hf h1 h3 hb hd => ?operand, fun hf => ?foghorn⟩
  case admitted =>
    refine engine_effect hs (allowed.trans ?_)
    rw [if_neg (by simp [hf]), if_neg (by omega), if_neg (by simp [hb]), if_neg (by simp [hd])]
    exact intake_stages hf
  case operation =>
    refine engine_effect hs (allowed.trans ?_)
    rw [if_neg (by simp [hf]), if_pos ho]; rfl
  case form =>
    refine engine_effect hs (allowed.trans ?_)
    rw [if_neg (by simp [hf]), if_neg (by omega), if_pos hb]; rfl
  case operand =>
    refine engine_effect hs (allowed.trans ?_)
    rw [if_neg (by simp [hf]), if_neg (by omega), if_neg (by simp [hb]), if_pos hd]; rfl
  case foghorn => exact engine_effect hs (allowed.trans (if_pos hf))

/-- Settles O8: a beat that a port takes closes the open access that its tag names, or is logged where it names none. The opcode numbers are
log entry 17's, and cause 5 for an unlisted opcode is log entry 19's reading (R41). -/
theorem backingAnswers : Obligations.BackingAnswers := by
  unfold Obligations.BackingAnswers
  intro s h e dl hs hr ht hf
  refine ⟨fun x a hx ha hk => ⟨fun pl hp hd => ?good, fun pl hd => ?spoilt, fun pl hp hd => ?poisoned, fun pl hd => ?noMemory⟩,
    fun x a hx ha hk => ?write, fun x a n hx ha hn => ⟨?unlistedCmp, fun pl h1 => ?unlistedData⟩,
    fun x a d hx ha hk hd => ⟨?atomicDone, ?atomicUr, ?atomicCa⟩, fun hx o => ⟨?staleData, ?staleCmp, ?staleUio⟩⟩
  case good =>
    refine engine_effect hs ((backingData_read (x := x) hr ht hf hx ha hk (by decide)).trans ?_)
    rw [Eng.readAnswer, if_neg (by simp [hp, hd])]
  case spoilt =>
    refine engine_effect hs ((backingData_read (x := x) hr ht hf hx ha hk (by decide)).trans ?_)
    rw [Eng.readAnswer, if_pos (by simp [hd]), if_pos hd]
  case poisoned =>
    refine engine_effect hs ((backingData_read (x := x) hr ht hf hx ha hk (by decide)).trans ?_)
    rw [Eng.readAnswer, if_pos (by simp [hp]), if_neg (by simp [hd])]
  case noMemory =>
    refine engine_effect hs ((backingData_read (x := x) hr ht hf hx ha hk (by decide)).trans ?_)
    rw [Eng.readAnswer, if_pos (by simp), if_neg (by simp [hd])]
  case write => exact engine_effect hs (backingCmp_write hr ht hf hx ha hk)
  case unlistedCmp => exact engine_effect hs (backingCmp_unlisted hr ht hf hx ha hn)
  case unlistedData => exact engine_effect hs (backingData_unlisted hr ht hf hx ha h1)
  case atomicDone => exact engine_effect hs ((backingUio_atomic (x := x) hr ht hf hx ha hk hd).trans (if_pos rfl))
  case atomicUr =>
    exact engine_effect hs ((backingUio_atomic (x := x) hr ht hf hx ha hk hd).trans ((if_neg (by decide)).trans (if_pos rfl)))
  case atomicCa =>
    exact engine_effect hs ((backingUio_atomic (x := x) hr ht hf hx ha hk hd).trans ((if_neg (by decide)).trans (if_neg (by decide))))
  case staleData => exact engine_effect hs (staleBeat_logged hr ht hf hx)
  case staleCmp => exact engine_effect hs (staleBeat_logged hr ht hf hx)
  case staleUio => exact engine_effect hs (staleBeat_logged hr ht hf hx)

/-- Settles O9: each command in the case in which its event occurs. -/
theorem beatsTakenAndFlowTimers : Obligations.BeatsTakenAndFlowTimers := by
  unfold Obligations.BeatsTakenAndFlowTimers
  refine fun s hs => ⟨fun port grp o hc ho => ⟨fun hm => ?last, fun hm hf => ?more⟩, fun slice idx x hx hp hw => ?slot,
    fun slice slot caid sl t hl ht hx => ?target, fun slice idx x a d hx ha hd ht =>
      ⟨fun ho => ?wback, fun ch ho hk => ?driftWrite, fun ch ho hk => ?driftRead, fun hw ho => ?flow⟩,
    fun slice i x hx hv hf => ?echo, fun slice idx => ?quarantine⟩
  case last => exact engine_effect hs (beatTaken_last hc ho hm)
  case more => exact engine_effect hs (beatTaken_more hc ho hm hf)
  case slot => exact engine_effect hs (snoopAcquire_waiting hx hp hw)
  case target => exact engine_effect hs (biTimeout_late hl ht hx)
  case wback => exact engine_effect hs ((memTimeout_late hx ha hd ht).trans (lateAccess_wback ho))
  case driftWrite =>
    exact engine_effect hs ((memTimeout_late hx ha hd ht).trans ((lateAccess_drift (x := { x with acc := none }) ho).trans (if_pos hk)))
  case driftRead =>
    have hread : ¬(a.kind = .wr ∨ a.kind = .wrPtl) := by simp [hk]
    exact engine_effect hs ((memTimeout_late hx ha hd ht).trans ((lateAccess_drift (x := { x with acc := none }) ho).trans (if_neg hread)))
  case flow => exact engine_effect hs ((memTimeout_late hx ha hd ht).trans (lateAccess_flow hw ho))
  case echo => exact engine_effect hs (echoExpire_stale hx hv hf)
  case quarantine => exact engine_effect hs rfl

/-- Settles O17: a command as it is taken, and an open access by the response that ends it or the limit that it exceeds. -/
theorem dramPort : Obligations.DramPort := by
  unfold Obligations.DramPort
  refine fun s hs => ⟨fun ch c hc => ?taken, fun ch tag e o hr hf => ⟨?good, fun diff => ?marked, fun diff e1 corr bad hd hb => ?differs⟩,
    fun ch tag e o hr hf => ?write, fun ch tag o ho ht => ⟨fun hf => ?foghorn, fun hf hk => ?lateRead, fun hf hk => ?lateWrite⟩⟩
  case taken => exact engine_effect hs (dramTaken_presented hc)
  case good => exact engine_effect hs ((dramRead_open hr hf).trans readEnd_same)
  case marked => exact engine_effect hs ((dramRead_open hr hf).trans (if_pos rfl))
  case differs => exact engine_effect hs ((dramRead_open hr hf).trans (readEnd_differs hd hb))
  case write => exact engine_effect hs (dramWrite_good hr hf)
  case foghorn => exact engine_effect hs ((dramTimeout_late ho ht).trans (if_pos hf))
  case lateRead => exact engine_effect hs ((dramTimeout_late ho ht).trans ((if_neg (by simp [hf])).trans (if_pos hk)))
  case lateWrite => exact engine_effect hs ((dramTimeout_late ho ht).trans ((if_neg (by simp [hf])).trans (if_neg hk)))

/-- Settles O32: each event of a rail, a domain, a level or the regulator in the case in which it occurs, each commit by the value or the
command it is. That a late request's earlier setting stands is log entry 41's choice (R58). -/
theorem railsAndDomains : Obligations.RailsAndDomains := by
  unfold Obligations.RailsAndDomains
  refine ⟨fun s k hk => ⟨fun up hl => ⟨fun hh => ?ackHeld, fun hh => ?ackFree⟩, fun hr ha ht hh => ?late, fun hr ha => ?acked⟩,
    fun s el hd => ⟨fun he h4 => ?entry, fun he h4 ht => ?entryDrx, fun he h4 ht => ?entryDrxOff,
      fun he hp => ⟨fun h4 hr => ?exitDrx, fun h1 h2 hn => ?exitSlice, fun h5 => ?exitPm, fun h64 hn => ?exitSpare⟩⟩,
    fun s l hc => ⟨fun hr hh => ?raise, fun hr hh => ?lower⟩, fun s hw ht => ?settled,
    fun s w => ⟨fun v h => ?level, fun v h => ?keeperClk, fun el on hel h => ?vote, fun el h => ?forceWake⟩⟩
  case ackHeld => exact block_congr ((railAck_inTime hk hl).trans (if_pos hh))
  case ackFree => exact block_congr ((railAck_inTime hk hl).trans (if_neg (ne_true_of_eq_false hh)))
  case late => exact block_congr (railTimeout_late hk (railLate_iff.2 ⟨hr, ha, ht, hh⟩))
  case acked => exact startRail_acked hr ha
  case entry => exact block_congr ((domainEntry_due hd he).trans (if_neg h4))
  case entryDrx => exact block_congr ((domainEntry_due hd he).trans ((if_pos h4).trans (if_neg ht)))
  case entryDrxOff => exact block_congr ((domainEntry_due hd he).trans ((if_pos h4).trans (if_pos ht)))
  case exitDrx =>
    refine block_congr ((domainExit_due hd he hp fun _ => hr).trans ?_)
    rw [Chip.takeUp, if_pos h4]; rfl
  case exitSlice =>
    refine block_congr ((domainExit_due hd he hp (by omega)).trans ?_)
    rw [Chip.takeUp, if_neg (by omega), if_pos ⟨h1, h2⟩]; rfl
  case exitPm =>
    refine block_congr ((domainExit_due hd he hp (by omega)).trans ?_)
    rw [Chip.takeUp, if_neg (by omega), if_neg (by omega), if_neg (by omega)]; rfl
  case exitSpare =>
    refine block_congr ((domainExit_due hd he hp (by omega)).trans ?_)
    rw [Chip.takeUp, if_neg (by omega), if_neg (by rw [inService_n]; omega), if_pos h64]; rfl
  case raise => exact block_congr (congrArg Chip.advance (levelSwitch_raise hc hr hh))
  case lower => exact block_congr (congrArg Chip.advance (levelSwitch_lower hc hr hh))
  case settled => exact block_congr (hpSettled_due hw ht)
  case level => exact commit_value (by decide) (fun c => applyWr_pwrLevel c v) h
  case keeperClk => exact commit_value (by decide) (fun c => applyWr_pwrKeeperClk c v) h
  case vote => exact commit_value (isWO_vote w el hel) (fun c => applyWr_vote c w hel on) h
  case forceWake => exact commit_starts (by decide) (fun c => startWr_pwrForceWake c w el) h

/-- Settles O33: each reset by what it clears, each release by the start-up that begins where no other reset is asserted. -/
theorem resetsAndStartUp : Obligations.ResetsAndStartUp := by
  unfold Obligations.ResetsAndStartUp
  refine fun s => ⟨rfl, fun hp => ?warm, fun hp => ?warmNoted, fun hr => ⟨?brownOut, ?supply⟩,
    fun hr => ⟨fun hp hw hb hs => ?porRelease, fun hp hw hb hs => ?warmRelease, fun hp hw hb hs => ?brownRelease, fun hp hw hb hs => ?supplyRelease⟩,
    fun hp hw => ?porReleaseHeld, rfl, fun hr => ?supplyOn⟩
  case warm => exact block_congr (warmAssert_alone hp)
  case warmNoted => exact block_congr (warmAssert_por hp)
  case brownOut => exact block_congr (if_neg hr)
  case supply => exact block_congr (if_neg hr)
  case porRelease => exact block_congr ((if_pos hp).trans (startUp_free (isHeld_false rfl hw hb hs) hr))
  case warmRelease => exact block_congr ((if_pos hw).trans (startUp_free (isHeld_false hp rfl hb hs) hr))
  case brownRelease => exact block_congr ((if_pos hb).trans (startUp_free (isHeld_false hp hw rfl hs) hr))
  case supplyRelease => exact block_congr ((if_pos hs).trans (startUp_free (isHeld_false hp hw hb rfl) hr))
  case porReleaseHeld => exact block_congr ((if_pos hp).trans (startUp_held (by simp [Chip.isHeld, hw])))
  case supplyOn => exact block_congr (if_pos hr)

/-- Settles O40: each control request by the answer it gets, each packet by what the mailbox makes of its length. -/
theorem controlMessages : Obligations.ControlMessages := by
  unfold Obligations.ControlMessages
  refine fun s => ⟨fun hk => ⟨fun q => ⟨fun data hl ho h0 hF => ?eid, ?getEid, ?uuid, fun data hl => ?eidShort, fun data hl hv => ?eidRefused,
      fun data => ⟨fun ht => ?version, fun ht => ?versionVendor, fun hF h0 h7 => ?versionOther⟩, ?types, fun data ht => ?vendor,
      fun data ht => ?vendorFurther, fun cmd hc => ?unsupported⟩, fun w0 ws => ⟨fun hb => ?dropped, fun hl h5 hm => ?packet⟩⟩,
    fun w t hm => ⟨fun hr => ?word, fun p k ps ht hq => ?lastWord⟩⟩
  case eid => exact block_congr ((ctl_on hk).trans (setEid_taken hl ho h0 hF))
  case getEid => exact block_congr (ctl_on hk)
  case uuid => exact block_congr (ctl_on hk)
  case eidShort => exact block_congr ((ctl_on hk).trans (setEid_short hl))
  case eidRefused => exact block_congr ((ctl_on hk).trans (setEid_refused hl hv))
  case version => exact block_congr ((ctl_on hk).trans (control_version (versionAnswer_base ht)))
  case versionVendor => exact block_congr ((ctl_on hk).trans (control_version (versionAnswer_vendor ht)))
  case versionOther => exact block_congr ((ctl_on hk).trans (control_version (versionAnswer_other hF h0 h7)))
  case types => exact block_congr (ctl_on hk)
  case vendor => exact block_congr ((ctl_on hk).trans (control_vendorSet ht))
  case vendorFurther => exact block_congr ((ctl_on hk).trans (control_vendorSet_further ht))
  case unsupported => exact block_congr ((if_neg (by omega)).trans ((ctl_on hk).trans (control_unsupported hc)))
  case dropped => exact block_congr (mailbox_dropped hk hb)
  case packet => exact block_congr (mailbox_packet hk hl h5 hm)
  case word => exact block_congr (congrArg (fun d => { s.toChip with dic := d }) (mbTaken_word hm hr))
  case lastWord => exact block_congr (congrArg (fun d => { s.toChip with dic := d }) (mbTaken_last (ht ▸ hm) hq))

/-- Settles O41: each transfer and CCC by what the bus does to the target that it addresses. -/
theorem i3cTarget : Obligations.I3cTarget := by
  unfold Obligations.I3cTarget
  refine fun s hu => ⟨fun a hd => ⟨fun data ok hk => ⟨fun hb => ?writeDropped, fun ho h68 hm => ?writePacket⟩,
      fun hq => ?readEmpty, fun p t hq => ?read,
      fun i ans hi => ?get, fun v => ⟨?setmwl, ?setmrl⟩, ?unsupported, ?roleOffer⟩,
    fun a ha hd => ⟨?entdaa, ?entdaaLost, ?setdasa⟩, fun v => ⟨?setmwlAll, ?setmrlAll⟩, ?enec, ?disec, ?rstdaa, ?unsupportedAll, ?hdr⟩
  case writeDropped => exact block_congr ((i3cWrite_taken hu hd hk).trans (if_pos (by simpa using hb)))
  case writePacket => exact block_congr ((i3cWrite_taken hu hd hk).trans (if_neg (by simp [ho]; omega)))
  case readEmpty => exact block_congr (i3cRead_empty hu hd hq)
  case read => exact block_congr (i3cRead_packet hu hd hq)
  case get =>
    simp only [List.mem_cons, List.not_mem_nil, or_false, Prod.mk.injEq] at hi
    rcases hi with ⟨rfl, rfl⟩ | ⟨rfl, rfl⟩ | ⟨rfl, rfl⟩ | ⟨rfl, rfl⟩ | ⟨rfl, rfl⟩ | ⟨rfl, rfl⟩
    case inr.inr.inr.inr.inr =>
      rw [← i3cStatus_length]
      exact block_congr (i3cGet_answered hu hd)
    all_goals exact block_congr (i3cGet_answered hu hd)
  case setmwl => exact block_congr (i3_addressed hu (.inr hd.symm))
  case setmrl => exact block_congr (i3_addressed hu (.inr hd.symm))
  case unsupported => exact block_congr ((congrArg (Chip.i3 · _) (if_pos ⟨hu, .inr hd.symm⟩)).trans (i3_addressed hu ⟨rfl, hd.symm⟩))
  case roleOffer => exact block_congr (i3_addressed hu hd)
  case entdaa => exact block_congr (i3_assign hu hd ha)
  case entdaaLost => exact block_congr (i3_up hu)
  case setdasa => exact block_congr ((congrArg s.toChip.i3 (funext fun _ => if_pos rfl)).trans (i3_assign hu hd ha))
  case setmwlAll => exact block_congr (i3_addressed hu (.inl rfl))
  case setmrlAll => exact block_congr (i3_addressed hu (.inl rfl))
  case enec => exact block_congr (i3_up hu)
  case disec => exact block_congr (i3_up hu)
  case rstdaa => exact block_congr (i3_up hu)
  case unsupportedAll => exact block_congr ((congrArg (Chip.i3 · _) (if_pos ⟨hu, .inl rfl⟩)).trans (i3_up hu))
  case hdr => exact block_congr (i3_up hu)

/-- Settles O56 by evaluating the state after reset. -/
theorem resetState : Obligations.ResetState := by
  unfold Obligations.ResetState
  exact ⟨rfl, rfl, rfl, rfl, rfl, rfl, rfl, rfl, rfl, rfl, fun idx el => rfl,
    rfl, rfl, rfl, rfl, rfl, rfl, rfl, rfl, rfl, rfl, rfl, rfl, rfl, rfl, rfl, rfl⟩

end

/-! # Pools, binding and tile map

What a port does with the requests of Table 04.2 and with the answers to back-invalidates (R69 to R71, R87, R99, R100, R116, R118, R167,
R173), and what the commits of the pools, the CAIDs, the tile map, the Guard and the taint list do (R62, R64, R67, R68, R72, R79, R83, R160,
R358). -/

namespace Sys2Proof.Machine
open Ob

/-! ## Requests of Table 04.2 (R69, R70, R71, R87, R167, R173) -/

section ListedRequest
variable {e e1 : Eng} {h : HostBeat} {kind opc : Nat} {op : Op} {cls row form cause : Nat} {leaves : Bool} {pl : Payload}
  (h0 : row ≠ 0) (hr : e.rdy0 h.xport = true) (ht : e.takeChk h = some e1) (hl : e1.inLeases h.line = false)
include h0 hr ht hl

/-- Outside Foghorn, a listed request that no reason refuses joins its port's stage. -/
theorem request_staged (hw : e1.reason h leaves = none) (hf : e1.foghorn = false) :
    e.request h kind opc op cls row form cause leaves pl = e1.staged h op cls row pl := by
  have admitted : e.request h kind opc op cls row form cause leaves pl = e1.intake h (mkReq e1 h op cls row pl 0 0) := by
    simp [Eng.request, h0, hr, ht, hl, hw]
  exact admitted.trans (intake_stages hf)

/-- A listed request that a reason refuses is counted and logged under it, and gets the answer of Table 03.2. -/
theorem request_refused {n : Nat} (hw : e1.reason h leaves = some n) :
    e.request h kind opc op cls row form cause leaves pl =
      (e1.refused n kind opc h).refusedForm h.xport (mkReq e1 h op cls row pl 0 0) (occBand (e1.occ h.xport)) := by
  simp [Eng.request, h0, hr, ht, hl, hw]

end ListedRequest

/-- An AtomicOp that a reason refuses is counted and logged under it, and gets the answer of Table 03.2. -/
theorem atomicBeat_refused {e e1 : Eng} {h : HostBeat} {uop usize uoff n : Nat} {data : Data} (hr : e.rdy0 h.xport = true)
    (ht : e.takeChk h = some e1) (hw : e1.atomicReason h = some n) :
    e.atomicBeat h uop usize uoff data = (e1.refused n 6 uop h).refusedForm h.xport (atomicReq e1 h uop usize uoff data) 0 := by
  rw [Eng.atomicReason] at hw
  simp only [Eng.atomicBeat, hr, ht, hw, Bool.not_true, Bool.false_eq_true, if_false]
  rfl

section RefusedForm
variable {e : Eng} {port dl : Nat} {r : Req}

theorem refusedForm_read {d : Bool} (ho : r.op = if d then .memRdData else .memRd) : e.refusedForm port r dl = e.answerNxm port r dl := by
  cases d <;> simp [Eng.refusedForm, ho]

theorem refusedForm_invalidate {nt : Bool} (ho : r.op = if nt then .memInvNT else .memInv) : e.refusedForm port r dl = e.answerCmp port r dl := by
  cases nt <;> simp [Eng.refusedForm, ho]

end RefusedForm

/-! ## Answers to back-invalidates (R99, R100, R116, R118) -/

/-- The bit of CAID c for line k is set in an open slot (R98, R99). -/
def Slot.awaits (s : Slot) (c k : Nat) : Bool :=
  (s.blk || s.ctxs.any fun x => x.1 == k) && s.tgts.any fun t => t.caid == c && t.bit && (!s.blk || t.left.contains k)

theorem awaits_block {s : Slot} {c k : Nat} (hb : s.blk = true) (ht : s.tgts.any (fun t => t.caid == c && t.bit && t.left.contains k) = true) :
    s.awaits c k = true := by
  simpa [Slot.awaits, hb] using ht

theorem awaits_lines {s : Slot} {c k : Nat} (hb : s.blk = false) (hc : s.ctxs.any (fun x => x.1 == k) = true)
    (ht : s.tgts.any (fun t => t.caid == c && t.bit) = true) : s.awaits c k = true := by
  simp only [Slot.awaits, hb, hc, Bool.false_or, Bool.not_false, Bool.true_or, Bool.and_true, ht]

section ResponseLine
variable {e : Eng} {h : HostBeat} {tag opc rsp line : Nat}

theorem rspLine_awaited {sl : Slot} (hs : e.slotOfTag tag line = some sl) (ha : sl.awaits h.caid (line % 4) = true) :
    e.rspLine h tag opc rsp line = e.countRsp sl h.caid (line % 4) opc rsp := by
  simp only [Eng.rspLine, hs]
  exact if_pos ha

theorem rspLine_noSlot (hs : e.slotOfTag tag line = none) :
    e.rspLine h tag opc rsp line = e.protoErr (e.owner line) 0x10 2 opc h.caid (e.lineSt (e.owner line) line).code line := by
  simp only [Eng.rspLine, hs]

end ResponseLine

section BackInvalidate
variable {e e1 : Eng} {h : HostBeat} (hr : e.rdyG h.xport 1 = true) (ht : e.takeG h 1 (e.owner h.line) = some e1)
  (hc : e1.caidReason h.caid h.hport true = none) (hf : e1.foghorn = false)
include hr ht hc hf

theorem biRsp_taken {tag rsp : Nat} : e.biRsp h tag rsp = e1.rspLine h tag rsp rsp h.line := by
  simp [Eng.biRsp, hr, ht, hc, hf]

theorem biRspBlk_taken {tag rsp : Nat} :
    e.biRspBlk h tag rsp = (List.range 4).foldl (fun e k => e.rspLine h tag (4 + rsp) rsp (h.line / 4 * 4 + k)) e1 := by
  simp [Eng.biRspBlk, hr, ht, hc, hf]

theorem biConflict_stray (hs : ((e1.inc BICONFLICT_COUNT).conflictAck h).slotFor h.line h.caid = none) :
    e.biConflict h = ((e1.inc BICONFLICT_COUNT).conflictAck h).inc BICONFLICT_STRAY := by
  simp [Eng.biConflict, hr, ht, hc, hf, hs]

theorem biConflict_marked {sl : Slot} (hs : ((e1.inc BICONFLICT_COUNT).conflictAck h).slotFor h.line h.caid = some sl) :
    e.biConflict h = ((e1.inc BICONFLICT_COUNT).conflictAck h).markConflict sl h.caid := by
  simp [Eng.biConflict, hr, ht, hc, hf, hs]

end BackInvalidate

/-! ## Rows of the object tables (R353) -/

/-- Every row that lists an index lists its elements 0 to n. -/
def uniformRows (idx n : Nat) : Bool := (objRows idx).all fun r => !(decide (r.lo ≤ idx) && decide (idx ≤ r.hi)) || r.els == [(0, n)]

/-- One row describes every element of such an index. -/
theorem objRow_uniform {idx n el : Nat} (hrows : uniformRows idx n = true) (hel : el ≤ n) : objRow idx el = objRow idx 0 := by
  rw [objRow, objRow, ← List.head?_filter, ← List.head?_filter]
  refine congrArg List.head? (List.filter_congr fun r hr => ?_)
  have hall := List.all_eq_true.1 hrows r hr
  cases hin : decide (r.lo ≤ idx) && decide (idx ≤ r.hi) with
  | false => rfl
  | true =>
    have hels : r.els = [(0, n)] := by simpa [hin] using hall
    simp [hels, hel]

theorem isWO_congr {idx el el' : Nat} (v : Nat) (h : objRow idx el = objRow idx el') : isWO ⟨idx, el, v⟩ = isWO ⟨idx, el', v⟩ := by
  simp only [isWO, h]

theorem isDrain_congr {idx el el' : Nat} (h : objRow idx el = objRow idx el') : isDrain idx el = isDrain idx el' := by
  simp only [isDrain, h]

/-! ## Commits of values (R358) -/

/-- A value of the objects 0x2xxx takes effect on the coherence side alone. -/
theorem applyWr_pools {o : OWr} (hlo : 0x2000 ≤ o.idx) (hhi : o.idx ≤ 0x2FFF) (c : Chip) : c.applyWr o = c.e fun e => e.applyValue o := by
  have other (i : Nat) (hi : 0x2FFF < i) : o.idx ≠ i := by omega
  rw [Chip.applyWr, if_neg (by omega), if_neg (by omega), if_neg (by simp only [PM_CTR_SEL]; omega), if_neg (other _ (by decide)),
    if_neg (other _ (by decide)), if_neg (other _ (by decide)), if_neg (other _ (by decide))]

/-- A value of the objects 0x2xxx: no command, and no setting of another side. -/
def OWr.poolValue (o : OWr) : Prop := isWO o = false ∧ 0x2000 ≤ o.idx ∧ o.idx ≤ 0x2FFF

/-- An element with the row of element 0 is a value where that is one. -/
theorem poolValue_congr {i el : Nat} (v : Nat) (hrow : objRow i el = objRow i 0) (h0 : OWr.poolValue ⟨i, 0, 0⟩) : OWr.poolValue ⟨i, el, v⟩ := by
  obtain ⟨hwo, hrange⟩ := h0
  exact ⟨(isWO_congr v hrow).trans ((isWO_val i 0 v).trans hwo), hrange⟩

theorem applyWrs_pools {ws : List OWr} (hws : ∀ o ∈ ws, o.poolValue) (c : Chip) :
    ws.foldl (fun c o => c.applyWr o) c = c.e fun e => ws.foldl Eng.applyValue e := by
  induction ws generalizing c with
  | nil => rfl
  | cons o t ih =>
    obtain ⟨_, hlo, hhi⟩ := hws o (List.mem_cons_self ..)
    rw [List.foldl_cons, applyWr_pools hlo hhi, ih fun a ha => hws a (List.mem_cons_of_mem _ ha)]
    rfl

/-- A commit of values of the objects 0x2xxx that passes every check has the effect of the values in their order. -/
theorem commit_poolValues {s : State} {w : World} {ws : List OWr} {g : Eng → Eng} (hws : ∀ o ∈ ws, o.poolValue)
    (hg : ∀ e : Eng, ws.foldl Eng.applyValue e = g e) (h : s.toChip.accepts w ws = true) :
    s.commit w ws = .next (s.committed w fun c => c.e g) := by
  have values : ws.filter (fun o => !isWO o) = ws := List.filter_eq_self.2 fun o ho => by simp [(hws o ho).1]
  have commands : ws.filter isWO = [] := List.filter_eq_nil_iff.2 fun o ho => by simp [(hws o ho).1]
  rw [commit_accepted s w ws h, Chip.applyCmt, values, commands, List.foldl_nil, applyWrs_pools hws, funext hg, State.committed]

/-- The objects of a pool and of a CAID that one value sets and no rule of theirs reads at the commit edge. -/
def plainObs : List Nat := [POOL_BASE, POOL_TMBASE, CAID_PORT, CAID_BIID]

theorem applyValue_plain {i el v : Nat} (hi : i ∈ plainObs) (hd : isDrain i el = false) (e : Eng) :
    e.applyValue ⟨i, el, v⟩ = e.set i el (OWr.mk i el v).v := by
  simp only [plainObs, List.mem_cons, List.not_mem_nil, or_false] at hi
  rcases hi with rfl | rfl | rfl | rfl <;> simp +decide only [Eng.applyValue, hd, if_false]

/-! ## Binding (R67, R68, R72, R207) -/

/-- The fields of a binding record. -/
def bindObs : List Nat := [CAID_PORT, CAID_BIID, CAID_POOLS]

/-- A write that may be absent has its effect where it is given. -/
theorem foldl_given {α β : Type} (f : β → α → β) (g : Nat → α) (b : β) (v : Option Nat) :
    (v.map g).toList.foldl f b = v.elim b fun v => f b (g v) := by cases v <;> rfl

theorem applyValue_caidPools (caid v : Nat) (e : Eng) : e.applyValue ⟨CAID_POOLS, caid, v⟩ = e.setPools caid (OWr.mk CAID_POOLS caid v).v := by
  simp +decide only [Eng.applyValue, if_true, if_false]

section Caid
variable {caid : Nat} (hc : caid < 256)
include hc

/-- Every CAID has the row of CAID 0. -/
theorem objRow_caid {i : Nat} (hi : i ∈ CAID_UNBIND :: bindObs) : objRow i caid = objRow i 0 := by
  have uniform : ∀ i ∈ CAID_UNBIND :: bindObs, uniformRows i 255 = true := by decide
  exact objRow_uniform (uniform i hi) (by omega)

theorem isWO_caidUnbind : isWO ⟨CAID_UNBIND, caid, 0⟩ = true :=
  (isWO_congr 0 (objRow_caid hc (by decide))).trans (by decide)

theorem poolValue_bind {i : Nat} (v : Nat) (hi : i ∈ bindObs) : OWr.poolValue ⟨i, caid, v⟩ := by
  have values : ∀ i ∈ bindObs, OWr.poolValue ⟨i, 0, 0⟩ := by unfold OWr.poolValue; decide
  exact poolValue_congr v (objRow_caid hc (List.mem_cons_of_mem _ hi)) (values i hi)

theorem poolValue_bindWrs (port biid pools : Option Nat) : ∀ o ∈ bindWrs caid port biid pools, o.poolValue := by
  intro o ho
  simp only [bindWrs, List.mem_append, Option.mem_toList, Option.map_eq_some_iff] at ho
  obtain (⟨v, _, rfl⟩ | ⟨v, _, rfl⟩) | ⟨v, _, rfl⟩ := ho
  · exact poolValue_bind hc v (by decide)
  · exact poolValue_bind hc v (by decide)
  · exact poolValue_bind hc v (by decide)

theorem applyValue_caidPort (v : Nat) (e : Eng) : e.applyValue ⟨CAID_PORT, caid, v⟩ = e.set CAID_PORT caid (OWr.mk CAID_PORT caid v).v :=
  applyValue_plain (by decide) ((isDrain_congr (objRow_caid hc (by decide))).trans (by decide)) e

theorem applyValue_caidBiid (v : Nat) (e : Eng) : e.applyValue ⟨CAID_BIID, caid, v⟩ = e.set CAID_BIID caid (OWr.mk CAID_BIID caid v).v :=
  applyValue_plain (by decide) ((isDrain_congr (objRow_caid hc (by decide))).trans (by decide)) e

/-- The fields given take effect in their order: the port, the back-invalidate ID, the pools. -/
theorem applyValues_bind (port biid pools : Option Nat) (e : Eng) :
    (bindWrs caid port biid pools).foldl Eng.applyValue e =
      let e1 := port.elim e fun v => e.set CAID_PORT caid (OWr.mk CAID_PORT caid v).v
      let e2 := biid.elim e1 fun v => e1.set CAID_BIID caid (OWr.mk CAID_BIID caid v).v
      pools.elim e2 fun v => e2.setPools caid (OWr.mk CAID_POOLS caid v).v := by
  simp only [bindWrs, List.foldl_append, foldl_given, applyValue_caidPort hc, applyValue_caidBiid hc, applyValue_caidPools]

end Caid

theorem startWr_unbindPlanned (c : Chip) (w : World) (caid : Nat) : c.startWr w ⟨CAID_UNBIND, caid, 1⟩ =
    c.e fun e => if e.caidSt caid = 0 then e else (e.sendBreak none (some caid) 3).planUnbind caid := by
  simp +decide only [Chip.startWr, Eng.applyCommand, Eng.breakCaid, if_true, if_false]

theorem startWr_unbindForced (c : Chip) (w : World) (caid : Nat) : c.startWr w ⟨CAID_UNBIND, caid, 2⟩ =
    c.e fun e => if e.caidSt caid = 0 then e else e.surprise caid 3 := by
  simp +decide only [Chip.startWr, Eng.applyCommand, if_true, if_false]

/-! ## Pools (R62, R64, R79) -/

/-- The objects of a pool that a commit writes. -/
def poolObs : List Nat := [POOL_BASE, POOL_UNITS, POOL_TMBASE]

section Pool
variable {p : Nat} (hp : p < 64)
include hp

/-- Every pool has the row of pool 0. -/
theorem objRow_pool {i : Nat} (hi : i ∈ poolObs) : objRow i p = objRow i 0 := by
  have uniform : ∀ i ∈ poolObs, uniformRows i 63 = true := by decide
  exact objRow_uniform (uniform i hi) (by omega)

theorem poolValue_pool {i : Nat} (v : Nat) (hi : i ∈ poolObs) : OWr.poolValue ⟨i, p, v⟩ := by
  have values : ∀ i ∈ poolObs, OWr.poolValue ⟨i, 0, 0⟩ := by unfold OWr.poolValue; decide
  exact poolValue_congr v (objRow_pool hp hi) (values i hi)

theorem applyValue_poolBase (v : Nat) (e : Eng) : e.applyValue ⟨POOL_BASE, p, v⟩ = e.set POOL_BASE p (OWr.mk POOL_BASE p v).v :=
  applyValue_plain (by decide) ((isDrain_congr (objRow_pool hp (by decide))).trans (by decide)) e

theorem applyValue_poolTmbase (v : Nat) (e : Eng) : e.applyValue ⟨POOL_TMBASE, p, v⟩ = e.set POOL_TMBASE p (OWr.mk POOL_TMBASE p v).v :=
  applyValue_plain (by decide) ((isDrain_congr (objRow_pool hp (by decide))).trans (by decide)) e

end Pool

/-- New units make a pool present; the units it has already change nothing. -/
theorem applyValue_poolUnits {p v : Nat} (hv : (OWr.mk POOL_UNITS p v).v ≠ 0) (e : Eng) :
    e.applyValue ⟨POOL_UNITS, p, v⟩ = if (OWr.mk POOL_UNITS p v).v = e.obj POOL_UNITS p then e
      else (e.set POOL_UNITS p (OWr.mk POOL_UNITS p v).v).set POOL_STATE p 1 := by
  simp only [Eng.applyValue, if_true, if_neg hv]

/-- No units: a present pool's purge starts, and an absent pool stays so. -/
theorem applyValue_poolUnits_zero (p : Nat) (e : Eng) :
    e.applyValue ⟨POOL_UNITS, p, 0⟩ = if e.obj POOL_UNITS p = 0 then e else e.purge p := by
  simp only [Eng.applyValue, OWr.v, Nat.zero_and, if_true, eq_comm]

theorem purgeDone_ended {e : Eng} {p : Nat} {q : Nat × Nat × Nat × Nat} (hq : e.purges.find? (fun q => q.1 == p) = some q)
    (hb : e.purgeBusy q = false) : e.purgeDone p = { (e.set POOL_STATE p 0) with purges := e.purges.filter fun r => r.1 != p } := by
  simp only [Eng.purgeDone, hq, hb, Bool.false_eq_true, if_false]

/-! ## The tile map, the Guard and the taint list (R79, R83, R160) -/

theorem startWr_tileMapWrite (c : Chip) (w : World) (v : Nat) : c.startWr w ⟨TILE_MAP_WRITE, 0, v⟩ = c.e fun e => e.tmWrite v := by
  simp +decide only [Chip.startWr, Eng.applyCommand, if_true, if_false]

theorem startWr_tileMapFill (c : Chip) (w : World) (v : Nat) : c.startWr w ⟨TILE_MAP_FILL, 0, v⟩ = c.e fun e => e.tmFill v := by
  simp +decide only [Chip.startWr, Eng.applyCommand, if_true, if_false]

theorem startWr_taintClear (c : Chip) (w : World) (el : Nat) : c.startWr w ⟨TAINT_CLEAR, 0, el⟩ = c.e fun e => e.taintClear el := by
  simp +decide only [Chip.startWr, Eng.applyCommand, if_true, if_false]

theorem applyWr_guardArm (c : Chip) : c.applyWr ⟨GUARD_ARM, 0, 1⟩ = c.e fun e => Eng.presentAll (e.set GUARD_ARM 0 1) := by
  have armed : (OWr.mk GUARD_ARM 0 1).v = 1 := by decide
  rw [applyWr_pools (by decide) (by decide)]
  simp +decide only [Eng.applyValue, armed, if_true, if_false]

end Sys2Proof.Machine

section
open Sys2Proof Sys2Proof.Machine Sys2Proof.Machine.Ob

/-- Settles O3: a request of Table 04.2 by the row that its combination has. -/
theorem requestsAdmitted : Obligations.RequestsAdmitted := by
  unfold Obligations.RequestsAdmitted
  refine fun s h e hs hr ht hf hl => ⟨fun d m h0 hw => ?rd, fun nt m h0 hw => ?inv, fun m h0 hw => ?cln, fun m hw => ?specRd,
    fun m pl h0 hw => ?wr, fun m pl h0 hw => ?wrPtl⟩
  case rd => exact engine_effect hs (request_staged h0 hr ht hl hw hf)
  case inv => exact engine_effect hs (request_staged h0 hr ht hl hw hf)
  case cln => exact engine_effect hs (request_staged h0 hr ht hl hw hf)
  case specRd => exact engine_effect hs (request_staged (by decide) hr ht hl hw hf)
  case wr => exact engine_effect hs (request_staged h0 hr ht hl hw hf)
  case wrPtl => exact engine_effect hs (request_staged h0 hr ht hl hw hf)

/-- Settles O4: a refused request by the form in which Table 03.2 answers its opcode. The opcode numbers logged are log entry 17's (R40). -/
theorem requestsRefused : Obligations.RequestsRefused := by
  unfold Obligations.RequestsRefused
  refine fun s h e n hs hr ht hl => ⟨fun d m h0 hw => ?rd, fun nt m h0 hw => ?inv, fun m h0 hw => ?cln, fun m hw => ?specRd,
    fun m pl h0 hw => ?wr, fun m pl h0 hw => ?wrPtl, fun uop usize uoff data hw => ?atomic⟩
  case rd => exact engine_effect hs ((request_refused h0 hr ht hl hw).trans (refusedForm_read rfl))
  case inv => exact engine_effect hs ((request_refused h0 hr ht hl hw).trans (refusedForm_invalidate rfl))
  case cln => exact engine_effect hs (request_refused h0 hr ht hl hw)
  case specRd => exact engine_effect hs (request_refused (by decide) hr ht hl hw)
  case wr => exact engine_effect hs (request_refused h0 hr ht hl hw)
  case wrPtl => exact engine_effect hs (request_refused h0 hr ht hl hw)
  case atomic => exact engine_effect hs (atomicBeat_refused hr ht ((if_neg (by simp [hl])).trans hw))

/-- Settles O7: a response by whether its tag names a slot that awaits it, a conflict by whether a slot of its line has the target's bit
set. The opcode numbers logged for block responses are log entry 17's (R40). -/
theorem backInvalidateAnswers : Obligations.BackInvalidateAnswers := by
  unfold Obligations.BackInvalidateAnswers
  refine fun s h e hs hr ht hc hf => ⟨fun tag rsp sl hsl hb hset => ?block, fun tag rsp sl hsl hb hctx hset => ?lines, fun tag rsp hsl => ?noSlot,
    fun tag rsp => ?blk, fun hsl => ?stray, fun sl hsl => ?marked⟩
  case block => exact engine_effect hs ((biRsp_taken hr ht hc hf).trans (rspLine_awaited hsl (awaits_block hb hset)))
  case lines => exact engine_effect hs ((biRsp_taken hr ht hc hf).trans (rspLine_awaited hsl (awaits_lines hb hctx hset)))
  case noSlot => exact engine_effect hs ((biRsp_taken hr ht hc hf).trans (rspLine_noSlot hsl))
  case blk => exact engine_effect hs (biRspBlk_taken hr ht hc hf)
  case stray => exact engine_effect hs (biConflict_stray hr ht hc hf hsl)
  case marked => exact engine_effect hs (biConflict_marked hr ht hc hf hsl)

/-- Settles O15: a binding by the values of its fields in their order, an unbinding by the command that it starts. -/
theorem bindingCommits : Obligations.BindingCommits := by
  unfold Obligations.BindingCommits
  refine fun s w caid hc => ⟨fun port biid pools h => ?bind, fun h => ?planned, fun h => ?forced⟩
  case bind => exact commit_poolValues (poolValue_bindWrs hc port biid pools) (applyValues_bind hc port biid pools) h
  case planned => exact commit_starts (isWO_caidUnbind hc) (fun c => startWr_unbindPlanned c w caid) h
  case forced => exact commit_starts (isWO_caidUnbind hc) (fun c => startWr_unbindForced c w caid) h

/-- Settles O16: a pool by the values of its fields in their order, the others by the value or the command that each is. The
pace of a purge is log entry 13's (R64). -/
theorem poolAndTileCommits : Obligations.PoolAndTileCommits := by
  unfold Obligations.PoolAndTileCommits
  refine ⟨fun s w p hp => ⟨fun base units tm hu h => ?add, fun h => ?remove⟩,
    fun s w => ⟨fun v h => ?tileWrite, fun v h => ?tileFill, fun h => ?guardArm, fun el h => ?taintClear⟩, fun s p q hs hq hb => ?purged⟩
  case add =>
    refine commit_poolValues (fun o ho => ?_) (fun e => ?_) h
    · simp only [List.mem_cons, List.not_mem_nil, or_false] at ho
      obtain rfl | rfl | rfl := ho
      · exact poolValue_pool hp base (by decide)
      · exact poolValue_pool hp units (by decide)
      · exact poolValue_pool hp tm (by decide)
    · simp only [List.foldl_cons, List.foldl_nil, applyValue_poolBase hp, applyValue_poolUnits hu, applyValue_poolTmbase hp]
  case remove =>
    refine commit_poolValues (fun o ho => ?_) (applyValue_poolUnits_zero p) h
    exact List.mem_singleton.1 ho ▸ poolValue_pool hp 0 (by decide)
  case tileWrite => exact commit_starts (by decide) (fun c => startWr_tileMapWrite c w v) h
  case tileFill => exact commit_starts (by decide) (fun c => startWr_tileMapFill c w v) h
  case guardArm => exact commit_value (by decide) applyWr_guardArm h
  case taintClear => exact commit_starts (by decide) (fun c => startWr_taintClear c w el) h
  case purged => exact engine_effect hs (purgeDone_ended hq hb)

end

/-! # Directory: the snoop filter's index, sector numbers and the DRAM Backing Store

Set and tag of a sector (R134), the numbers of a tile's sectors (R132), and what the commands of the DBS do: spill sequences, overflows,
evictions and a sweep's scan (R145 to R147, R150, R151, R153, R272). -/

namespace Sys2Proof.Machine
open Ob

/-! ## The snoop filter's index (R134) -/

/-- What the tag and the key contribute to a sector's set. -/
def sfaMask (key hi : Nat) : Nat := hi % 2 ^ 13 ^^^ (hi / 2 ^ 13) <<< 1 ^^^ key % 2 ^ 13

/-- The tag of a sector number has 25 bits. -/
theorem sfaTag_lt {psn : Nat} (h : psn < 2 ^ 38) : psn / 2 ^ 13 < 2 ^ 25 := by omega

theorem sfaMask_lt (key : Nat) {hi : Nat} (h : hi < 2 ^ 25) : sfaMask key hi < 2 ^ 13 := by
  have high : (hi / 2 ^ 13) <<< 1 < 2 ^ 13 := by rw [Nat.shiftLeft_eq]; omega
  exact Nat.xor_lt_two_pow (Nat.xor_lt_two_pow (Nat.mod_lt _ (by decide)) high) (Nat.mod_lt _ (by decide))

/-- A set is the low bits of the number under the mask of its tag. -/
theorem sfaSet_eq_xor_mask (key : Nat) {psn : Nat} (h : psn / 2 ^ 13 < 2 ^ 25) :
    sfaSet key psn = psn % 2 ^ 13 ^^^ sfaMask key (psn / 2 ^ 13) := by
  have tag : bits psn 37 13 = psn / 2 ^ 13 := Nat.mod_eq_of_lt h
  have high : bits (psn / 2 ^ 13) 24 13 * 2 % 8192 = (psn / 2 ^ 13 / 2 ^ 13) <<< 1 := by
    rw [bits, Nat.shiftLeft_eq]; omega
  have low (n : Nat) : bits n 12 0 = n % 2 ^ 13 := congrArg (· % 2 ^ 13) (Nat.div_one n)
  simp only [sfaSet, sfaMask, tag, high, low, Nat.xor_assoc]

/-- The same mask recovers the low bits of the number. -/
theorem sfaSet_xor_mask (key : Nat) {psn : Nat} (h : psn / 2 ^ 13 < 2 ^ 25) :
    sfaSet key psn ^^^ sfaMask key (psn / 2 ^ 13) = psn % 2 ^ 13 := by
  rw [sfaSet_eq_xor_mask key h, Nat.xor_assoc, Nat.xor_self, Nat.xor_zero]

theorem sfaSet_lt (key : Nat) {psn : Nat} (h : psn / 2 ^ 13 < 2 ^ 25) : sfaSet key psn < 2 ^ 13 := by
  rw [sfaSet_eq_xor_mask key h]
  exact Nat.xor_lt_two_pow (Nat.mod_lt _ (by decide)) (sfaMask_lt key h)

/-- A tag and a set name one sector. -/
theorem sfaSet_injective (key : Nat) {psn psn' : Nat} (h : psn / 2 ^ 13 < 2 ^ 25) (ht : psn' / 2 ^ 13 = psn / 2 ^ 13)
    (hs : sfaSet key psn' = sfaSet key psn) : psn' = psn := by
  have low : psn' % 2 ^ 13 = psn % 2 ^ 13 := by
    rw [← sfaSet_xor_mask key h, ← sfaSet_xor_mask key (ht ▸ h), hs, ht]
  rw [← Nat.div_add_mod psn' (2 ^ 13), ht, low, Nat.div_add_mod]

/-! ## Sector numbers (R132) -/

/-- The window of a line's pool starts at or below the line. -/
theorem poolBase_le {e : Eng} {p line : Nat} (h : e.poolOf line = some p) : e.poolBase p ≤ line := by
  have held := List.find?_some h
  simp only [Eng.inPool, Bool.and_eq_true, decide_eq_true_eq] at held
  exact held.2.1

theorem psn_of_pool {e : Eng} {p line : Nat} (h : e.poolOf line = some p) :
    e.psn line = (e.obj POOL_TMBASE p + (line - e.poolBase p) / 2 ^ 15) * 2 ^ 13 + (line - e.poolBase p) % 2 ^ 15 / 4 := by
  simp only [Eng.psn, h]; rfl

/-- A sector's place in its tile, by bytes and by lines. -/
theorem sectorInTile (d : Nat) : 64 * d % 2 ^ 21 / 2 ^ 8 = d % 2 ^ 15 / 4 := by omega

/-- The tile of a pool's sector is the high part of its number. -/
theorem psn_div {e : Eng} {p line : Nat} (h : e.poolOf line = some p) :
    e.psn line / 2 ^ 13 = e.obj POOL_TMBASE p + (line - e.poolBase p) / 2 ^ 15 := by
  rw [psn_of_pool h]; omega

/-- The place of a sector in its tile is the low part of its number. -/
theorem psn_mod {e : Eng} {p line : Nat} (h : e.poolOf line = some p) :
    e.psn line % 2 ^ 13 = 64 * (line - e.poolBase p) % 2 ^ 21 / 2 ^ 8 := by
  rw [psn_of_pool h, sectorInTile]; omega

theorem psn_next {e : Eng} {p line : Nat} (h : e.poolOf line = some p) (hn : e.poolOf (line + 4) = some p)
    (ho : 64 * (line - e.poolBase p) % 2 ^ 21 / 2 ^ 8 + 1 < 8192) : e.psn (line + 4) = e.psn line + 1 := by
  have base := poolBase_le h
  have offset : line + 4 - e.poolBase p = line - e.poolBase p + 4 := by omega
  have notLast : (line - e.poolBase p) % 2 ^ 15 / 4 + 1 < 8192 := by rw [← sectorInTile]; exact ho
  rw [psn_of_pool h, psn_of_pool hn, offset]; omega

/-! ## Spill sequences (R145 to R147) -/

theorem spillStart_oldest {e : Eng} {slice : Nat} {k : SpillK} {sp : Spill} (hu : e.dbsUp = true)
    (hs : (e.spill.find? fun p => p.slice == slice && p.kind == k && e.spillMay p) = some sp) :
    e.spillStart slice k = e.startSpill sp := by
  simp only [Eng.spillStart, hs, if_pos hu]

/-! ## Evictions and overflows (R150, R151, R272) -/

section Evict
variable {e e1 : Eng} {page slice : Nat} {o : Overflow} {q : DbsPage} {b : Burst}
  (ho : (e.overflows.find? fun o => o.page == page && decide (o.st = .evictSent)) = some o) (hq : e.page page = some q)
  (hb : (q.bursts.find? fun b => b.b == o.asked) = some b) (hs : e.owner (b.sector * 4) = slice)
  (he : e.galSend .evict 7 (33 + pageCh page) slice = e1)
include ho hq hb hs he

/-- The owner of the burst's sector declines. -/
theorem evict_declines (hd : e1.evictDeclines slice b.sector = true) :
    e.evict page = e1.updOv page .evictSent fun o => { o with st := .declineSent, shadow := o.shadow || e1.mirrorsLine (b.sector * 4) } := by
  subst hs he
  simp only [Eng.evict, ho, hq, hb, if_pos hd]

/-- The eviction starts at the owner of the burst's sector. -/
theorem evict_starts (hd : e1.evictDeclines slice b.sector = false) :
    e.evict page = (e1.evictStart page slice b.sector b.psn b.b (e1.sfaFind slice b.sector) b.l).1 := by
  subst hs he
  simp only [Eng.evict, ho, hq, hb, hd, Bool.false_eq_true, if_false]

end Evict

/-- A DECLINE, or a KEPT (log entry 55), is counted, and the overflow goes on without the burst that it asked for. -/
theorem declined_counted {e : Eng} {page : Nat} {st : OvSt} {o : Overflow} (ho : (e.overflows.find? fun o => o.page == page && o.st == st) = some o) :
    e.declined page st =
      (((e.galSend .evict 7 (e.owner (o.vsector * 4)) (33 + pageCh page)).inc DBS_EVICT_DECLINES).updOv page st fun o =>
        { o with declined := o.asked :: o.declined }).ovNext o.id := by
  simp only [Eng.declined, ho]

/-- A completed overflow places the sector that waits, where the page has a free burst. -/
theorem complete_places {e : Eng} {page f : Nat} {o : Overflow} {sq : DSeq} {z : Spill} {q : DbsPage}
    (ho : (e.overflows.find? fun o => o.page == page && decide (o.st = .completeSent)) = some o)
    (hs : ((e.ovClosed o).seqs.find? fun q => q.id == o.id) = some sq) (hz : (e.ovClosed o).seqSpill o.zslice o.zsector sq.id = some z)
    (hq : (e.ovClosed o).page page = some q) (hf : firstFree q (dbsHome z.psn) ((e.ovClosed o).avoidOf page) = some f) :
    e.complete page = (e.ovClosed o).ovPlace sq z q f := by
  simp only [Eng.complete, ho, hs, hz, hq, hf]

theorem evictRetry_due {e : Eng} {page : Nat} {o : Overflow} {sq : DSeq}
    (ho : (e.overflows.find? fun o => o.page == page && decide (o.st = .retryWait)) = some o) (ht : o.retryAt ≤ e.ts)
    (hs : (e.seqs.find? fun q => q.id == o.id) = some sq) : e.evictRetry page = e.ovAgain sq page := by
  simp only [Eng.evictRetry, ho, if_neg (Nat.not_lt.2 ht), hs]

/-! ## The DBS scan of a sweep (R153) -/

theorem sweepDbs_scans {e : Eng} {caid : Nat} {w : Sweep}
    (hw : (e.sweeps.find? fun w => w.caid == caid && w.sfaDone && w.dbsLeft.isNone) = some w) :
    e.sweepDbs caid = (e.updSweep w.id fun v => { v with dbsLeft := some e.scanPages }).sweepNext w.id := by
  simp only [Eng.sweepDbs, hw]

end Sys2Proof.Machine

section
open Sys2Proof Sys2Proof.Machine Sys2Proof.Machine.Ob

/-- Settles O45: the mask of the tag and the key, applied once, gives the set, and applied again gives back the number's low bits. -/
theorem snoopFilterIndex : Obligations.SnoopFilterIndex := by
  unfold Obligations.SnoopFilterIndex
  intro key psn h
  have tag := sfaTag_lt h
  refine ⟨tag, ?set, sfaSet_lt key tag, ?recovered, fun psn' ht hs => sfaSet_injective key tag ht hs⟩
  case set => rw [sfaSet_eq_xor_mask key tag, sfaMask, ← Nat.xor_assoc, ← Nat.xor_assoc]
  case recovered => rw [← sfaSet_xor_mask key tag, sfaMask, ← Nat.xor_assoc, ← Nat.xor_assoc]

/-- Settles O46: the parts of a number by its tile and the sector's place in the tile; the next sector's place is one above. -/
theorem sectorNumbers : Obligations.SectorNumbers := by
  unfold Obligations.SectorNumbers
  intro e p line hp hi i o
  have tile : e.psn line / 2 ^ 13 = i := psn_div hp
  have high : e.psn line / 2 ^ 13 < 2 ^ 25 := by rw [tile]; exact hi
  exact ⟨tile, psn_mod hp, by omega, fun ho hn => psn_next hp hn ho⟩

/-- Settles O11: each command in the case in which its event occurs. That a KEPT counts as a DECLINE is log entry 55's choice (R150, R151). -/
theorem dbsOperations : Obligations.DbsOperations := by
  unfold Obligations.DbsOperations
  refine fun s hs => ⟨fun slice sp hu => ⟨fun h => ?rewrite, fun h => ?placement, fun h => ?release⟩,
    fun page o q b ho hq hb => ⟨fun hd => ?declines, fun hd => ?starts⟩, fun page st o ho => ⟨fun hst => ?decline, fun hst => ?kept⟩,
    fun page o sq z q f ho hsq hz hq hf => ?complete, fun page o sq ho ht hsq => ?retry, fun caid w hw => ?scan⟩
  case rewrite => exact engine_effect hs (spillStart_oldest hu h)
  case placement => exact engine_effect hs (spillStart_oldest hu h)
  case release => exact engine_effect hs (spillStart_oldest hu h)
  case declines => exact engine_effect hs (evict_declines ho hq hb rfl rfl hd)
  case starts => exact engine_effect hs (evict_starts ho hq hb rfl rfl hd)
  case decline => subst hst; exact engine_effect hs (declined_counted ho)
  case kept => subst hst; exact engine_effect hs (declined_counted ho)
  case complete => exact engine_effect hs (complete_places ho hsq hz hq hf)
  case retry => exact engine_effect hs (evictRetry_due ho ht hsq)
  case scan => exact engine_effect hs (sweepDbs_scans hw)

end

/-! # Reliability: scrubbing, repair, relocation, bank copies and starvation

What SCRUB_STEP, REPEAT_REWRITE, RELOCATE_STICKY, BANK_COPY_DONE and ARB_STARVATION do in each case outside Foghorn (R180, R298 to R300, R302,
R309). -/

namespace Sys2Proof.Machine
open Ob

/-- An operation that reads no word in error has its own effect, even where words are in error (R297). -/
theorem engine_effect_unread {s : State} {g : Eng → Eng} {e : Eng} (hl : s.toChip.live = true) (hg : g s.eng = e)
    (hr : s.eng.readWords e = []) : s.engine g = .next (s.eff e) := by
  subst hg
  have unread : s.eng.reads g = g s.eng := by simp only [Eng.reads, hr]
  rw [engine_reads s g hl, unread]

/-! ## Scrubbing (R298) -/

section Scrub
variable {e : Eng} (hf : e.foghorn = false)
include hf

theorem scrubStep_group : e.scrubStep 0 = e.scrubWord := by simp [Eng.scrubStep, hf]

theorem scrubStep_pages : e.scrubStep 1 = e.scrubPage := by simp [Eng.scrubStep, hf]

/-- The SFA group's pass moves past the next failing word and heals it. -/
theorem scrubStep_heals {b : BitErr} (hb : e.nextErr = some b) :
    e.scrubStep 0 = Eng.healWord { e with ras := { e.ras with scrub := kput 0 (wordKey b + 1) e.ras.scrub } } b := by
  rw [scrubStep_group hf]; simp only [Eng.scrubWord, hb]

theorem scrubStep_endsGroup (hb : e.nextErr = none) : e.scrubStep 0 = e.passEnd 0 := by
  rw [scrubStep_group hf]; simp only [Eng.scrubWord, hb]

end Scrub

/-- A sequence reads a page for the scrubber. -/
def SeqK.isScrub : SeqK → Bool
  | .scrub .. => true
  | _ => false

/-- One page is scrubbed at a time: with no scrub sequence running, the pass is free to read its next page. -/
theorem scrub_idle {e : Eng} (hn : ∀ q ∈ e.seqs, ∀ c p, q.kind ≠ .scrub c p) : ¬(e.seqs.any fun q => q.kind.isScrub) = true := by
  simp only [List.any_eq_true, not_exists, not_and]
  intro q hq hk
  cases hkind : q.kind <;> simp [SeqK.isScrub, hkind] at hk
  case scrub c p => exact hn q hq c p hkind

section ScrubPages
variable {e : Eng} (hf : e.foghorn = false) (hn : ∀ q ∈ e.seqs, ∀ c p, q.kind ≠ .scrub c p)
include hf hn

/-- The pass of the DBS reads the next written page whole, under its lock. -/
theorem scrubStep_reads {p : Nat} (hp : ((ascend (e.dbs.map fun q => q.page)).find? fun p => decide (kget 0 1 e.ras.scrub ≤ p)) = some p) :
    let e1 := { e with ras := { e.ras with scrub := kput 1 (p + 1) e.ras.scrub } }
    e.scrubStep 1 = e1.newSeq (.scrub (pageCh p) p) (pageCh p) 3 (some p) [rds (e1.wholeDbs p)] := by
  rw [scrubStep_pages hf]
  refine (if_neg (scrub_idle hn)).trans ?_
  simp only [hp]

theorem scrubStep_endsPages (hp : ((ascend (e.dbs.map fun q => q.page)).find? fun p => decide (kget 0 1 e.ras.scrub ≤ p)) = none) :
    e.scrubStep 1 = e.passEnd 1 := by
  rw [scrubStep_pages hf]
  refine (if_neg (scrub_idle hn)).trans ?_
  simp only [hp]

end ScrubPages

/-! ## Words corrected again and again (R299) -/

/-- A word's entry of the repeat table is marked as rewritten in this pass, and its count begins again (R299 step 3). -/
def Eng.markRewritten (e : Eng) (store unit word : Nat) (r : Repeat) : Eng :=
  let r' := { r with rewritten := true, count := 0, mark := e.passes store }
  { e with ras := { e.ras with repeats := updFirst (fun (q : Repeat) => q.store == store && q.unit == unit && q.word == word) (fun _ => r') e.ras.repeats } }

/-- A word corrected RAS_REWRITE_AT times is written alone, or, in the DBS, with its page, which is read whole under its lock. -/
theorem repeatRewrite_due {e : Eng} {store unit word : Nat} {r : Repeat} (hf : e.foghorn = false) (hr : e.repeatOf store unit word = some r)
    (hw : r.rewritten = false) (hc : e.ob RAS_REWRITE_AT ≤ r.count) :
    let e1 := e.markRewritten store unit word r
    let p := (word - e.ob DBS_BASE) / 4096
    e.repeatRewrite store unit word =
      if store = 8 then
        if (e.page p).isNone then e1
        else (e1.newSeq (.scrub (pageCh p) p) (pageCh p) 3 (some p) [rds (e1.wholeDbs p)]).updSeq e1.fresh fun s => { s with corr := true }
      else e1.eccWrite store unit word := by
  have due : ¬(r.rewritten = true ∨ r.count < e.ob RAS_REWRITE_AT ∨ e.foghorn = true) := by simp [hw, hc, hf]
  simp only [Eng.repeatRewrite, hr]
  exact if_neg due

/-! ## Sticky words (R300, Table 12.3) -/

section Relocate
variable {e : Eng} {unit store word : Nat} (hs : e.ras.stuck.contains (unit, store, word) = true) (hf : e.foghorn = false)
include hs hf

/-- A sticky word is relocated outside Foghorn. -/
theorem relocate_open : ¬((!e.ras.stuck.contains (unit, store, word)) = true ∨ e.foghorn = true) := by rw [hs, hf]; decide

theorem relocate_sfa {w : SfaWay} (h : store = 0) (hw : e.sfaAt unit word = some w) : e.relocate unit store word = e.relocSfa unit word w := by
  rw [Eng.relocate, if_neg (relocate_open hs hf)]; simp [h, hw]

/-- The context whose word is sticky is withheld. -/
theorem relocate_context {i : Nat} (h : store = 1)
    (hi : (List.range 8192).find? (fun i => ctxWord i 0 == word || ctxWord i 1 == word) = some i) :
    e.relocate unit store word = Eng.relocated { e with wayOff := e.wayOff ++ [(1, unit, 0, i)] } unit store word := by
  rw [Eng.relocate, if_neg (relocate_open hs hf)]; simp [h, hi]

theorem relocate_tag {w : HWay} (h : store = 5) (hw : e.tagAt unit word = some w) :
    e.relocate unit store word = e.relocHdc unit store word w := by
  rw [Eng.relocate, if_neg (relocate_open hs hf)]; simp [h, hw]

theorem relocate_data {w : HWay} {k : Nat} (h : store = 4) (hw : e.dataAt unit word = some (w, k)) :
    e.relocate unit store word = e.relocHdc unit store word w := by
  rw [Eng.relocate, if_neg (relocate_open hs hf)]; simp [h, hw]

/-- A word in which no way lies has no entry to move. -/
theorem relocate_unheld
    (h : (store = 0 ∧ e.sfaAt unit word = none) ∨ (store = 4 ∧ e.dataAt unit word = none) ∨ (store = 5 ∧ e.tagAt unit word = none)) :
    e.relocate unit store word = e.relocated unit store word := by
  rw [Eng.relocate, if_neg (relocate_open hs hf)]
  obtain ⟨h, hw⟩ | ⟨h, hw⟩ | ⟨h, hw⟩ := h
  · simp [h, hw]
  · simp [h, hw]
  · simp [h, hw]

theorem relocate_dbs (h : store = 8) : e.relocate unit store word = e.relocDbs unit word := by
  rw [Eng.relocate, if_neg (relocate_open hs hf)]; simp [h]

section Other
variable (h0 : store ≠ 0) (h1 : store ≠ 1) (h4 : store ≠ 4) (h5 : store ≠ 5) (h8 : store ≠ 8)
include h0 h1 h4 h5 h8

/-- A word of no entry that can be withheld, such as a lease's, is logged and stays in use (log entry 60). -/
theorem relocate_kept (hk : e.offKind store unit word = none) : e.relocate unit store word = e.relocated unit store word := by
  rw [Eng.relocate, if_neg (relocate_open hs hf)]; simp [h0, h1, h4, h5, h8, hk]

theorem relocate_withheld {k : Nat} (hk : e.offKind store unit word = some k) :
    e.relocate unit store word = Eng.relocated { e with wayOff := e.wayOff ++ [(store, unit, k, word)] } unit store word := by
  rw [Eng.relocate, if_neg (relocate_open hs hf)]; simp [h0, h1, h4, h5, h8, hk]

end Other
end Relocate

/-! ## Bank copies (R302) -/

/-- The failing words of the bank are healed, the banks change places, and the old bank's entries leave the sticky tables. -/
theorem bankDone_copied {e : Eng} {c : BankCopy} (hf : e.foghorn = false) (hc : e.ras.bank = some c) :
    let e1 := (e.errs.filter fun b => scrubGroup b.store && bits b.word 23 14 == c.bank).foldl (fun e b => e.healWord b) e
    let e2 := (e1.setBank c.bank 4).setBank c.spare 2
    let e3 := ((e2.set RAS_SPARES_LEFT 0 (e2.ob RAS_SPARES_LEFT - 2 ^ 16)).set RAS_RETIRE_BUSY 0 0).rasEntry 0 5 0 (c.bank * 2 ^ 14) 0 0
    e.bankDone = { e3 with
      wayOff := e3.wayOff.filter (fun w => !offIn c.bank w)
      ras := { e3.ras with bank := none, stuck := e3.ras.stuck.filter (fun (s : Nat × Nat × Nat) => !(scrubGroup s.2.1 && bits s.2.2 23 14 == c.bank)) } } := by
  simp only [Eng.bankDone, hc, hf, Bool.false_eq_true, if_false]

/-! ## Starvation (R180) -/

/-- A starving requester is counted. The bit is set and interrupt 2 raised where the bit is 0, save for the clockwise direction. -/
theorem starvation_starving {e : Eng} {row inst : Nat} (hrow : row < 7) (hinst : inst < 64) (hs : e.starving row inst = true) (cw : Bool) :
    let e1 := e.inc ARB_STARVE_COUNT row
    let f := e1.obj ARB_STARVE_FLAG row
    e.starvation row inst cw = if cw ∨ bit f inst then e1 else (e1.set ARB_STARVE_FLAG row (setBit f inst)).irq 2 :=
  if_neg (by simp [hrow, hinst, hs])

end Sys2Proof.Machine

section
open Sys2Proof Sys2Proof.Machine Sys2Proof.Machine.Ob

/-- Settles O30: each command in the case in which its event occurs. The scrub step that heals a word acts where words are in error, since it reads
none of them but through the scrubber; every other command acts where no word is. -/
theorem scrubRepairAndRelocation : Obligations.ScrubRepairAndRelocation := by
  unfold Obligations.ScrubRepairAndRelocation
  refine ⟨fun s b hl hf hb hr => ?heals, fun s hs => ⟨fun hf => ⟨fun hb => ?endsGroup, fun hn => ⟨fun p hp => ?reads, fun hp => ?endsPages⟩,
    fun store unit word r hr hw hc => ⟨fun h8 => ?word, fun h8 hp => ?unwritten, fun h8 hp => ?page⟩,
    fun unit store word hst => ⟨fun w h hw => ?sfa, fun i h hi => ?context, fun w h hw => ?tag, fun w k h hw => ?data, fun h => ?unheld,
      fun h => ?dbs, fun h0 h1 h4 h5 h8 => ⟨fun hk => ?kept, fun k hk => ?withheld⟩⟩,
    fun c hc => ?bank⟩, fun row inst hrow hinst hst => ⟨?clockwise, fun hb => ?flagged⟩⟩⟩
  case heals => exact engine_effect_unread hl (scrubStep_heals hf hb) hr
  case endsGroup => exact engine_effect hs (scrubStep_endsGroup hf hb)
  case reads => exact engine_effect hs (scrubStep_reads hf hn hp)
  case endsPages => exact engine_effect hs (scrubStep_endsPages hf hn hp)
  case word => exact engine_effect hs ((repeatRewrite_due hf hr hw hc).trans (if_neg h8))
  case unwritten => exact engine_effect hs ((repeatRewrite_due hf hr hw hc).trans ((if_pos h8).trans (if_pos hp)))
  case page => exact engine_effect hs ((repeatRewrite_due hf hr hw hc).trans ((if_pos h8).trans (if_neg (ne_true_of_eq_false hp))))
  case sfa => exact engine_effect hs (relocate_sfa hst hf h hw)
  case context => exact engine_effect hs (relocate_context hst hf h hi)
  case tag => exact engine_effect hs (relocate_tag hst hf h hw)
  case data => exact engine_effect hs (relocate_data hst hf h hw)
  case unheld => exact engine_effect hs (relocate_unheld hst hf h)
  case dbs => exact engine_effect hs (relocate_dbs hst hf h)
  case kept => exact engine_effect hs (relocate_kept hst hf h0 h1 h4 h5 h8 hk)
  case withheld => exact engine_effect hs (relocate_withheld hst hf h0 h1 h4 h5 h8 hk)
  case bank => exact engine_effect hs (bankDone_copied hf hc)
  case clockwise => exact engine_effect hs ((starvation_starving hrow hinst hst true).trans (if_pos (.inl rfl)))
  case flagged => exact engine_effect hs ((starvation_starving hrow hinst hst false).trans (if_neg (by simp [hb])))

end

/-! # The Home Data Cache and the Lease Lock Unit

What the commands of the HDC do outside the arbiter's cycles (R191, R196, R197, R202), and what a lease command, a break and a deadline make
of a lease (R204 to R209, R358). -/

namespace Sys2Proof.Machine
open Ob

/-! ## The Home Data Cache (R191, R196, R197, R202) -/

/-- A line whose idle time has passed leaves H where it can move, and is counted. -/
theorem hIdleExit_moves {e e1 : Eng} {line : Nat} {h : HIdle} (hh : (e.hIdle.find? fun h => h.line == line) = some h)
    (ht : h.since + e.ob ATOM_H_IDLE ≤ e.ts) (hm : e.mirrorsLine line = false) (hv : e.hMove line = (e1, true)) :
    e.hIdleExit line = e1.inc ATOM_H_IDLE_EXITS := by
  simp only [Eng.hIdleExit, hh, hv, hm, Bool.or_false, decide_eq_true_eq, if_neg (Nat.not_lt.2 ht)]

/-- A slice that disables walks on, and clears its ways once it is quiet (log entry 51). -/
theorem hdcFinish_disabling {e : Eng} {slice : Nat} (hs : e.ob HDC_STATUS = 2) (hl : e.hdcLeft.contains slice = true) :
    e.hdcFinish slice = if (e.hdcWalk slice).hdcQuiet slice then (e.hdcWalk slice).hdcClear slice else e.hdcWalk slice :=
  if_neg (by simp only [hs, hl]; decide)

/-- HDC_ENABLE and LEASE_FREE take effect on the coherence side alone. -/
theorem applyWr_hdcOrLease {i : Nat} (hi : i ∈ [HDC_ENABLE, LEASE_FREE]) (c : Chip) (v : Nat) :
    c.applyWr ⟨i, 0, v⟩ = c.e fun e => e.applyValue ⟨i, 0, v⟩ := by
  simp only [List.mem_cons, List.not_mem_nil, or_false] at hi
  rcases hi with rfl | rfl <;> simp +decide only [Chip.applyWr, if_false]

theorem applyWr_hdcDisable (c : Chip) : c.applyWr ⟨HDC_ENABLE, 0, 0⟩ = c.e Eng.hdcDisable := by
  have off : (OWr.mk HDC_ENABLE 0 0).v = 0 := by decide
  rw [applyWr_hdcOrLease (by decide)]
  simp +decide only [Eng.applyValue, off, if_true, if_false]

theorem applyWr_hdcEnable (c : Chip) : c.applyWr ⟨HDC_ENABLE, 0, 1⟩ = c.e Eng.hdcEnable := by
  have on : (OWr.mk HDC_ENABLE 0 1).v = 1 := by decide
  rw [applyWr_hdcOrLease (by decide)]
  simp +decide only [Eng.applyValue, on, if_true, if_false]

theorem startWr_hdcPreload (c : Chip) (w : World) (v : Nat) : c.startWr w ⟨HDC_PRELOAD, 0, v⟩ = c.e fun e => e.hdcPreload v := by
  simp +decide only [Chip.startWr, Eng.applyCommand, if_true, if_false]

theorem startWr_hdcUnlockAll (c : Chip) (w : World) : c.startWr w ⟨HDC_UNLOCK_ALL, 0, 1⟩ = c.e Eng.hdcUnlock := by
  simp +decide only [Chip.startWr, Eng.applyCommand, if_true, if_false]

/-! ## What counters and a stored lease change (R206, R268) -/

@[simp] theorem lease_inc (e : Eng) (idx el l : Nat) : (e.inc idx el).lease l = e.lease l := rfl
@[simp] theorem ts_inc (e : Eng) (idx el : Nat) : (e.inc idx el).ts = e.ts := rfl

/-- Counting an acquisition mirrors no lease. -/
theorem leaseMirrored_inc (e : Eng) : (e.inc LEASE_ACQUIRES).leaseMirrored = e.leaseMirrored := by
  have other {i : Nat} (hi : i ≠ LEASE_ACQUIRES) : (e.inc LEASE_ACQUIRES).ob i = e.ob i := ob_inc_ne e _ 0 i (by decide) hi
  have config : (e.inc LEASE_ACQUIRES).isH32 = e.isH32 := rfl
  rw [Eng.leaseMirrored, Eng.mirOn, config, other (by decide), other (by decide), other (by decide)]
  rfl

/-- Without a mirror, storing a lease emits no delta. -/
theorem putLease_unmirrored {e : Eng} (hm : e.leaseMirrored = false) (l : Nat) (x : Lease) (brk acq : Bool) :
    e.putLease l x brk acq = ({ e with leases := kput l x e.leases }, none) :=
  if_neg (by rw [show Eng.leaseMirrored { e with leases := kput l x e.leases } = e.leaseMirrored from rfl, hm]; decide)

/-- Storing a lease changes the leases, and otherwise only what its delta needs. -/
theorem putLease_eq (e : Eng) (l : Nat) (x : Lease) (brk acq : Bool) :
    ∃ a n m, (e.putLease l x brk acq).1 = { e with leases := kput l x e.leases, arbs := a, fresh := n, mrecs := m } := by
  simp only [Eng.putLease]
  split
  · obtain ⟨a, ha⟩ := galSend_eq { e with leases := kput l x e.leases } .delta 7 44 40
    exact ⟨a, _, _, by rw [ha]⟩
  · exact ⟨_, _, _, rfl⟩

theorem lease_putLease_same (e : Eng) (l : Nat) (x : Lease) (brk acq : Bool) : (e.putLease l x brk acq).1.lease l = x := by
  obtain ⟨a, n, m, h⟩ := putLease_eq e l x brk acq
  rw [h]; exact kget_kput_same ..

theorem lease_putLease_ne (e : Eng) {l k : Nat} (hk : k ≠ l) (x : Lease) (brk acq : Bool) : (e.putLease l x brk acq).1.lease k = e.lease k := by
  obtain ⟨a, n, m, h⟩ := putLease_eq e l x brk acq
  rw [h]; exact kget_kput_ne _ _ _ _ _ hk

@[simp] theorem ob_putLease (e : Eng) (l : Nat) (x : Lease) (brk acq : Bool) (i : Nat) : (e.putLease l x brk acq).1.ob i = e.ob i := by
  obtain ⟨a, n, m, h⟩ := putLease_eq e l x brk acq
  rw [h]; rfl

/-! ## Table 08.6: what a command makes of a lease (R205, R206) -/

/-- A lease as CAID c takes it: Held until the operand's term has passed. -/
def Eng.leaseTaken (e : Eng) (x : Lease) (c operand g since : Nat) : Lease :=
  { st := .held, owner := c, cause := x.cause, gen := g, term := e.leaseTerm operand, deadline := e.ts + e.leaseTerm operand * 1000, since := since }

section LeaseStep
variable {e : Eng} {cmd : LeaseCmd} {c operand : Nat} {x : Lease}

theorem leaseStep_query : e.leaseStep .query c operand x = (6, x, false, false) := rfl

theorem leaseStep_acquire_free (h : x.st = .free) :
    e.leaseStep .acquire c operand x = (0, e.leaseTaken x c operand ((x.gen + 1) % 2 ^ 32) e.ts, true, true) := by
  simp [Eng.leaseStep, Eng.leaseHeld, Eng.leaseTaken, h]

theorem leaseStep_acquire_broken (h : x.st = .broken) :
    e.leaseStep .acquire c operand x = (1, e.leaseTaken x c operand ((x.gen + 1) % 2 ^ 32) e.ts, true, true) := by
  simp [Eng.leaseStep, Eng.leaseHeld, Eng.leaseTaken, h]

/-- Acquiring or renewing the own lease keeps its gen, and the time it was taken. -/
theorem leaseStep_own (hc : cmd = .acquire ∨ cmd = .renew) (h : x.st = .held) (ho : x.owner = c) :
    e.leaseStep cmd c operand x = (4, e.leaseTaken x c operand x.gen x.since, true, false) := by
  rcases hc with rfl | rfl <;> simp [Eng.leaseStep, Eng.leaseHeld, Eng.leaseTaken, h, ho]

theorem leaseStep_acquire_other (h : x.st = .held) (ho : x.owner ≠ c) : e.leaseStep .acquire c operand x = (2, x, false, false) := by
  simp [Eng.leaseStep, h, ho]

theorem leaseStep_release_own (h : x.st = .held) (ho : x.owner = c) :
    e.leaseStep .release c operand x = (5, { x with st := .free, owner := 0, since := e.ts }, true, false) := by
  simp [Eng.leaseStep, h, ho]

/-- A lease that the CAID does not hold is neither renewed nor released. -/
theorem leaseStep_notOwn (hc : cmd = .renew ∨ cmd = .release) (hn : x.st ≠ .held ∨ x.owner ≠ c) :
    e.leaseStep cmd c operand x = (3, x, false, false) := by
  cases hst : x.st with
  | held =>
    have ho : x.owner ≠ c := hn.resolve_left (not_not_intro hst)
    rcases hc with rfl | rfl <;> simp [Eng.leaseStep, hst, ho]
  | free => rcases hc with rfl | rfl <;> simp [Eng.leaseStep, hst]
  | broken => rcases hc with rfl | rfl <;> simp [Eng.leaseStep, hst]

end LeaseStep

/-! ## How a command is applied and answered (R204, R206, R208) -/

section LeaseApply
variable {e : Eng} {cmd : LeaseCmd} {q : LeaseReq} {l out : Nat} {y : Lease}

theorem leaseApply_unchanged (h : e.leaseStep cmd q.req.caid (getInt q.req.data 0 8) (e.lease l) = (out, y, false, false)) :
    e.leaseApply cmd q l = e.leaseAnswer q 0 (leaseResult out y) := by
  simp [Eng.leaseApply, h]

variable (hm : e.leaseMirrored = false)
include hm

theorem leaseApply_changed (h : e.leaseStep cmd q.req.caid (getInt q.req.data 0 8) (e.lease l) = (out, y, true, false)) :
    e.leaseApply cmd q l = Eng.leaseAnswer { e with leases := kput l y e.leases } q 0 (leaseResult out y) := by
  simp [Eng.leaseApply, h, putLease_unmirrored hm]

theorem leaseApply_acquired (h : e.leaseStep cmd q.req.caid (getInt q.req.data 0 8) (e.lease l) = (out, y, true, true)) :
    e.leaseApply cmd q l =
      Eng.leaseAnswer { (e.inc LEASE_ACQUIRES) with leases := kput l y e.leases } q 0 (leaseResult out y) := by
  have unmirrored : (e.inc LEASE_ACQUIRES).leaseMirrored = false := (leaseMirrored_inc e).trans hm
  simp only [Eng.leaseApply, h, if_true, putLease_unmirrored unmirrored]
  rfl

end LeaseApply

/-- The commands of the Lease Lock Unit, and the lease command that each takes. -/
def leaseCmds : List (Instr × LeaseCmd) :=
  [(.leaseAcquire, .acquire), (.leaseRenew, .renew), (.leaseRelease, .release), (.leaseQuery, .query)]

theorem exec_leaseCmd {i : Instr} {cmd : LeaseCmd} (hi : (i, cmd) ∈ leaseCmds) (s : State) : exec i s = s.engine fun e => e.leaseCmd cmd := by
  simp only [leaseCmds, List.mem_cons, List.not_mem_nil, or_false, Prod.mk.injEq] at hi
  obtain ⟨rfl, rfl⟩ | ⟨rfl, rfl⟩ | ⟨rfl, rfl⟩ | ⟨rfl, rfl⟩ := hi
  all_goals rfl

section LeaseCmd
variable {e : Eng} {q : LeaseReq} (hq : e.leaseHead = some q) (hf : e.breaksNear.foghorn = false) (ha : e.breaksNear.leaseAway = false)
include hq hf ha

/-- The oldest command of a CAID that may use the lease is applied to it. -/
theorem leaseCmd_applied {cmd : LeaseCmd} (hc : q.req.leaseCmd = cmd)
    (hm : e.breaksNear.mayLease q.req.caid (q.req.line - e.breaksNear.ob LEASE_BASE / 64) = true) :
    e.leaseCmd cmd = e.breaksNear.leaseApply cmd q (q.req.line - e.breaksNear.ob LEASE_BASE / 64) := by
  simp [Eng.leaseCmd, Eng.leaseServe, hq, hc, hf, ha, hm]

/-- One of any other CAID is counted and answered UR. -/
theorem leaseCmd_refused (hm : e.breaksNear.mayLease q.req.caid (q.req.line - e.breaksNear.ob LEASE_BASE / 64) = false) :
    e.leaseCmd q.req.leaseCmd = (e.breaksNear.inc LEASE_REFUSED).leaseAnswer q 1 0 := by
  simp [Eng.leaseCmd, Eng.leaseServe, hq, hf, ha, hm]

end LeaseCmd

/-! ## Breaks and deadlines (R206 to R209, R358) -/

/-- A break is counted, and so is an expiry, which has cause 1 (Table 08.7). -/
def Eng.breakCounted (e : Eng) (cause : Nat) : Eng :=
  if cause = 1 then (e.inc LEASE_BROKEN).inc LEASE_EXPIRED else e.inc LEASE_BROKEN

@[simp] theorem lease_breakCounted (e : Eng) (cause k : Nat) : (e.breakCounted cause).lease k = e.lease k := by
  rw [Eng.breakCounted]; split <;> rfl

theorem broken_breakCounted (e : Eng) (cause : Nat) : (e.breakCounted cause).ob LEASE_BROKEN = (e.inc LEASE_BROKEN).ob LEASE_BROKEN := by
  rw [Eng.breakCounted]
  split
  · exact ob_inc_ne _ _ 0 _ (by decide) (by decide)
  · rfl

theorem expired_breakCounted (e : Eng) (cause : Nat) :
    (e.breakCounted cause).ob LEASE_EXPIRED = if cause = 1 then (e.inc LEASE_EXPIRED).ob LEASE_EXPIRED else e.ob LEASE_EXPIRED := by
  have unbroken : (e.inc LEASE_BROKEN).ob LEASE_EXPIRED = e.ob LEASE_EXPIRED := ob_inc_ne _ _ 0 _ (by decide) (by decide)
  rw [Eng.breakCounted]
  split
  · exact (obj_addObj_same ..).trans ((congrArg (fun n => (n + 1) % 2 ^ 64) unbroken).trans (obj_addObj_same ..).symm)
  · exact unbroken

/-- A Held lease breaks: it is stored Broken, without an owner, after its counts. -/
theorem breakLease_held {e : Eng} {l : Nat} (h : (e.lease l).st = .held) (cause : Nat) :
    e.breakLease l cause =
      ((e.breakCounted cause).putLease l { e.lease l with st := .broken, owner := 0, cause := cause, since := e.ts } true false).1 := by
  rw [Eng.breakLease, if_neg (not_not_intro h), Eng.breakCounted]
  split <;> rfl

theorem leaseExpiry_due {e : Eng} {l : Nat} (h : (e.lease l).st = .held) (hd : (e.lease l).deadline ≤ e.ts) (hb : e.brace = false)
    (hf : e.foghorn = false) (ha : e.leaseAway = false) : e.leaseExpiry l = e.breakLease l 1 :=
  if_pos (by simp [h, hd, hb, hf, ha])

section BreakTrigger
variable {e : Eng} {b : BreakMsg} {rest : List BreakMsg} (hf : e.foghorn = false) (hb : e.breaks = b :: rest) (h0 : b.after = 0)
include hf hb h0

/-- A message that names a lease breaks it. -/
theorem breakTrigger_lease {l : Nat} (hl : b.lease = some l) (hc : b.caid = none) :
    e.breakTrigger = Eng.breakLease { e with breaks := rest } l b.cause := by
  simp [Eng.breakTrigger, hb, h0, hf, hl, hc]

/-- A message that names a CAID breaks every lease that it holds. -/
theorem breakTrigger_caid {c : Nat} (hl : b.lease = none) (hc : b.caid = some c) :
    e.breakTrigger =
      (e.leases.filter fun p => p.2.st == .held && p.2.owner == c).foldl (fun e p => e.breakLease p.1 b.cause) { e with breaks := rest } := by
  simp [Eng.breakTrigger, hb, h0, hf, hl, hc]

end BreakTrigger

theorem startWr_leaseBreak (c : Chip) (w : World) (l : Nat) : c.startWr w ⟨LEASE_BREAK, 0, l⟩ = c.e fun e => e.sendBreak (some l) none 6 := by
  simp +decide only [Chip.startWr, Eng.applyCommand, if_true, if_false]

theorem startWr_leaseBreakCaid (c : Chip) (w : World) (caid : Nat) :
    c.startWr w ⟨LEASE_BREAK_CAID, 0, caid⟩ = c.e fun e => e.sendBreak none (some caid) 6 := by
  simp +decide only [Chip.startWr, Eng.applyCommand, Eng.breakCaid, if_true, if_false]

theorem applyWr_leaseFree (c : Chip) (l : Nat) :
    c.applyWr ⟨LEASE_FREE, 0, l⟩ = c.e fun e => (e.set LEASE_FREE 0 (l &&& 0xFFFF)).leaseFree (l &&& 0xFFFF) := by
  have mask : objMask LEASE_FREE 0 = 0xFFFF := by decide
  rw [applyWr_hdcOrLease (by decide)]
  simp +decide only [Eng.applyValue, OWr.v, mask, if_true, if_false]

end Sys2Proof.Machine

section
open Sys2Proof Sys2Proof.Machine Sys2Proof.Machine.Ob

/-- Settles O12: a line by whether its idle time has passed, a slice by whether it is quiet, each commit by the value or the command that it
is. What a pass of the walk takes is log entry 51's (R196), the pace of a preload log entry 21's and the end of one that a disable stops log
entry 55's (R191). -/
theorem hdcCommands : Obligations.HdcCommands := by
  unfold Obligations.HdcCommands
  refine ⟨fun s line h e1 hs hh ht hm hv => ?idle, fun s slice hs hst hl => ⟨fun hb => ?walks, fun hq => ?clears⟩,
    fun s w => ⟨fun h => ?disable, fun h => ?enable, fun h => ?unlock, fun v h => ?preload⟩⟩
  case idle => exact engine_effect hs (hIdleExit_moves hh ht hm hv)
  case walks => exact engine_effect hs ((hdcFinish_disabling hst hl).trans (if_neg (ne_true_of_eq_false hb)))
  case clears => exact engine_effect hs ((hdcFinish_disabling hst hl).trans (if_pos hq))
  case disable => exact commit_value (by decide) applyWr_hdcDisable h
  case enable => exact commit_value (by decide) applyWr_hdcEnable h
  case unlock => exact commit_starts (by decide) (fun c => startWr_hdcUnlockAll c w) h
  case preload => exact commit_starts (by decide) (fun c => startWr_hdcPreload c w v) h

/-- Settles O13: each command by the row of Table 08.6 that it and the lease's state have. -/
theorem leaseCommands : Obligations.LeaseCommands := by
  unfold Obligations.LeaseCommands
  intro s q hs hq e l c x t take answer same hf ha
  refine ⟨fun hm i hi => ?refused, fun hm hmir => ?taken⟩
  case refused => exact (exec_leaseCmd hi s).trans (engine_effect hs (leaseCmd_refused hq hf ha hm))
  have applied {cmd : LeaseCmd} {e1 : Eng} (hc : q.req.leaseCmd = cmd) (h1 : e.leaseApply cmd q l = e1) :
      (s.engine fun e => e.leaseCmd cmd) = .next (s.eff e1) :=
    engine_effect hs ((leaseCmd_applied hq hf ha hc hm).trans h1)
  refine ⟨fun hc => ⟨fun h => ?acquireFree, fun h => ?acquireBroken, fun h ho => ?acquireOwn, fun h ho => ?acquireOther⟩,
    fun hc => ⟨fun h ho => ?renewOwn, fun hn => ?renewOther⟩, fun hc => ⟨fun h ho => ?releaseOwn, fun hn => ?releaseOther⟩, fun hc => ?query⟩
  case acquireFree => exact applied hc (leaseApply_acquired hmir (leaseStep_acquire_free h))
  case acquireBroken => exact applied hc (leaseApply_acquired hmir (leaseStep_acquire_broken h))
  case acquireOwn => exact applied hc (leaseApply_changed hmir (leaseStep_own (.inl rfl) h ho))
  case acquireOther => exact applied hc (leaseApply_unchanged (leaseStep_acquire_other h ho))
  case renewOwn => exact applied hc (leaseApply_changed hmir (leaseStep_own (.inr rfl) h ho))
  case renewOther => exact applied hc (leaseApply_unchanged (leaseStep_notOwn (.inl rfl) hn))
  case releaseOwn => exact applied hc (leaseApply_changed hmir (leaseStep_release_own h ho))
  case releaseOther => exact applied hc (leaseApply_unchanged (leaseStep_notOwn (.inr rfl) hn))
  case query => exact applied hc (leaseApply_unchanged leaseStep_query)

/-- Settles O14: a deadline and a break message in the case in which each breaks a lease, a broken lease by how it is stored, each commit by
the value or the command that it is. -/
theorem leaseBreaks : Obligations.LeaseBreaks := by
  unfold Obligations.LeaseBreaks
  refine ⟨fun s l hs h hd hb hf ha => ?expires, fun s b rest hs hf hb h0 => ⟨fun l hl hc => ?lease, fun c hl hc => ?caid⟩,
    fun e l cause h => ?broken, fun s w => ⟨fun l h => ?breakOne, fun caid h => ?breakCaid, fun l h => ?free⟩⟩
  case expires => exact engine_effect hs (leaseExpiry_due h hd hb hf ha)
  case lease => exact engine_effect hs (breakTrigger_lease hf hb h0 hl hc)
  case caid => exact engine_effect hs (breakTrigger_caid hf hb h0 hl hc)
  case broken =>
    rw [breakLease_held h]
    refine ⟨lease_putLease_same .., fun k hk => ?_, ?_, ?_⟩
    · rw [lease_putLease_ne _ hk, lease_breakCounted]
    · rw [ob_putLease, broken_breakCounted]
    · rw [ob_putLease, expired_breakCounted]
  case breakOne => exact commit_starts (by decide) (fun c => startWr_leaseBreak c w l) h
  case breakCaid => exact commit_starts (by decide) (fun c => startWr_leaseBreakCaid c w caid) h
  case free => exact commit_value (by decide) (fun c => applyWr_leaseFree c l) h

end

/-! # Placement: Drift, heat, re-mooring, bucket handoff and the spare slice

What the commands of placement do: the channels of a Drift (R218 to R221), heat passes (R215, R216), the parts of O, N and the manager in a
re-mooring (R222 to R226, R228, R287 to R289), and the moves of buckets and slices (R229 to R231, R360). -/

namespace Sys2Proof.Machine
open Ob

/-- While the block works, a new hierarchy message leaves the fabric side as its type's effect on the arrived one says (R287). -/
theorem message_effect {s : State} {h : Hdr} {typ : Nat} {act : Fab → Fab} {f : Fab} (hw : s.toChip.works = true)
    (hn : s.toChip.fab.isNew h = true) (ha : act (s.toChip.fab.arrived h) = f) : (s.fabric fun f => f.hin h typ act) = .next (s.effFab f) :=
  fabric_effect hw ((hin_new _ h typ act hn).trans ha)

/-! ## Commits of placement objects (R358) -/

theorem startWr_driftStart (c : Chip) (w : World) (v : Nat) : c.startWr w ⟨DRIFT_START, 0, v⟩ = c.e fun e => e.driftStart v := by
  simp +decide only [Chip.startWr, Eng.applyCommand, if_true, if_false]

theorem startWr_driftAbort (c : Chip) (w : World) (ch : Nat) : c.startWr w ⟨DRIFT_ABORT, 0, ch⟩ = c.e fun e => e.driftAbort ch := by
  simp +decide only [Chip.startWr, Eng.applyCommand, if_true, if_false]

theorem startWr_remoorRequest (c : Chip) (w : World) (v : Nat) : c.startWr w ⟨REMOOR_REQUEST, 0, v⟩ = c.e fun e => e.remoorRequest v := by
  simp +decide only [Chip.startWr, Eng.applyCommand, if_true, if_false]

theorem startWr_spareSwap (c : Chip) (w : World) (k : Nat) : c.startWr w ⟨SPARE_SWAP, 0, k⟩ = c.e fun e => e.spareSwap k := by
  simp +decide only [Chip.startWr, Eng.applyCommand, if_true, if_false]

/-- The fields of BUCKET_MOVE are the bucket and the slice that takes it (R229). -/
theorem startWr_bucketMove (c : Chip) (w : World) {b t : Nat} (hb : b < 256) (ht : t < 32) :
    c.startWr w ⟨BUCKET_MOVE, 0, b + t * 2 ^ 8⟩ = c.e fun e => e.bucketMove b t := by
  have hbucket : bits (b + t * 2 ^ 8) 7 0 = b := by simp only [bits]; omega
  have hslice : bits (b + t * 2 ^ 8) 12 8 = t := by simp only [bits]; omega
  simp +decide only [Chip.startWr, Eng.applyCommand, hbucket, hslice, if_true, if_false]

theorem applyWr_slicePark (c : Chip) (v : Nat) : c.applyWr ⟨SLICE_PARK, 0, v⟩ = c.e fun e => e.slicePark (OWr.mk SLICE_PARK 0 v).v := by
  have noDrain : isDrain SLICE_PARK 0 = false := by decide
  simp +decide only [Chip.applyWr, Eng.applyValue, noDrain, if_true, if_false]

/-! ## Drift (R218 to R221) -/

/-- The Drift that DRIFT_START of a value starts on a channel: the tile from its entry's place to the value's. -/
def Eng.newDrift (e : Eng) (v ch : Nat) : Chan :=
  { ch := ch, phase := .copy, tile := bits v 24 0, sdev := (e.tent (bits v 24 0)).dev, sframe := (e.tent (bits v 24 0)).dpa,
    ddev := bits v 39 32, dframe := bits v 70 40, cursor := 0, next := 0, reports := [], aborted := false, last := none, wait := none }

theorem driftStart_claims {e : Eng} {v ch : Nat} (hf : (List.range 16).find? e.chanFree = some ch) :
    e.driftStart v = Eng.tileWrite { e with chans := e.chans ++ [e.newDrift v ch] } [{ i := bits v 24 0, what := .mark, ent := tent0 }] := by
  simp only [Eng.driftStart, hf, Eng.newDrift]

section Channel
variable {e : Eng} {ch : Nat} {c : Chan} (hc : e.chans.find? (fun c => c.ch == ch) = some c)
include hc

theorem driftCopy_issues {l : Nat} (hm : e.driftMay c = true) (hl : e.tileLine c.tile c.next = some l) :
    e.driftCopy ch = Eng.sendInt
      { e with chans := updFirst (fun (d : Chan) => d.ch == ch) (fun d => { d with next := d.next + 1, last := some e.ts }) e.chans }
      (.drift ch) 3 ch l := by
  simp only [Eng.driftCopy, hc, hm, hl, Bool.not_true, Bool.false_eq_true, if_false]

theorem driftFlip_copied (hp : c.phase = .copy) (hk : 32768 ≤ c.cursor) (ho : e.driftOpen ch = 0) :
    e.driftFlip ch = Eng.tileWrite { e with chans := updFirst (fun (d : Chan) => d.ch == ch) (fun d => { d with phase := .flip }) e.chans }
      [{ i := c.tile, what := .flip, ent := { tent0 with dev := c.ddev, dpa := c.dframe } }] := by
  have due : ¬(c.phase ≠ .copy ∨ c.cursor < 32768 ∨ e.driftOpen ch ≠ 0) := by simp [hp, ho, hk]
  simp only [Eng.driftFlip, hc, if_neg due]

end Channel

/-- A report that a draining channel waits for is taken off its list, and the last one ends the Drift. -/
theorem driftReport_awaited {e : Eng} {ch slice : Nat} {c : Chan} (hc : (e.driftDrain ch).chans.find? (fun c => c.ch == ch) = some c)
    (hp : c.phase = .drain) (hr : c.reports.contains slice = true) (hd : (e.driftDrain ch).driftClear slice c.tile = true) :
    e.driftReport ch slice =
      if (dropNat slice c.reports).isEmpty then (e.driftDrain ch).driftEnd c
      else { e.driftDrain ch with
        chans := updFirst (fun (d : Chan) => d.ch == ch) (fun d => { d with reports := dropNat slice c.reports }) (e.driftDrain ch).chans } := by
  have awaited : ¬(c.phase ≠ .drain ∨ (!c.reports.contains slice) = true ∨ (!(e.driftDrain ch).driftClear slice c.tile) = true) := by
    simp [hp, hd, List.contains_iff_mem.1 hr]
  simp only [Eng.driftReport, hc, if_neg awaited]

/-! ## Heat (R215, R216) -/

/-- A due pass sets the next one's time; it starts, or waits and is counted where one runs. -/
theorem heatStart_due {e : Eng} (ht : e.heatDue ≤ e.ts) (hf : e.foghorn = false) :
    let e1 := { e with heatDue := e.heatDue + e.ob HEAT_SCAN_PERIOD * 1000000 }
    e.heatStart = if e.heatLeft.isSome then Eng.inc { e1 with heatWait := true } HEAT_PASS_OVERRUNS else e1.heatBegin.heatIssue :=
  if_neg (by simp [hf, ht])

theorem heatTake_oldest {e : Eng} {i d : Nat} {t : List (Nat × Nat)} (hm : e.heatMsgs = (i, d) :: t) :
    e.heatTake = Eng.heatArrive { e with heatMsgs := t } i d := by
  simp only [Eng.heatTake, hm]

/-! ## PREPARE at O and N (R222, R223) -/

/-- The entries of the unit among those that arrive, as N writes them. -/
def Eng.arrivingTiles (e : Eng) (u : Nat) (ts : List (Nat × Tent)) : List TileWr :=
  (ts.filter fun t => decide (u * 512 ≤ t.1) && decide (t.1 < u * 512 + 512)).map
    fun t => { i := t.1, what := .raw, ent := { t.2 with drift := false, heat := 0, pool := (e.unitPool u).getD 0 } }

section Prepare
variable {e : Eng} {u o n mgr : Nat} {re : Option Nat} {k : Nat} (hm : mgr ≠ e.ob HIER_NODE_ID)
include hm

theorem prepare_owner {tiles : Option (List (Nat × Tent))} (ho : e.ob HIER_NODE_ID = o) (hp : e.prepareO u = none) :
    e.prepare u o n mgr tiles re =
      (Eng.remoorStep { e with remoor := { remoor0 with role := .releasing, unit := u, peer := n, out := e.tilesOut u } } 1).hsend
        0x11 mgr 0 none none re := by
  simp only [Eng.prepare, if_pos ho, hp, if_neg hm]

theorem prepare_owner_refused {tiles : Option (List (Nat × Tent))} (ho : e.ob HIER_NODE_ID = o) (hp : e.prepareO u = some k) :
    e.prepare u o n mgr tiles re = e.hsend 0x12 mgr k none none re := by
  simp only [Eng.prepare, if_pos ho, hp, if_neg hm]

variable (ho : e.ob HIER_NODE_ID ≠ o) (hn : e.ob HIER_NODE_ID = n)
include ho hn

theorem prepare_target_refused {tiles : Option (List (Nat × Tent))} (hp : e.prepareN u = some k) :
    e.prepare u o n mgr tiles re = e.hsend 0x12 mgr k none none re := by
  simp only [Eng.prepare, if_neg ho, if_pos hn, hp, if_neg hm]

theorem prepare_target {ts : List (Nat × Tent)} (hp : e.prepareN u = none) :
    e.prepare u o n mgr (some ts) re =
      ((Eng.remoorStep { e with remoor := { remoor0 with
          role := .receiving, unit := u, peer := o, wrote := (e.arrivingTiles u ts).map fun w => w.i } } 1).tileWrite (e.arrivingTiles u ts)).hsend
        0x11 mgr 0 none none re := by
  simp only [Eng.prepare, if_neg ho, if_pos hn, hp, if_neg hm, Option.isNone_some, Bool.false_eq_true, if_false, Option.getD_some,
    Eng.arrivingTiles]

end Prepare

/-! ## The steps of a re-mooring at O and N (R224, R226, R228) -/

theorem start_prepared {e : Eng} {u : Nat} (hr : e.remoor.role = .releasing) (hu : e.remoor.unit = u) (hs : e.remoor.step = 1) :
    e.start u = Eng.remoorStep
      { e with remoor := { e.remoor with
          cursors := e.sliceList.map fun k => (k, e.unitSector u), timer := some (e.ts + e.ob REMOOR_XFER_MAX * 1000) } } 2 :=
  if_pos ⟨hr, hu, hs⟩

theorem flip_receiving {e : Eng} {u mgr : Nat} {re : Option Nat} (hr : e.remoor.role = .receiving) (hu : e.remoor.unit = u)
    (hm : mgr ≠ (Eng.remoorStep { e with moor := insertNat u e.moor } 3).ob HIER_NODE_ID) :
    e.flip u mgr re = (Eng.remoorStep { e with moor := insertNat u e.moor } 3).hsend 0x18 mgr u none none re := by
  simp only [Eng.flip, hr, hu, and_self, if_true, if_neg hm]

section Abort
variable {e : Eng} {u : Nat} (hu : e.remoor.unit = u) (hs : e.remoor.step = 1)
include hu hs

theorem remoorAbort_releasing (hr : e.remoor.role = .releasing) : e.remoorAbort u = { e with remoor := remoor0 } := by
  simp [Eng.remoorAbort, hu, hs, hr]

theorem remoorAbort_receiving (hr : e.remoor.role = .receiving) :
    e.remoorAbort u = Eng.tileWrite { e with remoor := remoor0 } (e.remoor.wrote.map fun i => { i := i, what := .raw, ent := tent0 }) := by
  simp [Eng.remoorAbort, hu, hs, hr]

end Abort

/-! ## The manager of a re-mooring (R222, R223, R228, R289) -/

/-- What is asked of a node is a re-mooring in step 1 that waits for it as O or as N. -/
theorem asked_waits {e : Eng} {node : Nat} {m : RemoorMgr} (ha : e.asked node = some m) :
    m.step = 1 ∧ ((m.o = node ∧ m.preparedO = false) ∨ (m.n = node ∧ m.preparedN = false)) := by
  simpa using List.find?_some ha

/-- A re-mooring with a node's PREPARED recorded. -/
def RemoorMgr.preparedBy (m : RemoorMgr) (node : Nat) : RemoorMgr :=
  { m with preparedO := m.preparedO || node == m.o, preparedN := m.preparedN || node == m.n }

/-- Step 2 of a re-mooring, which ends an earlier one of its unit and gives START to O. -/
def Eng.mgrStart (e : Eng) (m m' : RemoorMgr) : Eng :=
  let e1 := e.putMgr m 2 ({ m' with step := 2 } :: e.rmgr.filter fun (r : RemoorMgr) => r.unit != m.unit)
  if m.o = e1.ob HIER_NODE_ID then e1.start m.unit else e1.hsend 0x13 m.o m.unit none none none

section Prepared
variable {e : Eng} {node : Nat} {m : RemoorMgr} (ha : e.asked node = some m)
include ha

theorem prepared_first (hb : ¬((m.preparedBy node).preparedO = true ∧ (m.preparedBy node).preparedN = true)) :
    e.prepared node = { e with rmgr := updFirst (fun r => r == m) (fun _ => m.preparedBy node) e.rmgr } := by
  simp only [Eng.prepared, ha]
  exact if_neg hb

theorem prepared_second (hb : (m.preparedBy node).preparedO = true ∧ (m.preparedBy node).preparedN = true) :
    e.prepared node = e.mgrStart m (m.preparedBy node) := by
  simp only [Eng.prepared, ha]
  exact if_pos hb

end Prepared

section Manager
variable {f : Fab} {h : Hdr} {m : RemoorMgr} (hn : f.isNew h = true) (ha : (f.arrived h).eng.asked h.src = some m)
include hn ha

/-- PREPARED from a node that is asked ends the wait for it and is recorded. -/
theorem fab_prepared_asked :
    f.prepared h = ((f.arrived h).answered fun x => x.prepares m.unit (some h.src)).e fun e => e.prepared h.src := by
  rw [Fab.prepared, hin_new f h _ _ hn, ha]

/-- REFUSE from a node that is asked ends the waits for both and aborts. -/
theorem fab_refuse_asked : f.refuse h = ((f.arrived h).answered fun x => x.prepares m.unit none).e fun e => e.mgrAbort m := by
  rw [Fab.refuse, hin_new f h _ _ hn, ha]

end Manager

section ManagerStep
variable {e : Eng} {u : Nat} {m : RemoorMgr}

theorem transferDone_flips (hm : e.mgrAt u 2 = some m) :
    e.transferDone u =
      if m.n = (e.mgrStep m 3).ob HIER_NODE_ID then (e.mgrStep m 3).flip u m.n none else (e.mgrStep m 3).hsend 0x17 m.n u none none none := by
  simp only [Eng.transferDone, hm]

theorem flipped_changesMap (hm : e.mgrAt u 3 = some m) :
    e.flipped u = Eng.mapChange (e.mgrStep m 4) u (e.mapEntry u - bits (e.mapEntry u) 7 0 + m.n) := by
  simp only [Eng.flipped, hm]

theorem drainDone_ends (hm : e.mgrAt u 4 = some m) : e.drainDone u = e.mgrEnd m := by
  simp only [Eng.drainDone, hm]

end ManagerStep

/-! ## Requests, transfer operations and timers of a re-mooring (R222 to R225, R228) -/

/-- The re-mooring that REMOOR_REQUEST of a value records at the manager. -/
def Eng.newRemoor (e : Eng) (v : Nat) : RemoorMgr :=
  { unit := bits v 15 0, o := bits (e.mapEntry (bits v 15 0)) 7 0, n := bits v 23 16, preparedO := false, preparedN := false, step := 1,
    ends := e.ts + e.ob REMOOR_PREPARE_MAX * 1000 }

/-- PREPARE of a re-mooring goes to a node. -/
def Eng.askNode (e : Eng) (m : RemoorMgr) (d : Nat) : Eng := e.hsend 0x10 d (m.unit + m.o * 2 ^ 16 + m.n * 2 ^ 24) none none none

/-- PREPARE of a re-mooring goes to O and to N; the manager's own node, where it is one of them, takes its part last. -/
def Eng.askBoth (e : Eng) (m : RemoorMgr) (me : Nat) : Eng :=
  (([m.o, m.n].filter fun d => d != me) ++ ([m.o, m.n].filter fun d => d == me)).foldl
    (fun e d => if d = me then e.prepare m.unit m.o m.n me none none else e.askNode m d) e

theorem remoorRequest_asks (e : Eng) (v : Nat) :
    e.remoorRequest v = (e.putMgr (e.newRemoor v) 1 (e.newRemoor v :: e.rmgr)).askBoth (e.newRemoor v) (e.ob HIER_NODE_ID) := rfl

section AskBoth
variable {e : Eng} {m : RemoorMgr} {me : Nat}

theorem askBoth_others (ho : m.o ≠ me) (hn : m.n ≠ me) : e.askBoth m me = (e.askNode m m.o).askNode m m.n := by
  simp [Eng.askBoth, ho, hn]

theorem askBoth_owner (ho : m.o = me) (hn : m.n ≠ me) : e.askBoth m me = (e.askNode m m.n).prepare m.unit m.o m.n me none none := by
  simp [Eng.askBoth, ho, hn]

theorem askBoth_target (ho : m.o ≠ me) (hn : m.n = me) : e.askBoth m me = (e.askNode m m.o).prepare m.unit m.o m.n me none none := by
  simp [Eng.askBoth, ho, hn]

end AskBoth

theorem transferOp_may {e : Eng} {k : Nat} (hm : e.transferMay k = true) : e.transferOp k = e.transferNext k := if_pos hm

theorem prepareTimeout_due {e : Eng} {m : RemoorMgr} (hm : e.rmgr.reverse.find? (fun m => m.step == 1 && decide (m.ends ≤ e.ts)) = some m) :
    e.prepareTimeout = e.mgrAbort m := by
  simp only [Eng.prepareTimeout, hm]

/-- The end of a swap's forwarding leaves the time as it is. -/
@[simp] theorem ts_swapForgets (e : Eng) : e.swapForgets.ts = e.ts := by
  unfold Eng.swapForgets
  split
  · split
    · split <;> rfl
    · rfl
  · rfl

section Owner
variable {e : Eng} {t : Nat} (ht : e.remoor.timer = some t) (hr : e.remoor.role = .releasing) (hd : t ≤ e.ts)
include ht hr hd

theorem drainExpiry_due (hs : e.remoor.step = 4) : e.drainExpiry = e.swapForgets.leaveUnit e.remoor.unit := by
  have due : ¬(e.remoor.role ≠ .releasing ∨ e.remoor.step ≠ 4 ∨ e.swapForgets.ts < t) := by
    simp only [hr, hs, ts_swapForgets, ne_eq, not_true, false_or]; omega
  simp only [Eng.drainExpiry, ht, if_neg due]

theorem xferTimeout_due (hs : e.remoor.step = 2 ∨ e.remoor.step = 3) : e.xferTimeout = e.strand := by
  have due : ¬(e.remoor.role ≠ .releasing ∨ (e.remoor.step ≠ 2 ∧ e.remoor.step ≠ 3) ∨ e.ts < t) := by
    simp only [hr, ne_eq, not_true, false_or]; omega
  simp only [Eng.xferTimeout, ht, if_neg due]

end Owner

/-- A forwarded request that is late leaves the forwarded ones, and is logged (log entry 19). -/
def Eng.fwdLate (e : Eng) (id : Nat) (fw : Fwd) : Eng :=
  let e1 := { e with fwds := e.fwds.filter fun (g : Fwd) => g.id != id }
  e1.rasEntry 7 2 (e1.portOf fw.slice) (fw.req.line % 2 ^ 40) 0xFF 0

/-- Logging a late request leaves the CAIDs' states as they are. -/
@[simp] theorem deaf_fwdLate (e : Eng) (id : Nat) (fw : Fwd) (c : Nat) : (e.fwdLate id fw).deaf c = e.deaf c := rfl

section Forwarded
variable {e : Eng} {id : Nat} {fw : Fwd} (hf : e.fwds.find? (fun f => f.id == id) = some fw) (ht : fw.ends ≤ e.ts)
include hf ht

theorem fwdTimeout_write {e2 : Eng} (hw : fw.req.isWrite = true) (h2 : (e.fwdLate id fw).fwdWrite fw = (e2, true)) : e.fwdTimeout id = e2 := by
  rw [Eng.fwdLate] at h2
  simp only [Eng.fwdTimeout, hf, if_neg (Nat.not_lt.2 ht), hw, if_true, h2]

theorem fwdTimeout_read (hw : fw.req.isWrite = false) :
    e.fwdTimeout id = if e.deaf fw.req.caid then (e.fwdLate id fw).freeSlots fw.req.gid else (e.fwdLate id fw).pAnswer fw.slice fw.req none := by
  simp only [Eng.fwdTimeout, hf, if_neg (Nat.not_lt.2 ht), hw, Bool.false_eq_true, if_false]
  rfl

end Forwarded

/-! ## Bucket handoff, consolidation and the spare slice (R229 to R231, R360) -/

section Quiesced
variable {e : Eng} {h : Handoff} (hh : e.handoff = some h) (hp : h.passing = false) (hb : e.brace = false) (hf : e.foghorn = false)
include hh hp hb hf

theorem handoffQuiesced_walks (hq : (e.bucketWalk h).bucketQuiet h = false) : e.handoffQuiesced = e.bucketWalk h := by
  simp [Eng.handoffQuiesced, hh, hp, hb, hf, hq]

/-- The ways of a quiet bucket move, and with none left the table switches. -/
theorem handoffQuiesced_moves (hq : (e.bucketWalk h).bucketQuiet h = true) :
    let e2 := Eng.moveWays h.b ((e.bucketWalk h).bucketWays h) (e.bucketWalk h)
    e.handoffQuiesced = if (e2.bucketWays h).isEmpty then e2.bucketSwitch h else e2 := by
  simp only [Eng.handoffQuiesced, hh, hp, hb, hf, hq, Bool.false_eq_true, or_self, Bool.not_true, if_false]

end Quiesced

theorem handoffDone_passing {e : Eng} {h : Handoff} (hh : e.handoff = some h) (hp : h.passing = true) :
    e.handoffDone =
      ((Eng.event { (e.set HANDOFF_BUSY 0 0) with handoff := none } 0x0C (evArgs [(0, 2), (1, h.bucket)])).irq 13).swapNext := by
  simp only [Eng.handoffDone, hh, hp, if_true]

theorem sliceDark_idle {e : Eng} {k : Nat} (hk : k < e.n) (hp : bit (e.ob SLICE_PARK) k = true) (hl : bit (e.ob SLICE_LIT) k = true)
    (ho : e.owns k = false) (he : e.sliceEmpty k = true) :
    let e1 := { e with svc := dropNat k e.svc }
    e.sliceDark k = (e1.set SLICE_LIT 0 (clearBit (e1.ob SLICE_LIT) k)).set PWR_VOTE_HW (0x20 + k) 0 :=
  if_pos ⟨hk, hp, hl, by simp [ho], he⟩

/-- Nothing that a drain waits for is left at a slice number: no open context, and no entry of the classes 0, 1, 6 and 7. -/
def Eng.drained (e : Eng) (k : Nat) : Prop :=
  (∀ x ∈ e.ctxs, e.sliceNum x.slice ≠ k)
    ∧ (∀ q ∈ e.qf ++ e.lineq, e.sliceNum q.slice = k → q.req.cls ≠ 0 ∧ q.req.cls ≠ 1 ∧ q.req.cls ≠ 6 ∧ q.req.cls ≠ 7)

theorem sliceDrain_ends {e : Eng} {k : Nat} (hd : e.draining = some k) (hq : bit (e.ob SLICE_LIT) k = false ∨ e.drained k) :
    let ss := e.sliceList.filter fun t => e.sliceNum t == k
    let e1 := { e with
      drainEff := e.drainEff.filter (fun p => !(ss.any fun t => decide (drainKey t 0 0 ≤ p.1) && decide (p.1 < drainKey (t + 1) 0 0)))
      slots := e.slots.map (fun (q : QSlot) => if ss.contains q.slice then { q with relinked := true } else q) }
    e.sliceDrain k = (e1.set DICT_DRAIN_PENDING 0 (clearBit (e1.ob DICT_DRAIN_PENDING) k)).pump := by
  refine if_neg ?_
  rintro (hn | ⟨hopen, hlit⟩)
  · exact hn hd
  · obtain hoff | ⟨hctx, hent⟩ := hq
    · simp [hoff] at hlit
    · simp only [Bool.or_eq_true, List.any_eq_true, Bool.and_eq_true, beq_iff_eq] at hopen
      obtain ⟨x, hx, hk⟩ | ⟨q, hq, hk, hcls⟩ := hopen
      · exact hctx x hx hk
      · have := hent q hq hk
        omega

end Sys2Proof.Machine

section
open Sys2Proof Sys2Proof.Machine Sys2Proof.Machine.Ob

/-- Settles O18: each commit by the command that it starts, and each step of a channel or of a heat pass in the case in which it is due. -/
theorem driftAndHeat : Obligations.DriftAndHeat := by
  unfold Obligations.DriftAndHeat
  refine ⟨fun s w => ⟨fun v h => ?start, fun ch h => ?abort⟩, fun e v ch hf => ?claims,
    fun s hs => ⟨fun ch c l hc hm hl => ?copies, fun ch c hc hp hk ho => ?flips,
      fun ch slice c hc hp hr hd => ⟨fun hlast => ?lastReport, fun hmore => ?report⟩,
      fun ht hf => ⟨fun hn => ?passStarts, fun hn => ?passWaits⟩, fun i d t hm => ?delta⟩⟩
  case start => exact commit_starts (by decide) (fun c => startWr_driftStart c w v) h
  case abort => exact commit_starts (by decide) (fun c => startWr_driftAbort c w ch) h
  case claims => exact driftStart_claims hf
  case copies => exact engine_effect hs (driftCopy_issues hc hm hl)
  case flips => exact engine_effect hs (driftFlip_copied hc hp hk ho)
  case lastReport => exact engine_effect hs ((driftReport_awaited hc hp hr hd).trans (if_pos hlast))
  case report => exact engine_effect hs ((driftReport_awaited hc hp hr hd).trans (if_neg (ne_true_of_eq_false hmore)))
  case passStarts => exact engine_effect hs ((heatStart_due ht hf).trans (if_neg (by simp [hn])))
  case passWaits => exact engine_effect hs ((heatStart_due ht hf).trans (if_pos (Option.isSome_iff_ne_none.2 hn)))
  case delta => exact engine_effect hs (heatTake_oldest hm)

/-- Settles O19: each message by its effect in the role and the step that the node has in the re-mooring. What SECTOR installs is left in
the model's `sectorIn` (R226). -/
theorem remooringAtOwnerAndTarget : Obligations.RemooringAtOwnerAndTarget := by
  unfold Obligations.RemooringAtOwnerAndTarget
  intro s h hs hn f e me
  refine ⟨fun u o n tiles hm ho hp => ?owner, fun u o n tiles k hm ho hp => ?ownerRefused, fun u o n tiles k hm ho ht hp => ?targetRefused,
    fun u o n tiles hm ho ht hp => ?target, fun u hr hu hstep => ?start, fun u hr hu hm => ?flip,
    fun u hu hstep => ⟨fun hr => ?abortOwner, fun hr => ?abortTarget⟩, fun sec ls _ => ?sector, fun sec _ _ _ => ?ack⟩
  case owner => exact message_effect hs hn (fab_e_congr (prepare_owner hm ho hp))
  case ownerRefused => exact message_effect hs hn (fab_e_congr (prepare_owner_refused hm ho hp))
  case targetRefused => exact message_effect hs hn (fab_e_congr (prepare_target_refused hm ho ht hp))
  case target => exact message_effect hs hn (fab_e_congr (prepare_target hm ho ht hp))
  case start => exact message_effect hs hn (fab_e_congr (start_prepared hr hu hstep))
  case flip => exact message_effect hs hn (fab_e_congr (flip_receiving hr hu hm))
  case abortOwner => exact message_effect hs hn (fab_e_congr (remoorAbort_releasing hu hstep hr))
  case abortTarget => exact message_effect hs hn (fab_e_congr (remoorAbort_receiving hu hstep hr))
  case sector => exact message_effect hs hn rfl
  case ack => exact message_effect hs hn rfl

/-- Settles O20: PREPARED and REFUSE are taken for the oldest re-mooring in step 1 that waits for their source, and START ends an earlier
record of the unit (log entry 55; R222, R228); every other message by the step that the unit's re-mooring is in. -/
theorem remooringAtManager : Obligations.RemooringAtManager := by
  unfold Obligations.RemooringAtManager
  intro s h m hs hn f
  refine ⟨fun ha => ⟨(asked_waits ha).1, (asked_waits ha).2, ⟨fun hb => ?first, fun hO hN => ?second⟩, fun k => ?refused⟩,
    fun hm => ?transferred, fun hm => ?flipped, fun hm => ?drained⟩
  case first => exact fabric_effect hs ((fab_prepared_asked hn ha).trans (fab_e_congr (prepared_first ha hb)))
  case second => exact fabric_effect hs ((fab_prepared_asked hn ha).trans (fab_e_congr (prepared_second ha ⟨hO, hN⟩)))
  case refused => exact fabric_effect hs (fab_refuse_asked hn ha)
  case transferred => exact message_effect hs hn (fab_e_congr (transferDone_flips hm))
  case flipped => exact message_effect hs hn (fab_e_congr (flipped_changesMap hm))
  case drained => exact message_effect hs hn (fab_e_congr (drainDone_ends hm))

/-- Settles O22: the request by which of O and N the manager is, each timer in the case in which it has run out. Where the log of a late
forwarded request stands is log entry 19's. -/
theorem remooringTimersAndTransfer : Obligations.RemooringTimersAndTransfer := by
  unfold Obligations.RemooringTimersAndTransfer
  refine ⟨fun s w u n h => ?request, fun e v => ⟨fun ho hn => ?others, fun ho hn => ?owner, fun ho hn => ?target⟩,
    fun s hs => ⟨fun k hk => ?transfer, fun m hm => ?prepareLate, fun t ht hr hd => ⟨fun h4 => ?drained, fun h23 => ?stranded⟩,
      fun id fw hf ht => ⟨fun hw e2 h2 => ?lateWrite, fun hw hd => ?lateRead, fun hw hd => ?lateDeaf⟩⟩⟩
  case request => exact commit_starts (by decide) (fun c => startWr_remoorRequest c w _) h
  case others => exact (remoorRequest_asks e v).trans (askBoth_others ho hn)
  case owner => exact (remoorRequest_asks e v).trans (askBoth_owner ho hn)
  case target => exact (remoorRequest_asks e v).trans (askBoth_target ho hn)
  case transfer => exact engine_effect hs (transferOp_may hk)
  case prepareLate => exact engine_effect hs (prepareTimeout_due hm)
  case drained => exact engine_effect hs (drainExpiry_due ht hr hd h4)
  case stranded => exact engine_effect hs (xferTimeout_due ht hr hd h23)
  case lateWrite => exact engine_effect hs (fwdTimeout_write hf ht hw h2)
  case lateRead => exact engine_effect hs ((fwdTimeout_read hf ht hw).trans (if_neg (ne_true_of_eq_false hd)))
  case lateDeaf => exact engine_effect hs ((fwdTimeout_read hf ht hw).trans (if_pos hd))

/-- Settles O23: each commit by the value or the command that it is, a handoff by what is left of the bucket at A, a slice by what it holds. -/
theorem handoffAndSpare : Obligations.HandoffAndSpare := by
  unfold Obligations.HandoffAndSpare
  refine ⟨fun s w => ⟨fun b t hb ht h => ?bucketMove, fun v h => ?slicePark, fun k h => ?spareSwap⟩,
    fun s hs => ⟨fun h hh hp hb hf => ⟨fun hq => ?walks, fun hq => ⟨fun he => ?switches, fun he => ?moves⟩⟩, fun h hh hp => ?done,
      fun k hk hp hl ho he => ?dark, fun k hd hq => ?drained⟩⟩
  case bucketMove => exact commit_starts (by decide) (fun c => startWr_bucketMove c w hb ht) h
  case slicePark => exact commit_value (by decide) (fun c => applyWr_slicePark c v) h
  case spareSwap => exact commit_starts (by decide) (fun c => startWr_spareSwap c w k) h
  case walks => exact engine_effect hs (handoffQuiesced_walks hh hp hb hf hq)
  case switches => exact engine_effect hs ((handoffQuiesced_moves hh hp hb hf hq).trans (if_pos he))
  case moves => exact engine_effect hs ((handoffQuiesced_moves hh hp hb hf hq).trans (if_neg (ne_true_of_eq_false he)))
  case done => exact engine_effect hs (handoffDone_passing hh hp)
  case dark => exact engine_effect hs (sliceDark_idle hk hp hl ho he)
  case drained => exact engine_effect hs (sliceDrain_ends hd hq)

end

/-! # The Draix link: flits, training and commits

What the commands of the link do: the flits it receives (R243, R245, R246, R249, R250, R254, R258), lanes, training and timers (R240, R247 to
R249, R253 to R259, R262), and the commits of its objects (R254, R257, R261 to R263, R358). -/

namespace Sys2Proof.Machine
open Ob

/-- While the block works, an operation of the link leaves it as the operation's equation says, with what it indicates. -/
theorem link_effect {s : State} {g : Lnk → Lnk} {l : Lnk} (hw : s.toChip.works = true) (hg : g s.lnk = l) :
    s.link g = .next (s.effLink l) := by
  rw [link_works s g hw, hg]

/-! ## Flits (R243, R245, R246, R249, R250, R254, R258) -/

/-- How far a sequence number is ahead of the one expected, modulo 4,096: half of the range and more is behind (R246). -/
def Lnk.ahead (l : Lnk) (seq : Nat) : Nat := (seq % 4096 + 4096 - l.d.e) % 4096

/-- A slot is free for a data flit of a class (R249). -/
def Lnk.slotFree (l : Lnk) (shared : Bool) (cls : Nat) : Bool :=
  if shared then decide (l.d.usedSh < 768) else decide (l.d.used.getD cls 0 < 64)

/-- What an end in Active makes of a data flit after its ACK or NAK (R246, R250). -/
def Lnk.takeData (l : Lnk) (seq cls : Nat) (shared : Bool) (payload : BitVec 1984) : Lnk :=
  if l.ahead seq = 0 then
    if l.slotFree shared (cls % 4) then l.deliver { id := l.eng.fresh, cls := cls % 4, shared := shared, payload := payload }
    else ((l.inc DRX_CREDIT_OVERRUN).upd fun d => { d with fault := true }).retrain 5 0 true
  else if l.ahead seq < 2048 then
    if l.d.nakOpen then l.inc DRX_SEQ_DISCARDED else (l.inc DRX_SEQ_DISCARDED).sendNak
  else ((l.inc DRX_DUP_DROPPED).upd fun d => { d with ackDue := true }).sendAck

/-- The partner's cumulative counters return credits (R249). -/
def Lnk.credited (l : Lnk) (cr : List Nat) (cs : Nat) : Lnk :=
  l.upd fun d =>
    { d with res := (List.range 4).map (fun k => d.res.getD k 0 + (cr.getD k 0 % 65536 + 65536 - l.d.lr.getD k 0) % 65536)
             lr := (List.range 4).map (fun k => cr.getD k 0 % 65536)
             shr := d.shr + (cs % 65536 + 65536 - d.ls) % 65536, ls := cs % 65536 }

/-- A retrain request stands for the partner's exclusions until its TS2 does (R258). -/
def Lnk.asked (l : Lnk) (excl : Nat) : Lnk :=
  l.upd fun d =>
    { d with partner2 := some { width := 3, map := [], e := 0, n := 0, o := 0, resok := false, req := true, excl := excl, final := false } }

/-- A bad flit is counted by what failed, and logged (R243). -/
def Lnk.badSeen (l : Lnk) (rs : Bool) : Lnk :=
  let l1 := (l.inc (if rs then DRX_RS_FAIL else DRX_CRC_FAIL)).upd fun d => { d with good := 0 }
  { l1 with eng := (l1.eng.inc RAS_UE_COUNT 0x11).rasEntry 0x11 2 0 0 0xFF 0 }

/-- An unknown kind is counted, and counted and logged among the unit's errors (R17, R245; log entry 59). -/
def Lnk.unknownSeen (l : Lnk) (corr : List Nat) : Lnk :=
  let l1 := ((l.good corr).upd fun d => { d with good := 0 }).inc DRX_KIND_ERR
  { l1 with eng := l1.eng.unitErr 41 0 }

section Flits
variable {l : Lnk} (hh : l.hears = true)
include hh

/-- An end in Ready or Active receives flits, whether or not a loopback runs. -/
theorem receives_of_hears : (l.hears || l.loops) = true := by rw [hh, Bool.true_or]

theorem not_deaf_of_hears : ¬(!(l.hears || l.loops)) = true := by simp [receives_of_hears hh]

section Good
variable {corr : List Nat} {ackseq acktype : Nat}

theorem dataFlit_early {seq cls : Nat} {shared : Bool} {payload : BitVec 1984} (hs : ((l.good corr).applyAck ackseq acktype).st ≠ 4)
    (hp : ((l.good corr).applyAck ackseq acktype).loops = false) :
    l.dataFlit corr seq cls shared ackseq acktype payload = (l.good corr).applyAck ackseq acktype :=
  (if_neg (not_deaf_of_hears hh)).trans (if_pos ⟨hs, by simp [hp]⟩)

theorem dataFlit_active {seq cls : Nat} {shared : Bool} {payload : BitVec 1984} (hs : ((l.good corr).applyAck ackseq acktype).st = 4) :
    l.dataFlit corr seq cls shared ackseq acktype payload = ((l.good corr).applyAck ackseq acktype).takeData seq cls shared payload :=
  (if_neg (not_deaf_of_hears hh)).trans (if_neg fun h => h.1 hs)

theorem idleFlit_heard : l.idleFlit corr ackseq acktype = (l.good corr).applyAck ackseq acktype := if_pos (receives_of_hears hh)

theorem controlFlit_heard {cr : List Nat} {cs : Nat} :
    l.controlFlit corr ackseq acktype cr cs = (((l.good corr).applyAck ackseq acktype).credited cr cs).tx := if_neg (not_deaf_of_hears hh)

theorem requestFlit_active {node excl : Nat} {fresh : Bool} (hs : ((l.good corr).applyAck ackseq acktype).st = 4) :
    l.requestFlit corr ackseq acktype node excl fresh = (((l.good corr).applyAck ackseq acktype).seek (!fresh)).asked excl :=
  (if_neg (by simp [hh])).trans (if_neg (not_not_intro hs))

theorem requestFlit_ready {node excl : Nat} {fresh : Bool} (hs : ((l.good corr).applyAck ackseq acktype).st ≠ 4) :
    l.requestFlit corr ackseq acktype node excl fresh = ((l.good corr).applyAck ackseq acktype).abandon node :=
  (if_neg (by simp [hh])).trans (if_pos hs)

end Good

theorem unknownFlit_heard (corr : List Nat) : l.unknownFlit corr = l.unknownSeen corr := if_pos (receives_of_hears hh)

theorem badFlit_heard (rs : Bool) : l.badFlit rs = if (l.badSeen rs).d.nakOpen then l.badSeen rs else (l.badSeen rs).sendNak := by
  cases rs <;> exact if_neg (not_deaf_of_hears hh)

end Flits

section TakeData
variable {l : Lnk} {seq cls : Nat} {shared : Bool} {payload : BitVec 1984}

theorem takeData_expected (hd : l.ahead seq = 0) :
    l.takeData seq cls shared payload =
      if l.slotFree shared (cls % 4) then l.deliver { id := l.eng.fresh, cls := cls % 4, shared := shared, payload := payload }
      else ((l.inc DRX_CREDIT_OVERRUN).upd fun d => { d with fault := true }).retrain 5 0 true := if_pos hd

theorem takeData_later (h0 : 0 < l.ahead seq) (hd : l.ahead seq < 2048) :
    l.takeData seq cls shared payload = if l.d.nakOpen then l.inc DRX_SEQ_DISCARDED else (l.inc DRX_SEQ_DISCARDED).sendNak :=
  (if_neg (Nat.ne_of_gt h0)).trans (if_pos hd)

theorem takeData_copy (hd : 2048 ≤ l.ahead seq) :
    l.takeData seq cls shared payload = ((l.inc DRX_DUP_DROPPED).upd fun d => { d with ackDue := true }).sendAck :=
  (if_neg (by omega)).trans (if_neg (Nat.not_lt.2 hd))

end TakeData

/-! ## Lanes and training (R240, R253 to R259, R262) -/

/-- A lane locks on the partner's lane, in place of its earlier lock (R240). -/
def Lnk.locksOn (l : Lnk) (k : LaneLock) : Lnk :=
  l.upd fun d => { d with act := setBit d.act k.lane, locks := k :: d.locks.filter (fun (j : LaneLock) => j.lane != k.lane) }

theorem laneLock_taken {l : Lnk} {lane plane : Nat} {inv : Bool} (hr : l.regionOn = true) (h0 : l.st ≠ 0) (h5 : l.st ≠ 5) (h6 : l.st ≠ 6)
    (hl : lane < 16) (hp : plane < 16) :
    l.laneLock lane plane inv false = (l.locksOn { lane := lane, plane := plane, inverted := inv }).seekEnd false :=
  if_neg (by simp [hr, h0, h5, h6, hl, hp])

/-- The loss of a lane's lock is counted, and noted by an eye scan of the lane (R240, R261). -/
def Lnk.losesLock (l : Lnk) (lane : Nat) : Lnk :=
  (l.inc DRX_LANE_LOCK_LOSS lane).upd fun d =>
    { d with locks := d.locks.filter (fun (j : LaneLock) => j.lane != lane)
             eye := d.eye.map fun (t : EyeScan) => if t.lane = lane then { t with ok := false } else t }

/-- A lane of the partner's is one of the width in use; where no TS2 has come, each counts as one (R257). -/
def Lnk.inWidth (l : Lnk) (plane : Nat) : Bool :=
  match l.d.partner2 with
  | some q => (q.map.take (l.eng.ob DRX_WIDTH)).contains plane
  | none => true

theorem inWidth_none {l : Lnk} {plane : Nat} (h : l.d.partner2 = none) : l.inWidth plane = true := by simp only [Lnk.inWidth, h]

theorem inWidth_some {l : Lnk} {plane : Nat} {q : Ts2Body} (h : l.d.partner2 = some q) :
    l.inWidth plane = (q.map.take (l.eng.ob DRX_WIDTH)).contains plane := by simp only [Lnk.inWidth, h]

theorem laneLoss_locked {l : Lnk} {lane : Nat} {k : LaneLock} (hk : l.d.locks.find? (fun k => k.lane == lane) = some k) :
    l.laneLoss lane =
      if (l.losesLock lane).st = 4 ∧ (l.losesLock lane).inWidth k.plane = true then (l.losesLock lane).retrain 2 (2 ^ k.plane) false
      else l.losesLock lane := by
  simp only [Lnk.laneLoss, hk]
  rfl

/-- The end takes the partner's latest TS body (R255). -/
def Lnk.hearsTs (l : Lnk) (p : TsBody) : Lnk := l.upd fun d => { d with partner := some p }

section Ts1
variable {l : Lnk} {p : TsBody}

theorem ts1_active (h4 : l.st = 4) : l.ts1 p = ((l.seek true).hearsTs p).seekEnd false := if_pos h4

theorem ts1_clash (h1 : l.st = 1) (hn : p.node = l.node) : l.ts1 p = l.clash := by
  simp [Lnk.ts1, h1, hn]

theorem ts1_seek (h1 : l.st = 1) (hn : p.node ≠ l.node) (hl : p.loop = 0) : l.ts1 p = (l.hearsTs p).seekEnd false := by
  simp [Lnk.ts1, h1, hn, hl, Lnk.hearsTs]

/-- An end that allows the far-end loopback asked for enters Looped, and says so in one TS1 (R262). -/
theorem ts1_looped (h1 : l.st = 1) (hn : p.node ≠ l.node) (hl : p.loop = 1) (ha : l.eng.ob DRX_FE_LOOP_ALLOW = 1) :
    l.ts1 p = (l.goto 8).upd fun d =>
      { d.discard with attempt := none, settle := none, line := [l.tsFlit 8 (tsBits { l.tsOut with loop := 2 } none)] } := by
  simp [Lnk.ts1, h1, hn, hl, ha]

/-- The end that asked for the far-end loopback enters it once the partner has agreed (R262). -/
theorem ts1_loopback (h1 : l.st = 1) (hn : p.node ≠ l.node) (hl : p.loop = 2) (hm : l.eng.ob DRX_LOOPBACK = 3) :
    l.ts1 p = (l.loadEq.goto 7).upd fun d => { d with attempt := none, settle := none, partner := some p } := by
  simp [Lnk.ts1, h1, hn, hl, hm]

theorem ts1_ready (h3 : l.st = 3) :
    l.ts1 p = (l.goto 1).upd fun d =>
      { d with partner := some p, partner2 := none, settle := none, agree := 0, final := false, prop := 3, good := 0 } := by
  simp [Lnk.ts1, h3]

end Ts1

/-- A TS2 is taken; its request makes the lower node ID abandon its own (R258). -/
def Lnk.hearsTs2 (l : Lnk) (p : TsBody) (q : Ts2Body) : Lnk :=
  (if q.req then l.abandon p.node else l).upd fun d => { d with partner := some p, partner2 := some q }

/-- Both ends propose one width and agree on whether the link layer resumes (R255, R256). -/
def Lnk.agrees (l : Lnk) (p : TsBody) (q : Ts2Body) : Bool := (l.propose p).1 == q.width && (l.propose p).1 != 3 && l.resok p q == q.resok

/-- The proposal stands, and a TS2 that agrees is counted: the sixteenth in a row makes it final (R255). -/
def Lnk.compared (l : Lnk) (p : TsBody) (q : Ts2Body) : Lnk :=
  (l.upd fun d => { d with prop := (l.propose p).1, map := (l.propose p).2, agree := if l.agrees p q then d.agree + 1 else 0 }).upd fun d =>
    { d with final := d.final || decide (16 ≤ d.agree) }

section Ts2
variable {l : Lnk} {p : TsBody} {q : Ts2Body}

theorem ts2_seek (h1 : l.st = 1) (hn : p.node ≠ l.node) : l.ts2 p q = (l.hearsTs p).seekEnd false := (if_pos h1).trans (if_neg hn)

theorem ts2_clash (hs : l.st = 1 ∨ l.st = 2) (hn : p.node = l.node) : l.ts2 p q = l.clash := by
  rcases hs with h1 | h2
  · exact (if_pos h1).trans (if_pos hn)
  · simp [Lnk.ts2, h2, hn]

theorem ts2_configure (h2 : l.st = 2) (hn : p.node ≠ l.node) :
    let l1 := l.hearsTs2 p q
    l.ts2 p q =
      if (l1.compared p q).d.final = true ∧ l1.agrees p q = true ∧ q.final = true then (l1.compared p q).enterReady p q (l1.resok p q)
      else l1.compared p q := by
  have notSeek : l.st ≠ 1 := by simp [h2]
  exact (if_neg notSeek).trans ((if_neg (not_not_intro h2)).trans (if_neg hn))

end Ts2

/-- Lanes show activity (R236). -/
def Lnk.senses (l : Lnk) (lanes : Nat) : Lnk := l.upd fun d => { d with act := d.act ||| lanes % 65536 }

section Activity
variable {l : Lnk} {lanes : Nat} (hr : l.regionOn = true) (h4 : 4 ≤ (bitList lanes 16).length)
include hr h4

theorem laneActivity_wait (h5 : l.st = 5) : l.laneActivity lanes = (l.senses lanes).loadEq.seek l.d.resume :=
  (if_neg (by simp [hr, h5])).trans (if_pos ⟨h5, decide_eq_true h4⟩)

theorem laneActivity_down (h6 : l.st = 6) (ht : l.d.told = false) :
    l.laneActivity lanes = { ((l.senses lanes).upd fun d => { d with told := true }) with eng := (l.eng.event 0x06 0).irq 12 } := by
  have notWait : ¬((l.senses lanes).st = 5 ∧ decide (4 ≤ (bitList lanes 16).length) = true) := fun h => absurd (h6.symm.trans h.1) (by decide)
  exact (if_neg (by simp [hr, h6])).trans ((if_neg notWait).trans (if_pos ⟨h6, decide_eq_true h4, congrArg not ht⟩))

end Activity

/-- The link enters Active: the attempt is over, and is counted as a training (R254). -/
def Lnk.activated (l : Lnk) : Lnk :=
  (((l.goto 4).set DRX_ATTEMPTS 0 0).inc DRX_TRAININGS).upd fun d => { d with attempt := none, wasActive := true, replayAt := l.eng.ts }

theorem linkActive_ready {l : Lnk} (h3 : l.st = 3) (hg : 16 ≤ l.d.good) :
    l.linkActive = ((if l.activated.d.held.isEmpty then l.activated else l.activated.replay l.activated.d.o).say .active).tx :=
  if_pos ⟨h3, hg⟩

theorem linkActive_idle {l : Lnk} (h3 : l.st = 3) (hg : 16 ≤ l.d.good) (he : l.activated.d.held.isEmpty = true) :
    l.linkActive = (l.activated.say .active).tx := by
  rw [linkActive_ready h3 hg, if_pos he]

theorem linkActive_replays {l : Lnk} (h3 : l.st = 3) (hg : 16 ≤ l.d.good) (he : l.activated.d.held.isEmpty = false) :
    l.linkActive = ((l.activated.replay l.activated.d.o).say .active).tx := by
  rw [linkActive_ready h3 hg, if_neg (ne_true_of_eq_false he)]

theorem loopedExit_looped {l : Lnk} (h8 : l.st = 8) : l.loopedExit = (l.upd fun d => { d with act := 0 }).freshSeek := if_pos h8

/-! ## Timers (R247 to R249, R254, R255, R257) -/

section Timers
variable {l : Lnk}

theorem replayTimer_due (h4 : l.st = 4) (hh : l.d.held ≠ []) (ht : l.d.replayAt + l.eng.ob DRX_REPLAY_TIMER ≤ l.eng.ts) :
    l.replayTimer = l.replay l.d.o := if_pos ⟨h4, by simp [hh], ht⟩

theorem nakTimer_due (hh : l.hears = true) (hn : l.d.nakOpen = true) (ht : l.d.nakAt + l.eng.ob DRX_NAK_TIMER ≤ l.eng.ts) :
    l.nakTimer = l.sendNak := if_pos ⟨hh, hn, ht⟩

variable {t : Nat}

theorem ackTimer_due (hu : l.d.unackedAt = some t) (hh : l.hears = true) (ht : t + l.eng.ob DRX_ACK_TIMER ≤ l.eng.ts) :
    l.ackTimer = l.sendAck := by
  simp only [Lnk.ackTimer, hu, if_pos (And.intro hh ht)]

theorem creditTimer_due (hu : l.d.unrepAt = some t) (hh : l.hears = true) (ht : t + 200 ≤ l.eng.ts) : l.creditTimer = l.sendControl := by
  simp only [Lnk.creditTimer, hu, if_pos (And.intro hh ht)]

theorem settleExpiry_due (hs : l.d.settle = some t) (h1 : l.st = 1) (ht : t ≤ l.eng.ts) : l.settleExpiry = l.seekEnd true := by
  simp only [Lnk.settleExpiry, hs, if_pos (And.intro h1 ht)]

theorem backoffElapsed_due (hb : l.d.backoff = some t) (h5 : l.st = 5) (ht : t ≤ l.eng.ts) :
    l.backoffElapsed = l.loadEq.seek l.d.resume := by
  simp only [Lnk.backoffElapsed, hb, if_pos (And.intro h5 ht)]

/-- A failed attempt is logged; the eighth ends in Down, an earlier one in Wait for twice the time of the one before (R254). -/
theorem attemptTimeout_due (ha : l.d.attempt = some t) (ht : t ≤ l.eng.ts) (hs : l.st = 1 ∨ l.st = 2 ∨ l.st = 3) :
    let l1 := l.trainLog l.failCause
    let k := l1.eng.ob DRX_ATTEMPTS
    l.attemptTimeout =
      if 7 ≤ k then (l1.set DRX_ATTEMPTS 0 8).down l.failCause
      else ((l1.set DRX_ATTEMPTS 0 (k + 1)).goto 5).upd fun d =>
        { d with attempt := none, settle := none, backoff := some (l1.eng.ts + 2 ^ k * 1000000) } := by
  have due : ¬(l.eng.ts < t ∨ (!decide (l.st = 1 ∨ l.st = 2 ∨ l.st = 3)) = true) := by simp [hs, ht]
  simp only [Lnk.attemptTimeout, ha, if_neg due]

theorem corrCheck_off (h : l.eng.ob DRX_CORR_THRESHOLD = 0) : l.corrCheck = l.upd fun d => { d with corr := [] } := if_pos (.inl h)

/-- The lanes with more corrected symbols in the ms than the threshold allows (R257 cause 4). -/
def Lnk.overCorrected (l : Lnk) : List (Nat × Nat) := l.d.corr.filter fun c => decide (l.eng.ob DRX_CORR_THRESHOLD < c.2)

/-- The partner's lanes that these are locked on. -/
def Lnk.overPlanes (l : Lnk) : Nat :=
  l.overCorrected.foldl (fun m c => match l.d.locks.find? fun k => k.lane == c.1 with | some k => setBit m k.plane | none => m) 0

theorem corrCheck_exceeded (h4 : l.st = 4) (h0 : l.eng.ob DRX_CORR_THRESHOLD ≠ 0) (hb : l.overCorrected.isEmpty = false) :
    l.corrCheck = (l.upd fun d => { d with corr := [] }).retrain 4 l.overPlanes false := by
  refine if_neg ?_
  rintro (hoff | hst | hnone)
  · exact h0 hoff
  · exact hst h4
  · exact ne_true_of_eq_false hb hnone

end Timers

/-! ## Commits of the link's objects (R254, R257, R261 to R263, R358) -/

/-- A value of the objects 0x7xxx takes effect on the link. -/
theorem applyWr_link {o : OWr} (hlo : 0x7000 ≤ o.idx) (hhi : o.idx ≤ 0x7FFF) (c : Chip) :
    c.applyWr o = c.setFab (c.fab.link fun l => l.apply o) := by
  rw [Chip.applyWr, if_neg (by omega), if_pos ⟨hlo, hhi⟩]

/-- A command of the objects 0x7xxx starts on the link. -/
theorem startWr_link {o : OWr} (hlo : 0x7000 ≤ o.idx) (hhi : o.idx ≤ 0x7FFF) (c : Chip) (w : World) :
    c.startWr w o = c.setFab (c.fab.link fun l => l.command o) := by
  have notWake : o.idx ≠ PWR_FORCE_WAKE := by simp only [PWR_FORCE_WAKE]; omega
  rw [Chip.startWr, if_neg notWake, if_pos ⟨hlo, hhi⟩]

section Commit
variable {s : State} {w : World} {i v : Nat} {g : Lnk → Lnk} (hi : 0x7000 ≤ i ∧ i ≤ 0x7FFF)
include hi

theorem commit_linkValue (ho : isWO ⟨i, 0, 0⟩ = false) (hg : ∀ l : Lnk, l.apply ⟨i, 0, v⟩ = g l)
    (h : s.toChip.accepts w [⟨i, 0, v⟩] = true) : s.commit w [⟨i, 0, v⟩] = .next (s.committed w fun c => c.setFab (c.fab.link g)) :=
  commit_value ho (fun c => by rw [applyWr_link hi.1 hi.2, funext hg]) h

theorem commit_linkCommand (ho : isWO ⟨i, 0, 0⟩ = true) (hg : ∀ l : Lnk, l.command ⟨i, 0, v⟩ = g l)
    (h : s.toChip.accepts w [⟨i, 0, v⟩] = true) : s.commit w [⟨i, 0, v⟩] = .next (s.committed w fun c => c.setFab (c.fab.link g)) :=
  commit_starts ho (fun c => by rw [startWr_link hi.1 hi.2, funext hg]) h

end Commit

section Objects
variable (l : Lnk)

theorem apply_disable :
    l.apply ⟨DRX_ENABLE, 0, 0⟩ =
      ((l.set DRX_ENABLE 0 0).set PWR_VOTE_HW 4 (if (l.set DRX_ENABLE 0 0).eng.ob DRX_LOOPBACK ≠ 0 then 1 else 0)).off := by
  have off : (OWr.mk DRX_ENABLE 0 0).v = 0 := by decide
  simp [Lnk.apply, Lnk.enable, off]

theorem apply_enable : l.apply ⟨DRX_ENABLE, 0, 1⟩ = ((l.set DRX_ENABLE 0 1).set PWR_VOTE_HW 4 1).tryStart := by
  have on : (OWr.mk DRX_ENABLE 0 1).v = 1 := by decide
  simp [Lnk.apply, Lnk.enable, on]

/-- DRX_LOOPBACK holds its four modes whole. -/
theorem apply_loopback {v : Nat} (hv : v < 4) : l.apply ⟨DRX_LOOPBACK, 0, v⟩ = l.loopback v := by
  have whole : ∀ v < 4, (OWr.mk DRX_LOOPBACK 0 v).v = v := by decide
  simp +decide only [Lnk.apply, whole v hv, if_true, if_false]

theorem command_train : l.command ⟨DRX_TRAIN, 0, 1⟩ = if l.st = 6 then l.freshSeek else l := by
  simp +decide only [Lnk.command, true_and, if_true]

theorem command_retrainResume : l.command ⟨DRX_RETRAIN, 0, 1⟩ = l.retrain 1 0 false := by
  simp +decide only [Lnk.command, if_true, if_false]

theorem command_retrainFresh : l.command ⟨DRX_RETRAIN, 0, 2⟩ = l.retrain 1 0 true := by
  simp +decide only [Lnk.command, if_true, if_false]

theorem command_eyeCtrl (v : Nat) : l.command ⟨DRX_EYE_CTRL, 0, v⟩ = l.eyeStart v := by
  simp +decide only [Lnk.command, if_true, if_false]

theorem command_errInject (v : Nat) : l.command ⟨DRX_ERR_INJECT, 0, v⟩ = l.inject v := by
  simp +decide only [Lnk.command, if_true, if_false]

end Objects

theorem eyeDone_scanning {l : Lnk} {x : EyeScan} (hx : l.d.eye = some x) (n : Nat) :
    l.eyeDone n =
      ((l.set DRX_EYE_BUSY 0 0).upd fun d => { d with eye := none }).set DRX_EYE_RESULT 0 (n % 2 ^ 48 + x.dwell * 2 ^ 48 + b2n x.ok * 2 ^ 56) := by
  simp only [Lnk.eyeDone, hx]

/-! ## Loopback (R262) -/

/-- The link with a mode in DRX_LOOPBACK and a hardware vote for its region. -/
def Lnk.loopSet (l : Lnk) (v vote : Nat) : Lnk := (l.set DRX_LOOPBACK 0 v).set PWR_VOTE_HW 4 vote

theorem ob_loopSet {i : Nat} (l : Lnk) (v vote : Nat) (hl : i ≠ DRX_LOOPBACK) (hv : i ≠ PWR_VOTE_HW) :
    (l.loopSet v vote).eng.ob i = l.eng.ob i :=
  (ob_set_ne _ _ _ _ _ (by decide) hv).trans (ob_set_ne _ _ _ _ _ (by decide) hl)

@[simp] theorem st_loopSet (l : Lnk) (v vote : Nat) : (l.loopSet v vote).st = l.st := ob_loopSet l v vote (by decide) (by decide)

@[simp] theorem node_loopSet (l : Lnk) (v vote : Nat) : (l.loopSet v vote).node = l.node := ob_loopSet l v vote (by decide) (by decide)

@[simp] theorem regionOn_loopSet (l : Lnk) (v vote : Nat) : (l.loopSet v vote).regionOn = l.regionOn :=
  congrArg (· == 0) ((obj_set_ne _ _ _ _ _ _ (by decide)).trans (obj_set_ne _ _ _ _ _ _ (by decide)))

/-- An end enters a loopback with its link layer discarded, and holds the state that it comes from. -/
def Lnk.entersLoop (l : Lnk) (v : Nat) : Lnk :=
  (l.loopSet v 1).upd fun d => { d.discard with loopFrom := (l.loopSet v 1).st, patTx := 0, patRx := 0 }

theorem loopback_enters {l : Lnk} {v : Nat} (hv : v ≠ 0) (hs : l.st = 0 ∨ l.st = 6) (he : l.eng.ob DRX_ENABLE = 1) (hr : l.regionOn = true)
    (hn : l.node ≠ 0xFF) : l.loopback v = if v = 3 then (l.entersLoop v).freshSeek else (l.entersLoop v).loadEq.goto 7 := by
  have vote : (if (l.set DRX_LOOPBACK 0 v).eng.ob DRX_ENABLE = 1 ∨ v ≠ 0 then 1 else 0) = 1 := if_pos (.inr hv)
  have may : ((l.loopSet v 1).st = 0 ∨ (l.loopSet v 1).st = 6) ∧ (l.loopSet v 1).eng.ob DRX_ENABLE = 1 ∧ (l.loopSet v 1).regionOn = true
      ∧ (l.loopSet v 1).node ≠ 0xFF := by
    rw [st_loopSet, regionOn_loopSet, node_loopSet, ob_loopSet l v 1 (by decide) (by decide)]
    exact ⟨hs, he, hr, hn⟩
  simp only [Lnk.loopback, vote]
  exact (if_neg hv).trans (if_pos may)

theorem loopback_exits {l : Lnk} (h : l.eng.ob DRX_LOOPBACK ≠ 0) :
    let l1 := l.loopSet 0 (if l.eng.ob DRX_ENABLE = 1 then 1 else 0)
    l.loopback 0 = ((l1.goto l1.d.loopFrom).upd fun d =>
      { d.discard with attempt := none, settle := none, hushEnd := l.eng.ts + 10000 }).tryStart := by
  have enable : (l.set DRX_LOOPBACK 0 0).eng.ob DRX_ENABLE = l.eng.ob DRX_ENABLE := ob_set_ne _ _ _ _ _ (by decide) (by decide)
  simp only [Lnk.loopback, enable, ne_eq, not_true, or_false]
  exact if_neg h

end Sys2Proof.Machine

section
open Sys2Proof Sys2Proof.Machine Sys2Proof.Machine.Ob

/-- Settles O24: a data flit by its number and the slots, every other flit by its kind. The counter and the log of unit 41 for an unknown
kind are log entry 59's (R17); that a flit is good, and what it holds, are the command's operands (log entry 8). -/
theorem draixFlits : Obligations.DraixFlits := by
  unfold Obligations.DraixFlits
  intro s hs hh l
  refine ⟨fun corr seq cls shared ackseq acktype payload => ⟨fun h4 hl => ?early, fun h4 => ⟨fun hd hf => ?delivered, fun hd hf => ?overrun,
      fun h0 hd hn => ?laterOpen, fun h0 hd hn => ?later, fun hd => ?copy⟩⟩,
    fun corr ackseq acktype => ?idle, fun corr ackseq acktype cr cs => ?control,
    fun corr ackseq acktype node excl fr => ⟨fun h4 => ?request, fun h4 => ?requestReady⟩, fun corr => ?unknown,
    fun rs => ⟨fun hn => ?bad, fun hn => ?badOpen⟩⟩
  case early => exact link_effect hs (dataFlit_early hh h4 hl)
  case delivered => exact link_effect hs ((dataFlit_active hh h4).trans ((takeData_expected hd).trans (if_pos hf)))
  case overrun => exact link_effect hs ((dataFlit_active hh h4).trans ((takeData_expected hd).trans (if_neg (ne_true_of_eq_false hf))))
  case laterOpen => exact link_effect hs ((dataFlit_active hh h4).trans ((takeData_later h0 hd).trans (if_pos hn)))
  case later => exact link_effect hs ((dataFlit_active hh h4).trans ((takeData_later h0 hd).trans (if_neg (ne_true_of_eq_false hn))))
  case copy => exact link_effect hs ((dataFlit_active hh h4).trans (takeData_copy hd))
  case idle => exact link_effect hs (idleFlit_heard hh)
  case control => exact link_effect hs (controlFlit_heard hh)
  case request => exact link_effect hs (requestFlit_active hh h4)
  case requestReady => exact link_effect hs (requestFlit_ready hh h4)
  case unknown => exact link_effect hs (unknownFlit_heard hh corr)
  case bad => exact link_effect hs ((badFlit_heard hh rs).trans (if_neg (ne_true_of_eq_false hn)))
  case badOpen => exact link_effect hs ((badFlit_heard hh rs).trans (if_pos hn))

/-- Settles O25: a lock and its loss by the lane, each TS by the state that it finds, each timer in the case in which it has run out. -/
theorem draixTraining : Obligations.DraixTraining := by
  unfold Obligations.DraixTraining
  intro s hs l
  refine ⟨fun lane plane inv hr h0 h5 h6 hl hp => ?lock,
    fun lane k hk => ⟨fun h4 => ?lossIdle, fun h4 => ⟨fun hq => ?lossNoTs2, fun q hq => ⟨fun hc => ?lossOfWidth, fun hc => ?lossOutside⟩⟩⟩,
    fun p => ⟨fun h4 => ?ts1Active, fun h1 hn => ?ts1Clash,
      fun h1 hn => ⟨fun hl => ?ts1Seek, fun hl ha => ?ts1Looped, fun hl hm => ?ts1Loopback, fun q => ?ts2Seek⟩,
      fun q hst hn => ?ts2Clash, fun h3 => ?ts1Ready, fun q h2 hn => ⟨fun hf ha hq => ?ts2Final, fun hf => ?ts2Configure⟩⟩,
    fun lanes hr h4 => ⟨fun h5 => ?activityWait, fun h6 ht => ?activityDown⟩,
    fun h4 hh ht => ?replay, fun hh hn ht => ?nak, fun t hu hh ht => ?ack, fun t hu hh ht => ?credit, fun t hst h1 ht => ?settle,
    fun h3 hg => ⟨fun he => ?active, fun he => ?activeReplay⟩,
    fun t ha ht hst => ⟨fun hk => ?attemptLast, fun hk => ?attempt⟩,
    fun t hb h5 ht => ?backoff, fun h0 => ?corrOff, fun h4 h0 hb => ?corr, fun h8 => ?looped⟩
  case lock => exact link_effect hs (laneLock_taken hr h0 h5 h6 hl hp)
  case lossIdle => exact link_effect hs ((laneLoss_locked hk).trans (if_neg fun h => h4 h.1))
  case lossNoTs2 => exact link_effect hs ((laneLoss_locked hk).trans (if_pos ⟨h4, inWidth_none hq⟩))
  case lossOfWidth => exact link_effect hs ((laneLoss_locked hk).trans (if_pos ⟨h4, (inWidth_some hq).trans hc⟩))
  case lossOutside =>
    exact link_effect hs ((laneLoss_locked hk).trans (if_neg fun h => ne_true_of_eq_false ((inWidth_some hq).trans hc) h.2))
  case ts1Active => exact link_effect hs (ts1_active h4)
  case ts1Clash => exact link_effect hs (ts1_clash h1 hn)
  case ts1Seek => exact link_effect hs (ts1_seek h1 hn hl)
  case ts1Looped => exact link_effect hs (ts1_looped h1 hn hl ha)
  case ts1Loopback => exact link_effect hs (ts1_loopback h1 hn hl hm)
  case ts2Seek => exact link_effect hs (ts2_seek h1 hn)
  case ts2Clash => exact link_effect hs (ts2_clash hst hn)
  case ts1Ready => exact link_effect hs (ts1_ready h3)
  case ts2Final => exact link_effect hs ((ts2_configure h2 hn).trans (if_pos ⟨hf, ha, hq⟩))
  case ts2Configure => exact link_effect hs ((ts2_configure h2 hn).trans (if_neg hf))
  case activityWait => exact link_effect hs (laneActivity_wait hr h4 h5)
  case activityDown => exact link_effect hs (laneActivity_down hr h4 h6 ht)
  case replay => exact link_effect hs (replayTimer_due h4 hh ht)
  case nak => exact link_effect hs (nakTimer_due hh hn ht)
  case ack => exact link_effect hs (ackTimer_due hu hh ht)
  case credit => exact link_effect hs (creditTimer_due hu hh ht)
  case settle => exact link_effect hs (settleExpiry_due hst h1 ht)
  case active => exact link_effect hs (linkActive_idle h3 hg he)
  case activeReplay => exact link_effect hs (linkActive_replays h3 hg he)
  case attemptLast => exact link_effect hs ((attemptTimeout_due ha ht hst).trans (if_pos hk))
  case attempt => exact link_effect hs ((attemptTimeout_due ha ht hst).trans (if_neg (Nat.not_le.2 hk)))
  case backoff => exact link_effect hs (backoffElapsed_due hb h5 ht)
  case corrOff => exact link_effect hs (corrCheck_off h0)
  case corr => exact link_effect hs (corrCheck_exceeded h4 h0 hb)
  case looped => exact link_effect hs (loopedExit_looped h8)

/-- Settles O26: each commit by the value or the command that it is on the link, a loopback by the state and the mode that it has
(R254, R257, R261 to R263, R358; the settings loaded are R260's, the node ID is R265's). -/
theorem draixCommits : Obligations.DraixCommits := by
  unfold Obligations.DraixCommits
  refine ⟨fun s w => ⟨?disable, ?enable, ?train, ?resume, ?fresh, ?nearSerial, ?nearParallel, ?farEnd, ?loopExit, fun v => ?eye,
      fun v => ?inject⟩,
    fun s x n hs hx => ?eyeDone, fun l v hv hst he hr hn => ⟨fun h3 => ?far, fun h3 => ?near⟩, fun l h => ?exits⟩
  case disable => exact commit_linkValue (by decide) (by decide) apply_disable
  case enable => exact commit_linkValue (by decide) (by decide) apply_enable
  case train => exact commit_linkCommand (by decide) (by decide) command_train
  case resume => exact commit_linkCommand (by decide) (by decide) command_retrainResume
  case fresh => exact commit_linkCommand (by decide) (by decide) command_retrainFresh
  case nearSerial => exact commit_linkValue (by decide) (by decide) fun l => apply_loopback l (by decide)
  case nearParallel => exact commit_linkValue (by decide) (by decide) fun l => apply_loopback l (by decide)
  case farEnd => exact commit_linkValue (by decide) (by decide) fun l => apply_loopback l (by decide)
  case loopExit => exact commit_linkValue (by decide) (by decide) fun l => apply_loopback l (by decide)
  case eye => exact commit_linkCommand (by decide) (by decide) fun l => command_eyeCtrl l v
  case inject => exact commit_linkCommand (by decide) (by decide) fun l => command_errInject l v
  case eyeDone => exact link_effect hs (eyeDone_scanning hx n)
  case far => exact (loopback_enters hv hst he hr hn).trans (if_pos h3)
  case near => exact (loopback_enters hv hst he hr hn).trans (if_neg h3)
  case exits => exact loopback_exits h

end

/-! # The mirror and failover: records, Beacons, the serving lease and claims

What the commands of the Mirror Engine do: the records it sends and applies (R269, R271 to R274), Beacons and the entry to solo-link (R275,
R276, R279), and the lapse of the serving lease, the claims at the witness and the failover (R276 to R278, R281, R282, R287). -/

namespace Sys2Proof.Machine
open Ob

/-! ## Records out and line deltas in (R269, R271, R272) -/

theorem packExpiry_due {f : Fab} {c t : Nat} (hc : c < 2) (hp : f.mir.packAt.getD c none = some t) (hm : f.mayPack = true)
    (ht : t + f.eng.ob MIR_PACK_WAIT ≤ f.eng.ts) : f.packExpiry c = f.sendPack c := by
  simp only [Fab.packExpiry, Nat.mod_eq_of_lt hc, hp, if_pos (And.intro hm ht)]

section DeltaApply
variable {e e1 : Eng} {k : Nat} {d : DeltaQ} (hd : e.nextDelta k = some d) (hf : e.foghorn = false) (hi : e.ob HDC_INIT_DONE = 1)
include hd hf hi

theorem deltaApply_ready (hl : e.dirLookup k (d.line / 4) (e.psn d.line) false = (e1, .ready)) : e.deltaApply k = e1.deltaWrite d := by
  have mayApply : ¬(e.foghorn = true ∨ e.ob HDC_INIT_DONE ≠ 1) := by simp [hf, hi]
  simp only [Eng.deltaApply, hd, if_neg mayApply, hl]

theorem deltaApply_filling (hl : e.dirLookup k (d.line / 4) (e.psn d.line) false = (e1, .filling)) : e.deltaApply k = e1.startFills := by
  have mayApply : ¬(e.foghorn = true ∨ e.ob HDC_INIT_DONE ≠ 1) := by simp [hf, hi]
  simp only [Eng.deltaApply, hd, if_neg mayApply, hl]

end DeltaApply

/-! ## Lease deltas and journal records in (R271, R273, R274, R286) -/

theorem leaseApply_oldest {f : Fab} {i : InRec}
    (hi : f.mir.inRecs.find? (fun i => i.cls == 0 && i.word % 16 == 2 && decide (i.mseq ≤ f.mir.rcv.getD 0 0)) = some i) :
    f.leaseApply = (f.e fun e => e.leaseDelta i.word).takeIn i := by
  simp only [Fab.leaseApply, hi]

/-- A tile-map entry as its record has it, with the heat that this member counts (R273). -/
def Eng.journalTile (e : Eng) (w : Nat) : Eng :=
  e.tileWrite [{ i := bits w 32 8, what := .raw, ent := { Tent.ofWord (bits w 87 33) with heat := (e.tent (bits w 32 8)).heat } }]

/-- A step of a re-mooring of the partner's, with the cursors known of its unit; step 0 ends it (R273). -/
def Mir.journalRemoor (r : Mir) (w : Nat) : Mir :=
  let cur := match r.rej with | some j => if j.unit = bits w 23 8 then j.cursors else [] | none => []
  { r with rej := if bits w 28 26 = 0 then none else some { unit := bits w 23 8, role := bits w 25 24, step := bits w 28 26, cursors := cur } }

/-- A cursor of the partner's re-mooring of a unit (R273). -/
def Mir.journalCursor (r : Mir) (w : Nat) : Mir :=
  { r with rej := r.rej.map fun (j : ReJ) => if j.unit = bits w 23 8 then { j with cursors := kput (bits w 28 24) (bits w 72 29) j.cursors } else j }

/-- What a journal record does by its type, but for type 5, which may have to wait (R273, R286; log entry 26). -/
def Fab.journalEffect (f : Fab) (w : Nat) : Fab :=
  if w % 256 = 1 then f.e fun e => e.journalTile w
  else if w % 256 = 2 then f.m fun r => r.journalRemoor w
  else if w % 256 = 3 then f.m fun r => r.journalCursor w
  else if w % 256 = 4 then f.e fun e => e.shadowClear (bits w 67 24)
  else if w % 256 = 6 then f.e fun e => e.roleApply (bits w 23 8) (bits w 31 24 + bits w 39 32 * 2 ^ 8 + bits w 40 40 * 2 ^ 16)
  else if w % 256 = 7 then f.mgrRec w
  else f

section JournalApply
variable {f : Fab} {i : InRec} (hi : f.mir.inRecs.find? (fun i => i.cls == 1 && decide (i.mseq ≤ f.mir.rcv.getD 1 0)) = some i)
include hi

/-- The oldest journal record has its type's effect and leaves the pool. -/
theorem journalApply_oldest {g : Fab} (h5 : i.word % 256 ≠ 5) (hg : f.journalEffect i.word = g) : f.journalApply = g.takeIn i := by
  simp only [Fab.journalApply, hi, if_neg h5, ← hg]
  rfl

/-- A record of a sector to shed leaves the pool once the eviction starts or needs none (R273, type 0x05). -/
theorem journalApply_shed {e1 : Eng} (h5 : i.word % 256 = 5) (he : f.eng.shedEvict (bits i.word 51 8) = (e1, true)) :
    f.journalApply = Fab.takeIn { f with eng := e1 } i := by
  simp only [Fab.journalApply, hi, if_pos h5, he, if_true]

end JournalApply

section JournalEffect
variable {f : Fab} {w : Nat}

theorem journalEffect_tile (h : w % 256 = 1) : f.journalEffect w = f.e fun e => e.journalTile w := if_pos h

theorem journalEffect_remoor (h : w % 256 = 2) : f.journalEffect w = f.m fun r => r.journalRemoor w := by
  simp [Fab.journalEffect, h]

theorem journalEffect_cursor (h : w % 256 = 3) : f.journalEffect w = f.m fun r => r.journalCursor w := by
  simp [Fab.journalEffect, h]

theorem journalEffect_clear (h : w % 256 = 4) : f.journalEffect w = f.e fun e => e.shadowClear (bits w 67 24) := by
  simp [Fab.journalEffect, h]

theorem journalEffect_role (h : w % 256 = 6) :
    f.journalEffect w = f.e fun e => e.roleApply (bits w 23 8) (bits w 31 24 + bits w 39 32 * 2 ^ 8 + bits w 40 40 * 2 ^ 16) := by
  simp [Fab.journalEffect, h]

theorem journalEffect_manager (h : w % 256 = 7) : f.journalEffect w = f.mgrRec w := by simp [Fab.journalEffect, h]

end JournalEffect

/-! ## Beacons (R275, R276) -/

/-- The Beacon that a member sends next (R275, Table 11.4). -/
def Fab.nextBeacon (f : Fab) : BeaconB :=
  { seq := (f.mir.bseq + 1) % 2 ^ 32, echo := f.mir.blast, dapp := f.applied 0, japp := f.applied 1, dsent := f.mir.sent.getD 0 0,
    jsent := f.mir.sent.getD 1 0, state := f.st, shadow := f.eng.ob MIR_SHADOW, epoch := f.eng.ob MIR_EPOCH, edge := none }

/-- A Beacon's number is taken: it is kept for as long as an echo of it counts, and the next one is due in a period (R275, R276). -/
def Fab.beaconNumbered (f : Fab) (n : Nat) : Fab :=
  f.m fun r =>
    { r with bseq := n, bnext := f.eng.ts + f.eng.ob MIR_BEACON_PERIOD,
             bsent := (n, f.eng.ts) :: r.bsent.filter fun (p : Nat × Nat) => decide (f.eng.ts < p.2 + f.window) }

/-- The copy over Draix, while the link is Active. -/
def Fab.beaconOverLink (f : Fab) (b : BeaconB) : Fab :=
  if f.eng.ob DRX_STATE = 4 then f.l fun l => l.submit { cls := 3, payload := BitVec.ofNat 1984 (beaconBits b), recs := [] } else f

/-- The copy over the crossbar, a message of type 0x01. -/
def Fab.beaconOverXbar (f : Fab) (b : BeaconB) : Fab :=
  (f.m fun r => { r with hseq := (f.mir.hseq + 1) % 2 ^ 32 }).put f.mir.hseq
    { typ := 0x01, dst := f.peer, body := beaconBits b, req := none, ans := none, re := none, epoch := b.epoch } true

theorem beaconSend_due {f : Fab} (hm : f.mayBeacon = true) :
    f.beaconSend = ((f.beaconNumbered f.nextBeacon.seq).beaconOverLink f.nextBeacon).beaconOverXbar f.nextBeacon :=
  if_neg (by simp [hm])

/-! ## The entry to solo-link (R274, R279) -/

/-- A swap of units stays only where the old home forwards (R279, R285). -/
def keptSwap (w : Option MSwap) : Option MSwap :=
  match w with | some w => (match w.st with | .forward _ => some w | _ => none) | none => none

theorem solo_serving {f : Fab} (hl : f.leaseHolds = true) (cause : Nat) :
    f.solo cause = ((((f.e fun e => (e.set MIR_STATE 0 3).set MIR_SHADOW 0 3).dropRecs).e fun e =>
      Eng.releaseAcks { e with mswap := keptSwap e.mswap }).e fun e => (e.event 0x07 (evArgs [(0, cause)])).irq 12) :=
  if_neg (by simp [hl])

theorem journalTimeout_due {f : Fab} {j : JRec} (hj : j ∈ f.mir.buf) (ht : j.at_ + f.eng.ob MIR_JOURNAL_TIMEOUT * 1000 ≤ f.eng.ts) :
    f.journalTimeout = f.solo 2 :=
  if_pos (List.any_eq_true.2 ⟨j, hj, decide_eq_true ht⟩)

theorem journalTimeout_capped {f : Fab} {j : JRec} (hl : f.leaseHolds = true)
    (hrun : ∀ k ∈ f.mir.buf, f.eng.ts < k.at_ + f.eng.ob MIR_JOURNAL_TIMEOUT * 1000) (hj : j ∈ f.mir.buf)
    (hcap : j.t0 + 4 * (f.eng.ob MIR_JOURNAL_TIMEOUT * 1000) ≤ f.eng.ts) :
    f.journalTimeout = (f.e fun e => e.inc RAS_CAPPED_EXPIRIES).solo 2 := by
  have noneDue : ¬(f.mir.buf.any fun k => decide (k.at_ + f.eng.ob MIR_JOURNAL_TIMEOUT * 1000 ≤ f.eng.ts)) = true := by
    simpa [List.any_eq_true] using hrun
  exact (if_neg noneDue).trans (if_pos ⟨hl, List.any_eq_true.2 ⟨j, hj, decide_eq_true hcap⟩⟩)

theorem pathLoss_due {f : Fab} (ht : f.mir.bdrx + f.window ≤ f.eng.ts) : f.pathLoss = f.solo 3 := if_pos ht

/-! ## The serving lease and fencing (R276, R277) -/

/-- A member fences: nothing is granted to it yet and no guard runs (R276). -/
def Fab.fence (f : Fab) : Fab :=
  (f.e fun e => e.set MIR_STATE 0 4).m fun r => { r with granted := false, guard := none, drain := false, scan := none }

theorem lapse_fences {f : Fab} (hst : f.st = 1 ∨ f.st = 2) (hl : f.leaseHolds = false) :
    f.lapse = f.fence.e fun e => e.hsend 0x02 (e.ob HIER_WITNESS_NODE) (e.ob MIR_PARTNER_NODE) none none none :=
  if_pos ⟨hst, by simp [hl]⟩

/-- A grant starts the guard, and ends the wait for an answer to CLAIM; the witness holds a record only where it granted (R277). -/
theorem grantNow_fencing {f : Fab} (hst : f.st = 4) (hg : f.mir.granted = false) (byWitness : Bool) :
    f.grantNow byWitness = (f.answered fun m => m.typ == 0x02).m fun r =>
      { r with granted := true, held := r.held || byWitness, guard := some (f.eng.ts + f.eng.ob MIR_FENCE_GUARD) } :=
  if_neg (by simp [hst, hg])

/-- MIR_FORCE_SOLO is a grant that leaves the witness without a record to release (R277). -/
theorem grantNow_forced (f : Fab) :
    f.grantNow false = if f.st ≠ 4 ∨ f.mir.granted then f
      else (f.answered fun m => m.typ == 0x02).m fun r =>
        { r with granted := true, guard := some (f.eng.ts + f.eng.ob MIR_FENCE_GUARD) } := by
  simp only [Fab.grantNow, Bool.or_false]

theorem startWr_mirForceSolo (c : Chip) (w : World) : c.startWr w ⟨MIR_FORCE_SOLO, 0, 1⟩ = c.setFab (c.fab.grantNow false) := rfl

/-! ## Messages of Beacons and claims (R276 to R278, R287) -/

section NewMessage
variable {f : Fab} {h : Hdr} (hn : f.isNew h = true)
include hn

theorem beacon_partner {b : BeaconB} (hs : h.src = (f.arrived h).peer) : f.beacon h b = (f.arrived h).beaconIn b false :=
  (hin_new f h _ _ hn).trans (if_pos hs)

section Claim
variable {p : Nat}

theorem claim_recorded (hc : (f.arrived h).mir.claims.find? (fun c => c.1 == min h.src p) = none) :
    f.claim h p =
      (((f.arrived h).m fun r => { r with claims := kput (min h.src p) (h.src, h.epoch) r.claims }).e fun e =>
        e.journalMgr 1 (min h.src p + h.src * 2 ^ 8 + h.epoch % 256 * 2 ^ 16)).e fun e => e.hsend 0x03 h.src 0 none none (some h.seq) := by
  rw [Fab.claim, hin_new f h _ _ hn]
  simp only [hc]

theorem release_unrecorded (hc : (f.arrived h).mir.claims.find? (fun c => c.1 == min h.src p) = none) : f.releaseMsg h p = f.arrived h := by
  rw [Fab.releaseMsg, hin_new f h _ _ hn]
  simp only [hc]

variable {c : Nat × Nat × Nat} (hc : (f.arrived h).mir.claims.find? (fun c => c.1 == min h.src p) = some c)
include hc

theorem claim_answered :
    f.claim h p = (f.arrived h).e fun e => e.hsend (if c.2.1 = h.src then 0x03 else 0x04) h.src 0 none none (some h.seq) := by
  rw [Fab.claim, hin_new f h _ _ hn]
  simp only [hc]

theorem release_recorded : f.releaseMsg h p = if c.2.1 = h.src then (f.arrived h).unclaim (min h.src p) else f.arrived h := by
  rw [Fab.releaseMsg, hin_new f h _ _ hn]
  simp only [hc]

end Claim

section Answer
variable (hw : h.src = (f.arrived h).eng.ob HIER_WITNESS_NODE) (hst : (f.arrived h).st = 4) (hg : (f.arrived h).mir.granted = false)
include hw hst hg

theorem grant_fencing :
    f.grant h = ((f.arrived h).answered fun m => m.typ == 0x02).m fun r =>
      { r with granted := true, held := true, guard := some ((f.arrived h).eng.ts + (f.arrived h).eng.ob MIR_FENCE_GUARD) } := by
  rw [Fab.grant, hin_new f h _ _ hn, if_pos hw, grantNow_fencing hst hg]
  simp only [Bool.or_true]

theorem deny_fencing :
    f.deny h = ((f.arrived h).answered fun m => m.typ == 0x02).e fun e => { (e.set MIR_STATE 0 5) with foghorn := true, fenced := true } :=
  (hin_new f h _ _ hn).trans (if_neg (by simp [hst, hg, hw]))

end Answer

end NewMessage

/-! ## Failover (R281, R282) -/

/-- At the guard's end the records received without a gap remain to be applied (R281 steps 3 and 4). -/
theorem guardExpiry_due {f : Fab} {t : Nat} (hg : f.mir.guard = some t) (ht : t ≤ f.eng.ts) (hst : f.st = 4) :
    f.guardExpiry = f.m fun r =>
      { r with guard := none, drain := true, inRecs := r.inRecs.filter fun i => decide (i.mseq ≤ f.mir.rcv.getD i.cls 0) } := by
  have ended : ¬(f.eng.ts < t ∨ f.st ≠ 4) := by simp [hst, ht]
  simp only [Fab.guardExpiry, hg, if_neg ended]

theorem adoptNow_drained {f : Fab} (hst : f.st = 4) (hd : f.mir.drain = true) (hr : f.mir.inRecs = []) (hq : f.eng.deltas = []) :
    f.adoptNow = f.adoptUnits.announce f.peer f.toAdopt.length :=
  if_neg (by simp [hst, hd, hr, hq])

end Sys2Proof.Machine

section
open Sys2Proof Sys2Proof.Machine Sys2Proof.Machine.Ob

/-- Settles O27: each record by its class and its type, a Beacon by its sending and its receipt, and each cause of solo-link by the timer that
has run out. From when the timers of records and of the path count is log entry 20's, how long the lease holds log entry 36's, and what a
record of the manager holds log entry 26's. -/
theorem mirrorRecordsAndBeacons : Obligations.MirrorRecordsAndBeacons := by
  unfold Obligations.MirrorRecordsAndBeacons
  intro s hs f e
  have journal {i : InRec} {g : Fab} (hi : f.mir.inRecs.find? (fun i => i.cls == 1 && decide (i.mseq ≤ f.mir.rcv.getD 1 0)) = some i)
      (h5 : i.word % 256 ≠ 5) (hg : f.journalEffect i.word = g) : s.fabric Fab.journalApply = .next (s.effFab (g.takeIn i)) :=
    fabric_effect hs (journalApply_oldest hi h5 hg)
  refine ⟨fun c t hc hp hm ht => ?pack, fun k d e1 hd hf hi hl => ?ready, fun k d e1 hd hf hi hl => ?filling, fun i hi => ?lease,
    fun i hi => ⟨fun h => ?tile, fun h => ?clear, fun h => ?remoor, fun h => ?cursor, fun h e1 he => ?shed, fun h => ?role, fun h => ?manager⟩,
    fun hm => ?send, fun h b hn hp => ?beacon, fun j hj ht => ?timeout, fun j hl hrun hj hcap => ?capped, fun ht => ?path, fun k hl => ?solo⟩
  case pack => exact fabric_effect hs (packExpiry_due hc hp hm ht)
  case ready => exact engine_effect hs (deltaApply_ready hd hf hi hl)
  case filling => exact engine_effect hs (deltaApply_filling hd hf hi hl)
  case lease => exact fabric_effect hs (leaseApply_oldest hi)
  case tile => exact journal hi (by omega) (journalEffect_tile h)
  case clear => exact journal hi (by omega) (journalEffect_clear h)
  case remoor => exact journal hi (by omega) (journalEffect_remoor h)
  case cursor => exact journal hi (by omega) (journalEffect_cursor h)
  case shed => exact fabric_effect hs (journalApply_shed hi h he)
  case role => exact journal hi (by omega) (journalEffect_role h)
  case manager => exact journal hi (by omega) (journalEffect_manager h)
  case send => exact fabric_effect hs (beaconSend_due hm)
  case beacon => exact fabric_effect hs (beacon_partner hn hp)
  case timeout => exact fabric_effect hs (journalTimeout_due hj ht)
  case capped => exact fabric_effect hs (journalTimeout_capped hl hrun hj hcap)
  case path => exact fabric_effect hs (pathLoss_due ht)
  case solo => exact solo_serving hl k

/-- Settles O28: the lapse, the guard's end and the adoption by the state of the member, each message by the record at the witness or the
claim that waits, and MIR_FORCE_SOLO as a grant of its own. How long the lease holds is log entry 36's, and which units are adopted is left
in the model's `toAdopt` (log entry 38). -/
theorem leaseClaimAndFailover : Obligations.LeaseClaimAndFailover := by
  unfold Obligations.LeaseClaimAndFailover
  refine ⟨fun s hs => ⟨fun hst hl => ?lapse, fun t hg ht hst => ?guard, fun hst hd hr hq => ?adopt,
    fun h hn => ⟨fun p hc => ?recorded, fun p c hc => ⟨?answered, fun ho => ?cleared, fun ho => ?kept⟩, fun p hc => ?unrecorded,
      fun hw hst hg => ⟨?grant, ?deny⟩⟩⟩, fun s w h => ?force⟩
  case lapse => exact fabric_effect hs (lapse_fences hst hl)
  case guard => exact fabric_effect hs (guardExpiry_due hg ht hst)
  case adopt => exact fabric_effect hs (adoptNow_drained hst hd hr hq)
  case recorded => exact fabric_effect hs (claim_recorded hn hc)
  case answered => exact fabric_effect hs (claim_answered hn hc)
  case cleared => exact fabric_effect hs ((release_recorded hn hc).trans (if_pos ho))
  case kept => exact fabric_effect hs ((release_recorded hn hc).trans (if_neg ho))
  case unrecorded => exact fabric_effect hs (release_unrecorded hn hc)
  case grant => exact fabric_effect hs (grant_fencing hn hw hst hg)
  case deny => exact fabric_effect hs (deny_fencing hn hw hst hg)
  case force => exact commit_starts (by decide) (fun c => (startWr_mirForceSolo c w).trans (congrArg c.setFab (grantNow_forced c.fab))) h

end

/-! # Reliability: the commits of retirement, injection and raw reads, and the codes of the stores

What a commit of RAS_PAGE_RETIRE, RAS_BANK_RETIRE, RAS_INJECT, RAS_RAW_READ and RAS_FOGHORN_TEST starts (R301, R302, R305, R308), and what
the SEC-DED code and the symbol codes say of a word read with errors (R291, R292, R294). -/

namespace Sys2Proof.Machine
open Ob

/-! ## Commits of the RAS Unit (R301, R302, R305, R308) -/

section RasCommand
variable (c : Chip) (w : World) (v : Nat)

theorem startWr_rasPageRetire : c.startWr w ⟨RAS_PAGE_RETIRE, 0, v⟩ = c.e fun e => e.pageRetire v := by
  simp +decide only [Chip.startWr, Eng.applyCommand, if_true, if_false]

theorem startWr_rasBankRetire : c.startWr w ⟨RAS_BANK_RETIRE, 0, v⟩ = c.e fun e => e.bankRetire v := by
  simp +decide only [Chip.startWr, Eng.applyCommand, if_true, if_false]

theorem startWr_rasInject : c.startWr w ⟨RAS_INJECT, 0, v⟩ = c.e fun e => e.inject v := by
  simp +decide only [Chip.startWr, Eng.applyCommand, if_true, if_false]

theorem startWr_rasRawRead : c.startWr w ⟨RAS_RAW_READ, 0, v⟩ = c.e fun e => e.rawRead v := by
  simp +decide only [Chip.startWr, Eng.applyCommand, if_true, if_false]

end RasCommand

/-- The test register keeps its value, and Foghorn rises with cause 6 (R308). -/
theorem applyWr_rasFoghornTest (c : Chip) :
    c.applyWr ⟨RAS_FOGHORN_TEST, 0, 1⟩ = c.e fun e => (e.set RAS_FOGHORN_TEST 0 1).foghornMark 6 0 := by
  have on : (OWr.mk RAS_FOGHORN_TEST 0 1).v = 1 := by decide
  simp +decide only [Chip.applyWr, Eng.applyValue, on, if_true, if_false]

/-- With a spare page free, the page is read whole under its lock (R301). -/
theorem pageRetire_spare {e : Eng} {v el : Nat} (h : e.sparePage (bits v 20 1) = some el) :
    e.pageRetire v = (e.set RAS_RETIRE_BUSY 0 1).newSeq (.retire el (bits v 20 1) (bit v 0)) (pageCh (bits v 20 1)) 3
      (some (if bit v 0 then tileLock (bits v 20 1) else bits v 20 1))
      [rds (if bit v 0 then e.wholeTile (bits v 20 1) else e.wholeDbs (bits v 20 1))] := by
  simp only [Eng.pageRetire, h]

/-- With a spare bank free, the bank's copy to it begins (R302). -/
theorem bankRetire_spare {e : Eng} {x : Nat} (b : Nat) (h : e.spareBank = some x) :
    e.bankRetire b = { (e.set RAS_RETIRE_BUSY 0 1) with ras := { e.ras with bank := some { bank := b, spare := x } } } := by
  unfold Eng.bankRetire
  rw [h]

/-! ## Bits of an error pattern -/

theorem two_pow_add_lower {i j : Nat} (h : j < i) : 2 ^ i + 2 ^ j = 2 ^ i ^^^ 2 ^ j := by
  have joined := Nat.two_pow_add_eq_or_of_lt (Nat.pow_lt_pow_right (by decide : 1 < 2) h) 1
  rw [Nat.mul_one] at joined
  refine joined.trans (Nat.eq_of_testBit_eq fun p => ?_)
  rw [Nat.testBit_or, Nat.testBit_xor, Nat.testBit_two_pow, Nat.testBit_two_pow]
  by_cases hi : i = p
  · rw [decide_eq_true hi, decide_eq_false (hi ▸ Nat.ne_of_lt h : ¬j = p)]
    rfl
  · rw [decide_eq_false hi, Bool.false_or, Bool.false_xor]

/-- Bits at two positions add up without a carry. -/
theorem two_pow_add_two_pow {i j : Nat} (h : i ≠ j) : 2 ^ i + 2 ^ j = 2 ^ i ^^^ 2 ^ j := by
  rcases Nat.lt_or_gt_of_ne h with hlt | hlt
  · rw [Nat.add_comm, Nat.xor_comm, two_pow_add_lower hlt]
  · exact two_pow_add_lower hlt

theorem two_pow_and_two_pow {i j : Nat} (h : i ≠ j) : 2 ^ i &&& 2 ^ j = 0 := by
  refine Nat.eq_of_testBit_eq fun p => ?_
  rw [Nat.testBit_and, Nat.testBit_two_pow, Nat.testBit_two_pow, Nat.zero_testBit]
  by_cases hi : i = p
  · rw [decide_eq_false (fun hj => h (hi.trans hj.symm) : ¬j = p), Bool.and_false]
  · rw [decide_eq_false hi, Bool.false_and]

theorem eq_of_xor_eq_zero {a b : Nat} (h : a ^^^ b = 0) : a = b :=
  calc
    a = a ^^^ b ^^^ b := by rw [Nat.xor_assoc, Nat.xor_self, Nat.xor_zero]
    _ = b := by rw [h, Nat.zero_xor]

theorem weight_succ (n w : Nat) : weight n (w + 1) = weight n w + (n.testBit w).toNat := by
  rw [weight, bitList, List.range_succ, List.filter_append, List.length_append]
  cases h : n.testBit w <;> simp [weight, bitList, h]

/-- The bits of two numbers are those of their difference and, twice over, those that they share. -/
theorem weight_xor (a b w : Nat) : weight (a ^^^ b) w + 2 * weight (a &&& b) w = weight a w + weight b w := by
  induction w with
  | zero => rfl
  | succ w ih =>
    simp only [weight_succ, Nat.testBit_xor, Nat.testBit_and]
    have carry : ∀ x y : Bool, (x ^^ y).toNat + 2 * (x && y).toNat = x.toNat + y.toNat := by decide
    have here := carry (a.testBit w) (b.testBit w)
    omega

theorem weight_zero (w : Nat) : weight 0 w = 0 := by simp [weight, bitList]

theorem weight_two_pow (i w : Nat) : weight (2 ^ i) w = if i < w then 1 else 0 := by
  induction w with
  | zero => rfl
  | succ w ih =>
    rw [weight_succ, ih, Nat.testBit_two_pow]
    rcases Nat.lt_trichotomy i w with h | rfl | h
    · rw [if_pos h, decide_eq_false (Nat.ne_of_lt h), if_pos (Nat.lt_succ_of_lt h)]
      rfl
    · rw [if_neg (Nat.lt_irrefl i), decide_eq_true rfl, if_pos (Nat.lt_succ_self i)]
      rfl
    · rw [if_neg (Nat.lt_asymm h), decide_eq_false (Nat.ne_of_gt h), if_neg (Nat.not_lt.2 h)]
      rfl

theorem weight_two_bits {i j w : Nat} (hij : i ≠ j) (hi : i < w) (hj : j < w) : weight (2 ^ i ^^^ 2 ^ j) w = 2 := by
  have total := weight_xor (2 ^ i) (2 ^ j) w
  rw [two_pow_and_two_pow hij, weight_zero, weight_two_pow, weight_two_pow, if_pos hi, if_pos hj] at total
  exact total

/-! ## The columns of SEC-DED (R292) -/

section Columns
variable {k r : Nat}

theorem mem_oddCols {c : Nat} : c ∈ oddCols r ↔ c < 2 ^ r ∧ weight c r % 2 = 1 ∧ 3 ≤ weight c r := by
  simp [oddCols]

/-- Every column has an odd number of bits. -/
theorem secCols_odd {c : Nat} (h : c ∈ secCols k r) : weight c r % 2 = 1 := by
  rcases List.mem_append.1 h with h | h
  · exact (mem_oddCols.1 (List.mem_of_mem_take h)).2.1
  · obtain ⟨i, hi, rfl⟩ := List.mem_map.1 h
    rw [weight_two_pow, if_pos (List.mem_range.1 hi)]

/-- No two bits have one column: a data column has three bits or more, a check column one. -/
theorem secCols_nodup : (secCols k r).Nodup := by
  refine List.nodup_append.2 ⟨?data, ?check, ?apart⟩
  case data => exact List.Nodup.sublist (List.take_sublist _ _) (List.Pairwise.filter _ List.nodup_range)
  case check => exact List.pairwise_map.2 (List.Pairwise.imp (fun hne he => hne ((Nat.pow_right_inj (by decide)).1 he)) List.nodup_range)
  case apart =>
    rintro c hc _ hp rfl
    obtain ⟨i, -, rfl⟩ := List.mem_map.1 hp
    have three := (mem_oddCols.1 (List.mem_of_mem_take hc)).2.2
    rw [weight_two_pow] at three
    split at three <;> omega

theorem secCols_inj {i j : Nat} {hi : i < (secCols k r).length} {hj : j < (secCols k r).length} (h : (secCols k r)[i] = (secCols k r)[j]) :
    i = j :=
  (List.getElem_inj secCols_nodup).1 h

theorem secCols_length (h : k ≤ (oddCols r).length) : (secCols k r).length = k + r := by
  rw [secCols, List.length_append, List.length_take_of_le h, List.length_map, List.length_range]

/-! ## The syndrome of SEC-DED (R292) -/

/-- Columns of the positions of an error pattern, added to a syndrome. -/
def addCols (mask : Nat) (cols : List (Nat × Nat)) (s : Nat) : Nat :=
  cols.foldl (fun s c => if mask.testBit c.2 then s ^^^ c.1 else s) s

theorem secSyn_addCols (mask : Nat) : secSyn k r mask = addCols mask (secCols k r).zipIdx 0 := rfl

theorem addCols_cons (mask : Nat) (c : Nat × Nat) (cols : List (Nat × Nat)) (s : Nat) :
    addCols mask (c :: cols) s = addCols mask cols (if mask.testBit c.2 then s ^^^ c.1 else s) := rfl

theorem addCols_xor (m p : Nat) (cols : List (Nat × Nat)) (s t : Nat) :
    addCols (m ^^^ p) cols (s ^^^ t) = addCols m cols s ^^^ addCols p cols t := by
  induction cols generalizing s t with
  | nil => rfl
  | cons c cols ih =>
    simp only [addCols_cons, ← ih, Nat.testBit_xor]
    congr 1
    cases m.testBit c.2 <;> cases p.testBit c.2
    case false.false => rfl
    case false.true => exact Nat.xor_assoc s t c.1
    case true.false =>
      have swap : s ^^^ t ^^^ c.1 = s ^^^ c.1 ^^^ t := by rw [Nat.xor_assoc, Nat.xor_comm t, ← Nat.xor_assoc]
      exact swap
    case true.true =>
      have cancel : s ^^^ c.1 ^^^ (t ^^^ c.1) = s ^^^ t := by
        rw [Nat.xor_comm t, ← Nat.xor_assoc, Nat.xor_assoc s, Nat.xor_self, Nat.xor_zero]
      exact cancel.symm

/-- An error of one bit adds the column of its position. -/
theorem addCols_two_pow (cols : List Nat) (i n s : Nat) :
    addCols (2 ^ i) (cols.zipIdx n) s = s ^^^ (if n ≤ i then cols[i - n]?.getD 0 else 0) := by
  induction cols generalizing n s with
  | nil => simp [addCols]
  | cons c cols ih =>
    rw [List.zipIdx_cons, addCols_cons, ih, Nat.testBit_two_pow]
    rcases Nat.lt_trichotomy i n with h | rfl | h
    · rw [decide_eq_false (Nat.ne_of_lt h), if_neg Bool.false_ne_true, if_neg (Nat.not_le.2 (Nat.lt_succ_of_lt h)), if_neg (Nat.not_le.2 h)]
    · rw [decide_eq_true rfl, if_pos rfl, if_neg (Nat.not_succ_le_self i), if_pos (Nat.le_refl i), Nat.sub_self, Nat.xor_zero]
      rfl
    · obtain ⟨d, rfl⟩ := Nat.exists_eq_add_of_lt h
      have next : n + d + 1 - n = d + 1 := by omega
      have last : n + d + 1 - (n + 1) = d := by omega
      rw [decide_eq_false (Nat.ne_of_gt h), if_neg Bool.false_ne_true, if_pos (Nat.succ_le_of_lt h), if_pos (Nat.le_of_lt h), next, last,
        List.getElem?_cons_succ]

theorem secSyn_xor (m p : Nat) : secSyn k r (m ^^^ p) = secSyn k r m ^^^ secSyn k r p :=
  addCols_xor m p (secCols k r).zipIdx 0 0

theorem secSyn_bit {i : Nat} (hi : i < (secCols k r).length) : secSyn k r (2 ^ i) = (secCols k r)[i] := by
  simp [secSyn_addCols, addCols_two_pow, hi]

/-! ## Reads under SEC-DED (R292) -/

/-- The syndrome of one bit in error is its own column, and so no other's. -/
theorem secRead_bit {i : Nat} (hi : i < (secCols k r).length) : secRead k r (2 ^ i) = .corr i (secSyn k r (2 ^ i)) := by
  have odd := secCols_odd (List.getElem_mem hi)
  have nonzero : (secCols k r)[i] ≠ 0 := by
    intro h
    rw [h, weight_zero] at odd
    exact absurd odd (by decide)
  have position : (secCols k r).findIdx? (fun c => c == (secCols k r)[i]) = some i := by
    refine List.findIdx?_eq_some_iff_getElem.2 ⟨hi, beq_self_eq_true _, fun j hj he => ?_⟩
    exact Nat.ne_of_lt hj (secCols_inj (beq_iff_eq.1 he))
  simp only [secRead, secSyn_bit hi, if_neg nonzero, position]

/-- The syndrome of two bits in error has an even number of bits and is not 0, so that it is no column. -/
theorem secRead_bits {i j : Nat} (hi : i < (secCols k r).length) (hj : j < (secCols k r).length) (hij : i ≠ j) :
    secRead k r (2 ^ i ^^^ 2 ^ j) = .bad (secSyn k r (2 ^ i ^^^ 2 ^ j)) := by
  have syndrome : secSyn k r (2 ^ i ^^^ 2 ^ j) = (secCols k r)[i] ^^^ (secCols k r)[j] := by rw [secSyn_xor, secSyn_bit hi, secSyn_bit hj]
  have nonzero : (secCols k r)[i] ^^^ (secCols k r)[j] ≠ 0 := fun h => hij (secCols_inj (eq_of_xor_eq_zero h))
  have noColumn : (secCols k r).findIdx? (fun c => c == (secCols k r)[i] ^^^ (secCols k r)[j]) = none := by
    refine List.findIdx?_eq_none_iff.2 fun c hc => beq_eq_false_iff_ne.2 ?_
    rintro rfl
    have even := weight_xor (secCols k r)[i] (secCols k r)[j] r
    have oddSum := secCols_odd hc
    have oddI := secCols_odd (List.getElem_mem hi)
    have oddJ := secCols_odd (List.getElem_mem hj)
    omega
  simp only [secRead, syndrome, if_neg nonzero, noColumn]

end Columns

/-! ## Reads under the symbol codes (R293, R294) -/

/-- A symbol is in error where one of its four bits is. -/
theorem mem_badSymbols {n mask a : Nat} : a ∈ badSymbols n mask ↔ a < n + 3 ∧ ∃ p, p / 4 = a ∧ mask.testBit p = true := by
  have field : bits mask (4 * a + 3) (4 * a) ≠ 0 ↔ ∃ p, p / 4 = a ∧ mask.testBit p = true := by
    constructor
    · intro h
      obtain ⟨q, hq⟩ := Nat.exists_testBit_of_ne_zero h
      rw [testBit_bits, Bool.and_eq_true, decide_eq_true_eq] at hq
      exact ⟨4 * a + q, by omega, hq.2⟩
    · rintro ⟨p, rfl, hp⟩ h
      have low := testBit_bits mask (4 * (p / 4) + 3) (4 * (p / 4)) (p % 4)
      rw [h, Nat.zero_testBit, Nat.div_add_mod, hp, Bool.and_true, eq_comm, decide_eq_false_iff_not] at low
      omega
  simp [badSymbols, ← field]

theorem badSymbols_nodup (n mask : Nat) : (badSymbols n mask).Nodup := List.Pairwise.filter _ List.nodup_range

theorem symbolBit_lt {v q : Nat} (hv : v < 16) (hq : v.testBit q = true) : q < 4 :=
  (Nat.pow_lt_pow_iff_right (by decide)).1 (Nat.lt_of_le_of_lt (Nat.ge_two_pow_of_testBit hq) hv : 2 ^ q < 2 ^ 4)

/-- The bits of a symbol in error lie in the four places from its lowest. -/
theorem testBit_symbol {v b p : Nat} (hv : v < 16) : (v * 2 ^ b).testBit p = true ↔ ∃ q < 4, p = b + q ∧ v.testBit q = true := by
  rw [Nat.testBit_mul_two_pow, Bool.and_eq_true, decide_eq_true_eq]
  constructor
  · rintro ⟨hb, hp⟩
    exact ⟨p - b, symbolBit_lt hv hp, by omega, hp⟩
  · rintro ⟨q, -, rfl, hq⟩
    exact ⟨by omega, by rwa [Nat.add_sub_cancel_left]⟩

/-- An error within one symbol is corrected at it. -/
theorem symRead_symbol {n i v : Nat} (hi : i < n + 3) (h0 : 0 < v) (hv : v < 16) :
    symRead n (v * 2 ^ (4 * i)) = .corr i (symSyn n (v * 2 ^ (4 * i))) := by
  have only (a : Nat) : a ∈ badSymbols n (v * 2 ^ (4 * i)) ↔ a ∈ [i] := by
    rw [mem_badSymbols, List.mem_singleton]
    simp only [testBit_symbol hv]
    constructor
    · rintro ⟨-, p, rfl, q, hq, rfl, -⟩
      omega
    · rintro rfl
      obtain ⟨q, hq⟩ := Nat.exists_testBit_of_ne_zero (Nat.ne_of_gt h0)
      have hlt := symbolBit_lt hv hq
      exact ⟨hi, 4 * a + q, by omega, q, hlt, rfl, hq⟩
  have bad : badSymbols n (v * 2 ^ (4 * i)) = [i] :=
    List.perm_singleton.1 ((List.perm_ext_iff_of_nodup (badSymbols_nodup _ _) (List.pairwise_singleton _ i)).2 only)
  simp only [symRead, bad]

/-- An error of two bits in two symbols is uncorrectable. -/
theorem symRead_bits {n i j : Nat} (hi : i < 4 * (n + 3)) (hj : j < 4 * (n + 3)) (hij : i / 4 ≠ j / 4) :
    symRead n (2 ^ i ^^^ 2 ^ j) = .bad (symSyn n (2 ^ i ^^^ 2 ^ j)) := by
  have hne : i ≠ j := fun h => hij (h ▸ rfl)
  have memI : i / 4 ∈ badSymbols n (2 ^ i ^^^ 2 ^ j) := mem_badSymbols.2 ⟨by omega, i, rfl, by simp [Nat.testBit_two_pow_of_ne hne.symm]⟩
  have memJ : j / 4 ∈ badSymbols n (2 ^ i ^^^ 2 ^ j) := mem_badSymbols.2 ⟨by omega, j, rfl, by simp [Nat.testBit_two_pow_of_ne hne]⟩
  have two : weight (2 ^ i ^^^ 2 ^ j) (4 * n + 12) = 2 := weight_two_bits hne (by omega) (by omega)
  unfold symRead
  match badSymbols n (2 ^ i ^^^ 2 ^ j), memI, memJ with
  | [], memI, _ => exact absurd memI List.not_mem_nil
  | [a], memI, memJ => exact absurd ((List.mem_singleton.1 memI).trans (List.mem_singleton.1 memJ).symm) hij
  | _ :: _ :: _, _, _ => exact if_pos two

/-! ## The words of the stores (R291, Table 12.1) -/

/-- Place of bit i of a word with k data bits in an error pattern: check bits stand from bit 128. -/
def errBit (k i : Nat) : Nat := if i < k then i else 128 + (i - k)

/-- A word of an error pattern, its check bits on top of its k data bits. -/
def wordOf (k mask : Nat) : Nat := mask % 2 ^ 128 % 2 ^ k + mask / 2 ^ 128 * 2 ^ k

theorem two_pow_errBit (k i : Nat) : 2 ^ errBit k i = if i < k then 2 ^ i else 2 ^ (128 + (i - k)) := by
  unfold errBit
  split <;> rfl

section Word
variable {k : Nat} (hk : k ≤ 128)
include hk

theorem errBit_injective {i j : Nat} (h : errBit k i = errBit k j) : i = j := by
  simp only [errBit] at h
  split at h <;> split at h <;> omega

theorem testBit_wordOf (mask p : Nat) : (wordOf k mask).testBit p = mask.testBit (errBit k p) := by
  have joined : wordOf k mask = 2 ^ k * (mask / 2 ^ 128) + mask % 2 ^ 128 % 2 ^ k := by rw [wordOf, Nat.mul_comm, Nat.add_comm]
  rw [joined, Nat.testBit_two_pow_mul_add _ (Nat.mod_lt _ (Nat.two_pow_pos k)), errBit]
  by_cases h : p < k
  · rw [if_pos h, if_pos h, Nat.testBit_mod_two_pow, Nat.testBit_mod_two_pow, decide_eq_true h, decide_eq_true (Nat.lt_of_lt_of_le h hk)]
    rfl
  · rw [if_neg h, if_neg h, Nat.testBit_div_two_pow, Nat.add_comm]

theorem wordOf_bit (i : Nat) : wordOf k (2 ^ errBit k i) = 2 ^ i := by
  refine Nat.eq_of_testBit_eq fun p => ?_
  rw [testBit_wordOf hk, Nat.testBit_two_pow, Nat.testBit_two_pow, decide_eq_decide]
  exact ⟨errBit_injective hk, fun h => h ▸ rfl⟩

theorem wordOf_xor (m p : Nat) : wordOf k (m ^^^ p) = wordOf k m ^^^ wordOf k p :=
  Nat.eq_of_testBit_eq fun q => by simp [testBit_wordOf hk]

theorem wordOf_bits {i j : Nat} (hij : i ≠ j) : wordOf k (2 ^ errBit k i + 2 ^ errBit k j) = 2 ^ i ^^^ 2 ^ j := by
  rw [two_pow_add_two_pow fun h => hij (errBit_injective hk h), wordOf_xor hk, wordOf_bit hk, wordOf_bit hk]

end Word

/-- A symbol's four bits stand together, with the data bits or with the check bits. -/
theorem errBit_symbol {n i q : Nat} (hq : q < 4) : errBit (4 * n) (4 * i + q) = errBit (4 * n) (4 * i) + q := by
  simp only [errBit]
  split <;> split <;> omega

theorem wordOf_symbol {n i v : Nat} (hn : n ≤ 32) (hv : v < 16) : wordOf (4 * n) (v * 2 ^ errBit (4 * n) (4 * i)) = v * 2 ^ (4 * i) := by
  have hk : 4 * n ≤ 128 := by omega
  refine Nat.eq_of_testBit_eq fun p => Bool.eq_iff_iff.2 ?_
  rw [testBit_wordOf hk, testBit_symbol hv, testBit_symbol hv]
  refine exists_congr fun q => and_congr_right fun hq => and_congr_left fun _ => ?_
  rw [← errBit_symbol hq]
  exact ⟨errBit_injective hk, fun h => h ▸ rfl⟩

theorem wordOf_mod (k r mask : Nat) : wordOf k mask % 2 ^ (k + r) = mask % 2 ^ 128 % 2 ^ k + mask / 2 ^ 128 % 2 ^ r * 2 ^ k := by
  rw [wordOf, Nat.pow_add, Nat.mod_mul, Nat.add_mul_mod_self_right, Nat.mod_mod, Nat.add_mul_div_right _ _ (Nat.two_pow_pos k),
    Nat.div_eq_of_lt (Nat.mod_lt _ (Nat.two_pow_pos k)), Nat.zero_add, Nat.mul_comm]

/-- The stores under SEC-DED (Table 12.1). -/
def secdedStores : List Nat := [0, 1, 2, 3, 5, 0xC, 0xD, 0xE, 0xF, 0x10]

/-- A store under SEC-DED reads its word by the code of its data and check bits. -/
theorem storeRead_secded {store k r : Nat} (h : store ∈ secdedStores) (hb : storeBits store = (k, r)) (mask : Nat) :
    storeRead store mask = secRead k r (wordOf k mask % 2 ^ (k + r)) := by
  have noSymbols : ∀ store ∈ secdedStores, ¬(store = 4 ∨ store = 6 ∨ store = 7) ∧ ¬(store = 8 ∨ store = 0xA) := by decide
  rw [storeRead, if_neg (noSymbols store h).1, if_neg (noSymbols store h).2, hb, wordOf_mod]

/-- There are columns of R292 for every data bit of the stores. -/
theorem storeBits_fit : ∀ store ∈ secdedStores, (storeBits store).1 ≤ 128 ∧ (storeBits store).1 ≤ (oddCols (storeBits store).2).length := by
  decide +kernel

section Secded
variable {store k r i j : Nat} (h : store ∈ secdedStores) (hb : storeBits store = (k, r))
include h hb

theorem secdedStore_columns : k ≤ 128 ∧ (secCols k r).length = k + r := by
  have fit := storeBits_fit store h
  rw [hb] at fit
  exact ⟨fit.1, secCols_length fit.2⟩

theorem storeRead_secdedBit (hi : i < k + r) : storeRead store (2 ^ errBit k i) = .corr i (secSyn k r (2 ^ i)) := by
  obtain ⟨hk, columns⟩ := secdedStore_columns h hb
  rw [storeRead_secded h hb, wordOf_bit hk, Nat.mod_eq_of_lt (Nat.pow_lt_pow_right (by decide) hi), secRead_bit (by omega)]

theorem storeRead_secdedBits (hi : i < k + r) (hj : j < k + r) (hij : i ≠ j) :
    storeRead store (2 ^ errBit k i + 2 ^ errBit k j) = .bad (secSyn k r (2 ^ i ^^^ 2 ^ j)) := by
  obtain ⟨hk, columns⟩ := secdedStore_columns h hb
  have below : 2 ^ i ^^^ 2 ^ j < 2 ^ (k + r) :=
    Nat.xor_lt_two_pow (Nat.pow_lt_pow_right (by decide) hi) (Nat.pow_lt_pow_right (by decide) hj)
  rw [storeRead_secded h hb, wordOf_bits hk hij, Nat.mod_eq_of_lt below, secRead_bits (by omega) (by omega) hij]

end Secded

/-- The stores under the main data-path code and the entry code, with their data symbols (Table 12.1). -/
def symbolStores : List (Nat × Nat) := [(4, 32), (6, 32), (7, 32), (8, 29), (0xA, 29)]

section Symbol
variable {store n i j : Nat} (h : (store, n) ∈ symbolStores)
include h

theorem symbolStore_le : n ≤ 32 := by
  have bound : ∀ p ∈ symbolStores, p.2 ≤ 32 := by decide
  exact bound _ h

/-- A store under a symbol code reads its word by the code of its data symbols. -/
theorem storeRead_symbol (mask : Nat) : storeRead store mask = symRead n (wordOf (4 * n) mask) := by
  simp only [symbolStores, List.mem_cons, Prod.mk.injEq, List.not_mem_nil, or_false] at h
  rcases h with ⟨rfl, rfl⟩ | ⟨rfl, rfl⟩ | ⟨rfl, rfl⟩ | ⟨rfl, rfl⟩ | ⟨rfl, rfl⟩ <;> simp [storeRead, wordOf]

theorem storeRead_oneSymbol {v : Nat} (hi : i < n + 3) (h0 : 0 < v) (hv : v < 16) :
    storeRead store (v * 2 ^ errBit (4 * n) (4 * i)) = .corr i (symSyn n (v * 2 ^ (4 * i))) := by
  rw [storeRead_symbol h, wordOf_symbol (symbolStore_le h) hv, symRead_symbol hi h0 hv]

theorem storeRead_twoSymbols (hi : i < 4 * (n + 3)) (hj : j < 4 * (n + 3)) (hij : i / 4 ≠ j / 4) :
    storeRead store (2 ^ errBit (4 * n) i + 2 ^ errBit (4 * n) j) = .bad (symSyn n (2 ^ i ^^^ 2 ^ j)) := by
  have hk : 4 * n ≤ 128 := by have := symbolStore_le h; omega
  rw [storeRead_symbol h, wordOf_bits hk (by omega), symRead_bits hi hj hij]

end Symbol

end Sys2Proof.Machine

section
open Sys2Proof Sys2Proof.Machine Sys2Proof.Machine.Ob

/-- Settles O49: the SEC-DED half from the columns, which are distinct and of an odd number of bits; the symbol half from the symbols in error,
whatever the columns of log entry 35 are. -/
theorem codesCorrectAndDetect : Obligations.CodesCorrectAndDetect := by
  unfold Obligations.CodesCorrectAndDetect
  simp only [← two_pow_errBit]
  refine ⟨fun store h i hi => ⟨?bit, fun j hj => ?bits⟩, fun store n h => ⟨fun i v hi h0 hv => ?symbol, fun i j hi hj hij => ?symbols⟩⟩
  case bit => exact ⟨_, storeRead_secdedBit h rfl hi⟩
  case bits => exact ⟨_, storeRead_secdedBits h rfl hi (Nat.lt_trans hj hi) (Nat.ne_of_gt hj)⟩
  case symbol => exact ⟨_, storeRead_oneSymbol h hi h0 hv⟩
  case symbols => exact ⟨_, storeRead_twoSymbols h hi hj hij⟩

/-- Settles O31: each command as it starts, the two retirements in the case in which a spare is free, and the test register's value 1. What
RAS_RAW_READ finds in a word that the model does not hold stays inside `storedWord` (log entry 14). -/
theorem rasCommits : Obligations.RasCommits := by
  unfold Obligations.RasCommits
  intro s w
  refine ⟨fun v h => ?page, fun e v el h => ?sparePage, fun b h => ?bank, fun e b x h => ?spareBank, fun v h => ?inject, fun v h => ?rawRead,
    fun h => ?test⟩
  case page => exact commit_starts (by decide) (fun c => startWr_rasPageRetire c w v) h
  case sparePage => exact pageRetire_spare h
  case bank => exact commit_starts (by decide) (fun c => startWr_rasBankRetire c w b) h
  case spareBank => exact bankRetire_spare b h
  case inject => exact commit_starts (by decide) (fun c => startWr_rasInject c w v) h
  case rawRead => exact commit_starts (by decide) (fun c => startWr_rasRawRead c w v) h
  case test => exact commit_value (by decide) applyWr_rasFoghornTest h

end

/-! # What every step keeps

Every command is an operation of the block that keeps the stores of bytes in their one form and the staged writes in order (R357, R358;
log entry 7), and so a step keeps them. -/

namespace Sys2Proof.Machine
open Ob

/-! ## The kinds of operation -/

theorem keeps_runC (c : Chip) (g : Chip → Chip) (h : ∀ c, Keeps c (g c)) : Keeps c (c.runC g) := .ite (fun _ => keeps_run c g h) fun _ => .refl c

theorem keeps_runE (c : Chip) (g : Eng → Eng) : Keeps c (c.runE g) := .ite (fun _ => keeps_run c _ fun _ => keeps_e ..) fun _ => .refl c

theorem keeps_runF (c : Chip) (g : Fab → Fab) : Keeps c (c.runF g) := .ite (fun _ => keeps_run c _ fun _ => keeps_fab ..) fun _ => .refl c

theorem keeps_runL (c : Chip) (g : Lnk → Lnk) : Keeps c (c.runL g) := .ite (fun _ => keeps_run c _ fun _ => keeps_fab ..) fun _ => .refl c

/-- A histogram's increments sent. -/
theorem keeps_histSend (c : Chip) (k : Nat) : Keeps c (c.histSend k) := .ite (fun _ => .refl c) fun _ => keeps_q ..

/-- An operation of the block where a condition holds. -/
theorem keeps_when {c c' : Chip} {p : Prop} [Decidable p] (h : Keeps c c') : Keeps c (if p then c' else c) := .ite (fun _ => h) fun _ => .refl c

/-- A command is an operation of the block that keeps the stores and the staged writes in form. -/
def KeepsOp (i : Instr) : Prop := ∃ g : Chip → Chip, (∀ s : State, exec i s = s.chip g) ∧ ∀ c, Keeps c (g c)

/-- Commits of a row of their own (log entry 18). -/
def isCommit : Instr → Bool
  | .taintClear .. | .drxEnable .. | .drxTrain .. | .drxRetrainResume .. | .drxRetrainFresh .. | .loopbackNearSerial .. => true
  | .loopbackNearParallel .. | .loopbackFarEnd .. | .loopbackExit .. | .drxEyeCtrl .. | .drxErrInject .. | .hdcDisable .. => true
  | .hdcEnable .. | .hdcPreload .. | .hdcUnlockAll .. | .leaseBreak .. | .leaseBreakCaid .. | .leaseFree .. => true
  | .wdtEnable .. | .wdtPeriod .. | .worldHoReq .. | .worldHoRelease .. | .worldHoRefuse .. | .fwActivate .. | .fwReady .. => true
  | .mirForceSolo .. | .mirRejoin .. | .mirSwap .. | .mirUnitSettle .. | .hierMapSet .. | .hierWitnessClear .. => true
  | .pmSnap .. | .pmCtrClear .. | .pmSmpFlush .. | .pmHistClear .. | .driftStart .. | .driftAbort .. | .remoorRequest .. => true
  | .bucketMove .. | .slicePark .. | .spareSwap .. | .caidBind .. | .caidUnbindPlanned .. | .caidUnbindForced .. => true
  | .poolAdd .. | .poolRemove .. | .tileMapWrite .. | .tileMapFill .. | .guardArm .. | .pwrLevel .. | .pwrKeeperClk .. => true
  | .pwrVote .. | .pwrForceWake .. | .blockEclipseRequest .. | .blockExtinguishRequest .. | .blockWakeCommit .. => true
  | .rasPageRetire .. | .rasBankRetire .. | .rasInject .. | .rasRawRead .. | .rasFoghornTest .. => true
  | _ => false

theorem exec_commit (i : Instr) (h : isCommit i = true) : ∃ w ws, ∀ s : State, exec i s = s.commit w ws := by
  cases i <;> first | (simp [isCommit] at h; done) | exact ⟨_, _, fun _ => rfl⟩

theorem keepsOp_commit (i : Instr) (h : isCommit i = true) : KeepsOp i := by
  obtain ⟨w, ws, hx⟩ := exec_commit i h
  exact ⟨fun c => c.runC fun c => if c.keeperUp then c.solo w ws else c, hx, fun c => keeps_runC c _ fun c => keeps_when (keeps_solo c w ws)⟩

theorem keepsOp_coherence (i : Instr) (h : isCoherence i = true) : KeepsOp i := by
  obtain ⟨g, hx⟩ := exec_coherence i h
  exact ⟨_, hx, fun c => keeps_runE c g⟩

theorem keepsOp_fabric (i : Instr) (h : isFabric i = true) : KeepsOp i := by
  obtain ⟨g, hx⟩ := exec_fabric i h
  exact ⟨_, hx, fun c => keeps_runF c g⟩

theorem keepsOp_link (i : Instr) (h : isLink i = true) : KeepsOp i := by
  obtain ⟨g, hx⟩ := exec_link i h
  exact ⟨_, hx, fun c => keeps_runL c g⟩

/-- Commands of the Power and Clock Controller. -/
def isPower : Instr → Bool
  | .railAck .. | .railAckTimeout .. | .domainSleepEntry .. | .domainSleepExit .. | .wakeSource .. | .wakeTimerExpiry .. => true
  | .powerOnReset .. | .powerOnResetRelease .. | .warmReset .. | .warmResetRelease .. | .brownOut .. | .brownOutRecovery .. => true
  | .supplyReset .. | .supplyResetRecovery .. | .alwaysOnSupplyLoss .. | .alwaysOnSupplyApplied .. | .aonregHpSettled .. => true
  | .braceEntry .. | .braceExit .. | .levelSwitch .. | .blockSleepQuiesced .. => true
  | _ => false

theorem keepsOp_power (i : Instr) (h : isPower i = true) : KeepsOp i := by
  cases i with
  | railAck rail up => exact ⟨fun c => c.railAck rail up, fun _ => rfl, fun c => keeps_railAck c rail up⟩
  | railAckTimeout rail => exact ⟨fun c => c.railTimeout rail, fun _ => rfl, fun c => keeps_railTimeout c rail⟩
  | domainSleepEntry el => exact ⟨fun c => c.domainEntry el, fun _ => rfl, fun c => keeps_domainEntry c el⟩
  | domainSleepExit el => exact ⟨fun c => c.domainExit el, fun _ => rfl, fun c => keeps_domainExit c el⟩
  | wakeSource n => exact ⟨fun c => c.wakeSource n, fun _ => rfl, fun c => keeps_wakeSource c n⟩
  | wakeTimerExpiry => exact ⟨fun c => c.wakeTimer, fun _ => rfl, keeps_wakeTimer⟩
  | powerOnReset => exact ⟨fun c => c.porAssert, fun _ => rfl, keeps_porAssert⟩
  | powerOnResetRelease => exact ⟨fun c => c.porRelease, fun _ => rfl, keeps_porRelease⟩
  | warmReset => exact ⟨fun c => c.warmAssert, fun _ => rfl, keeps_warmAssert⟩
  | warmResetRelease => exact ⟨fun c => c.warmRelease, fun _ => rfl, keeps_warmRelease⟩
  | brownOut => exact ⟨fun c => c.brownOut, fun _ => rfl, keeps_brownOut⟩
  | brownOutRecovery => exact ⟨fun c => c.brownRecovery, fun _ => rfl, keeps_brownRecovery⟩
  | supplyReset => exact ⟨fun c => c.supplyReset, fun _ => rfl, keeps_supplyReset⟩
  | supplyResetRecovery => exact ⟨fun c => c.supplyRecovery, fun _ => rfl, keeps_supplyRecovery⟩
  | alwaysOnSupplyLoss => exact ⟨fun c => c.supplyLoss, fun _ => rfl, keeps_supplyLoss⟩
  | alwaysOnSupplyApplied => exact ⟨fun c => c.supplyOn, fun _ => rfl, keeps_supplyOn⟩
  | aonregHpSettled => exact ⟨fun c => c.hpSettled, fun _ => rfl, keeps_hpSettled⟩
  | braceEntry => exact ⟨fun c => c.braceIn, fun _ => rfl, keeps_braceIn⟩
  | braceExit => exact ⟨fun c => c.braceOut, fun _ => rfl, keeps_braceOut⟩
  | levelSwitch => exact ⟨fun c => c.levelSwitch.advance, fun _ => rfl, fun c => (keeps_levelSwitch c).trans (keeps_advance _)⟩
  | blockSleepQuiesced => exact ⟨fun c => c.quiesced, fun _ => rfl, keeps_quiesced⟩
  | _ => exact absurd h Bool.false_ne_true

/-- Commands of Keeper. -/
def isKeeper : Instr → Bool
  | .ecallSecure .. | .secureInterrupt .. | .mretToNormal .. | .untakeableNormalTrap .. | .worldHoWaitExpiry .. => true
  | .handoverResetDone .. | .worldIrqPending .. | .debugHalt .. | .fwQuiesceDone .. | .fwReadyTimeout .. | .watchdogPet .. => true
  | .watchdogWarning .. | .secureWatchdogExpiry .. => true
  | _ => false

theorem keepsOp_keeper (i : Instr) (h : isKeeper i = true) : KeepsOp i := by
  cases i with
  | ecallSecure pc => exact ⟨fun c => c.ecall pc, fun _ => rfl, fun c => keeps_ecall c pc⟩
  | secureInterrupt pc => exact ⟨fun c => c.secureIrq pc, fun _ => rfl, fun c => keeps_secureIrq c pc⟩
  | mretToNormal npp nepc entry mie a => exact ⟨fun c => c.mret { npp := npp, nepc := nepc, entry := entry, mie := mie, a := a }, fun _ => rfl, fun c => keeps_mret c _⟩
  | untakeableNormalTrap pc mtvec cause tval => exact ⟨fun c => c.untakeable pc mtvec cause tval, fun _ => rfl, fun c => keeps_untakeable ..⟩
  | worldHoWaitExpiry u => exact ⟨fun c => c.hoExpiry u, fun _ => rfl, fun c => keeps_hoExpiry c u⟩
  | handoverResetDone u => exact ⟨fun c => c.hoDone u, fun _ => rfl, fun c => keeps_hoDone c u⟩
  | worldIrqPending w v => exact ⟨fun c => if c.serves w then (c.w1c w ⟨WORLD_IRQ_PENDING, 0, v⟩).1 else c, fun _ => rfl, fun c => keeps_when (keeps_w1c ..)⟩
  | debugHalt bp => exact ⟨fun c => c.haltEvent bp, fun _ => rfl, fun c => keeps_haltEvent c bp⟩
  | fwQuiesceDone byEcall => exact ⟨fun c => c.fwQuiesced byEcall, fun _ => rfl, fun c => keeps_fwQuiesced c byEcall⟩
  | fwReadyTimeout fault => exact ⟨fun c => c.fwTimeout fault, fun _ => rfl, fun c => keeps_fwTimeout c fault⟩
  | watchdogPet => exact ⟨fun c => c.pet, fun _ => rfl, keeps_pet⟩
  | watchdogWarning => exact ⟨fun c => c.wdtWarn, fun _ => rfl, keeps_wdtWarn⟩
  | secureWatchdogExpiry => exact ⟨fun c => c.wdtExpiry, fun _ => rfl, keeps_wdtExpiry⟩
  | _ => exact absurd h Bool.false_ne_true

/-- Commands of the object access port and the dictionary's requests. -/
def isDict : Instr → Bool
  | .oapRead .. | .oapStage .. | .oapCommit .. | .oapAbort .. | .rcRead .. | .w1cWrite .. | .dictRead .. | .dictStage .. => true
  | .dictCommit .. | .dictAbort .. | .dictCommitStatus .. | .dictW1c .. | .fwBegin .. | .fwData .. | .fwEnd .. => true
  | .unsupportedDictCommand .. | .eventAck .. | .commitEdge .. | .eventRetryExpiry .. | .mapNoticeRetry .. => true
  | .dictReqWaitExpiry .. => true
  | _ => false

theorem keepsOp_dict (i : Instr) (h : isDict i = true) : KeepsOp i := by
  cases i with
  | oapRead w idx el len => exact ⟨fun c => if c.oapReady w then c.oapRead w idx el len else c, fun _ => rfl, fun c => keeps_when (keeps_oapRead ..)⟩
  | oapStage w idx el len data => exact ⟨fun c => if c.oapReady w then c.oapStage w idx el len data else c, fun _ => rfl, fun c => keeps_when (keeps_oapStage ..)⟩
  | oapCommit w => exact ⟨fun c => if c.oapReady w then c.oapCommit w else c, fun _ => rfl, fun c => keeps_when (keeps_oapCommit ..)⟩
  | oapAbort w => exact ⟨fun c => if c.oapReady w then c.oapAbort w else c, fun _ => rfl, fun c => keeps_when (keeps_oapAbort ..)⟩
  | rcRead w idx el => exact ⟨fun c => if c.serves w ∧ isRC idx el then (c.read idx el).2.2 else c, fun _ => rfl, fun c => keeps_when (keeps_read ..)⟩
  | w1cWrite w idx el v => exact ⟨fun c => if c.serves w ∧ isW1C ⟨idx, el, v⟩ then (c.stage w ⟨idx, el, v⟩ (rowLen idx el)).1 else c, fun _ => rfl, fun c => keeps_when (keeps_stage ..)⟩
  | dictRead w deny => exact ⟨fun c => c.serve w deny (fun k => k == 1) fun c q => c.mRead q, fun _ => rfl, fun c => keeps_serve _ _ _ _ _ (keeps_mRead c)⟩
  | dictStage w deny => exact ⟨fun c => c.serve w deny (fun k => k == 2) fun c q => c.mStage q, fun _ => rfl, fun c => keeps_serve _ _ _ _ _ (keeps_mStage c)⟩
  | dictCommit w deny => exact ⟨fun c => c.serve w deny (fun k => k == 3) fun c q => c.mCommit q, fun _ => rfl, fun c => keeps_serve _ _ _ _ _ (keeps_mCommit c)⟩
  | dictAbort w deny => exact ⟨fun c => c.serve w deny (fun k => k == 4) fun c q => c.mAbort q, fun _ => rfl, fun c => keeps_serve _ _ _ _ _ (keeps_mAbort c)⟩
  | dictCommitStatus w deny => exact ⟨fun c => c.serve w deny (fun k => k == 5) fun c q => c.mStatus q, fun _ => rfl, fun c => keeps_serve _ _ _ _ _ (keeps_mStatus c)⟩
  | dictW1c w deny => exact ⟨fun c => c.serve w deny (fun k => k == 6) fun c q => c.mW1c q, fun _ => rfl, fun c => keeps_serve _ _ _ _ _ (keeps_mW1c c)⟩
  | fwBegin w deny => exact ⟨fun c => c.serve w deny (fun k => k == 0x20) fun c q => c.mFwBegin q, fun _ => rfl, fun c => keeps_serve _ _ _ _ _ (keeps_mFwBegin c)⟩
  | fwData w deny => exact ⟨fun c => c.serve w deny (fun k => k == 0x21) fun c q => c.mFwData q, fun _ => rfl, fun c => keeps_serve _ _ _ _ _ (keeps_mFwData c)⟩
  | fwEnd w deny => exact ⟨fun c => c.serve w deny (fun k => k == 0x22) fun c q => c.mFwEnd q, fun _ => rfl, fun c => keeps_serve _ _ _ _ _ (keeps_mFwEnd c)⟩
  | unsupportedDictCommand w deny => exact ⟨fun c => c.serve w deny (fun k => !listedCmd k) fun c q => (c.unsup q.cmd).finish q 0xB [], fun _ => rfl, fun c => keeps_serve _ _ _ _ _ fun q => (keeps_unsup c q.cmd).trans (keeps_finish ..)⟩
  | eventAck num carrier => exact ⟨fun c => (c.evAck num carrier).evPump, fun _ => rfl, fun c => (keeps_evAck c num carrier).trans (keeps_evPump _)⟩
  | commitEdge => exact ⟨fun c => c.runC fun c => c.commitEdge, fun _ => rfl, fun c => keeps_runC c _ keeps_commitEdge⟩
  | eventRetryExpiry => exact ⟨fun c => c.evRetry.evPump, fun _ => rfl, fun c => (keeps_evRetry c).trans (keeps_evPump _)⟩
  | mapNoticeRetry => exact ⟨fun c => c.noticeRetry.evPump, fun _ => rfl, fun c => (keeps_noticeRetry c).trans (keeps_evPump _)⟩
  | dictReqWaitExpiry => exact ⟨fun c => c.reqExpiry, fun _ => rfl, keeps_reqExpiry⟩
  | _ => exact absurd h Bool.false_ne_true

/-- Commands of the I3C target, the mailbox and the control messages. -/
def isMessage : Instr → Bool
  | .i3cPrivateWrite .. | .i3cPrivateRead .. | .entdaa .. | .setdasa .. | .setmwl .. | .setmrl .. | .controllerRoleOffer .. => true
  | .enec .. | .disec .. | .rstdaa .. | .hdrEntry .. | .getmwl .. | .getmrl .. | .getpid .. | .getbcr .. | .getdcr .. => true
  | .getstatus .. | .unsupportedCcc .. | .mailboxPacket .. | .setEndpointId .. | .getEndpointId .. | .getEndpointUuid .. => true
  | .getMctpVersionSupport .. | .getMessageTypeSupport .. | .getVendorDefinedMessageSupport .. | .unsupportedControlCmd .. => true
  | .mailboxOutWordTaken .. => true
  | _ => false

theorem keepsOp_message (i : Instr) (h : isMessage i = true) : KeepsOp i := by
  cases i with
  | i3cPrivateWrite addr data pecOk => exact ⟨fun c => c.i3cWrite addr data pecOk, fun _ => rfl, fun c => keeps_i3cWrite ..⟩
  | i3cPrivateRead addr => exact ⟨fun c => c.i3cRead addr, fun _ => rfl, fun c => keeps_i3cRead ..⟩
  | entdaa addr won => exact ⟨fun c => c.i3 fun i => if won then i.assign addr else i, fun _ => rfl, fun c => keeps_i3 ..⟩
  | setdasa static_ addr => exact ⟨fun c => c.i3 fun i => if static_ = c.ob DICT_I3C_STATIC then i.assign addr else i, fun _ => rfl, fun c => keeps_i3 ..⟩
  | setmwl addr v => exact ⟨fun c => c.i3 fun i => if addr = none ∨ addr = i.dyn then { i with mwl := v } else i, fun _ => rfl, fun c => keeps_i3 ..⟩
  | setmrl addr v => exact ⟨fun c => c.i3 fun i => if addr = none ∨ addr = i.dyn then { i with mrl := v } else i, fun _ => rfl, fun c => keeps_i3 ..⟩
  | controllerRoleOffer addr => exact ⟨fun c => c.i3 fun i => if i.dyn = some addr then { i with nack := true } else i, fun _ => rfl, fun c => keeps_i3 ..⟩
  | enec => exact ⟨fun c => c.i3 fun i => { i with ibi := true }, fun _ => rfl, fun c => keeps_i3 ..⟩
  | disec => exact ⟨fun c => c.i3 fun i => { i with ibi := false }, fun _ => rfl, fun c => keeps_i3 ..⟩
  | rstdaa => exact ⟨fun c => c.i3 fun i => { i with dyn := none }, fun _ => rfl, fun c => keeps_i3 ..⟩
  | hdrEntry => exact ⟨fun c => c.i3 fun i => { i with hdr := true }, fun _ => rfl, fun c => keeps_i3 ..⟩
  | getmwl addr => exact ⟨fun c => c.i3cGet addr (beBytes c.dic.i3c.mwl 2), fun _ => rfl, fun c => keeps_i3cGet ..⟩
  | getmrl addr => exact ⟨fun c => c.i3cGet addr (beBytes c.dic.i3c.mrl 2), fun _ => rfl, fun c => keeps_i3cGet ..⟩
  | getpid addr => exact ⟨fun c => c.i3cGet addr (beBytes c.eng.fz.i3cPid 6), fun _ => rfl, fun c => keeps_i3cGet ..⟩
  | getbcr addr => exact ⟨fun c => c.i3cGet addr [i3cBcr], fun _ => rfl, fun c => keeps_i3cGet ..⟩
  | getdcr addr => exact ⟨fun c => c.i3cGet addr [i3cDcr], fun _ => rfl, fun c => keeps_i3cGet ..⟩
  | getstatus addr => exact ⟨fun c => c.i3cGet addr (beBytes (i3cStatus c.dic.i3cQ.length) 2), fun _ => rfl, fun c => keeps_i3cGet ..⟩
  | unsupportedCcc addr => exact ⟨fun c => Chip.i3 (if c.i3cUp ∧ (addr = none ∨ addr = c.dic.i3c.dyn) then c.unsup 0x100 else c) fun i => if addr.isSome ∧ addr = i.dyn then { i with nack := true } else i, fun _ => rfl, fun c => (keeps_when (keeps_unsup c _)).trans (keeps_i3 ..)⟩
  | mailboxPacket ws => exact ⟨fun c => c.mailbox ws, fun _ => rfl, fun c => keeps_mailbox c ws⟩
  | setEndpointId q data => exact ⟨fun c => c.ctl q 1 data, fun _ => rfl, fun c => keeps_ctl ..⟩
  | getEndpointId q => exact ⟨fun c => c.ctl q 2 [], fun _ => rfl, fun c => keeps_ctl ..⟩
  | getEndpointUuid q => exact ⟨fun c => c.ctl q 3 [], fun _ => rfl, fun c => keeps_ctl ..⟩
  | getMctpVersionSupport q data => exact ⟨fun c => c.ctl q 4 data, fun _ => rfl, fun c => keeps_ctl ..⟩
  | getMessageTypeSupport q => exact ⟨fun c => c.ctl q 5 [], fun _ => rfl, fun c => keeps_ctl ..⟩
  | getVendorDefinedMessageSupport q data => exact ⟨fun c => c.ctl q 6 data, fun _ => rfl, fun c => keeps_ctl ..⟩
  | unsupportedControlCmd q cmd => exact ⟨fun c => if 1 ≤ cmd ∧ cmd ≤ 6 then c else c.ctl q cmd [], fun _ => rfl, fun c => .ite (fun _ => .refl c) fun _ => keeps_ctl ..⟩
  | mailboxOutWordTaken => exact ⟨fun c => c.dc Dic.mbTaken, fun _ => rfl, keeps_mbTaken⟩
  | _ => exact absurd h Bool.false_ne_true

/-- Commands of the Performance Monitor, the trace unit and the TAP. -/
def isMonitor : Instr → Bool
  | .snapBroadcast .. | .ringWriteComplete .. | .histMergeFlush .. | .histIncrement .. | .samplerRecord .. | .traceRecord .. => true
  | .tapReset .. | .idcode .. | .ijtag .. | .bypass .. | .tapInstrumentOperation .. => true
  | _ => false

theorem keepsOp_monitor (i : Instr) (h : isMonitor i = true) : KeepsOp i := by
  cases i with
  | snapBroadcast block => exact ⟨fun c => c.snapBroadcast block, fun _ => rfl, fun c => keeps_snapBroadcast c block⟩
  | ringWriteComplete trc => exact ⟨fun c => c.ringDone trc, fun _ => rfl, fun c => keeps_ringDone c trc⟩
  | histMergeFlush slice => exact ⟨fun c => c.histSend slice, fun _ => rfl, fun c => keeps_histSend c slice⟩
  | histIncrement accept => exact ⟨fun c => c.histArrive accept, fun _ => rfl, fun c => keeps_histArrive c accept⟩
  | samplerRecord => exact ⟨fun c => c.smpArrive, fun _ => rfl, keeps_smpArrive⟩
  | traceRecord src => exact ⟨fun c => c.trace src, fun _ => rfl, fun c => keeps_trace c src⟩
  | tapReset => exact ⟨fun c => c.q Pm.tapReset, fun _ => rfl, fun c => keeps_q ..⟩
  | idcode => exact ⟨fun c => c.tapIr 1, fun _ => rfl, fun c => keeps_tapIr ..⟩
  | ijtag => exact ⟨fun c => c.tapIr 2, fun _ => rfl, fun c => keeps_tapIr ..⟩
  | bypass code => exact ⟨fun c => if code = 1 ∨ code = 2 then c else c.tapIr code, fun _ => rfl, fun c => .ite (fun _ => .refl c) fun _ => keeps_tapIr ..⟩
  | tapInstrumentOperation op => exact ⟨fun c => c.tapOp op, fun _ => rfl, fun c => keeps_tapOp c op⟩
  | _ => exact absurd h Bool.false_ne_true

/-- Every command is one of these. -/
theorem instr_kinds (i : Instr) : (isCommit i || isCoherence i || isFabric i || isLink i || isPower i || isKeeper i || isDict i || isMessage i
    || isMonitor i) = true := by
  cases i <;> rfl

/-- Every command keeps the stores of bytes and the staged writes in form. -/
theorem keepsOp (i : Instr) : KeepsOp i := by
  have h := instr_kinds i
  simp only [Bool.or_eq_true] at h
  rcases h with (((((((h | h) | h) | h) | h) | h) | h) | h) | h
  · exact keepsOp_commit i h
  · exact keepsOp_coherence i h
  · exact keepsOp_fabric i h
  · exact keepsOp_link i h
  · exact keepsOp_power i h
  · exact keepsOp_keeper i h
  · exact keepsOp_dict i h
  · exact keepsOp_message i h
  · exact keepsOp_monitor i h

theorem keeps_exec {i : Instr} {s t : State} (h : exec i s = .next t) : Keeps s.toChip t.toChip := by
  obtain ⟨g, hx, hg⟩ := keepsOp i
  rw [hx] at h
  cases h
  exact hg s.toChip

/-- A step keeps the stores of bytes and the staged writes in form, whether a command runs or a nanosecond passes. -/
theorem keeps_step {s t : State} (h : step s = .next t) : Keeps s.toChip t.toChip := by
  unfold step at h
  split at h
  · cases h; exact keeps_idle s.toChip
  · exact (keeps_exec h :)

end Sys2Proof.Machine

section
open Sys2Proof Sys2Proof.Machine Sys2Proof.Machine.Ob

/-- Settles O58, by `keeps_step`. -/
theorem stepKeepsMemory : Obligations.StepKeepsMemory := fun _ _ hm h => (keeps_step h).1 hm

/-- Settles O59, by `keeps_step`. -/
theorem stepKeepsStaging : Obligations.StepKeepsStaging := fun _ _ hs h => (keeps_step h).2 hs

/-- Settles O57: after reset the stores list nothing and nothing is staged. -/
theorem invariantsAtReset : Obligations.InvariantsAtReset := by
  refine ⟨⟨rfl, rfl⟩, rfl, rfl, ?_⟩
  intro m hm
  cases hm

/-- Settles O1: the front of the queue by `step`'s own equation, the nanosecond by `Chip.idle`. -/
theorem stepRunsFront : Obligations.StepRunsFront := by
  refine ⟨fun c rest s h => ?front, fun s h hoff => ?off, fun s h hon => ?on⟩
  case front => simp only [step, h]
  case off => rw [step_idle h, State.idle, idle_coreOff _ hoff]
  case on => rw [step_idle h, State.idle, Chip.idle, if_pos hon, Chip.run, State.effect]

end

/-! # The access port and the staging areas

What an operation of the port answers and stages (R353, R355, R357, R362, R392), and what of the secure side the normal world's
operations leave alone. -/

namespace Sys2Proof.Machine
open Ob

/-! ## Reads (R353, R355) -/

section Read
variable {c : Chip} {idx el : Nat} {r : ObjRow}

theorem read_unlisted (h : objRow idx el = none ∨ c.eng.exists_ idx el = false) : c.read idx el = (7, 0, c) := by
  unfold Chip.read
  split
  · rfl
  · next r hr => rw [if_pos (by simp [h.resolve_left (by simp [hr])])]

theorem read_writeOnly (hr : objRow idx el = some r) (he : c.eng.exists_ idx el = true) (ha : r.acc = .wo) : c.read idx el = (0xA, 0, c) := by
  simp only [Chip.read, hr, he, ha, Bool.not_true, Bool.false_eq_true, if_false, if_true]

theorem read_value (hr : objRow idx el = some r) (he : c.eng.exists_ idx el = true) (ha : r.acc ≠ .wo) :
    c.read idx el = (0, c.value idx el, if r.acc = .rc then c.set idx el 0 else c) := by
  simp only [Chip.read, hr, he, ha, Bool.not_true, Bool.false_eq_true, if_false]

theorem isRC_of_row (hr : objRow idx el = some r) (ha : r.acc = .rc) : isRC idx el = true := by simp [isRC, hr, ha]

theorem isW1C_of_row {v : Nat} (hr : objRow idx el = some r) (ha : r.acc = .w1c) : isW1C ⟨idx, el, v⟩ = true := by simp [isW1C, hr, ha]

/-- A read that answers no value leaves OAP_DATA as it is. -/
theorem oapRead_refused {st : Nat} (w : World) (len : Nat) (h : c.read idx el = (st, 0, c)) (h0 : st ≠ 0) :
    c.oapRead w idx el len = { c with dic := c.dic.setOap w { obj := oapObj idx el len, status := st, busy := false, data := (c.dic.oap w).data } } := by
  simp only [Chip.oapRead, h, h0, if_false]

/-- A read of a value places it from byte 0 of OAP_DATA. -/
theorem oapRead_value (w : World) (len : Nat) (hr : objRow idx el = some r) (he : c.eng.exists_ idx el = true) (ha : r.acc ≠ .wo) :
    c.oapRead w idx el len =
      let c1 := if r.acc = .rc then c.set idx el 0 else c
      { c1 with dic := c1.dic.setOap w { obj := oapObj idx el len, status := 0, busy := false, data := placeLow (c.dic.oap w).data (valueLen r (c.value idx el)) (c.value idx el) } } := by
  have hdic : (if r.acc = .rc then c.set idx el 0 else c).dic = c.dic := by split <;> rfl
  simp only [Chip.oapRead, read_value hr he ha, readLen, hr, if_true, hdic]

end Read

/-! ## Stages (R355, R357, R392) -/

section Stage
variable {c : Chip} {w : World} {o : OWr} {len : Nat}

theorem stage_refused (h : c.eng.checkStatus w o len ≠ 0) : c.stage w o len = (c, c.eng.checkStatus w o len, false) := if_pos h

theorem stage_w1c (h : c.eng.checkStatus w o len = 0) (h1 : isW1C o = true) : c.stage w o len = ((c.w1c w o).1, (c.w1c w o).2, false) := by
  simp only [Chip.stage, h, h1, if_true, ne_eq, not_true, if_false]

variable (h : c.eng.checkStatus w o len = 0) (h1 : isW1C o = false) (hc : o.idx ≠ DICT_COMMIT) (ha : o.idx ≠ DICT_ABORT)
include h h1 hc ha

theorem stage_full (hf : areaFull o (c.dic.area w) = true) : c.stage w o len = (c, 9, false) := by
  simp only [Chip.stage, h, h1, hc, ha, hf, if_true, ne_eq, not_true, if_false, Bool.false_eq_true]

theorem stage_put (hf : areaFull o (c.dic.area w) = false) :
    c.stage w o len = ({ c with dic := c.dic.setArea w (putWr o (c.dic.area w)) }, 0, false) := by
  simp only [Chip.stage, h, h1, hc, ha, hf, ne_eq, not_true, if_false, Bool.false_eq_true]

end Stage

/-- A W1C write clears the bits written as 1 (R355). -/
theorem w1c_clears (c : Chip) (w : World) {o : OWr} (h : o.idx ≠ WORLD_IRQ_PENDING) :
    c.w1c w o = (c.set o.idx o.el (maskOff (c.eng.obj o.idx o.el) o.val 64), 0) := if_neg h

theorem rowLen_of_row {idx el : Nat} {r : ObjRow} (hr : objRow idx el = some r) : rowLen idx el = r.len := by simp [rowLen, hr]

/-! ## What an area holds after a stage (R357) -/

/-- Of an area in order, a write replaces what is of its object and element and leaves the rest. -/
theorem mem_putWr_iff {o a : OWr} {l : List OWr} (h : ascending l = true) : a ∈ putWr o l ↔ a = o ∨ (a ∈ l ∧ o.same a = false) := by
  have hsame (b : OWr) : o.same b = false ↔ ¬(o.idx = b.idx ∧ o.el = b.el) := by rw [← same_iff, Bool.not_eq_true]
  induction l with
  | nil => simp [putWr]
  | cons b t ih =>
    have hb := ascending_head h
    have iht := ih (ascending_tail h)
    simp only [putWr]
    split
    · next hlt =>
      have hall : ∀ x ∈ b :: t, o.same x = false := by
        intro x hx
        rw [hsame]
        rcases List.mem_cons.1 hx with rfl | hx
        · omega
        · have := hb x hx; omega
      simp only [List.mem_cons]
      constructor
      · rintro (rfl | hx)
        · exact .inl rfl
        · exact .inr ⟨hx, hall a (List.mem_cons.2 hx)⟩
      · rintro (rfl | ⟨hx, -⟩)
        · exact .inl rfl
        · exact .inr hx
    · split
      · next hs =>
        have ho := (same_iff o b).1 hs
        have hall : ∀ x ∈ t, o.same x = false := by
          intro x hx
          rw [hsame]
          have := hb x hx; omega
        simp only [List.mem_cons]
        constructor
        · rintro (rfl | hx)
          · exact .inl rfl
          · exact .inr ⟨.inr hx, hall a hx⟩
        · rintro (rfl | ⟨rfl | hx, hn⟩)
          · exact .inl rfl
          · exact absurd hs (by simp [hn])
          · exact .inr hx
      · next hs =>
        have hs' : o.same b = false := by simpa using hs
        simp only [List.mem_cons, iht]
        constructor
        · rintro (rfl | rfl | ⟨hx, hn⟩)
          · exact .inr ⟨.inl rfl, hs'⟩
          · exact .inl rfl
          · exact .inr ⟨.inr hx, hn⟩
        · rintro (rfl | ⟨rfl | hx, hn⟩)
          · exact .inr (.inl rfl)
          · exact .inl rfl
          · exact .inr (.inr ⟨hx, hn⟩)

/-- An area has room where it holds fewer than 256 writes, or one of the same object and element. -/
theorem areaFull_false {o : OWr} {l : List OWr} : areaFull o l = false ↔ l.length < 256 ∨ ∃ a ∈ l, o.same a = true := by
  simp only [areaFull, Bool.and_eq_false_iff, decide_eq_false_iff_not, Nat.not_le, Bool.not_eq_false', List.any_eq_true]

theorem areaFull_true {o : OWr} {l : List OWr} : areaFull o l = true ↔ 256 ≤ l.length ∧ ∀ a ∈ l, o.same a = false := by
  simp only [areaFull, Bool.and_eq_true, decide_eq_true_eq, Bool.not_eq_true', List.any_eq_false, Bool.not_eq_true]

/-! ## What a read answers does not depend on what is staged (R357) -/

/-- The block with other areas staged. -/
def Chip.staging (c : Chip) (stS stN : List OWr) : Chip := { c with dic := { c.dic with stS := stS, stN := stN } }

theorem value_staging (c : Chip) (stS stN : List OWr) {idx : Nat} (el : Nat) (h : idx ≠ DICT_STAGED) :
    (c.staging stS stN).value idx el = c.value idx el := by
  simp only [Chip.value, h, if_false]
  rfl

/-- What a port's read answers. -/
theorem oapRead_answer (c : Chip) (w : World) (idx el len : Nat) :
    ((c.oapRead w idx el len).dic.oap w).status = (c.read idx el).1
    ∧ ((c.oapRead w idx el len).dic.oap w).data =
      if (c.read idx el).1 = 0 then placeLow ((c.read idx el).2.2.dic.oap w).data (readLen idx el (c.read idx el).2.1) (c.read idx el).2.1
      else ((c.read idx el).2.2.dic.oap w).data := by
  cases w <;> exact ⟨rfl, rfl⟩

/-- A read answers the same status and value whatever is staged, and leaves the ports alone. -/
theorem read_staging (c : Chip) (stS stN : List OWr) {idx : Nat} (el : Nat) (w : World) (h : idx ≠ DICT_STAGED) :
    ((c.staging stS stN).read idx el).1 = (c.read idx el).1 ∧ ((c.staging stS stN).read idx el).2.1 = (c.read idx el).2.1
    ∧ ((c.staging stS stN).read idx el).2.2.dic.oap w = (c.read idx el).2.2.dic.oap w := by
  by_cases hu : objRow idx el = none ∨ c.eng.exists_ idx el = false
  · rw [read_unlisted hu, read_unlisted (c := c.staging stS stN) hu]
    exact ⟨rfl, rfl, by cases w <;> rfl⟩
  · obtain ⟨hne, he⟩ := not_or.1 hu
    obtain ⟨r, hr⟩ := Option.ne_none_iff_exists'.1 hne
    rw [Bool.not_eq_false] at he
    by_cases ha : r.acc = .wo
    · rw [read_writeOnly hr he ha, read_writeOnly (c := c.staging stS stN) hr he ha]
      exact ⟨rfl, rfl, by cases w <;> rfl⟩
    · rw [read_value hr he ha, read_value (c := c.staging stS stN) hr he ha]
      exact ⟨rfl, value_staging c stS stN el h, by split <;> cases w <;> rfl⟩

/-- So does a read through the port. -/
theorem oapRead_staging (c : Chip) (stS stN : List OWr) {idx : Nat} (el len : Nat) (w : World) (h : idx ≠ DICT_STAGED) :
    (((c.staging stS stN).oapRead w idx el len).dic.oap w).status = ((c.oapRead w idx el len).dic.oap w).status
    ∧ (((c.staging stS stN).oapRead w idx el len).dic.oap w).data = ((c.oapRead w idx el len).dic.oap w).data := by
  obtain ⟨hst, hv, ho⟩ := read_staging c stS stN el w h
  simp only [oapRead_answer, hst, hv, ho, and_self]

/-- A stage of 1 to DICT_ABORT empties the area of the world that writes it (R357). -/
theorem stage_abort (c : Chip) (w : World) : c.stage w ⟨DICT_ABORT, 0, 1⟩ 1 = ({ c with dic := c.dic.setArea w [] }, 0, false) := by
  have hrow : ∃ r, objRow DICT_ABORT 0 = some r ∧ r.acc = .wo ∧ r.lim = .all ∧ lenOk r 1 = true ∧ typeBad r 1 = false := ⟨_, rfl, by decide⟩
  obtain ⟨r, hr, ha, hl, hlen, ht⟩ := hrow
  have habs : c.eng.absent DICT_ABORT 0 = false := by simp +decide [Eng.absent]
  have hst : c.eng.checkStatus w ⟨DICT_ABORT, 0, 1⟩ 1 = 0 := by
    have hright : rightStatus w r DICT_ABORT = 0 := by simp only [rightStatus, ha]; cases w <;> decide
    simp [Eng.checkStatus, Eng.exists_, hr, hl, habs, hright, ha, hlen, ht]
  simp +decide only [Chip.stage, hst, if_true, if_false]

/-- The same through the port. -/
theorem oapStage_abort (c : Chip) (w : World) :
    c.oapStage w DICT_ABORT 0 1 1 =
      { c with dic := (c.dic.setArea w []).setOap w { obj := oapObj DICT_ABORT 0 1, status := 0, busy := false, data := 1 } } := by
  have hv : (1 : Data).toNat % 2 ^ (8 * 1) = 1 := by rw [BitVec.ofNat_eq_ofNat, BitVec.toNat_one (by decide)]; rfl
  rw [Chip.oapStage, hv, stage_abort]

/-! ## What the normal world's operations leave of the secure side (R355, R357, R362, R366) -/

/-- The secure world's staged writes, port and commit number, Keeper, and the power state. -/
def Chip.secureSide (c : Chip) : List OWr × Oap × Nat × Kpr × Pwr := (c.dic.stS, c.dic.oapS, c.dic.numS, c.kpr, c.pwr)

theorem secureSide_read (c : Chip) (idx el : Nat) : (c.read idx el).2.2.secureSide = c.secureSide := by
  obtain ⟨e, he⟩ := read_form c idx el
  rw [he]; rfl

theorem secureSide_oapRead (c : Chip) (idx el len : Nat) : (c.oapRead .normal idx el len).secureSide = c.secureSide := by
  obtain ⟨e, p, h⟩ := oapRead_form c .normal idx el len
  rw [h]; rfl

theorem secureSide_stage (c : Chip) (o : OWr) (len : Nat) : (c.stage .normal o len).1.secureSide = c.secureSide := by
  obtain h | ⟨e, h⟩ | h | ⟨l, h⟩ := stage_form c .normal o len <;> rw [h] <;> rfl

theorem secureSide_setOap (c : Chip) (p : Oap) : ({ c with dic := c.dic.setOap .normal p } : Chip).secureSide = c.secureSide := rfl

theorem secureSide_oapStage (c : Chip) (idx el len : Nat) (data : Data) : (c.oapStage .normal idx el len data).secureSide = c.secureSide := by
  rw [Chip.oapStage]
  exact (secureSide_setOap ..).trans (secureSide_stage ..)

theorem secureSide_oapCommit (c : Chip) : (c.oapCommit .normal).secureSide = c.secureSide := rfl

theorem secureSide_oapAbort (c : Chip) : (c.oapAbort .normal).secureSide = c.secureSide := rfl

/-- Loading the mailbox's next packet changes the mailbox alone. -/
theorem mbLoad_form (d : Dic) : ∃ out qs, d.mbLoad = { d with mbOut := out, mbQ := qs } := by
  unfold Dic.mbLoad; split <;> exact ⟨_, _, rfl⟩

/-- A message that leaves changes the queues of its transport alone. -/
theorem send_form (c : Chip) (a : MAddr) (m : List B8) : ∃ out qs i, c.send a m = { c with dic := { c.dic with mbOut := out, mbQ := qs, i3cQ := i } } := by
  obtain ⟨via, eid, tag, owner⟩ := a
  cases via with
  | i3c => exact ⟨_, _, _, rfl⟩
  | mailbox k =>
    obtain ⟨out, qs, h⟩ := mbLoad_form { c.dic with mbQ := c.dic.mbQ ++ (packets ⟨.mailbox k, eid, tag, owner⟩ (c.ob DICT_EID) m).map fun p => ({ via := .mailbox k, bytes := p } : MOut) }
    exact ⟨out, qs, _, congrArg (fun d => { c with dic := d }) h⟩

/-- A response takes its request from the queue, and goes out. -/
theorem finish_form (c : Chip) (q : DReqQ) (cc : Nat) (body : List B8) :
    ∃ out qs i, c.finish q cc body = { c with dic := { c.dic with reqs := c.dic.reqs.erase q, mbOut := out, mbQ := qs, i3cQ := i } } :=
  send_form ..

theorem secureSide_finish (c : Chip) (q : DReqQ) (cc : Nat) (body : List B8) : (c.finish q cc body).secureSide = c.secureSide := by
  obtain ⟨out, qs, i, h⟩ := finish_form c q cc body
  rw [h]; rfl

theorem secureSide_readEls (idx : Nat) (l : List Nat) : ∀ c : Chip, (c.readEls .normal idx l).1.secureSide = c.secureSide := by
  induction l with
  | nil => exact fun _ => rfl
  | cons el t ih =>
    intro c
    unfold Chip.readEls
    split
    · exact ih c
    · exact (ih _).trans (secureSide_oapRead ..)

/-- Of two ways on that leave the secure side alone, either leaves it alone. -/
theorem secureSide_ite {p : Prop} [Decidable p] {c c1 c2 : Chip} (h1 : c1.secureSide = c.secureSide) (h2 : c2.secureSide = c.secureSide) :
    (if p then c1 else c2).secureSide = c.secureSide := by
  split
  · exact h1
  · exact h2

section Served
variable {q : DReqQ} (hq : q.world = .normal) (c : Chip)
include hq

theorem secureSide_mRead : (c.mRead q).secureSide = c.secureSide := by
  unfold Chip.mRead
  rw [hq]
  dsimp only
  split
  · exact secureSide_finish ..
  · split
    · exact secureSide_finish ..
    · exact (secureSide_finish ..).trans (secureSide_readEls ..)

theorem secureSide_mStage : (c.mStage q).secureSide = c.secureSide := by
  unfold Chip.mStage
  rw [hq]
  split
  · exact secureSide_finish ..
  · split
    · exact secureSide_finish ..
    · exact (secureSide_finish ..).trans (secureSide_oapStage ..)

theorem secureSide_mW1c : (c.mW1c q).secureSide = c.secureSide := by
  unfold Chip.mW1c
  rw [hq]
  split
  · exact secureSide_finish ..
  · split
    · exact secureSide_finish ..
    · have hf (cc : Nat) : (c.finish q cc []).secureSide = c.secureSide := secureSide_finish ..
      exact secureSide_ite (hf 7) (secureSide_ite (hf 0xD) (secureSide_ite (hf 3) (secureSide_ite (hf 8) (secureSide_ite (hf 1)
        ((secureSide_finish ..).trans (secureSide_oapStage ..))))))

theorem secureSide_mCommit : (c.mCommit q).secureSide = c.secureSide := by
  unfold Chip.mCommit; rw [hq]; rfl

theorem secureSide_mAbort : (c.mAbort q).secureSide = c.secureSide := by
  unfold Chip.mAbort; rw [hq]; exact secureSide_finish ..

omit hq in
theorem secureSide_mStatus : (c.mStatus q).secureSide = c.secureSide := secureSide_finish ..

end Served

/-- The request taken up is at the head of its world's queue, and the world serves. -/
theorem nextReq_some {c : Chip} {w : World} {q : DReqQ} (h : c.nextReq w = some q) :
    c.dic.reqs.find? (fun q => q.world == w) = some q ∧ c.serves w = true ∧ q.cmt = none ∧ (c.dic.oap w).busy = false := by
  unfold Chip.nextReq at h
  split at h
  · next p hp =>
    obtain ⟨⟨hs, hc, hb⟩, rfl⟩ := (ite_eq_iff.1 h).resolve_right (by simp) |>.imp_right Option.some.inj
    exact ⟨hp, hs, Option.isNone_iff_eq_none.1 hc, by simpa using hb⟩
  · cases h

theorem nextReq_world {c : Chip} {w : World} {q : DReqQ} (h : c.nextReq w = some q) : q.world = w := by
  simpa using List.find?_some (nextReq_some h).1

/-- What every service of a request of the normal world leaves alone, taking one up leaves alone. -/
theorem secureSide_serve (c : Chip) (deny : Bool) (p : Nat → Bool) (act : Chip → DReqQ → Chip)
    (hact : ∀ q, q.world = .normal → (act c q).secureSide = c.secureSide) : (c.serve .normal deny p act).secureSide = c.secureSide := by
  unfold Chip.serve
  split
  · rfl
  · next q hq =>
    split
    · rfl
    · split
      · exact secureSide_finish ..
      · exact hact q (nextReq_world hq)

/-- The dictionary operations of the normal world, through the port and by a message. -/
def normalOps (idx el len : Nat) (data : Data) (deny : Bool) (v : Nat) : List Instr :=
  [.oapRead .normal idx el len, .oapStage .normal idx el len data, .oapCommit .normal, .oapAbort .normal, .rcRead .normal idx el, .w1cWrite .normal idx el v,
    .dictRead .normal deny, .dictStage .normal deny, .dictCommit .normal deny, .dictAbort .normal deny, .dictCommitStatus .normal deny, .dictW1c .normal deny]

/-- Each of them is an operation of the block that leaves the secure side alone. -/
theorem secureSide_normalOps {idx el len : Nat} {data : Data} {deny : Bool} {v : Nat} {i : Instr} (hi : i ∈ normalOps idx el len data deny v) (s : State) :
    ∃ c : Chip, exec i s = .next (s.block c) ∧ c.secureSide = s.toChip.secureSide := by
  simp only [normalOps, List.mem_cons, List.not_mem_nil, or_false] at hi
  rcases hi with rfl | rfl | rfl | rfl | rfl | rfl | rfl | rfl | rfl | rfl | rfl | rfl
  · exact ⟨_, rfl, secureSide_ite (secureSide_oapRead ..) rfl⟩
  · exact ⟨_, rfl, secureSide_ite (secureSide_oapStage ..) rfl⟩
  · exact ⟨_, rfl, secureSide_ite (secureSide_oapCommit _) rfl⟩
  · exact ⟨_, rfl, secureSide_ite (secureSide_oapAbort _) rfl⟩
  · exact ⟨_, rfl, secureSide_ite (secureSide_read ..) rfl⟩
  · exact ⟨_, rfl, secureSide_ite (secureSide_stage ..) rfl⟩
  · exact ⟨_, rfl, secureSide_serve _ _ _ _ fun _ hq => secureSide_mRead hq _⟩
  · exact ⟨_, rfl, secureSide_serve _ _ _ _ fun _ hq => secureSide_mStage hq _⟩
  · exact ⟨_, rfl, secureSide_serve _ _ _ _ fun _ hq => secureSide_mCommit hq _⟩
  · exact ⟨_, rfl, secureSide_serve _ _ _ _ fun _ hq => secureSide_mAbort hq _⟩
  · exact ⟨_, rfl, secureSide_serve _ _ _ _ fun _ _ => secureSide_mStatus _⟩
  · exact ⟨_, rfl, secureSide_serve _ _ _ _ fun _ hq => secureSide_mW1c hq _⟩

/-- R355: the normal world's write of an RWS object is refused access-denied, whatever its length and value. -/
theorem checkStatus_normal_rws {e : Eng} {o : OWr} {len : Nat} {r : ObjRow} (hr : objRow o.idx o.el = some r) (ha : r.acc = .rws)
    (he : e.exists_ o.idx o.el = true) (hab : e.absent o.idx o.el = false) : e.checkStatus .normal o len = 5 := by
  simp [Eng.checkStatus, hr, he, hab, rightStatus, ha]

end Sys2Proof.Machine

section
open Sys2Proof Sys2Proof.Machine Sys2Proof.Machine.Ob

/-- Settles O37: each operation of the port through the equation of its outcome (`oapRead_value`, `stage_refused`, `stage_full`, `stage_put`). -/
theorem accessPort : Obligations.AccessPort := by
  unfold Obligations.AccessPort
  refine fun s w => ⟨fun hp => ⟨fun idx el len => ⟨fun hu => ?unlisted, fun r hr he => ⟨fun ha => ?writeOnly, fun ha => ?value⟩⟩,
      fun idx el len data => ⟨fun hs => ?refused, fun hs h1 hc hab => ⟨fun hf => ?full, fun hf => ?put⟩⟩, ?commit, ?abort⟩,
    fun hv => ⟨fun idx el r hr ha he => ?rc, fun idx el v r hr ha hs hi => ?w1c⟩⟩
  case unlisted => exact block_congr ((if_pos hp).trans (oapRead_refused w len (read_unlisted hu) (by decide)))
  case writeOnly => exact block_congr ((if_pos hp).trans (oapRead_refused w len (read_writeOnly hr he ha) (by decide)))
  case value =>
    refine block_congr ((if_pos hp).trans ((oapRead_value w len hr he ha).trans ?_))
    rfl
  case refused => exact block_congr ((if_pos hp).trans (by rw [Chip.oapStage, stage_refused hs]))
  case full => exact block_congr ((if_pos hp).trans (by rw [Chip.oapStage, stage_full hs h1 hc hab hf]))
  case put => exact block_congr ((if_pos hp).trans (by rw [Chip.oapStage, stage_put hs h1 hc hab hf]))
  case commit => refine block_congr ((if_pos hp).trans ?_); cases w <;> rfl
  case abort => refine block_congr ((if_pos hp).trans ?_); cases w <;> rfl
  case rc => exact block_congr ((if_pos ⟨hv, isRC_of_row hr ha⟩).trans (by rw [read_value hr he (by rw [ha]; decide), if_pos ha]))
  case w1c =>
    refine block_congr ((if_pos ⟨hv, isW1C_of_row hr ha⟩).trans ?_)
    rw [stage_w1c (by rwa [rowLen_of_row hr]) (isW1C_of_row hr ha), w1c_clears _ _ hi]

/-- Settles O44: by what an area in order holds after a write is put into it (`mem_putWr_iff`), and by the reads' indifference to what is staged. -/
theorem stagedWrites : Obligations.StagedWrites := by
  unfold Obligations.StagedWrites
  refine ⟨fun s w idx el len data hp hs h1 hc hab hok => ?stage, fun s w idx el len stS stN hp hi => ?read, fun s w hp => ?abort⟩
  case stage =>
    refine ⟨_, block_congr (if_pos hp), fun v hv => ?_, fun hroom => ?_, fun hlen hnone => ?_⟩
    · rw [Chip.oapStage]
      refine (area_setOap ..).trans ?_
      cases hf : areaFull ⟨idx, el, data.toNat % 2 ^ (8 * len)⟩ (s.toChip.dic.area w)
      · rw [stage_put hs h1 hc hab hf]; exact area_setArea_ne _ _ _ _ hv
      · rw [stage_full hs h1 hc hab hf]
    · rw [Chip.oapStage, stage_put hs h1 hc hab (areaFull_false.2 hroom)]
      have hasc : ascending (s.toChip.dic.area w) = true := by
        simp only [areaOk, Bool.and_eq_true] at hok
        exact hok.2
      refine ⟨congrArg Oap.status (oap_setOap_same ..), fun a => ?_⟩
      refine .trans (Eq.to_iff (congrArg (a ∈ ·) ((area_setOap ..).trans (area_setArea_same ..)))) (mem_putWr_iff hasc)
    · rw [Chip.oapStage, stage_full hs h1 hc hab (areaFull_true.2 ⟨hlen, hnone⟩)]
      exact ⟨congrArg Oap.status (oap_setOap_same ..), area_setOap ..⟩
  case read =>
    have hp' : (s.toChip.staging stS stN).oapReady w = true := by rw [← hp]; cases w <;> rfl
    exact ⟨_, _, block_congr (if_pos hp), block_congr (if_pos hp'), oapRead_staging s.toChip stS stN el len w hi⟩
  case abort =>
    refine ⟨_, block_congr ((if_pos hp).trans (oapStage_abort s.toChip w)), ?_, fun v hv => ?_⟩
    · exact (area_setOap ..).trans (area_setArea_same ..)
    · exact (area_setOap ..).trans (area_setArea_ne _ _ _ _ hv)

/-- Settles O51: every operation of the normal world keeps `Chip.secureSide`, and the right of an RWS object fails in the checks of R392. -/
theorem normalWorldOperations : Obligations.NormalWorldOperations := by
  unfold Obligations.NormalWorldOperations
  refine ⟨fun s t i ⟨idx, el, len, data, deny, v, hi⟩ h => ?_, fun s idx el len data r hp hr ha he hab => ?_⟩
  · obtain ⟨c, hc, hside⟩ := secureSide_normalOps (i := i) hi s
    obtain rfl := Host.Outcome.next.inj (hc.symm.trans h)
    simp only [Chip.secureSide, Prod.mk.injEq] at hside
    exact hside
  · have hst := checkStatus_normal_rws (o := ⟨idx, el, data.toNat % 2 ^ (8 * len)⟩) (len := len) hr ha he hab
    refine block_congr ((if_pos hp).trans ?_)
    rw [Chip.oapStage, stage_refused (by rw [hst]; decide), hst]
    rfl

end

/-! # Dictionary messages, commit edges, events, and where writes of memory land

What the firmware that serves a world does with the request at the head of its queue (R363 to R367), the commit edge (R358), the events
(R370, R371), and the bytes that a firmware chunk and a debugger's word change (R336, R349, R365). -/

namespace Sys2Proof.Machine
open Ob

/-! ## Requests taken up (R363 to R367) -/

section Serve
variable {c : Chip} {w : World} {q : DReqQ} {p : Nat → Bool} {act : Chip → DReqQ → Chip}

/-- The request at the head of the queue is served where its command is the operation's. -/
theorem serve_takes (h : c.nextReq w = some q) (hp : p q.cmd = true) : c.serve w false p act = act c q := by
  simp only [Chip.serve, h, hp, Bool.not_true, Bool.false_eq_true, if_false, false_and]

/-- R366: a refusal of secure firmware's policy answers 0x05 and does nothing else. -/
theorem serve_denied (h : c.nextReq w = some q) (hp : p q.cmd = true) (hw : w = .secure) (hb : c.kpr.booted = true) :
    c.serve w true p act = c.finish q 5 [] := by
  subst hw
  simp only [Chip.serve, h, hp, hb, Bool.not_true, Bool.false_eq_true, if_false, and_self, if_true]

/-- The machine after a request has been taken up. -/
theorem served {s : State} {c' : Chip} (h : s.toChip.nextReq w = some q) (hp : p q.cmd = true) (hact : act s.toChip q = c') :
    s.chip (fun c => c.serve w false p act) = .next (s.block c') :=
  block_congr ((serve_takes h hp).trans hact)

/-- The machine after a request has been refused. -/
theorem served_denied {s : State} (h : s.toChip.nextReq w = some q) (hp : p q.cmd = true) (hw : w = .secure) (hb : s.toChip.kpr.booted = true) :
    s.chip (fun c => c.serve w true p act) = .next (s.block (s.toChip.finish q 5 [])) :=
  block_congr (serve_denied h hp hw hb)

end Serve

section Requests
variable {c : Chip} {q : DReqQ}

theorem mRead_answers (hl : 4 ≤ q.body.length) (h1 : 1 ≤ at8 q.body 3) (h64 : at8 q.body 3 ≤ 64)
    (hfit : 8 + (((List.range (at8 q.body 3)).map (at8 q.body 2 + ·)).map fun el => 1 + c.readLen (leNat (q.body.take 2)) el).sum ≤ 1100) :
    c.mRead q =
      let r := c.readEls q.world (leNat (q.body.take 2)) ((List.range (at8 q.body 3)).map (at8 q.body 2 + ·))
      r.1.finish q 0 r.2 :=
  (if_neg (by omega)).trans (if_neg (by omega))

section Write
variable {idx el n v : Nat} (hb : bodyWr q.body = some (idx, el, n, v))
include hb

theorem mStage_rom (h : c.romRefuses idx = true) : c.mStage q = c.finish q 0xD [] := by
  simp only [Chip.mStage, hb, h, if_true]

theorem mStage_port (h : c.romRefuses idx = false) :
    c.mStage q = let c1 := c.oapStage q.world idx el n (BitVec.ofNat 512 v); c1.finish q (c1.dic.oap q.world).status [] := by
  simp only [Chip.mStage, hb, h, Bool.false_eq_true, if_false]

variable {r : ObjRow} (hr : objRow idx el = some r) (he : c.eng.exists_ idx el = true) (hrom : c.romRefuses idx = false)
  (hab : c.eng.absent idx el = false) (hlen : lenOk r n = true)
include hr he hrom hab hlen

theorem mW1c_other (ha : r.acc ≠ .w1c) : c.mW1c q = c.finish q 1 [] := by
  simp only [Chip.mW1c, hb, hr, he, hrom, hab, hlen, ha, Bool.not_true, Bool.false_eq_true, if_false, not_false_eq_true, if_true, ne_eq]

theorem mW1c_applied (ha : r.acc = .w1c) :
    c.mW1c q = let c1 := c.oapStage q.world idx el n (BitVec.ofNat 512 v); c1.finish q (c1.dic.oap q.world).status [] := by
  simp only [Chip.mW1c, hb, hr, he, hrom, hab, hlen, ha, Bool.not_true, Bool.false_eq_true, if_false, ne_eq, not_true]

end Write

theorem mFwBegin_refused (hl : 4 ≤ q.body.length) (h : leNat (q.body.take 4) = 0 ∨ 2 ^ 20 < leNat (q.body.take 4)) : c.mFwBegin q = c.finish q 1 [] :=
  (if_neg (by omega)).trans (if_pos h)

theorem mFwBegin_opens (hl : 4 ≤ q.body.length) (h1 : 1 ≤ leNat (q.body.take 4)) (h2 : leNat (q.body.take 4) ≤ 2 ^ 20) :
    c.mFwBegin q = (c.k fun k => { k with imgLen := some (leNat (q.body.take 4)) }).finish q 0 [] :=
  (if_neg (by omega)).trans (if_neg (by omega))

/-- Path by which a chunk of an image is stored: to SRAM before an image has booted, to DRAM after it (R336, R365). -/
def Chip.chunkPath (c : Chip) : GPath := if c.kpr.booted then .directory else .keeper

/-- Offset at which the chunk that a request holds is stored. -/
def Chip.chunkBase (c : Chip) (q : DReqQ) : Nat := if c.kpr.booted then c.ob FW_STAGE_BASE + leNat (q.body.take 4) else leNat (q.body.take 4)

/-- The access that stores the chunk. -/
def Chip.chunkAccess (c : Chip) (q : DReqQ) : Chip × Bool := c.fwAccess c.chunkPath true (c.chunkBase q) (q.body.drop 4).length

/-- The chunk stored. -/
def Chip.chunkStored (c : Chip) (q : DReqQ) : Chip :=
  let c1 := (c.chunkAccess q).1
  if c1.kpr.booted then c1.k fun k => { k with dram := putBytes (c.chunkBase q) (q.body.drop 4) k.dram }
  else c1.k fun k => { k with sram := putBytes (c.chunkBase q) (q.body.drop 4) k.sram }

theorem chunkAccess_booted (hb : c.kpr.booted = true) :
    c.chunkAccess q = c.fwAccess .directory true (c.ob FW_STAGE_BASE + leNat (q.body.take 4)) (q.body.drop 4).length := by
  simp only [Chip.chunkAccess, Chip.chunkPath, Chip.chunkBase, hb, if_true]

theorem chunkAccess_rom (hb : c.kpr.booted = false) : c.chunkAccess q = c.fwAccess .keeper true (leNat (q.body.take 4)) (q.body.drop 4).length := by
  simp only [Chip.chunkAccess, Chip.chunkPath, Chip.chunkBase, hb, Bool.false_eq_true, if_false]

theorem chunkAccess_ok (h : (c.chunkAccess q).2 = true) : (c.chunkAccess q).1 = { c with eng := (c.chunkAccess q).1.eng } := fwAccess_ok _ _ _ _ _ h

theorem chunkStored_booted (hb : c.kpr.booted = true) (h : (c.chunkAccess q).2 = true) :
    c.chunkStored q = c.k fun k => { k with dram := putBytes (c.ob FW_STAGE_BASE + leNat (q.body.take 4)) (q.body.drop 4) k.dram } := by
  have hc : (c.chunkAccess q).1 = c := by
    rw [chunkAccess_booted hb] at h ⊢
    exact fwAccess_dram _ _ _ _ h
  simp only [Chip.chunkStored, hc, Chip.chunkBase, hb, if_true]

theorem chunkStored_rom (hb : c.kpr.booted = false) (h : (c.chunkAccess q).2 = true) :
    c.chunkStored q = (c.chunkAccess q).1.k fun k => { k with sram := putBytes (leNat (q.body.take 4)) (q.body.drop 4) k.sram } := by
  have hb' : (c.chunkAccess q).1.kpr.booted = false := (congrArg (fun c => c.kpr.booted) (chunkAccess_ok h)).trans hb
  simp only [Chip.chunkStored, hb', Chip.chunkBase, hb, Bool.false_eq_true, if_false]

section Chunk
variable {n : Nat} (hl : 5 ≤ q.body.length) (hd : (q.body.drop 4).length ≤ 1024) (hn : c.kpr.imgLen = some n)
  (hle : leNat (q.body.take 4) + (q.body.drop 4).length ≤ n)
include hl hd hn hle

/-- A chunk inside the announced length is stored where the Guard allows its access, and is answered busy where it does not. -/
theorem mFwData_form : c.mFwData q = if (c.chunkAccess q).2 then (c.chunkStored q).finish q 0 [] else (c.chunkAccess q).1.finish q 2 [] := by
  have hfin (c1 : Chip) (g1 g2 : Chip) (m : Nat) :
      (if c1.kpr.booted then g1.finish q m [] else g2.finish q m []) = (if c1.kpr.booted then g1 else g2).finish q m [] := by split <;> rfl
  unfold Chip.mFwData Chip.chunkStored
  dsimp only
  rw [if_neg (by omega), hn]
  dsimp only
  rw [if_neg (by omega), ← hfin]
  change (match c.chunkAccess q with | (c, false) => _ | (c, true) => _) = _
  generalize c.chunkAccess q = a
  obtain ⟨c1, b⟩ := a
  cases b <;> rfl

end Chunk

theorem mFwEnd_booted {n : Nat} (hn : c.kpr.imgLen = some n) (hb : c.kpr.booted = true) :
    c.mFwEnd q = let c1 := c.k fun k => { k with imgLen := none }; c1.finish q 0 [b8 (c1.ob FW_BOOT_STATUS)] := by
  simp only [Chip.mFwEnd, hn, hb, Bool.not_true, Bool.false_eq_true, if_false]

theorem mFwEnd_rom {n : Nat} (hn : c.kpr.imgLen = some n) (hb : c.kpr.booted = false) :
    c.mFwEnd q = let c2 := (c.k fun k => { k with imgLen := none }).bootImage (readCells c.kpr.sram 0 n); c2.finish q 0 [b8 (c2.ob FW_BOOT_STATUS)] := by
  simp only [Chip.mFwEnd, hn, hb, Bool.not_false, if_true]
  rfl

end Requests

/-! ## Commit edges (R358) -/

/-- The checks of a commit do not depend on the dictionary's paths. -/
theorem firstBad_dic (c : Chip) (d : Dic) (w : World) (ws : List OWr) : ({ c with dic := d } : Chip).firstBad w ws = c.firstBad w ws := rfl

/-- The earliest commit is handled once its time has come. -/
theorem commitEdge_due {c : Chip} {m : Cmt} {lead : Nat} (he : earliest c.dic.commits = some m) (hl : m.lead = some lead) (ht : c.cmtTime m lead ≤ c.eng.ts) :
    c.commitEdge = (Chip.doCommit { c with dic := { c.dic with commits := c.dic.commits.erase m } } m (c.cmtTime m lead)).oapEnd m.world := by
  simp only [Chip.commitEdge, he, hl, if_neg (Nat.not_lt.2 ht)]

section Handled
variable {c : Chip} {m : Cmt}

/-- A commit that passes every check takes effect whole. -/
theorem doCommit_passed (h : c.firstBad m.world m.ws = none) (t : Nat) :
    c.doCommit m t = (Chip.setOutcome { c with dic := { c.dic with lastT := some t } } m.world m.num 0 0 0 t).applyCmt m.world m.ws := by
  simp only [Chip.doCommit, h]

/-- A commit that fails a check is refused whole. -/
theorem doCommit_failed {o : OWr} {st : Nat} (h : c.firstBad m.world m.ws = some (o, st)) (t : Nat) :
    c.doCommit m t =
      let c1 : Chip := { c with dic := { c.dic with lastT := some t } }
      (if c.eng.foghorn then c1 else c1.denyLog m.world m.ws).setOutcome m.world m.num st o.idx o.el t := by
  simp only [Chip.doCommit, h]

end Handled

/-! ## Events (R370, R371) -/

section Events
variable {c : Chip} {r : EvRec} {t : List EvRec}

/-- An acknowledgement of the outstanding record's number takes it from the head of the event queue. -/
theorem evAck_takes (h : c.eng.evq = r :: t) (hs : 0 < r.sends) : c.evAck r.num false = c.e fun e => { e with evq := t } := by
  simp only [Chip.evAck, h, hs, Bool.false_eq_true, false_and, if_false, decide_true, beq_self_eq_true, Bool.and_self, if_true]
  simp only [Chip.e, h, List.drop_one, List.tail_cons]

/-- The carrier chip's own acknowledgement takes a region-map notice. -/
theorem evAck_notice (h : c.eng.notices = r :: t) (hs : 0 < r.sends) : c.evAck r.num true = c.e fun e => { e with notices := t } := by
  simp only [Chip.evAck, h, hs, true_and, decide_true, beq_self_eq_true, Bool.and_self, if_true]
  simp only [Chip.e, h, List.drop_one, List.tail_cons]

/-- What is not outstanding is not acknowledged. -/
theorem evAck_other {num : Nat} {b : Bool} (h : c.eng.evq = r :: t) (hn : c.eng.notices = []) (ho : r.sends = 0 ∨ r.num ≠ num) : c.evAck num b = c := by
  have hout : (decide (0 < r.sends) && r.num == num) = false := by
    rcases ho with ho | ho <;> simp [ho]
  simp only [Chip.evAck, h, hn, hout, Bool.false_eq_true, and_false, if_false]

/-- DICT_EVT_RETRY has passed since a record was sent. -/
theorem retryDue_true (hs : 0 < r.sends) (ht : r.at_ + c.ob DICT_EVT_RETRY * 1000 ≤ c.eng.ts) : c.retryDue r = true := by
  simp only [Chip.retryDue, hs, ht, decide_true, Bool.and_self]

section Retry
variable (h : c.eng.evq = r :: t) (he : c.evSends = true) (hd : c.retryDue r = true)
include h he hd

theorem evRetry_again (h8 : r.sends < 8) :
    c.evRetry = Chip.sendEvent (c.e fun e => { e with evq := { r with sends := r.sends + 1, at_ := e.ts } :: t }) (c.dic.route (c.ob DICT_FM_EID)) (c.ob DICT_FM_EID) r := by
  simp only [Chip.evRetry, h, he, hd, Bool.not_true, Bool.false_eq_true, or_self, if_false, if_neg (Nat.not_le.2 h8), Chip.evSend]

theorem evRetry_leaves (h8 : 8 ≤ r.sends) : c.evRetry = c.e fun e => { e with evq := t } := by
  simp only [Chip.evRetry, h, he, hd, Bool.not_true, Bool.false_eq_true, or_self, if_false, h8, if_true]

end Retry

/-- A region-map notice is resent, however often it has been sent. -/
theorem noticeRetry_again (h : c.eng.notices = r :: t) (hk : c.kpr.on = true) (hd : c.retryDue r = true) :
    c.noticeRetry = Chip.sendEvent (c.e fun e => { e with notices := { r with sends := r.sends + 1, at_ := e.ts } :: t }) (.mailbox 0) 0 r := by
  simp only [Chip.noticeRetry, h, hk, hd, and_self, if_true, Chip.noticeSend]

end Events

/-- A request that has waited DICT_REQ_WAIT is answered unavailable and removed (R367). -/
theorem reqExpiry_answers {c : Chip} {q : DReqQ} (hk : c.kpr.on = true)
    (h : (c.dic.reqs.find? fun q => q.cmt.isNone && decide (q.at_ + c.ob DICT_REQ_WAIT * 1000000 ≤ c.eng.ts)) = some q) : c.reqExpiry = c.finish q 0xD [] := by
  simp only [Chip.reqExpiry, h, hk, if_true]

/-! ## Writes of the stores of bytes (R336, R349, R365) -/

theorem finish_kpr (c : Chip) (q : DReqQ) (cc : Nat) (body : List B8) : (c.finish q cc body).kpr = c.kpr := by
  obtain ⟨out, qs, i, h⟩ := finish_form c q cc body
  rw [h]

/-- A chunk stored changes its bytes of its store, and nothing else of Keeper. -/
theorem chunkStored_kpr {c : Chip} {q : DReqQ} (h : (c.chunkAccess q).2 = true) :
    (c.chunkStored q).kpr =
      if c.kpr.booted then { c.kpr with dram := putBytes (c.chunkBase q) (q.body.drop 4) c.kpr.dram }
      else { c.kpr with sram := putBytes (c.chunkBase q) (q.body.drop 4) c.kpr.sram } := by
  rw [Chip.chunkStored, chunkAccess_ok h]
  dsimp only
  split <;> rfl

theorem readCells_inside {a x : Nat} (bs : List (BitVec 8)) {l : List Host.Cell} (h : Memory.wf l = true) (h1 : a ≤ x) (h2 : x < a + bs.length) :
    readCells (putBytes a bs l) x 1 = [bs.getD (x - a) 0] :=
  (readCells_putBytes a bs l h x).trans (if_pos ⟨h1, h2⟩)

theorem readCells_outside {a x : Nat} (bs : List (BitVec 8)) {l : List Host.Cell} (h : Memory.wf l = true) (hx : x < a ∨ a + bs.length ≤ x) :
    readCells (putBytes a bs l) x 1 = readCells l x 1 :=
  (readCells_putBytes a bs l h x).trans (if_neg (by omega))

theorem natBytes_getD (n : Nat) {k i : Nat} (h : i < k) : (natBytes n k).getD i 0 = BitVec.ofNat 8 (n / 2 ^ (8 * i)) := by
  simp [natBytes, List.getD_eq_getElem?_getD, h]

/-- A word stored reads little end first, and every other byte as before. -/
theorem readCells_putWord (b v x : Nat) {l : List Host.Cell} (h : Memory.wf l = true) :
    readCells (putBytes b (natBytes v 4) l) x 1 = if b ≤ x ∧ x < b + 4 then [BitVec.ofNat 8 (v / 2 ^ (8 * (x - b)))] else readCells l x 1 := by
  have hlen : (natBytes v 4).length = 4 := by simp [natBytes]
  rw [readCells_putBytes _ _ _ h, hlen]
  split
  · rw [natBytes_getD v (by omega)]
  · rfl

/-- An operation of an instrument that its enable and the Guard permit has its effect (R349). -/
theorem tapOp_permitted {c : Chip} {op : TapOp} (hir : c.pm.ir = 2) (hon : c.kpr.on = true) (hsib : 4 ≤ tapInst op ∨ bit c.pm.sib (tapInst op) = true)
    (h : c.tapAllowed op = true) : c.tapOp op = (c.q fun p => { p with stat := clearBit p.stat (tapInst op) }).tapDo op := by
  have hno : ¬(c.pm.ir ≠ 2 ∨ (!c.kpr.on) = true ∨ (tapInst op < 4 ∧ (!bit c.pm.sib (tapInst op)) = true)) := by
    rintro (h2 | hk | ⟨hlt, hb⟩)
    · exact h2 hir
    · simp [hon] at hk
    · rcases hsib with h4 | h4
      · omega
      · simp [h4] at hb
  exact (if_neg hno).trans (if_pos h)

/-- A debugger's word goes where Keeper's address map has it. -/
theorem tapDo_writeMem {c : Chip} {a : Nat} {v : BitVec 32} {x : KWhere} (h : c.kaddr c.kpr.world true a = some x) :
    c.tapDo (.writeMem a v) = c.kwrite c.kpr.world x v := by
  simp only [Chip.tapDo, h]

theorem kwrite_sram_kpr (c : Chip) (w : World) (o : Nat) (v : BitVec 32) :
    (c.kwrite w (.sram o) v).kpr = { c.kpr with sram := putBytes o (natBytes v.toNat 4) c.kpr.sram } := rfl

theorem kwrite_dram_kpr (c : Chip) (w : World) (a : Nat) (v : BitVec 32) :
    (c.kwrite w (.dram a) v).kpr = { c.kpr with dram := putBytes a (natBytes v.toNat 4) c.kpr.dram } := rfl

end Sys2Proof.Machine

section
open Sys2Proof Sys2Proof.Machine Sys2Proof.Machine.Ob

/-- Settles O38: the request at the head is taken up (`served`), and each command has the equation of its branch. -/
theorem dictionaryMessages : Obligations.DictionaryMessages := by
  unfold Obligations.DictionaryMessages
  refine fun s w q hq => ⟨fun i hi hw hb => ?denied, fun h hl h1 h64 hfit => ?read, fun idx el n v hwr => ⟨fun h => ⟨fun hrom => ?stageRom, fun hrom => ?stage⟩,
      fun h r hr he hrom hab hlen => ⟨fun ha => ?w1cOther, fun ha => ?w1c⟩⟩, fun h => ?commit, fun h => ?abort, fun h => ?status,
    fun h hl => ⟨fun hn => ?beginBad, fun h1 h2 => ?begin⟩, fun h hl hu n hn hle => ⟨fun hb => ⟨fun ha => ?dramRefused, fun ha => ?dram⟩, fun hb => ⟨fun ha => ?sramRefused, fun ha => ?sram⟩⟩,
    fun h n hn => ⟨fun hb => ?endBooted, fun hb => ?endRom⟩, fun h => ?unlisted⟩
  case denied =>
    simp only [List.mem_cons, Prod.mk.injEq, List.not_mem_nil, or_false] at hi
    rcases hi with ⟨hk, rfl⟩ | ⟨hk, rfl⟩ | ⟨hk, rfl⟩ | ⟨hk, rfl⟩ | ⟨hk, rfl⟩ | ⟨hk, rfl⟩ | ⟨hk, rfl⟩ | ⟨hk, rfl⟩ | ⟨hk, rfl⟩ <;>
      exact served_denied hq (beq_iff_eq.2 hk) hw hb
  case read => exact served hq (beq_iff_eq.2 h) (mRead_answers hl h1 h64 hfit)
  case stageRom => exact served hq (beq_iff_eq.2 h) (mStage_rom hwr hrom)
  case stage => exact served hq (beq_iff_eq.2 h) (mStage_port hwr hrom)
  case w1cOther => exact served hq (beq_iff_eq.2 h) (mW1c_other hwr hr he hrom hab hlen ha)
  case w1c => exact served hq (beq_iff_eq.2 h) (mW1c_applied hwr hr he hrom hab hlen ha)
  case commit => exact served hq (beq_iff_eq.2 h) rfl
  case abort => exact served hq (beq_iff_eq.2 h) rfl
  case status => exact served hq (beq_iff_eq.2 h) rfl
  case beginBad => exact served hq (beq_iff_eq.2 h) (mFwBegin_refused hl hn)
  case begin => exact served hq (beq_iff_eq.2 h) (mFwBegin_opens hl h1 h2)
  case dramRefused =>
    rw [← chunkAccess_booted hb] at ha ⊢
    exact served hq (beq_iff_eq.2 h) ((mFwData_form hl (by simp; omega) hn hle).trans (if_neg (by simp [ha])))
  case dram =>
    rw [← chunkAccess_booted hb] at ha
    refine ⟨fwAccess_dram _ _ _ _ (by rwa [chunkAccess_booted hb] at ha), ?_⟩
    exact served hq (beq_iff_eq.2 h) ((mFwData_form hl (by simp; omega) hn hle).trans ((if_pos ha).trans (by rw [chunkStored_booted hb ha])))
  case sramRefused =>
    rw [← chunkAccess_rom hb] at ha ⊢
    exact served hq (beq_iff_eq.2 h) ((mFwData_form hl (by simp; omega) hn hle).trans (if_neg (by simp [ha])))
  case sram =>
    rw [← chunkAccess_rom hb] at ha ⊢
    refine ⟨chunkAccess_ok ha, ?_⟩
    exact served hq (beq_iff_eq.2 h) ((mFwData_form hl (by simp; omega) hn hle).trans ((if_pos ha).trans (by rw [chunkStored_rom hb ha])))
  case endBooted => exact served hq (beq_iff_eq.2 h) (mFwEnd_booted hn hb)
  case endRom => exact served hq (beq_iff_eq.2 h) (mFwEnd_rom hn hb)
  case unlisted => exact served hq (by simp [h]) rfl

/-- Settles O39: a commit handled takes effect or is refused whole (`doCommit_passed`, `doCommit_failed`), and each event has the equation of its branch. -/
theorem commitEdgeAndEvents : Obligations.CommitEdgeAndEvents := by
  unfold Obligations.CommitEdgeAndEvents
  refine fun s => ⟨fun m lead hw he hl ht => ?edge, fun r t h => ⟨fun num hs hn => ?ack, fun num hno ho b => ?other,
    fun he hs ht => ⟨fun h8 => ?again, fun h8 => ?leaves⟩⟩, fun r t h hs => ⟨?notice, fun hk ht => ?resend⟩, fun q hk h => ?expiry⟩
  case edge =>
    refine (core_works s (fun c => c.commitEdge) hw).trans (congrArg (fun c => Host.Outcome.next (s.effect c)) ((commitEdge_due he hl ht).trans ?_))
    refine congrArg (fun c => Chip.oapEnd c m.world) ?_
    cases hb : s.toChip.firstBad m.world m.ws with
    | none => exact doCommit_passed ((firstBad_dic ..).trans hb) _
    | some p => exact doCommit_failed ((firstBad_dic ..).trans hb) _
  case ack =>
    subst hn
    exact block_congr (congrArg Chip.evPump (evAck_takes h hs))
  case other => exact block_congr (congrArg Chip.evPump (evAck_other h hno ho))
  case again => exact block_congr (congrArg Chip.evPump (evRetry_again h he (retryDue_true hs ht) h8))
  case leaves => exact block_congr (congrArg Chip.evPump (evRetry_leaves h he (retryDue_true hs ht) h8))
  case notice => exact block_congr (congrArg Chip.evPump (evAck_notice h hs))
  case resend => exact block_congr (congrArg Chip.evPump (noticeRetry_again h hk (retryDue_true hs ht)))
  case expiry => exact block_congr (reqExpiry_answers hk h)

/-- Settles O60: by what a store reads after bytes are put into it (`readCells_inside`, `readCells_outside`, `readCells_putWord`). -/
theorem memoryWrites : Obligations.MemoryWrites := by
  unfold Obligations.MemoryWrites
  refine ⟨fun s w q n hq hk hl hd hn hle hok ha => ?chunk, fun s a b v hir hon hsib hal hok hx => ?word⟩
  case chunk =>
    have ha' : (s.toChip.chunkAccess q).2 = true := ha
    have hexec : exec (.fwData w false) s = .next (s.block ((s.toChip.chunkStored q).finish q 0 [])) :=
      served hq (beq_iff_eq.2 hk) ((mFwData_form hl hd hn hle).trans (if_pos ha'))
    have hkpr := (finish_kpr (s.toChip.chunkStored q) q 0 []).trans (chunkStored_kpr ha')
    obtain ⟨hs, hdr⟩ := hok
    refine ⟨_, hexec, (keeps_exec hexec).1 ⟨hs, hdr⟩, ?_⟩
    simp only [block_kpr, hkpr, Chip.chunkBase]
    cases hb : s.kpr.booted
    · simp only [Bool.false_eq_true, if_false, true_and, and_true, false_imp_iff, implies_true]
      exact ⟨fun a h1 h2 => readCells_inside _ hs h1 h2, fun a ho => readCells_outside _ hs ho⟩
    · simp only [if_true, true_and, Bool.true_eq_false, false_imp_iff, implies_true, and_true]
      exact ⟨fun a h1 h2 => readCells_inside _ hdr h1 h2, fun a ho => readCells_outside _ hdr ho⟩
  case word =>
    have hdo := tapOp_permitted hir hon hsib hal
    obtain ⟨hs, hdr⟩ := hok
    have hword {x : KWhere} (h : s.toChip.kaddr s.toChip.kpr.world true a = some x) :
        exec (.tapInstrumentOperation (.writeMem a v)) s
          = .next (s.block ((s.toChip.q fun p => { p with stat := clearBit p.stat (tapInst (.writeMem a v)) }).kwrite s.toChip.kpr.world x v)) :=
      block_congr (hdo.trans (tapDo_writeMem h))
    rcases hx with hx | hx
    · refine ⟨_, hword hx, (keeps_exec (hword hx)).1 ⟨hs, hdr⟩, rfl, rfl, fun x => ⟨?_, ?_⟩⟩
      · rw [block_kpr, kwrite_sram_kpr]
        simp only [hx, true_and]
        exact readCells_putWord b v.toNat x hs
      · simp only [hx, Option.some.injEq, reduceCtorEq, false_and, if_false]
        rfl
    · refine ⟨_, hword hx, (keeps_exec (hword hx)).1 ⟨hs, hdr⟩, rfl, rfl, fun x => ⟨?_, ?_⟩⟩
      · simp only [hx, Option.some.injEq, reduceCtorEq, false_and, if_false]
        rfl
      · rw [block_kpr, kwrite_dram_kpr]
        simp only [hx, true_and]
        exact readCells_putWord b v.toNat x hdr

end

/-! # Histogram bins, phase stamps, refused commits, resets and the watchdog (R345, R347, R356, R358, R377, R379) -/

namespace Sys2Proof.Machine
open Ob

/-! ## Bins (R379) -/

/-- Quarter of its octave that a latency of 16 ns or more falls in, 4 to 7. -/
def binQuarter (l : Nat) : Nat := l / 2 ^ (Nat.log2 l - 2)

section Octave
variable {l : Nat} (h : 16 ≤ l)
include h

theorem four_le_log2 : 4 ≤ Nat.log2 l := (Nat.le_log2 (by omega)).2 h

/-- An octave's width is four of its quarters. -/
theorem octave_eq : 2 ^ Nat.log2 l = 4 * 2 ^ (Nat.log2 l - 2) := by
  have := four_le_log2 h
  rw [show 4 = 2 ^ 2 from rfl, ← pow_add, show 2 + (Nat.log2 l - 2) = Nat.log2 l by omega]

theorem binQuarter_bounds : 4 ≤ binQuarter l ∧ binQuarter l < 8 := by
  have hlo : 2 ^ Nat.log2 l ≤ l := Nat.log2_self_le (by omega)
  have hhi : l < 2 ^ (Nat.log2 l + 1) := Nat.lt_log2_self
  rw [pow_succ] at hhi
  rw [octave_eq h] at hlo hhi
  exact ⟨(Nat.le_div_iff_mul_le (by positivity)).2 hlo, (Nat.div_lt_iff_lt_mul (by positivity)).2 (by omega)⟩

/-- From 16 ns on a bin is a quarter of an octave. -/
theorem histBin_octave : histBin l = min 63 (4 * Nat.log2 l + binQuarter l - 12) := by
  have := four_le_log2 h
  have := binQuarter_bounds h
  have hm : l / 2 ^ (Nat.log2 l - 2) % 4 = binQuarter l - 4 := by
    show binQuarter l % 4 = _
    omega
  rw [histBin, if_neg (by omega), hm]
  omega

end Octave

theorem histBin_low {l : Nat} (h : l < 16) : histBin l = l / 2 := if_pos h

theorem histBin_le (l : Nat) : histBin l ≤ 63 := by
  by_cases h : l < 16
  · rw [histBin_low h]; omega
  · rw [histBin_octave (by omega)]; exact Nat.min_le_left ..

/-- A longer latency never falls in a lower bin. -/
theorem histBin_mono {a b : Nat} (h : a ≤ b) : histBin a ≤ histBin b := by
  by_cases hb : b < 16
  · rw [histBin_low hb, histBin_low (by omega)]; omega
  · have hb' : 16 ≤ b := by omega
    have hqb := binQuarter_bounds hb'
    have hgb := four_le_log2 hb'
    rw [histBin_octave hb']
    by_cases ha : a < 16
    · rw [histBin_low ha]; omega
    · have ha' : 16 ≤ a := by omega
      have hqa := binQuarter_bounds ha'
      rw [histBin_octave ha']
      have hg : Nat.log2 a ≤ Nat.log2 b := by
        rw [Nat.log2_eq_log_two, Nat.log2_eq_log_two]
        exact Nat.log_mono_right h
      by_cases heq : Nat.log2 a = Nat.log2 b
      · have hq : binQuarter a ≤ binQuarter b := by
          rw [binQuarter, binQuarter, heq]
          exact Nat.div_le_div_right h
        omega
      · omega

/-- Bin 63 holds the latencies of 229,376 ns or more. -/
theorem histBin_last (l : Nat) : histBin l = 63 ↔ 229376 ≤ l := by
  constructor
  · intro h
    by_contra hl
    have := histBin_mono (show l ≤ 229375 by omega)
    rw [h] at this
    exact absurd this (by decide)
  · intro h
    exact Nat.le_antisymm (histBin_le l) (histBin_mono h)

/-! ## Stamps (R377) -/

/-- Below 16,384 ns a stamp's exponent is the smallest for which the mantissa is at most 127. -/
theorem stamp_low {t : Nat} (h : t < 16384) : ∃ e, e ≤ 7 ∧ t / 2 ^ e ≤ 127 ∧ (∀ e', e' < e → 127 < t / 2 ^ e') ∧ stamp t = e * 128 + t / 2 ^ e := by
  unfold stamp
  split
  · next e he =>
    obtain ⟨hp, hmem, hlt⟩ := List.find?_range_eq_some.1 he
    rw [List.mem_range] at hmem
    exact ⟨e, by omega, of_decide_eq_true hp, fun e' h' => by simpa using hlt e' h', rfl⟩
  · next hn =>
    have h7 := List.find?_eq_none.1 hn 7 (by decide)
    exact absurd (decide_eq_true (show t / 2 ^ 7 ≤ 127 by omega)) h7

theorem stamp_high {t : Nat} (h : 16384 ≤ t) : stamp t = 0x3FF := by
  unfold stamp
  split
  · next e he =>
    obtain ⟨hp, hmem, -⟩ := List.find?_range_eq_some.1 he
    rw [List.mem_range] at hmem
    have hle : t / 2 ^ 7 ≤ t / 2 ^ e := Nat.div_le_div_left (Nat.pow_le_pow_right (by decide) (by omega)) (by positivity)
    have := of_decide_eq_true hp
    omega
  · rfl

/-! ## A commit that fails a check (R345, R358, R359) -/

/-- What a commit leaves whose write o fails with status st: the outcome, and the record of a denial. -/
def Chip.refusedCmt (c : Chip) (w : World) (ws : List OWr) (o : OWr) (st : Nat) : Chip :=
  let n := nextNum (c.dic.num w)
  let c0 := c.setNum w n
  let c1 : Chip := { c0 with dic := { c0.dic with lastT := some c.soloTime } }
  (if c.eng.foghorn then c1 else c1.denyLog w ws).setOutcome w n st o.idx o.el c.soloTime

/-- A commit that fails a check leaves its outcome alone. -/
theorem solo_refused {c : Chip} {w : World} {ws : List OWr} {o : OWr} {st : Nat} (hs : c.stageable w ws = true) (hb : c.firstBad w ws = some (o, st)) :
    c.solo w ws = c.refusedCmt w ws o st := by
  have hb' : (c.setNum w (nextNum (c.dic.num w))).firstBad w ws = some (o, st) := (firstBad_setNum ..).trans hb
  rw [Chip.solo, if_pos hs, doCommit_failed (m := soloCmt c w ws) hb']
  cases w <;> rfl

/-- The objects that the record of a denial does not name read as before (R345). -/
theorem logDenial_obj (e : Eng) (o : OWr) (dom why : Nat) {idx el : Nat} (hel : el < 256) (h1 : idx ≠ WORLD_DENY_COUNT) (h2 : idx ≠ WORLD_IRQ_PENDING) :
    (e.logDenial o dom why).obj idx el = e.obj idx el :=
  (obj_set_ne _ _ _ _ _ _ (by omega)).trans (obj_set_ne e _ _ _ _ _ (by omega))

/-- A denial is recorded for the normal world alone, and changes the coherence side's objects and logs alone. -/
theorem denyLog_form (c : Chip) (w : World) (ws : List OWr) :
    c.denyLog w ws = c ∨ (w = .normal ∧ ∃ o dom why, c.denyLog w ws = c.e fun e => e.logDenial o dom why) := by
  unfold Chip.denyLog
  split
  · exact .inl rfl
  · next hw =>
    split
    · exact .inl rfl
    · exact .inr ⟨not_not.1 hw, _, _, _, rfl⟩

/-- The block as a refused commit leaves it but for its outcome. -/
def Chip.denied (c : Chip) (w : World) (ws : List OWr) : Chip :=
  let c0 := c.setNum w (nextNum (c.dic.num w))
  let c1 : Chip := { c0 with dic := { c0.dic with lastT := some c.soloTime } }
  if c.eng.foghorn then c1 else c1.denyLog w ws

section Refused
variable (c : Chip) (w : World) (ws : List OWr)

/-- Beyond the numbers of the commits, a denial changes the coherence side's objects and logs alone, and those of the normal world's alone. -/
theorem denied_form : ∃ (e : Eng) (nS nN : Nat) (t : Option Nat),
    c.denied w ws = { c with eng := e, dic := { c.dic with numS := nS, numN := nN, lastT := t } } ∧ (e = c.eng ∨ (w = .normal ∧ ∃ o dom why, e = c.eng.logDenial o dom why)) := by
  have hnum : ∃ nS nN, c.setNum w (nextNum (c.dic.num w)) = { c with dic := { c.dic with numS := nS, numN := nN } } := by
    cases w <;> exact ⟨_, _, rfl⟩
  obtain ⟨nS, nN, hn⟩ := hnum
  unfold Chip.denied
  rw [hn]
  dsimp only
  split
  · exact ⟨_, nS, nN, _, rfl, .inl rfl⟩
  · obtain h | ⟨hw, o, dom, why, h⟩ := denyLog_form { c with dic := { c.dic with numS := nS, numN := nN, lastT := some c.soloTime } } w ws
    · exact ⟨_, nS, nN, _, h, .inl rfl⟩
    · exact ⟨_, nS, nN, _, h, .inr ⟨hw, o, dom, why, rfl⟩⟩

theorem refusedCmt_eq (o : OWr) (st : Nat) :
    c.refusedCmt w ws o st = (c.denied w ws).setOutcome w (nextNum (c.dic.num w)) st o.idx o.el c.soloTime := rfl

theorem denied_obj {idx el : Nat} (hel : el < 256) (h : w = .secure ∨ (idx ≠ WORLD_DENY_COUNT ∧ idx ≠ WORLD_IRQ_PENDING)) :
    (c.denied w ws).eng.obj idx el = c.eng.obj idx el := by
  obtain ⟨e, nS, nN, t, hc, rfl | ⟨hw, o, dom, why, rfl⟩⟩ := denied_form c w ws <;> rw [hc]
  obtain ⟨h1, h2⟩ := h.resolve_left (by rw [hw]; decide)
  exact logDenial_obj _ _ _ _ hel h1 h2

end Refused

/-- Under Foghorn the first write of a commit fails with the busy status (R359). -/
theorem firstBad_foghorn {c : Chip} (h : c.eng.foghorn = true) (w : World) (o : OWr) (ws : List OWr) : c.firstBad w (o :: ws) = some (o, 2) := by
  simp only [Chip.firstBad, List.findSome?_cons, h, if_true]
  rfl

end Sys2Proof.Machine

section
open Sys2Proof Sys2Proof.Machine Sys2Proof.Machine.Ob

/-- Settles O48: bins from 16 ns on are quarters of an octave (`histBin_octave`), and a stamp's exponent is the first that `find?` meets. -/
theorem binsAndStamps : Obligations.BinsAndStamps := by
  unfold Obligations.BinsAndStamps
  refine ⟨fun a b => histBin_mono, histBin_le, fun l => histBin_low, histBin_last, fun t ht => ?_, fun t => stamp_high⟩
  obtain ⟨e, he, hm, hleast, hst⟩ := stamp_low ht
  have hsplit := Nat.div_add_mod' t (2 ^ e)
  generalize t / 2 ^ e = m at hm hst hsplit
  have hdiv : stamp t / 128 = e := by omega
  have hmod : stamp t % 128 = m := by omega
  dsimp only
  rw [hdiv, hmod]
  have hlt := Nat.mod_lt t (show 0 < 2 ^ e by positivity)
  exact ⟨he, by omega, by omega, hleast⟩

/-- Settles O50: a refused commit leaves its outcome and the record of a denial (`denied_form`), which names two objects. -/
theorem refusedCommits : Obligations.RefusedCommits := by
  unfold Obligations.RefusedCommits
  refine ⟨fun s w ws o st hw hk hs hb => ?_, fun c w o ws h => firstBad_foghorn h w o ws⟩
  have hexec : s.commit w ws = .next (s.effect (s.toChip.refusedCmt w ws o st)) := by
    refine (core_works s (fun c => if c.keeperUp then c.solo w ws else c) hw).trans ?_
    rw [if_pos hk, solo_refused hs hb]
  obtain ⟨e, nS, nN, t, hc, -⟩ := denied_form s.toChip w ws
  refine ⟨_, hexec, obj_set_same .., fun idx el hidx hel hne hden => ?_, ?_⟩
  · exact (obj_set_ne _ _ _ _ _ _ (by cases w <;> dsimp only <;> omega)).trans (denied_obj s.toChip w ws hel hden)
  · rw [refusedCmt_eq, hc]
    exact ⟨rfl, rfl, rfl, rfl, rfl, rfl, rfl⟩

end

/-! # Resets and the watchdog

What a reset leaves of the objects (R135, R136, R330, R356), when the secure watchdog counts, and what its expiry does (R347, R348). -/

namespace Sys2Proof.Machine
open Ob

/-! ## What a reset leaves (R356) -/

/-- A read of a map whose entries of some keys alone are kept. -/
theorem kget_filter {α : Type} (d : α) (p : Nat → Bool) (k : Nat) (l : List (Nat × α)) :
    kget d k (l.filter fun x => p x.1) = if p k then kget d k l else d := by
  induction l with
  | nil => simp [kget]
  | cons x t ih =>
    obtain ⟨j, v⟩ := x
    by_cases hp : p j = true
    · rw [List.filter_cons_of_pos (by simpa using hp), kget, kget, ih]
      by_cases hj : j = k
      · subst hj; simp [hp]
      · simp [hj]
    · rw [List.filter_cons_of_neg (by simpa using hp), ih, kget]
      by_cases hj : j = k
      · subst hj; simp [hp]
      · simp [hj]

/-- Loading the key of the snoop filter's index changes SF_INDEX_KEY alone (R135). -/
theorem loadKey_form (e : Eng) : ∃ n v, e.loadKey = Eng.set { e with fresh := n } SF_INDEX_KEY 0 v := by
  unfold Eng.loadKey
  split <;> exact ⟨_, _, rfl⟩

theorem loadKey_next {e : Eng} (h : e.ob SF_INDEX_KEY_NEXT ≠ 0xFFFF) : e.loadKey.obj SF_INDEX_KEY 0 = e.ob SF_INDEX_KEY_NEXT := by
  rw [Eng.loadKey, if_neg h]
  exact obj_set_same ..

theorem loadKey_obj (e : Eng) {idx el : Nat} (hel : el < 256) (h : idx ≠ SF_INDEX_KEY) : e.loadKey.obj idx el = e.obj idx el := by
  obtain ⟨n, v, he⟩ := loadKey_form e
  rw [he]
  exact obj_set_ne _ _ _ _ _ _ (by omega)

/-- The coherence side at its reset state, with the retained objects. -/
def Chip.kept (c : Chip) : Eng := eng0 c.eng.fz c.eng.fresh (c.eng.objs.filter fun p => retained (p.1 / 256))

/-- The retained objects stay and every other is at its default. -/
theorem kept_obj (c : Chip) {idx el : Nat} (hel : el < 256) : c.kept.obj idx el = if retained idx then c.eng.obj idx el else objDefault c.eng.fz idx el := by
  have hidx : (idx * 256 + el) / 256 = idx := by omega
  exact (kget_filter _ (fun k => retained (k / 256)) _ _).trans (by rw [hidx]; rfl)

section Clear
variable (c : Chip) (rails fog tags : Bool)

theorem clear_retained {idx el : Nat} (hel : el < 256) (h : retained idx = true) : (c.clear rails fog tags).eng.obj idx el = c.eng.obj idx el :=
  (loadKey_obj c.kept hel (by rintro rfl; exact absurd h (by decide))).trans ((kept_obj c hel).trans (if_pos h))

theorem clear_default {idx el : Nat} (hel : el < 256) (h : retained idx = false) (hk : idx ≠ SF_INDEX_KEY) :
    (c.clear rails fog tags).eng.obj idx el = objDefault c.eng.fz idx el :=
  (loadKey_obj c.kept hel hk).trans ((kept_obj c hel).trans (if_neg (by simp [h])))

theorem clear_key (h : c.eng.obj SF_INDEX_KEY_NEXT 0 ≠ 0xFFFF) : (c.clear rails fog tags).eng.obj SF_INDEX_KEY 0 = c.eng.obj SF_INDEX_KEY_NEXT 0 := by
  have hn : c.kept.ob SF_INDEX_KEY_NEXT = c.eng.obj SF_INDEX_KEY_NEXT 0 := (kept_obj c (by decide)).trans (if_pos (by decide))
  exact (loadKey_next (e := c.kept) (by rwa [hn])).trans hn

/-- The emptied stores of R136. -/
theorem clear_emptied : (c.clear rails fog tags).eng.sfa = [] ∧ (c.clear rails fog tags).eng.dbs = [] ∧ (c.clear rails fog tags).eng.hdc = [] := by
  obtain ⟨n, v, he⟩ := loadKey_form c.kept
  have hs : c.kept.loadKey.sfa = [] := by rw [he]; rfl
  have hd : c.kept.loadKey.dbs = [] := by rw [he]; rfl
  have hh : c.kept.loadKey.hdc = [] := by rw [he]; rfl
  exact ⟨hs, hd, hh⟩

end Clear

/-! ## The watchdog counts (R347) -/

theorem wdtCounts_iff (c : Chip) :
    c.wdtCounts = true ↔ c.pwr.wdtOn = true ∧ c.eng.obj PWR_BLOCK_STATE 0 ≠ 3 ∧ ¬(c.kpr.halted = some .secure ∧ c.eng.obj WDT_PAUSE_DEBUG 0 = 1) := by
  simp only [Chip.wdtCounts, Chip.ob, Eng.ob, Bool.and_eq_true, bne_iff_ne, ne_eq, Bool.not_eq_true', Bool.and_eq_false_iff, beq_eq_false_iff_ne, not_and_or, and_assoc]

theorem wdtTick_cnt (c : Chip) : c.wdtTick.pwr.wdtCnt = c.pwr.wdtCnt + (if c.wdtCounts = true ∧ c.eng.ts % 250 = 0 then 1 else 0) := by
  unfold Chip.wdtTick
  split <;> rfl

/-! ## What the start-up after a reset leaves alone (R330, R348)

The steps of Table 13.7 that a start-up takes at once change objects of the domains, of the filter and of the firmware, but not
PWR_RESET_CAUSE; and they change Keeper's SRAM but not the carrier's DRAM. -/

/-- What the expiry of the watchdog records, and what it leaves. -/
structure Kept (a c : Chip) : Prop where
  chipReq : c.pwr.chipReq = a.pwr.chipReq
  wdtOn : c.pwr.wdtOn = a.pwr.wdtOn
  wdtCnt : c.pwr.wdtCnt = a.pwr.wdtCnt
  slp : c.pwr.slp = a.pwr.slp
  run : c.pwr.run ≠ .held
  cause : c.eng.obj PWR_RESET_CAUSE 0 = a.eng.obj PWR_RESET_CAUSE 0
  dram : c.kpr.dram = a.kpr.dram

namespace Kept
variable {a c : Chip}

theorem refl (h : a.pwr.run ≠ .held) : Kept a a := ⟨rfl, rfl, rfl, rfl, h, rfl, rfl⟩

theorem e (h : Kept a c) (g : Eng → Eng) (hg : (g c.eng).obj PWR_RESET_CAUSE 0 = c.eng.obj PWR_RESET_CAUSE 0) : Kept a (c.e g) :=
  { h with cause := hg.trans h.cause }

theorem set (h : Kept a c) {idx el : Nat} (v : Nat) (hne : PWR_RESET_CAUSE * 256 + 0 ≠ idx * 256 + el) : Kept a (c.set idx el v) :=
  h.e _ (obj_set_ne _ _ _ _ _ _ hne)

theorem p (h : Kept a c) (g : Pwr → Pwr) (h1 : (g c.pwr).chipReq = c.pwr.chipReq) (h2 : (g c.pwr).wdtOn = c.pwr.wdtOn) (h3 : (g c.pwr).wdtCnt = c.pwr.wdtCnt)
    (h4 : (g c.pwr).slp = c.pwr.slp) (h5 : (g c.pwr).run ≠ .held) : Kept a (c.p g) :=
  ⟨h1.trans h.chipReq, h2.trans h.wdtOn, h3.trans h.wdtCnt, h4.trans h.slp, h5, h.cause, h.dram⟩

theorem k (h : Kept a c) (g : Kpr → Kpr) (hg : (g c.kpr).dram = c.kpr.dram) : Kept a (c.k g) := { h with dram := hg.trans h.dram }

theorem ite {q : Prop} [Decidable q] {c1 c2 : Chip} (h1 : q → Kept a c1) (h2 : ¬q → Kept a c2) : Kept a (if q then c1 else c2) := by
  split
  · exact h1 ‹_›
  · exact h2 ‹_›

theorem foldl {β : Type} {f : Chip → β → Chip} {l : List β} (h : Kept a c) (hf : ∀ d, Kept a d → ∀ x ∈ l, Kept a (f d x)) : Kept a (l.foldl f c) :=
  List.foldlRecOn l f h hf

/-! ### Rails, the regulator and the votes -/

theorem setRail (h : Kept a c) (n : Nat) (r : Rail) : Kept a (c.setRail n r) := h.p _ rfl rfl rfl rfl h.run

theorem ask (h : Kept a c) (n v : Nat) : Kept a (c.ask n v) := h.setRail ..

theorem startRail (h : Kept a c) (n : Nat) : Kept a (c.startRail n) := by
  unfold Chip.startRail
  dsimp only
  split
  · exact h.setRail ..
  · split
    · exact h
    · exact .ite (fun _ => h) fun _ => .ite (fun _ => h.setRail ..) fun _ => .ite (fun _ => h) fun _ => h.setRail ..

theorem startHp (h : Kept a c) : Kept a c.startHp := .ite (fun _ => h) fun _ => h.p _ rfl rfl rfl rfl h.run

theorem lastWake (h : Kept a c) (src el : Nat) (level : Bool) : Kept a (c.lastWake src el level) := h.set _ (by decide)

theorem losePm (h : Kept a c) : Kept a c.losePm := by
  refine h.e (fun e => (List.range 16).foldl (fun e i => e.set (PM_CTR + 46) i 0) e)
    (List.foldlRecOn (motive := fun e : Eng => e.obj PWR_RESET_CAUSE 0 = c.eng.obj PWR_RESET_CAUSE 0) _ _ rfl fun e he i _ => ?_)
  exact (obj_set_ne _ _ _ _ _ _ (by simp only [PM_CTR, PWR_RESET_CAUSE]; omega)).trans he

section Domain
variable {el : Nat} (hel : el < 256)
include hel

theorem setDomain (h : Kept a c) (v : Nat) : Kept a (c.set PWR_DOMAIN_STATE el v) := h.set v (by simp only [PWR_DOMAIN_STATE, PWR_RESET_CAUSE]; omega)

theorem domRun (h : Kept a c) (st ns : Nat) : Kept a (c.domRun el st ns) := by
  have h' := h.setDomain hel st
  exact h'.p _ rfl rfl rfl rfl h'.run

theorem beginExit (h : Kept a c) : Kept a (c.beginExit el) :=
  .ite (fun _ => (h.domRun hel _ _).ask ..) fun _ => .ite (fun _ => (h.domRun hel _ _).losePm) fun _ => h.domRun hel _ _

theorem voteOne (h : Kept a c) : Kept a (c.voteOne el) := by
  have hf : Kept a (c.p fun p => { p with forced := dropNat el p.forced }) := h.p _ rfl rfl rfl rfl h.run
  exact .ite (fun _ => .ite (fun _ => hf.setDomain hel _) fun _ => .ite (fun _ => hf.beginExit hel) fun _ => .ite (fun _ => (hf.beginExit hel).startHp) fun _ => hf)
    fun _ => .ite (fun _ => h.domRun hel _ _) fun _ => h

end Domain

/-- A domain that votes reach is below 256. -/
theorem votable_lt {e : Eng} {el : Nat} (h : el ∈ e.votable) : el < 256 := by
  have hn : e.n ≤ 32 := by unfold Eng.n; cases e.fz.cfg <;> decide
  simp only [Eng.votable, List.mem_append, List.mem_map, List.mem_range, List.mem_singleton] at h
  rcases h with ((h | rfl) | ⟨k, hk, rfl⟩) | h
  · split at h <;> simp at h; omega
  · decide
  · omega
  · split at h <;> simp at h; omega

theorem voteCheck (h : Kept a c) : Kept a c.voteCheck := by
  have hv : Kept a c.pmVote := h.set _ (by decide)
  exact .ite (fun _ => hv) fun _ => hv.foldl fun d hd el hel => hd.voteOne (votable_lt hel)

/-! ### Keeper's boot -/

/-- A write of a stored word leaves every object as it is. -/
theorem eccWrite_obj (e : Eng) (store unit word idx el : Nat) : (e.eccWrite store unit word).obj idx el = e.obj idx el := by
  unfold Eng.eccWrite
  dsimp only
  split <;> rfl

theorem sramPut_obj (e : Eng) (ws : List Nat) (idx el : Nat) : (e.sramPut ws).obj idx el = e.obj idx el :=
  List.foldlRecOn (motive := fun d : Eng => d.obj idx el = e.obj idx el) ws _ rfl fun _ h w _ => (eccWrite_obj _ _ _ w _ _).trans h

theorem trap (h : Kept a c) (cause tval : BitVec 32) : Kept a (c.trap cause tval) := by
  refine h.k _ ?_
  cases c.kpr.world <;> rfl

/-- An access of the boot ROM that reads no word of the SRAM. -/
theorem fwAccess (h : Kept a c) {path : GPath} {wr : Bool} (hp : path = .directory ∨ wr = true) (at_ n : Nat) : Kept a (c.fwAccess path wr at_ n).1 := by
  unfold Chip.fwAccess
  split
  · exact h
  · split
    · split
      · next hk =>
        obtain rfl : wr = true := hp.resolve_left (by rintro rfl; exact absurd hk (by decide))
        exact h.e (fun e => e.sramPut (e.sramWords at_ n)) (sramPut_obj ..)
      · exact h
    · exact (h.e _ (obj_set_ne _ _ _ _ _ _ (by decide))).trap ..

theorem bootImage (h : Kept a c) (img : List (BitVec 8)) : Kept a (c.bootImage img) := by
  have h1 : Kept a (c.e fun e => e.set FW_BOOT_STATUS 0 (c.eng.imageStatus img 0)) := h.e _ (obj_set_ne _ _ _ _ _ _ (by decide))
  have h2 := h1.fwAccess (path := .keeper) (wr := true) (.inr rfl) (imgOf img).load (imgOf img).len
  unfold Chip.bootImage
  dsimp only
  split
  · exact h1
  · split
    · exact h2.e _ (obj_set_ne _ _ _ _ _ _ (by decide))
    · exact (h2.e _ (obj_set_ne _ _ _ _ _ _ (by decide))).k _ rfl

theorem bootKeeper (h : Kept a c) : Kept a c.bootKeeper := by
  have h1 : Kept a (c.k fun k => { k with on := true, booted := false, world := .secure, mmode := true, pc := 0 }) := h.k _ rfl
  unfold Chip.bootKeeper
  dsimp only
  split
  · exact h1
  · have h2 (v : Nat) := h1.e (fun e => (e.set GUARD_DIR 0xFF v).set GUARD_ARM 0 1)
      ((obj_set_ne _ _ _ _ _ _ (by decide)).trans (obj_set_ne _ _ _ _ _ _ (by decide)))
    have h3 (v at_ n : Nat) := (h2 v).fwAccess (path := .directory) (wr := false) (.inl rfl) at_ n
    split
    · exact (h3 _ _ _).bootImage _
    · exact (h3 _ _ _).e _ (obj_set_ne _ _ _ _ _ _ (by decide))

/-! ### The steps of the start-up -/

theorem coreIsOn (h : Kept a c) : Kept a c.coreIsOn := by
  have h1 : Kept a (c.p fun p => { p with run := .vsa }) := h.p _ rfl rfl rfl rfl nofun
  exact h1.bootKeeper.ask ..

/-- The objects that steps 7 to 9 of Table 13.7 set. -/
def enterService (e : Eng) : Eng :=
  let e := ((e.set SF_INIT_DONE 0 1).set HDC_INIT_DONE 0 1).set HDC_STATUS 0 (e.ob HDC_ENABLE)
  let e := ((e.set PWR_LEVEL_NOW 0 0).set PWR_DOMAIN_STATE 5 0).set PWR_BLOCK_STATE 0 0
  { e with svc := List.range e.n, heatDue := e.ts + e.ob HEAT_SCAN_PERIOD * 1000000 }

theorem enterService_cause (e : Eng) : (enterService e).obj PWR_RESET_CAUSE 0 = e.obj PWR_RESET_CAUSE 0 := by
  have h : ((((((e.set SF_INIT_DONE 0 1).set HDC_INIT_DONE 0 1).set HDC_STATUS 0 (e.ob HDC_ENABLE)).set PWR_LEVEL_NOW 0 0).set PWR_DOMAIN_STATE 5 0).set
      PWR_BLOCK_STATE 0 0).obj PWR_RESET_CAUSE 0 = e.obj PWR_RESET_CAUSE 0 := by
    simp +decide only [obj_set_ne, ne_eq]
  exact h

theorem service (h : Kept a c) : Kept a c.service := by
  have h1 : Kept a (c.p fun p => { p with run := .up, levels := p.levels.filter (· == 2) }) := h.p _ rfl rfl rfl rfl nofun
  have h2 := h1.e enterService (enterService_cause _)
  exact voteCheck (.ite (fun _ => h2) fun _ => h2.lastWake ..)

theorem levelStart (h : Kept a c) (v : Nat) : Kept a (c.levelStart v) :=
  .ite (fun _ => h) fun _ => .ite (fun _ => (h.p _ rfl rfl rfl rfl h.run).ask ..) fun _ => h.p _ rfl rfl rfl rfl h.run

theorem levelEnd (h : Kept a c) : Kept a c.levelEnd := by
  have h1 : Kept a (c.p fun p => { p with level := none, levelNext := none }) := h.p _ rfl rfl rfl rfl h.run
  unfold Chip.levelEnd
  dsimp only
  split
  · exact h1.levelStart _
  · exact h1

theorem levelRail (h : Kept a c) : Kept a c.levelRail := by
  unfold Chip.levelRail
  split
  · exact h
  · exact .ite (fun _ => h) fun _ => .ite (fun _ => .ite (fun _ => h) fun _ => .ite (fun _ => h.p _ rfl rfl rfl rfl h.run) fun _ => h.levelEnd)
      fun _ => .ite (fun _ => h.levelEnd) fun _ => h

/-- Awake, a step of the power sequences is one of the start-up or of a change of level. -/
theorem powStep (ha : a.pwr.slp = .awake) (h : Kept a c) : Kept a c.powStep := by
  have h1 : Kept a ((List.range 4).foldl (fun c k => c.startRail k) c) := h.foldl fun _ hd k _ => hd.startRail k
  unfold Chip.powStep
  split
  · exact h
  · dsimp only
    generalize (List.range 4).foldl (fun c k => c.startRail k) c = d at h1 ⊢
    have hs : d.pwr.slp = .awake := h1.slp.trans ha
    rw [hs]
    split
    · exact .ite (fun _ => h1.coreIsOn) fun _ => h1
    · exact .ite (fun _ => (h1.p (fun p => { p with run := .vsl }) rfl rfl rfl rfl nofun).ask ..) fun _ => h1
    · exact .ite (fun _ => h1.service) fun _ => h1
    · exact h1.levelRail
    all_goals contradiction

theorem advance (ha : a.pwr.slp = .awake) (h : Kept a c) : Kept a c.advance := h.foldl fun _ hd _ _ => hd.powStep ha

end Kept

/-! ## The expiry of the watchdog (R330, R331, R348) -/

/-- The block in the reset that the expiry asserts. -/
def Chip.wdtReset (c : Chip) : Chip := (c.clear true true true).p fun p => { p with chipReq := true }

/-- The start-up recorded, before its first step. -/
def Chip.wdtRecorded (c : Chip) : Chip := Chip.ask ((c.wdtReset.resetCause 5).p fun p => { p with run := .vco }) 0 1

section Expiry
variable {c : Chip}

theorem wdtExpiry_due (hc : c.wdtCounts = true) (hp : c.wdtPeriod ≤ c.pwr.wdtCnt) : c.wdtExpiry = c.wdtReset.startUp 5 := if_pos ⟨hc, hp⟩

/-- Where the watchdog does not count, or its period has not passed, its expiry changes nothing. -/
theorem wdtExpiry_none (h : c.wdtCounts = false ∨ c.pwr.wdtCnt < c.wdtPeriod) : c.wdtExpiry = c := by
  refine if_neg fun ⟨hc, hp⟩ => ?_
  rcases h with h | h
  · exact Bool.false_ne_true (h.symm.trans hc)
  · omega

/-- No reset input is asserted and the block has its supply: the start-up begins at once. -/
theorem wdtReset_startUp (hh : c.isHeld = false) (hr : c.pwr.run ≠ .dead) : c.wdtReset.startUp 5 = c.wdtRecorded.advance :=
  startUp_free hh (if_neg hr)

theorem wdtRecorded_cause (c : Chip) : c.wdtRecorded.eng.obj PWR_RESET_CAUSE 0 = 5 + (bits (c.eng.obj PWR_RESET_CAUSE 0) 18 3 + 1) % 65536 * 8 := by
  have h : c.wdtReset.ob PWR_RESET_CAUSE = c.eng.obj PWR_RESET_CAUSE 0 := clear_retained c true true true (by decide) (by decide)
  rw [← h]
  exact obj_set_same ..

/-- The record of a reset holds its cause and how many there have been (R331). -/
theorem cause_fields (n : Nat) : (5 + n % 65536 * 8) % 8 = 5 ∧ bits (5 + n % 65536 * 8) 18 3 = n % 65536 := by
  simp only [bits]
  omega

/-- The expiry leaves what it records, and the DRAM, through the steps of the start-up. -/
theorem wdtExpiry_kept (hc : c.wdtCounts = true) (hp : c.wdtPeriod ≤ c.pwr.wdtCnt) (hh : c.isHeld = false) (hr : c.pwr.run ≠ .dead) : Kept c.wdtRecorded c.wdtExpiry := by
  rw [wdtExpiry_due hc hp, wdtReset_startUp hh hr]
  exact (Kept.refl (a := c.wdtRecorded) nofun).advance rfl

end Expiry

end Sys2Proof.Machine

section
open Sys2Proof Sys2Proof.Machine Sys2Proof.Machine.Ob

/-- Settles O55: `Chip.clear` keeps the retained entries of the object map (`kget_filter`) and loads the key. -/
theorem resetDefaults : Obligations.ResetDefaults := by
  unfold Obligations.ResetDefaults
  intro s i hi
  have hreset : ∃ rails, ∃ g : Pwr → Pwr, exec i s = .next (s.block ((s.toChip.clear rails false false).p g)) := by
    obtain rfl | ⟨rfl, hp⟩ := hi
    · exact ⟨_, _, rfl⟩
    · exact ⟨_, _, block_congr (warmAssert_alone hp)⟩
  obtain ⟨rails, g, hexec⟩ := hreset
  obtain ⟨hsfa, hdbs, hhdc⟩ := clear_emptied s.toChip rails false false
  exact ⟨_, hexec, fun idx el hel => ⟨clear_retained s.toChip rails false false hel, clear_default s.toChip rails false false hel⟩, clear_key s.toChip rails false false, rfl, rfl, rfl, rfl, hsfa, hdbs, hhdc, rfl⟩

/-- Settles O54: the expiry's record stands through every step of the start-up that follows it (`Kept`). -/
theorem watchdogRule : Obligations.WatchdogRule := by
  unfold Obligations.WatchdogRule
  refine ⟨wdtCounts_iff, wdtTick_cnt, fun c c' h1 h2 h3 h4 => ?same, fun s hp hoff => ?idle, fun s hc hp hh hr => ?expiry, fun s h => block_congr (wdtExpiry_none h)⟩
  case same =>
    have h := (wdtCounts_iff c').trans ((by rw [h1, h2, h3, h4]) : _ ↔ _)
    exact Bool.eq_iff_iff.2 (h.trans (wdtCounts_iff c).symm)
  case idle =>
    have h := idle_coreOff s.toChip hoff
    have hcnt : s.toChip.idle.pwr.wdtCnt = s.pwr.wdtCnt := by rw [h]
    have heng : s.toChip.idle.eng = s.eng := by rw [h]
    exact ⟨_, step_idle hp, hcnt, heng⟩
  case expiry =>
    have h := wdtExpiry_kept hc hp hh hr
    obtain ⟨h8, hcount⟩ := cause_fields (bits (s.toChip.eng.obj PWR_RESET_CAUSE 0) 18 3 + 1)
    have hcause := h.cause.trans (wdtRecorded_cause s.toChip)
    exact ⟨_, rfl, h.chipReq, h.wdtOn, h.wdtCnt, h.run, (congrArg (· % 8) hcause).trans h8, (congrArg (bits · 18 3) hcause).trans hcount, h.dram⟩

end

/-! # Brace, block sleep, wakes, the worlds of Keeper and the watchdog

The operations of the Power and Clock Controller around Brace and block sleep (R321 to R328), and those that enter and leave the secure
world, halt the hart and keep the watchdog (R337, R338, R347 to R349). -/

namespace Sys2Proof.Machine
open Ob

/-! ## Brace (R326, R327, R328) -/

section Brace
variable {c : Chip}

section Entry
variable (hd : c.pwr.run ≠ .dead) (hh : c.pwr.run ≠ .held) (hb : c.eng.brace = false) (hl : c.pwr.low = false)
include hd hh hb hl

theorem braceIn_awake (h2 : c.ob PWR_BLOCK_STATE ≠ 2) (h3 : c.ob PWR_BLOCK_STATE ≠ 3) :
    c.braceIn = (c.e fun e => Eng.irq (Eng.set { e with brace := true } PWR_BRACE 0 1) 0).p fun p => { p with braceAt := c.eng.ts } := by
  simp only [Chip.braceIn, hd, hh, hb, hl, h2, h3, Bool.false_eq_true, or_self, if_false]

theorem braceIn_asleep (h : c.ob PWR_BLOCK_STATE = 2 ∨ c.ob PWR_BLOCK_STATE = 3) : c.braceIn = c.p fun p => { p with low := true } := by
  simp only [Chip.braceIn, hd, hh, hb, hl, h, Bool.false_eq_true, or_self, if_false, if_true]

end Entry

theorem braceOut_dip (hl : c.pwr.low = true) : c.braceOut = Chip.advance ((c.e fun e => e.dip).p fun p => { p with low := false }) := if_pos hl

theorem braceOut_resumes (hl : c.pwr.low = false) (hb : c.eng.brace = true) :
    c.braceOut = Chip.advance (c.e fun e =>
      let d := c.eng.ts - c.pwr.braceAt
      let e1 := (Eng.addObj ((Eng.set { e with brace := false } PWR_BRACE 0 0).dip) PWR_BRACE_TIME 0 d).event 0x0F (evArgs [(0, d % 2 ^ 64)])
      Eng.pump ((e1.leasesLater d).remoorLater d).presentAll) :=
  (if_neg (by simp [hl])).trans (if_neg (by simp [hb]))

end Brace

/-! ## Block sleep and wakes (R321 to R325) -/

section Sleep
variable {c : Chip}

/-- Once nothing is open outside Brace, wake detection passes to the sampler. -/
theorem quiesced_arms (hs : c.pwr.slp = .quiescing) (h1 : c.eng.ctxs = []) (h2 : c.eng.seqs = []) (h3 : c.eng.spill = []) (h4 : c.eng.dcmds = [])
    (h5 : c.eng.dopen = []) (hb : c.eng.brace = false) :
    c.quiesced = (c.e fun e => { e with svc := [] }).p fun p => { p with slp := .arming, armEnd := c.eng.ts + 1500 } := by
  simp [Chip.quiesced, hs, h1, h2, h3, h4, h5, hb]

section Wake
variable {n : Nat} (hr : c.pwr.run = .up)
include hr

/-- An edge of an enabled source while the entry quiesces abandons the entry (R323). -/
theorem wakeSource_abandons (hn : n = 1 ∨ n = 3) (hw : c.wakeOn n = true) (hs : c.pwr.slp = .quiescing) : c.wakeSource n = c.abandon (n + 1) false := by
  rcases hn with rfl | rfl <;> simp [Chip.wakeSource, Chip.wakeSrc, hs, hr, hw]

/-- An edge of an enabled source of a sleeping block starts the exit (R324). -/
theorem wakeSource_exits (hn : n = 1 ∨ n = 3) (hw : c.wakeOn n = true) (hs : c.pwr.slp = .asleep) : c.wakeSource n = (c.exitStart (n + 1) false).advance := by
  rcases hn with rfl | rfl <;> simp [Chip.wakeSource, Chip.wakeSrc, hs, hr, hw]

/-- A level source is held for the sampler (R322). -/
theorem wakeSource_level (hn : n = 0 ∨ n = 4) (hs : c.pwr.slp = .asleep) (hw : (c.p fun p => { p with levels := insertNat n p.levels }).wakeOn n = true) :
    c.wakeSource n = (c.p fun p => { p with levels := insertNat n p.levels }).advance := by
  rcases hn with rfl | rfl <;> simp [Chip.wakeSource, Chip.wakeSrc, hs, hr, hw]

end Wake

theorem wakeTimer_fires (hs : c.pwr.slp = .asleep) (ht : c.ob PWR_WAKE_TIMER ≠ 0) (hd : c.pwr.sleptAt + c.ob PWR_WAKE_TIMER * 1000 ≤ c.pwr.aon) :
    c.wakeTimer = c.wakeSrc 2 := if_pos ⟨hs, ht, hd⟩

/-- PWR_BLOCK_SLEEP starts the entry, or wakes the block (R321). -/
theorem applyWr_blockEclipse (c : Chip) : c.applyWr ⟨PWR_BLOCK_SLEEP, 0, 1⟩ = (c.set PWR_BLOCK_SLEEP 0 1).sleepStart 1 := by
  have hv : (OWr.mk PWR_BLOCK_SLEEP 0 1).v = 1 := by decide
  simp +decide only [Chip.applyWr, Chip.pwrApply, hv, if_true, if_false]

theorem applyWr_blockExtinguish (c : Chip) : c.applyWr ⟨PWR_BLOCK_SLEEP, 0, 2⟩ = (c.set PWR_BLOCK_SLEEP 0 2).sleepStart 2 := by
  have hv : (OWr.mk PWR_BLOCK_SLEEP 0 2).v = 2 := by decide
  simp +decide only [Chip.applyWr, Chip.pwrApply, hv, if_true, if_false]

theorem applyWr_blockWake (c : Chip) : c.applyWr ⟨PWR_BLOCK_SLEEP, 0, 0⟩ = (c.set PWR_BLOCK_SLEEP 0 0).softWake := by
  have hv : (OWr.mk PWR_BLOCK_SLEEP 0 0).v = 0 := by decide
  simp +decide only [Chip.applyWr, Chip.pwrApply, hv, if_true, if_false]

/-- The block as an entry to sleep begins. -/
def Chip.sleepBegun (c : Chip) (v : Nat) : Chip :=
  (c.set PWR_BLOCK_STATE 0 1).p fun p => { p with slp := .quiescing, slpTo := v, wake := none, levels := p.levels.filter (· == 2) }

theorem sleepStart_goes {v : Nat} (h : (c.sleepBegun v).pwr.levels.find? (fun n => (c.sleepBegun v).wakeOn n) = none) : c.sleepStart v = c.sleepBegun v := by
  change (match (c.sleepBegun v).pwr.levels.find? (fun n => (c.sleepBegun v).wakeOn n) with | some n => (c.sleepBegun v).abandon (n + 1) true | none => c.sleepBegun v) = _
  rw [h]

theorem sleepStart_abandons {v n : Nat} (h : (c.sleepBegun v).pwr.levels.find? (fun n => (c.sleepBegun v).wakeOn n) = some n) :
    c.sleepStart v = (c.sleepBegun v).abandon (n + 1) true := by
  change (match (c.sleepBegun v).pwr.levels.find? (fun n => (c.sleepBegun v).wakeOn n) with | some n => (c.sleepBegun v).abandon (n + 1) true | none => c.sleepBegun v) = _
  rw [h]

end Sleep

/-! ## The worlds (R337, R338, R349) -/

section Worlds
variable {c : Chip} {pc : BitVec 32}

section FromNormal
variable (hw : c.inWorld .normal = true)
include hw

theorem ecall_enters (hm : c.kpr.mmode = true) : c.ecall pc = c.enterSecure pc 11 0 := if_pos ⟨hw, hm⟩

theorem secureIrq_enters {n : Nat} (hn : n < 16) (he : c.kpr.sb.mie.getLsbD 11 = true) (hl : c.normalLine n = false) (hp : c.linePending n = true) :
    c.secureIrq pc = c.enterSecure pc 0x8000000B 0 := by
  have hline : ((List.range 16).any fun n => !c.normalLine n && c.linePending n) = true :=
    List.any_eq_true.2 ⟨n, List.mem_range.2 hn, by simp [hl, hp]⟩
  exact if_pos ⟨hw, he, hline⟩

theorem untakeable_enters {mtvec cause tval : BitVec 32} (hf : c.fetchClosed (mtvec.toNat / 4 * 4) = true) :
    c.untakeable pc mtvec cause tval = Chip.enterSecure (c.k fun k => { k with nb := { k.nb with mtvec := mtvec } }) pc cause tval := if_pos ⟨hw, hf⟩

end FromNormal

theorem mret_returns (hw : c.inWorld .secure = true) (hm : c.kpr.mmode = true) (r : MretRegs) : c.mret r = (c.k fun k => k.toNormal r).haltCheck := if_pos ⟨hw, hm⟩

theorem debugHalt_holds (ha : c.pm.attached = true) (hh : c.kpr.halted = none) : c.debugHalt = (c.k fun k => { k with haltReq := true }).haltCheck :=
  if_neg (by simp [ha, hh])

end Worlds

/-! ## The watchdog (R347, R348) -/

section Watchdog
variable {c : Chip}

theorem pet_zeroes (hk : c.keeperUp = true) (hw : c.kpr.world = .secure) (hm : c.kpr.mmode = true) : c.pet = c.wdtZero := if_pos ⟨hk, hw, hm⟩

theorem wdtWarn_raises (hc : c.wdtCounts = true) (h0 : c.ob WDT_WARN ≠ 0) (hn : c.pwr.wdtWarned = false) (hp : c.wdtPeriod * c.ob WDT_WARN / 100 ≤ c.pwr.wdtCnt) :
    c.wdtWarn = Chip.e { c with pwr := { c.pwr with wdtWarned := true } } fun e => e.irq 8 := by
  refine if_neg ?_
  simp only [hc, h0, hn, Bool.not_true, Bool.false_eq_true, false_or]
  omega

theorem applyWr_wdtEnable (c : Chip) : c.applyWr ⟨WDT_ENABLE, 0, 1⟩ = c.wdtEnable 1 := by
  have hv : (OWr.mk WDT_ENABLE 0 1).v = 1 := by decide
  simp +decide only [Chip.applyWr, hv, if_true, if_false]

/-- Enabled already, the watchdog counts on; else it starts at 0. -/
theorem wdtEnable_one (c : Chip) :
    c.wdtEnable 1 =
      let c1 := c.e fun e => e.set WDT_ENABLE 0 1
      if c1.pwr.wdtOn then c1 else { c1 with pwr := { c1.pwr with wdtCnt := 0, wdtWarned := false, wdtOn := true } } := by
  cases h : c.pwr.wdtOn <;> simp [Chip.wdtEnable, Chip.wdtZero, Chip.e, h]

theorem applyWr_wdtPeriod (c : Chip) (v : Nat) : c.applyWr ⟨WDT_PERIOD, 0, v⟩ = (c.set WDT_PERIOD 0 (OWr.mk WDT_PERIOD 0 v).v).wdtZero := by
  simp +decide only [Chip.applyWr, if_true, if_false]

end Watchdog

end Sys2Proof.Machine

section
open Sys2Proof Sys2Proof.Machine Sys2Proof.Machine.Ob

/-- Settles O34: each operation by the branch of it that the conditions choose. -/
theorem braceSleepAndWake : Obligations.BraceSleepAndWake := by
  unfold Obligations.BraceSleepAndWake
  refine ⟨fun s => ⟨fun hd hh hb hl h2 h3 => block_congr (braceIn_awake hd hh hb hl h2 h3), fun hd hh hb hl h => block_congr (braceIn_asleep hd hh hb hl h),
      fun hl => block_congr (braceOut_dip hl), fun hl hb => block_congr (braceOut_resumes hl hb),
      fun hs h1 h2 h3 h4 h5 hb => block_congr (quiesced_arms hs h1 h2 h3 h4 h5 hb),
      fun n hn hr hw => ⟨fun hs => block_congr (wakeSource_abandons hr hn hw hs), fun hs => block_congr (wakeSource_exits hr hn hw hs)⟩,
      fun n hn hr hs hw => block_congr (wakeSource_level hr hn hs hw), fun hs ht hd => block_congr (wakeTimer_fires hs ht hd)⟩,
    fun s w => ⟨commit_value (by decide) applyWr_blockEclipse, commit_value (by decide) applyWr_blockExtinguish, commit_value (by decide) applyWr_blockWake⟩,
    fun c v => ⟨sleepStart_goes, fun n => sleepStart_abandons⟩⟩

/-- Settles O35: each operation by the branch of it that the conditions choose. -/
theorem worldSwitches : Obligations.WorldSwitches := by
  unfold Obligations.WorldSwitches
  refine ⟨fun s pc hw => ⟨fun hm => block_congr (ecall_enters hw hm), fun n hn he hl hp => block_congr (secureIrq_enters hw hn he hl hp),
      fun mtvec cause tval hf => block_congr (untakeable_enters hw hf)⟩,
    fun s npp nepc entry mie a hw hm => block_congr (mret_returns hw hm _),
    fun s => ⟨fun ha hh => block_congr (debugHalt_holds ha hh), fun hk hw hm => block_congr (pet_zeroes hk hw hm),
      fun hc h0 hn hp => block_congr (wdtWarn_raises hc h0 hn hp), fun hc hp => block_congr (wdtExpiry_due hc hp)⟩,
    fun s w => ⟨commit_value (by decide) fun c => (applyWr_wdtEnable c).trans (wdtEnable_one c), fun v => commit_value (by decide) fun c => applyWr_wdtPeriod c v⟩⟩

end

/-! # Hand-over of units and the live update

The hand-over of units between the worlds and their pending interrupts (R340 to R343), and the live update of the normal world's firmware
(R351). -/

namespace Sys2Proof.Machine
open Ob

/-! ## Hand-over (R341 to R343) -/

theorem startWr_hoReq (c : Chip) (w : World) (u : Nat) : c.startWr w ⟨WORLD_HO_REQ, 0, u⟩ = c.hoReq w u := by
  simp +decide only [Chip.startWr, if_true, if_false]

theorem startWr_hoRelease (c : Chip) (w : World) (u : Nat) : c.startWr w ⟨WORLD_HO_RELEASE, 0, u⟩ = c.hoRelease u := by
  simp +decide only [Chip.startWr, if_true, if_false]

theorem startWr_hoRefuse (c : Chip) (w : World) (u : Nat) : c.startWr w ⟨WORLD_HO_REFUSE, 0, u⟩ = c.hoRefuse u := by
  simp +decide only [Chip.startWr, if_true, if_false]

theorem startWr_fwActivate (c : Chip) (w : World) : c.startWr w ⟨FW_ACTIVATE, 0, 1⟩ = c.fwActivate := by
  simp +decide only [Chip.startWr, if_true, if_false]

theorem startWr_fwReady (c : Chip) (w : World) : c.startWr w ⟨FW_READY, 0, 1⟩ = c.fwReady := by
  simp +decide only [Chip.startWr, if_true, if_false]

section HandOver
variable {c : Chip} {u : Nat}

/-- A normal-owned unit that the secure world asked for is released after WORLD_HO_WAIT. -/
theorem hoExpiry_releases (hu : isUnit u = true) (h1 : c.eng.unitStep u = 1) (ho : c.eng.unitOwner u = .normal) (hw : c.hoWorld u = .secure)
    (hr : c.kpr.hoRel.contains u = false) (ht : kget 0 u c.kpr.hoAt + c.ob WORLD_HO_WAIT * 1000 ≤ c.eng.ts) : c.hoExpiry u = c.hoRelease u :=
  if_pos ⟨hu, h1, ho, hw, by rw [hr]; rfl, ht⟩

section Done
variable (h2 : c.eng.unitStep u = 2) (ht : kget 0 u c.kpr.hoAt ≤ c.eng.ts)
include h2 ht

theorem hoDone_unit (hu : u < 0x20) : c.hoDone u = c.e fun e => (e.setUnit u (c.hoWorld u) 0).irq (hoIrq (c.hoWorld u)) := by
  refine (if_neg (by omega)).trans ?_
  simp only [if_neg (show ¬0x20 ≤ u by omega)]

theorem hoDone_line (hu : 0x20 ≤ u) :
    c.hoDone u = c.e fun e =>
      let e1 := (e.setUnit u (c.hoWorld u) 0).irq (hoIrq (c.hoWorld u))
      e1.set WORLD_LINE_OWNER 0 (match c.hoWorld u with
        | .normal => setBit (e1.ob WORLD_LINE_OWNER) (u - 0x20)
        | .secure => clearBit (e1.ob WORLD_LINE_OWNER) (u - 0x20)) := by
  refine (if_neg (by omega)).trans ?_
  cases c.hoWorld u <;> simp only [if_pos hu]

end Done

end HandOver

/-! ## Pending interrupts (R340) -/

section Pending
variable {c : Chip} {w : World} {v : Nat}

/-- The bits of a write that are of a secure line's sources. -/
def Chip.foreignBits (c : Chip) (v : Nat) : Bool := (List.range 16).any fun i => bit v i && decide (c.eng.obj WORLD_IRQ_ROUTE i < 16) && !c.ownsSrc .normal i

/-- The bits of a write that are of a world's own sources. -/
def Chip.ownBits (c : Chip) (w : World) (v : Nat) : Nat := (List.range 16).foldl (fun m i => if bit v i = true ∧ c.ownsSrc w i = true then setBit m i else m) 0

theorem w1c_pending_refused (hw : w = .normal) (hf : c.foreignBits v = true) : (c.w1c w ⟨WORLD_IRQ_PENDING, 0, v⟩).1 = c := by
  have h : w = .normal ∧ ((List.range 16).any fun s => bit v s && decide (c.eng.obj WORLD_IRQ_ROUTE s < 16) && !c.ownsSrc .normal s) = true := ⟨hw, hf⟩
  simp only [Chip.w1c, if_true, if_pos h]

theorem w1c_pending_clears (hf : w = .secure ∨ c.foreignBits v = false) :
    (c.w1c w ⟨WORLD_IRQ_PENDING, 0, v⟩).1 = c.set WORLD_IRQ_PENDING 0 (maskOff (c.ob WORLD_IRQ_PENDING) (c.ownBits w v) 32) := by
  have h : ¬(w = .normal ∧ ((List.range 16).any fun s => bit v s && decide (c.eng.obj WORLD_IRQ_ROUTE s < 16) && !c.ownsSrc .normal s) = true) := by
    rintro ⟨hw, hb⟩
    rcases hf with hf | hf
    · rw [hf] at hw; cases hw
    · exact Bool.false_ne_true (hf.symm.trans hb)
  simp only [Chip.w1c, if_true, if_neg h]
  rfl

end Pending

/-! ## The live update (R351) -/

section Update
variable {c : Chip}

/-- The image staged for the normal world. -/
def Chip.stagedImage (c : Chip) : List (BitVec 8) := readCells c.kpr.dram (c.ob FW_STAGE_BASE) (c.ob FW_STAGE_LEN)

/-- The firmware's read of the staged range. -/
def Chip.stagedAccess (c : Chip) : Chip × Bool := c.fwAccess .directory false (c.ob FW_STAGE_BASE) (c.ob FW_STAGE_LEN)

/-- What FW_ACTIVATE does after its read of the staged range. -/
theorem fwActivate_form (c : Chip) : c.fwActivate =
    let c1 := c.stagedAccess.1
    if !c.stagedAccess.2 then c1.e fun e => e.fwEvent 6 0
    else if c1.eng.imageStatus c.stagedImage 1 ≠ 0 then c1.e fun e => e.fwEvent 6 (imgOf c.stagedImage).version
    else (c1.e fun e => (e.fwEvent 2 (imgOf c.stagedImage).version).irq 9).k fun k =>
      { k with upd := some { old := c1.kpr.nimg, new := imgOf c.stagedImage, ends := c1.eng.ts + c1.ob FW_QUIESCE_MAX * 1000 } } := rfl

theorem stagedAccess_ok (h : c.stagedAccess.2 = true) : c.stagedAccess.1 = c := fwAccess_dram _ _ _ _ h

theorem fwActivate_refused (h : c.stagedAccess.2 = false) : c.fwActivate = c.stagedAccess.1.e fun e => e.fwEvent 6 0 := by
  simp only [fwActivate_form, h, Bool.not_false, if_true]

theorem fwActivate_checked (h : c.stagedAccess.2 = true) :
    c.fwActivate = if c.eng.imageStatus c.stagedImage 1 ≠ 0 then c.e fun e => e.fwEvent 6 (imgOf c.stagedImage).version
      else (c.e fun e => (e.fwEvent 2 (imgOf c.stagedImage).version).irq 9).k fun k =>
        { k with upd := some { old := c.kpr.nimg, new := imgOf c.stagedImage, ends := c.eng.ts + c.ob FW_QUIESCE_MAX * 1000 } } := by
  simp only [fwActivate_form, h, stagedAccess_ok h, Bool.not_true, Bool.false_eq_true, if_false]

/-! ### The swap and the return of the rollback image -/

/-- The accesses of the swap: the old image is saved behind the staged one, and the new one's bytes go to SRAM. -/
def Chip.swapAccesses (c : Chip) (u : FwUpd) : Chip × Bool :=
  let base := c.ob FW_STAGE_BASE
  let save := match u.old with | some o => [(.keeper, false, o.load, o.len), (.directory, true, base + 2 ^ 20, o.len)] | none => []
  c.fwAccesses (save ++ [(.directory, false, base, 512 + u.new.len), (.keeper, true, u.new.load, u.new.len)])

/-- The swap, after its accesses. -/
def Chip.swapped (c : Chip) (u : FwUpd) (c1 : Chip) : Chip :=
  let base := c.ob FW_STAGE_BASE
  let old := match u.old with | some o => readCells c.kpr.sram o.load o.len | none => []
  Chip.swapIn (c1.k fun k => { k with dram := putBytes (base + 2 ^ 20) old k.dram }) u.new ((readCells c.kpr.dram base (512 + u.new.len)).drop 512)
    (match u.old with | some o => o.version | none => 0) 4 (c1.eng.ts + c1.ob FW_READY_MAX * 1000000)

/-- The image that a failed update brings back. -/
def FwUpd.rollback (u : FwUpd) : Img := u.old.getD { load := 0, len := 0, entry := 0, version := 0 }

/-- The accesses of the rollback. -/
def Chip.backAccesses (c : Chip) (u : FwUpd) : Chip × Bool :=
  c.fwAccesses [(.directory, false, c.ob FW_STAGE_BASE + 2 ^ 20, u.rollback.len), (.keeper, true, u.rollback.load, u.rollback.len)]

/-- The rollback, after its accesses. -/
def Chip.broughtBack (c : Chip) (u : FwUpd) (c1 : Chip) : Chip :=
  (c1.swapIn u.rollback (readCells c.kpr.dram (c.ob FW_STAGE_BASE + 2 ^ 20) u.rollback.len) u.new.version 7 0).k fun k => { k with upd := none, nimg := u.old }

section Underway
variable {u : FwUpd} (hu : c.kpr.upd = some u)
include hu

/-- The end of the quiesce swaps the image in where the Guard refuses none of the accesses. -/
theorem fwQuiesced_form {b : Bool} (hst : c.ob FW_STATUS = 2) (hk : c.keeperUp = true) (hn : b = true → c.kpr.world = .normal) (ht : b = false → u.ends ≤ c.eng.ts) :
    c.fwQuiesced b = if (c.swapAccesses u).2 then c.swapped u (c.swapAccesses u).1 else (c.swapAccesses u).1 := by
  have hgo : ¬(c.ob FW_STATUS ≠ 2 ∨ (!c.keeperUp) = true ∨ (b = true ∧ c.kpr.world ≠ .normal) ∨ ((!b) = true ∧ c.eng.ts < u.ends)) := by
    rintro (h | h | ⟨h, hw⟩ | ⟨h, hlt⟩)
    · exact h hst
    · simp [hk] at h
    · exact hw (hn h)
    · exact absurd (ht (by simpa using h)) (by omega)
  unfold Chip.fwQuiesced
  rw [hu]
  dsimp only
  rw [if_neg hgo]
  change (match c.swapAccesses u with | (c1, false) => c1 | (c1, true) => c.swapped u c1) = _
  generalize c.swapAccesses u = a
  obtain ⟨c1, ok⟩ := a
  cases ok <;> rfl

/-- A failed update brings the rollback image back where the Guard refuses none of the accesses. -/
theorem fwTimeout_form {b : Bool} (hst : c.ob FW_STATUS = 4) (ht : b = true ∨ u.ends ≤ c.eng.ts) :
    c.fwTimeout b = if (c.backAccesses u).2 then c.broughtBack u (c.backAccesses u).1 else (c.backAccesses u).1 := by
  have hgo : ¬(c.ob FW_STATUS ≠ 4 ∨ ((!b) = true ∧ c.eng.ts < u.ends)) := by
    rintro (h | ⟨h, hlt⟩)
    · exact h hst
    · rcases ht with ht | ht
      · simp [ht] at h
      · omega
  unfold Chip.fwTimeout
  rw [hu]
  dsimp only
  rw [if_neg hgo]
  change (match c.backAccesses u with | (c1, false) => c1 | (c1, true) => c.broughtBack u c1) = _
  generalize c.backAccesses u = a
  obtain ⟨c1, ok⟩ := a
  cases ok <;> rfl

/-- FW_READY ends the update. -/
theorem fwReady_ends : c.fwReady = (c.k fun k => { k with upd := none }).e fun e => (e.set FW_VERSION 1 u.new.version).fwEvent 5 u.new.version := by
  simp only [Chip.fwReady, hu]

end Underway

end Update

/-- What a commit records as it takes effect changes nothing of Keeper. -/
theorem passed_kpr (c : Chip) (w : World) : (c.passed w).kpr = c.kpr := by cases w <;> rfl

theorem committed_congr {s : State} {w : World} {f g : Chip → Chip} (h : f (s.toChip.passed w) = g (s.toChip.passed w)) : s.committed w f = s.committed w g := by
  rw [State.committed, State.committed, h]

end Sys2Proof.Machine

section
open Sys2Proof Sys2Proof.Machine Sys2Proof.Machine.Ob

/-- Settles O36: each step of a hand-over and of the update by the branch its conditions choose; the copies go on where `fwAccesses` meets no refusal. -/
theorem handOverAndLiveUpdate : Obligations.HandOverAndLiveUpdate := by
  unfold Obligations.HandOverAndLiveUpdate
  refine ⟨fun s w u => ⟨commit_starts (by decide) fun c => startWr_hoReq c w u, commit_starts (by decide) fun c => startWr_hoRelease c w u,
      commit_starts (by decide) fun c => startWr_hoRefuse c w u⟩,
    fun s u => ⟨fun hu h1 ho hw hr ht => block_congr (hoExpiry_releases hu h1 ho hw hr ht), fun h2 ht hu => block_congr (hoDone_unit h2 ht hu),
      fun h2 ht hu => block_congr (hoDone_line h2 ht hu),
      fun w v hs => ⟨fun hw hf => block_congr ((if_pos hs).trans (w1c_pending_refused hw hf)), fun hf => block_congr ((if_pos hs).trans (w1c_pending_clears hf))⟩⟩,
    fun s w => commit_starts (by decide) fun c => startWr_fwActivate c w,
    fun c => ⟨fwActivate_refused, fun h => ⟨stagedAccess_ok h, fwActivate_checked h⟩⟩,
    fun s u hu => ⟨fun b hst hk hn ht => ⟨fun ha => ?swapRefused, fun ha => ⟨fwAccesses_ok _ _ ha, ?swap⟩⟩,
      fun b hst ht => ⟨fun ha => ?backRefused, fun ha => ⟨fwAccesses_ok _ _ ha, ?back⟩⟩, fun w h => ?ready⟩⟩
  case swapRefused => exact block_congr ((fwQuiesced_form hu hst hk hn ht).trans (if_neg (ne_true_of_eq_false ha)))
  case swap => exact block_congr ((fwQuiesced_form hu hst hk hn ht).trans (if_pos ha))
  case backRefused => exact block_congr ((fwTimeout_form hu hst ht).trans (if_neg (ne_true_of_eq_false ha)))
  case back => exact block_congr ((fwTimeout_form hu hst ht).trans (if_pos ha))
  case ready =>
    have hup : (s.toChip.passed w).kpr.upd = some u := (congrArg Kpr.upd (passed_kpr s.toChip w)).trans hu
    exact (commit_starts (by decide) (fun c => startWr_fwReady c w) h).trans (congrArg Host.Outcome.next (committed_congr (fwReady_ends hup)))

end

/-! # The TAP and its instruments (R349, R382, R383) -/

namespace Sys2Proof.Machine
open Ob

/-! ## Operations that an enable or the Guard forbids -/

section Forbidden
variable {c : Chip} {op : TapOp}

theorem tapOp_forbidden (hir : c.pm.ir = 2) (hon : c.kpr.on = true) (hsib : 4 ≤ tapInst op ∨ bit c.pm.sib (tapInst op) = true) (h : c.tapAllowed op = false) :
    c.tapOp op = (c.tapRefused op).q fun p => { p with stat := setBit p.stat (tapInst op) } := by
  have hno : ¬(c.pm.ir ≠ 2 ∨ (!c.kpr.on) = true ∨ (tapInst op < 4 ∧ (!bit c.pm.sib (tapInst op)) = true)) := by
    rintro (h2 | hk | ⟨hlt, hb⟩)
    · exact h2 hir
    · simp [hon] at hk
    · rcases hsib with h4 | h4
      · omega
      · simp [h4] at hb
  exact (if_neg hno).trans (if_neg (ne_true_of_eq_false h))

/-- Only an access of the memory is logged. -/
theorem tapRefused_other (hr : ∀ a, op ≠ .readMem a) (hw : ∀ a v, op ≠ .writeMem a v) : c.tapRefused op = c := by
  cases op with
  | readMem a => exact absurd rfl (hr a)
  | writeMem a v => exact absurd rfl (hw a v)
  | _ => rfl

variable {wr : Bool} {a : Nat} (hop : op = .readMem a ∧ wr = false ∨ (∃ v, op = .writeMem a v) ∧ wr = true)
include hop

/-- An access that the debug module may not make, or that the Guard has not refused, is not logged. -/
theorem tapRefused_quiet (h : c.pm.attached = false ∨ c.dbgOn (invasive c.kpr.world) = false ∨ c.kRefused c.kpr.world wr a = none) : c.tapRefused op = c := by
  obtain ⟨rfl, rfl⟩ | ⟨⟨v, rfl⟩, rfl⟩ := hop <;> rcases h with h | h | h <;> simp [Chip.tapRefused, h]

/-- An access that the Guard refuses is logged with its interrupt. -/
theorem tapRefused_logged {x : GPath} {pg : Nat} (ha : c.pm.attached = true) (hd : c.dbgOn (invasive c.kpr.world) = true) (hk : c.kRefused c.kpr.world wr a = some (x, pg)) :
    c.tapRefused op = c.e fun e => e.guardFault x (kprInit c.kpr.world) wr pg := by
  obtain ⟨rfl, rfl⟩ | ⟨⟨v, rfl⟩, rfl⟩ := hop <;> simp [Chip.tapRefused, ha, hd, hk]

end Forbidden

/-! ## What a permitted operation does -/

/-- The block as a permitted operation begins: the status bit of its instrument is clear. -/
def Chip.tapCleared (c : Chip) (op : TapOp) : Chip := c.q fun p => { p with stat := clearBit p.stat (tapInst op) }

section Permitted
variable {c : Chip}

theorem resume_halted (h : c.kpr.halted.isSome = true) : c.resume = (c.k fun k => { k with halted := none, haltReq := false }).set DBG_STATE 0 0 := if_pos h

theorem resume_running (h : c.kpr.halted = none) : c.resume = c := if_neg (by simp [h])

section Halted
variable (hh : c.kpr.halted.isSome = true)
include hh

theorem tapDo_step (pc : BitVec 32) : c.tapDo (.step pc) = c.k fun k => { k with pc := pc } := if_pos hh

theorem tapDo_readReg {r : Nat} (hr : r < 0x1000) : c.tapDo (.readReg r) = c.dr (c.kpr.reg r).toNat := (if_pos hh).trans (if_pos hr)

theorem tapDo_writeReg {r : Nat} (hr : r < 0x1000) (v : BitVec 32) : c.tapDo (.writeReg r v) = c.k fun k => k.setReg r v := (if_pos hh).trans (if_pos hr)

section Csr
variable {r : Nat}

theorem tapDo_readCsr {v : BitVec 32} (h : c.csr c.kpr.world r = some v) : c.tapDo (.readReg (0x1000 + r)) = c.dr v.toNat := by
  simp only [Chip.tapDo, hh, if_true, Chip.tapGet, if_neg (show ¬0x1000 + r < 0x1000 by omega), Nat.add_sub_cancel_left, h]

theorem tapDo_noCsr (h : c.csr c.kpr.world r = none) : c.tapDo (.readReg (0x1000 + r)) = c.tapErr 0 := by
  simp only [Chip.tapDo, hh, if_true, Chip.tapGet, if_neg (show ¬0x1000 + r < 0x1000 by omega), Nat.add_sub_cancel_left, h, tapInst]

theorem tapDo_writeCsr {v : BitVec 32} {t : Chip} (h : c.csrSet c.kpr.world r v = some t) : c.tapDo (.writeReg (0x1000 + r) v) = t := by
  simp only [Chip.tapDo, hh, if_true, Chip.tapSet, if_neg (show ¬0x1000 + r < 0x1000 by omega), Nat.add_sub_cancel_left, h]

theorem tapDo_noCsrSet {v : BitVec 32} (h : c.csrSet c.kpr.world r v = none) : c.tapDo (.writeReg (0x1000 + r) v) = c.tapErr 0 := by
  simp only [Chip.tapDo, hh, if_true, Chip.tapSet, if_neg (show ¬0x1000 + r < 0x1000 by omega), Nat.add_sub_cancel_left, h, tapInst]

end Csr

end Halted

section Memory
variable {a o : Nat}

/-- A word of SRAM is read through its code. -/
theorem tapDo_readSram (hk : c.kaddr c.kpr.world false a = some (.sram o)) (h : (c.eng.sramRead o 4).2 = none) :
    c.tapDo (.readMem a) = (c.e fun _ => (c.eng.sramRead o 4).1).dr (c.kread c.kpr.world (.sram o)) := by
  have hr : c.eng.sramRead o 4 = ((c.eng.sramRead o 4).1, none) := Prod.ext rfl h
  simp only [Chip.tapDo, hk, Chip.tapSram]
  rw [hr]

/-- A word of SRAM beyond correction is not captured. -/
theorem tapDo_badSram {w : Nat} (hk : c.kaddr c.kpr.world false a = some (.sram o)) (h : (c.eng.sramRead o 4).2 = some w) :
    c.tapDo (.readMem a) = (c.e fun _ => (c.eng.sramRead o 4).1).tapErr 0 := by
  have hr : c.eng.sramRead o 4 = ((c.eng.sramRead o 4).1, some w) := Prod.ext rfl h
  simp only [Chip.tapDo, hk, Chip.tapSram, tapInst]
  rw [hr]

theorem tapDo_readOther {x : KWhere} (hk : c.kaddr c.kpr.world false a = some x) (hx : ∀ o, x ≠ .sram o) :
    c.tapDo (.readMem a) = c.dr (c.kread c.kpr.world x) := by
  cases x with
  | sram o => exact absurd rfl (hx o)
  | _ => simp only [Chip.tapDo, hk]

end Memory

theorem tapDo_counter {b i : Nat} (snap : Bool) (hb : b < 48) (hi : i < 16) :
    c.tapDo (.counter b i snap) = c.dr (c.eng.obj ((if snap then PM_SNAP_CTR else PM_CTR) + b) i) := by
  simp only [Chip.tapDo, if_neg (show ¬(48 ≤ b ∨ 16 ≤ i) by omega)]

end Permitted

end Sys2Proof.Machine

section
open Sys2Proof Sys2Proof.Machine Sys2Proof.Machine.Ob

/-- Settles O43: an operation clears its status bit and has its own effect (`tapOp_permitted`), or sets it (`tapOp_forbidden`). -/
theorem debugPort : Obligations.DebugPort := by
  unfold Obligations.DebugPort
  refine fun s => ⟨rfl, rfl, rfl, fun code h1 h2 => ?bypass, fun hir hon op hsib => ⟨fun hno => ?forbidden, fun hal => ?permitted⟩⟩
  case bypass => exact block_congr ((if_neg (by simp [h1, h2])).trans (by simp only [Chip.tapIr, if_neg h1]))
  case forbidden =>
    have hdo := tapOp_forbidden hir hon hsib hno
    exact ⟨fun hr hw => block_congr (hdo.trans (by rw [tapRefused_other hr hw])), fun wr a hop =>
      ⟨fun h => block_congr (hdo.trans (by rw [tapRefused_quiet hop h])), fun x pg ha hd hk => block_congr (hdo.trans (by rw [tapRefused_logged hop ha hd hk]))⟩⟩
  case permitted =>
    have hdo {c' : Chip} (h : (s.toChip.tapCleared op).tapDo op = c') :
        exec (.tapInstrumentOperation op) s = .next (s.block c') := block_congr ((tapOp_permitted hir hon hsib hal).trans h)
    refine ⟨?_, ?_, ?_, ?_, ?_, ?_, ?_, fun hh => ⟨?_, ?_, ?_, ?_, ?_⟩, ?_, ?_, ?_, ?_, ?_, ?_, ?_⟩
    · rintro m rfl; exact hdo rfl
    · rintro rfl; exact hdo rfl
    · rintro rfl hh; exact hdo (resume_running hh)
    · rintro rfl hh; exact hdo (resume_halted hh)
    · rintro rfl; exact hdo rfl
    · rintro a rfl; exact hdo rfl
    · rintro a rfl; exact hdo rfl
    · rintro pc rfl; exact hdo (tapDo_step (c := s.toChip.tapCleared _) hh pc)
    · rintro r rfl hr; exact hdo (tapDo_readReg (c := s.toChip.tapCleared _) hh hr)
    · rintro r v rfl hr; exact hdo (tapDo_writeReg (c := s.toChip.tapCleared _) hh hr v)
    · rintro r rfl; exact ⟨fun v h => hdo (tapDo_readCsr (c := s.toChip.tapCleared _) hh h), fun h => hdo (tapDo_noCsr (c := s.toChip.tapCleared _) hh h)⟩
    · rintro r v rfl; exact ⟨fun t h => hdo (tapDo_writeCsr (c := s.toChip.tapCleared _) hh h), fun h => hdo (tapDo_noCsrSet (c := s.toChip.tapCleared _) hh h)⟩
    · rintro a o rfl hk; exact ⟨fun h => hdo (tapDo_readSram (c := s.toChip.tapCleared _) hk h), fun w h => hdo (tapDo_badSram (c := s.toChip.tapCleared _) hk h)⟩
    · rintro a x rfl hk hx; exact hdo (tapDo_readOther (c := s.toChip.tapCleared _) hk hx)
    · rintro a x v rfl hk; exact hdo (tapDo_writeMem (c := s.toChip.tapCleared _) hk)
    · rintro a o v rfl hk; exact hdo (tapDo_writeMem (c := s.toChip.tapCleared _) hk)
    · rintro b i snap rfl hb hi; exact hdo (tapDo_counter (c := s.toChip.tapCleared _) snap hb hi)
    · rintro n rfl; exact hdo rfl
    · rintro b rfl; exact hdo rfl

end

/-! # The Performance Monitor: snapshots, the sampler, histograms and the trace unit (R374 to R384) -/

namespace Sys2Proof.Machine
open Ob

/-! ## Commands -/

/-- A run of messages on the Gallery leaves every object as it is. -/
theorem galSends_ob (l : List Nat) (e : Eng) (idx : Nat) : (l.foldl (fun e b => e.galSend .snapshot 7 46 b) e).ob idx = e.ob idx := by
  refine List.foldlRecOn (motive := fun d : Eng => d.ob idx = e.ob idx) l _ rfl fun d hd b _ => ?_
  obtain ⟨a, ha⟩ := galSend_eq d .snapshot 7 46 b
  rw [ha]
  exact hd

/-- PM_SNAP sets S, and tells the blocks on the ring of it (R375). -/
theorem snap_sets (c : Chip) :
    c.snap = (((c.set PM_SNAP_TIME 0 (c.eng.ts + c.ob PM_SNAP_LEAD)).set PM_SNAP_LATE 0 0).e fun e =>
        ((bitList (c.ob PM_BLOCKS) 48).filter fun b => e.onRing b).foldl (fun e b => e.galSend .snapshot 7 46 b) e).q fun p =>
          { p with snapLeft := bitList (c.ob PM_BLOCKS) 48, snapArmed := [] } := by
  have hb : ((c.set PM_SNAP_TIME 0 (c.eng.ts + c.ob PM_SNAP_LEAD)).set PM_SNAP_LATE 0 0).ob PM_BLOCKS = c.ob PM_BLOCKS :=
    (ob_set_ne _ _ _ _ _ (by decide) (by decide)).trans (ob_set_ne _ _ _ _ _ (by decide) (by decide))
  have hg : (((c.set PM_SNAP_TIME 0 (c.eng.ts + c.ob PM_SNAP_LEAD)).set PM_SNAP_LATE 0 0).e fun e =>
      ((bitList (c.ob PM_BLOCKS) 48).filter fun b => e.onRing b).foldl (fun e b => e.galSend .snapshot 7 46 b) e).ob PM_BLOCKS = c.ob PM_BLOCKS :=
    (galSends_ob _ _ _).trans hb
  rw [Chip.snap]
  simp only [Chip.blocks, hb]
  rw [hg]

theorem startWr_pmSnap (c : Chip) (w : World) : c.startWr w ⟨PM_SNAP, 0, 1⟩ = c.snap := by simp +decide only [Chip.startWr, if_true, if_false]

theorem startWr_pmCtrClear (c : Chip) (w : World) (v : Nat) : c.startWr w ⟨PM_CTR_CLEAR, 0, v⟩ = c.ctrClear v := by
  simp +decide only [Chip.startWr, if_true, if_false]

theorem startWr_pmSmpFlush (c : Chip) (w : World) : c.startWr w ⟨PM_SMP_FLUSH, 0, 1⟩ = c.smpFlush := by simp +decide only [Chip.startWr, if_true, if_false]

theorem startWr_pmHistClear (c : Chip) (w : World) : c.startWr w ⟨PM_HIST_CLEAR, 0, 1⟩ = c.histClear := by simp +decide only [Chip.startWr, if_true, if_false]

/-! ## Broadcasts of a snapshot (R375) -/

section Broadcast
variable {c : Chip} {b : Nat}

/-- A block that is not outstanding, or that S has reached already, takes no broadcast. -/
theorem snapBroadcast_none (h : c.pm.snapLeft.contains b = false ∨ c.pm.snapArmed.contains b = true) : c.snapBroadcast b = c :=
  if_pos (h.imp (by simp only [Bool.not_eq_true']; exact id) id)

variable (hl : c.pm.snapLeft.contains b = true) (ha : c.pm.snapArmed.contains b = false)
include hl ha

/-- S has come, and the block's domain does not sleep: it copies at once and is marked late. -/
theorem snapBroadcast_late (ht : c.ob PM_SNAP_TIME < c.eng.ts) (hs : c.blockSleeps b = false) :
    c.snapBroadcast b = (c.snapCopy b).set PM_SNAP_LATE 0 (setBit (c.ob PM_SNAP_LATE) b) := by
  simp only [Chip.snapBroadcast, hl, ha, ht, hs, Bool.not_true, Bool.not_false, Bool.false_eq_true, or_self, if_false, and_self, if_true]

/-- Else it is armed, and copies with the others at S. -/
theorem snapBroadcast_arms (h : c.eng.ts ≤ c.ob PM_SNAP_TIME ∨ c.blockSleeps b = true) :
    c.snapBroadcast b = (c.q fun p => { p with snapArmed := insertNat b p.snapArmed }).snapDue := by
  have hno : ¬(c.ob PM_SNAP_TIME < c.eng.ts ∧ (!c.blockSleeps b) = true) := by
    rintro ⟨hlt, hs⟩
    rcases h with h | h
    · omega
    · simp [h] at hs
  simp only [Chip.snapBroadcast, hl, ha, Bool.not_true, Bool.false_eq_true, or_self, if_false, hno]

end Broadcast

/-! ## The sampler and the rings (R378) -/

section Sampler
variable {c : Chip}

theorem smpArrive_room {w : BitVec 512} {ws : List (BitVec 512)} (h : c.pm.smpWay = w :: ws) (hl : c.pm.smpBuf.length < 16384) :
    c.smpArrive = Chip.rings (c.q fun p => { p with smpWay := ws, smpBuf := p.smpBuf ++ [w], flush := if p.flush = some 0 then none else p.flush }) := by
  simp only [Chip.smpArrive, h, decide_eq_false (Nat.not_le.2 hl), Bool.false_eq_true, if_false]

theorem smpArrive_full {w : BitVec 512} {ws : List (BitVec 512)} (h : c.pm.smpWay = w :: ws) (hl : 16384 ≤ c.pm.smpBuf.length) :
    c.smpArrive = Chip.rings ((c.e fun e => e.inc PM_SMP_DROPPED).q fun p => { p with smpWay := ws, flush := if p.flush = some 0 then none else p.flush }) := by
  simp only [Chip.smpArrive, h, decide_eq_true hl, if_true]

/-- A ring writer: the trace unit's, or the sampler's. -/
def ringOf (trc : Bool) : Ring := if trc then trcR else smpR

/-- The write of a ring has ended. -/
def ringIdle (trc : Bool) (q : DSeq) : Bool :=
  q.kind == (ringOf trc).kind && q.locked && q.out == 0 && !q.pend && q.stages.isEmpty && decide (0 < q.ph)

/-- Bytes of the record that the write moved. -/
def Chip.ringBytes (c : Chip) (trc : Bool) (q : DSeq) : List (BitVec 8) :=
  if trc then natBytes (Config.traceRecord q.id).toNat 32 else natBytes (c.pm.smpBuf.headD 0).toNat 64

/-- The record leaves its buffer. -/
def Chip.recordOff (c : Chip) (trc : Bool) : Chip :=
  c.q fun p => if trc then { p with trc := p.trc.drop 1 } else { p with smpBuf := p.smpBuf.drop 1, flush := p.flush.map fun n => n - 1 }

theorem ringDone_ends {trc : Bool} {q : DSeq} (h : c.eng.seqs.find? (ringIdle trc) = some q) :
    c.ringDone trc = (((c.ringPut (ringOf trc) q (c.ringBytes trc q)).ringEnd (ringOf trc) q).recordOff trc).rings := by
  unfold Chip.ringDone
  change (match c.eng.seqs.find? (ringIdle trc) with | none => c | some q => (((c.ringPut (ringOf trc) q (c.ringBytes trc q)).ringEnd (ringOf trc) q).recordOff trc).rings) = _
  rw [h]

/-- HEAD rises. -/
def Chip.headRaised (c : Chip) (r : Ring) : Chip := c.set r.head 0 ((c.ob r.head + 1) % 2 ^ 32)

/-- A record written lies in the slot at HEAD. -/
theorem ringEnd_written {r : Ring} {q : DSeq} (bytes : List (BitVec 8)) (hr : q.refused = false) (hw : q.wbad = false) :
    (c.ringPut r q bytes).ringEnd r q =
      ((c.k fun k => { k with dram := putBytes (c.slotAddr r) bytes k.dram }).e fun e => Eng.endSeq { e with fresh := e.fresh + 1 } q.id).headRaised r := by
  simp only [Chip.ringPut, Chip.ringEnd, hr, hw, Bool.or_self, Bool.false_eq_true, if_false]
  rfl

/-- A refused or failed write loses its record. -/
theorem ringEnd_lost {r : Ring} {q : DSeq} (bytes : List (BitVec 8)) (h : q.refused = true ∨ q.wbad = true) :
    (c.ringPut r q bytes).ringEnd r q = (c.e fun e => (e.inc r.dropped).endSeq q.id).headRaised r := by
  have hlost : (q.refused || q.wbad) = true := by simpa using h
  simp only [Chip.ringPut, Chip.ringEnd, hlost, if_true]
  rfl

end Sampler

/-! ## Histograms (R380) -/

section Hist
variable {c : Chip}

theorem histSend_waits {k : Nat} (h : c.eng.foghorn = true ∨ c.eng.ts < kget 0 k c.pm.mergeAt + 10000) : c.histSend k = c := if_pos h

theorem histSend_sends {k : Nat} (hf : c.eng.foghorn = false) (ht : kget 0 k c.pm.mergeAt + 10000 ≤ c.eng.ts) :
    c.histSend k = c.q fun p => { p.histFlush k with mergeAt := kput k c.eng.ts p.mergeAt } :=
  if_neg (by simp only [hf, Bool.false_eq_true, false_or]; omega)

section Arrive
variable {k : HKey} {n : Nat} {t : List (HKey × Nat)} (h : c.pm.histWay = (k, n) :: t)
include h

theorem histArrive_added (hon : c.pmOn = true) (hf : c.eng.foghorn = false) :
    c.histArrive true = c.q fun p => { p with histWay := t, bins := kput k.pos (min (2 ^ 56 - 1) (kget 0 k.pos p.bins + n)) p.bins } := by
  have hgo : true = true ∧ (c.q fun p => { p with histWay := t }).pmOn = true ∧ (!(c.q fun p => { p with histWay := t }).eng.foghorn) = true :=
    ⟨rfl, hon, by show (!c.eng.foghorn) = true; rw [hf]; rfl⟩
  unfold Chip.histArrive
  rw [h]
  exact if_pos hgo

theorem histArrive_counted {b : Bool} (hb : b = false ∨ c.pmOn = false ∨ c.eng.foghorn = true) :
    c.histArrive b = (c.q fun p => { p with histWay := t }).e fun e => e.addObj PM_HIST_DROPPED 0 n := by
  have hno : ¬(b = true ∧ (c.q fun p => { p with histWay := t }).pmOn = true ∧ (!(c.q fun p => { p with histWay := t }).eng.foghorn) = true) := by
    rintro ⟨h1, h2, h3⟩
    rcases hb with hb | hb | hb
    · exact Bool.false_ne_true (hb.symm.trans h1)
    · exact Bool.false_ne_true (hb.symm.trans h2)
    · have h3' : (!c.eng.foghorn) = true := h3
      rw [hb] at h3'
      exact Bool.false_ne_true h3'
  unfold Chip.histArrive
  rw [h]
  exact if_neg hno

end Arrive

end Hist

/-! ## The trace unit (R384) -/

section Trace
variable {c : Chip}

theorem trcPush_lost (h : Config.traceDepth < c.pm.trc.length) (k : TrcK) :
    c.trcPush k = (c.e fun e => e.inc TRC_DROPPED).q fun p => { p with trcLost := p.trcLost + 1 } := if_pos h

theorem trcPush_queued (h : c.pm.trc.length ≤ Config.traceDepth) (k : TrcK) :
    c.trcPush k = c.q fun p => { p with trc := p.trc ++ [({ kind := k, time := c.eng.t48 } : TrcRec)] } := if_neg (Nat.not_lt.2 h)

variable (hen : c.ob TRC_ENABLE = 1)
include hen

theorem trace_flow {kind : Nat} {w : World} (hk : kind ≤ 3) (hs : bit (c.ob TRC_SOURCES) (flowSrc w) = true) (hd : c.dbgOn (nonInvasive w) = true)
    (hu : c.keeperUp = true) : c.trace (.flow kind w) = (c.trcPush (.flow kind w)).rings :=
  (if_neg (by simp [hen])).trans (if_pos ⟨hk, hs, hd, hu⟩)

theorem trace_event {b k : Nat} {t : List (Nat × Nat)} (hm : c.eng.marks = (b, k) :: t) :
    c.trace .event = ((c.e fun e => { e with marks := t }).trcPush (.event b k)).rings := by
  simp only [Chip.trace, hen, ne_eq, not_true, if_false, hm]

theorem trace_loss_waits (h : Config.traceDepth < c.pm.trc.length) : c.trace .loss = c :=
  (if_neg (by simp [hen])).trans (if_pos (.inr h))

theorem trace_loss (h : c.pm.trc.length ≤ Config.traceDepth) (hl : c.pm.trcLost ≠ 0) :
    c.trace .loss = ((c.trcPush (.loss c.pm.trcLost)).q fun p => { p with trcLost := 0 }).rings :=
  (if_neg (by simp [hen])).trans (if_neg (by omega))

end Trace

end Sys2Proof.Machine

section
open Sys2Proof Sys2Proof.Machine Sys2Proof.Machine.Ob

/-- Settles O42: each operation of the monitor by the branch of it that the conditions choose; the Gallery's messages leave PM_BLOCKS as it is. -/
theorem performanceMonitor : Obligations.PerformanceMonitor := by
  unfold Obligations.PerformanceMonitor
  refine ⟨fun s w => ⟨commit_starts (by decide) fun c => (startWr_pmSnap c w).trans (snap_sets c), fun v => commit_starts (by decide) fun c => startWr_pmCtrClear c w v,
      commit_starts (by decide) fun c => startWr_pmSmpFlush c w, commit_starts (by decide) fun c => startWr_pmHistClear c w⟩,
    fun s b => ⟨fun h => block_congr (snapBroadcast_none h), fun hl ha => ⟨fun ht => ?early, fun h => ?atS, fun ht hs => block_congr (snapBroadcast_late hl ha ht hs)⟩⟩,
    fun s => ⟨fun w ws h => ⟨fun hl => block_congr (smpArrive_room h hl), fun hl => block_congr (smpArrive_full h hl)⟩,
      fun trc q h => ⟨fun hr hw => ?written, fun hlost => ?lost⟩, fun k h => block_congr (histSend_waits h), fun k hf ht => block_congr (histSend_sends hf ht),
      fun k n t h => ⟨fun hon hf => block_congr (histArrive_added h hon hf), fun b hb => block_congr (histArrive_counted h hb)⟩,
      fun hen hfull => ⟨fun kind w hk hs hd hu => ?flowLost, fun b k t hm => ?markLost, block_congr (trace_loss_waits hen hfull)⟩,
      fun hen hroom => ⟨fun kind w hk hs hd hu => ?flow, fun b k t hm => ?mark, fun hl => ?loss⟩⟩⟩
  case early => exact block_congr ((snapBroadcast_arms hl ha (.inl (Nat.le_of_lt ht))).trans (if_neg (Nat.not_le.2 ht)))
  case atS =>
    have hdue : s.toChip.ob PM_SNAP_TIME ≤ s.toChip.eng.ts := by rcases h with h | ⟨h, -⟩ <;> omega
    exact block_congr ((snapBroadcast_arms hl ha (h.imp (fun h => by omega) fun h => h.2)).trans (if_pos hdue))
  case written => exact block_congr ((ringDone_ends h).trans (by rw [ringEnd_written _ hr hw]; rfl))
  case lost => exact block_congr ((ringDone_ends h).trans (by rw [ringEnd_lost _ hlost]; rfl))
  case flowLost => exact block_congr ((trace_flow hen hk hs hd hu).trans (congrArg Chip.rings (trcPush_lost hfull _)))
  case markLost => exact block_congr ((trace_event hen hm).trans (congrArg Chip.rings (trcPush_lost (c := s.toChip.e fun e => { e with marks := t }) hfull _)))
  case flow => exact block_congr ((trace_flow hen hk hs hd hu).trans (congrArg Chip.rings (trcPush_queued hroom _)))
  case mark => exact block_congr ((trace_event hen hm).trans (congrArg Chip.rings (trcPush_queued (c := s.toChip.e fun e => { e with marks := t }) hroom _)))
  case loss => exact block_congr ((trace_loss hen hroom hl).trans (by rw [trcPush_queued hroom]))

end
